-- ==== Sys2Proof/Word.lean ====
section
/-! DEFINITION. The word types of the SZ-1 and the plainest operations on them: fields of a
bit vector, little-endian bytes (R4, R5), sign extension, and the 128-bit instruction word. -/

namespace Sys2Proof

/-- One byte of memory. -/
abbrev Byte := BitVec 8
/-- A 64-bit value, tag or address (R18). -/
abbrev W64 := BitVec 64
/-- A 128-bit instruction word (R50). -/
abbrev W128 := BitVec 128

/-- Bits `lo + len - 1 : lo` of a number. -/
def bitsOf (v lo len : Nat) : Nat := v / 2 ^ lo % 2 ^ len

/-- Bit `k` of a number. -/
def bitOf (v k : Nat) : Bool := v / 2 ^ k % 2 == 1

/-- A Boolean as 0 or 1. -/
def b2n (b : Bool) : Nat := if b then 1 else 0

/-- The signed reading of the low `w` bits of `v` (two's complement, R75). -/
def toSigned (w v : Nat) : Int :=
  let u := v % 2 ^ w
  if w = 0 then 0 else if u < 2 ^ (w - 1) then (u : Int) else (u : Int) - 2 ^ w

/-- The low `w` bits of an integer (R75: wrapping). -/
def wrapInt (w : Nat) (x : Int) : Nat := (x % ((2 : Int) ^ w)).toNat

/-- `v`'s low `w` bits, sign-extended to 64 bits. -/
def sext64 (w v : Nat) : W64 := BitVec.ofInt 64 (toSigned w v)

/-- The bytes of a number, least significant first (R5). -/
def toBytes (v : Nat) : Nat → List Byte
  | 0 => []
  | n + 1 => BitVec.ofNat 8 v :: toBytes (v / 256) n

/-- The number that bytes hold, least significant first (R5). -/
def ofBytes : List Byte → Nat
  | [] => 0
  | b :: bs => b.toNat + 256 * ofBytes bs

end Sys2Proof
end

