-- ==== Sys2Proof/Machine/FMap.lean ====
section
/-! DEFINITION. Finite maps in one canonical form: keys strictly rising, and no entry equal to the
value that an unlisted key reads as. Equal maps are equal lists. Memory is such a map of bytes. -/

namespace Sys2Proof.Machine

/-- Pairs of a key and a value. -/
abbrev FMap (α : Type) := List (Nat × α)

/-- The value at a key, or `d` for an unlisted key. -/
def mapGet {α : Type} (d : α) : FMap α → Nat → α
  | [], _ => d
  | (k, v) :: m, i => if i = k then v else if i < k then d else mapGet d m i

/-- Put a value at a key, keeping the keys rising. -/
def mapPut {α : Type} (i : Nat) (v : α) : FMap α → FMap α
  | [] => [(i, v)]
  | (k, w) :: m =>
    if i = k then (i, v) :: m
    else if i < k then (i, v) :: (k, w) :: m
    else (k, w) :: mapPut i v m

/-- Remove a key. -/
def mapDel {α : Type} (i : Nat) : FMap α → FMap α
  | [] => []
  | (k, w) :: m =>
    if i = k then m
    else if i < k then (k, w) :: m
    else (k, w) :: mapDel i m

/-- Write a value at a key: the value of an unlisted key removes the entry. -/
def mapSet {α : Type} [DecidableEq α] (d : α) (m : FMap α) (i : Nat) (v : α) : FMap α :=
  if v = d then mapDel i m else mapPut i v m

/-- Keys strictly rise from a bound on, and no entry holds the value of an unlisted key. -/
def mapWfFrom {α : Type} [DecidableEq α] (d : α) : Nat → FMap α → Bool
  | _, [] => true
  | b, (k, v) :: m => decide (b ≤ k) && !decide (v = d) && mapWfFrom d (k + 1) m

/-- The canonical form. -/
def mapWf {α : Type} [DecidableEq α] (d : α) (m : FMap α) : Bool := mapWfFrom d 0 m

/-- Change the value at a key. -/
def mapModify {α : Type} [DecidableEq α] (d : α) (m : FMap α) (i : Nat) (f : α → α) : FMap α :=
  mapSet d m i (f (mapGet d m i))

/-- Change every listed value, keeping the canonical form. -/
def mapVals {α : Type} [DecidableEq α] (d : α) (f : α → α) (m : FMap α) : FMap α :=
  m.filterMap fun kv => if f kv.2 = d then none else some (kv.1, f kv.2)

/-- The canonical map that a list of entries denotes; a canonical one stands. -/
def mapNorm {α : Type} [DecidableEq α] (d : α) (m : FMap α) : FMap α :=
  if mapWf d m then m else m.foldl (fun y kv => mapSet d y kv.1 kv.2) []

/-- Remove the `i`-th item of a list. -/
def dropNth {α : Type} : List α → Nat → List α
  | [], _ => []
  | _ :: l, 0 => l
  | a :: l, n + 1 => a :: dropNth l n

/-- Replace the `i`-th item of a list. -/
def setNth {α : Type} : List α → Nat → α → List α
  | [], _, _ => []
  | _ :: l, 0, b => b :: l
  | a :: l, n + 1, b => a :: setNth l n b

end Sys2Proof.Machine
end

