-- ==== Sys2Proof/Machine/Flags.lean ====
section
/-! DEFINITION. The sticky arithmetic flags (R84) and the integer functions that raise them (R76). -/

namespace Sys2Proof.Machine

/-- The flag word of R84: bit 3 `IV`, bit 2 `OF`, bit 1 `UF`, bit 0 `NX`. -/
abbrev Flags := BitVec 4

/-- An invalid operation (R80), or a conversion of R86. -/
def flagIV : Flags := 8
/-- An overflow (R82), or a value that `sat` changed (R76). -/
def flagOF : Flags := 4
/-- A tiny and inexact result (R83). -/
def flagUF : Flags := 2
/-- An inexact result (R81). -/
def flagNX : Flags := 1

/-- The flag, raised when the condition holds. -/
def flagIf (c : Bool) (f : Flags) : Flags := if c then f else 0

/-- An integer format: its width and whether it is signed (R75). -/
structure IntFmt where
  width : Nat
  signed : Bool
  deriving DecidableEq, Repr, Inhabited

/-- The largest value of an integer format. -/
def IntFmt.max (f : IntFmt) : Int := if f.signed then 2 ^ (f.width - 1) - 1 else 2 ^ f.width - 1

/-- The smallest value of an integer format. -/
def IntFmt.min (f : IntFmt) : Int := if f.signed then -(2 ^ (f.width - 1)) else 0

/-- The value of a lane of an integer format (R75). -/
def readInt (f : IntFmt) (v : Nat) : Int :=
  if f.signed then toSigned f.width v else (v % 2 ^ f.width : Nat)

/-- `sat` of R76: the value brought into the format's range, and `OF` when that changes it. -/
def satInt (f : IntFmt) (v : Int) : Int × Flags :=
  if f.max < v then (f.max, flagOF)
  else if v < f.min then (f.min, flagOF)
  else (v, 0)

/-- An exact integer brought to a lane: by `sat` or by `wrap` (R76). -/
def bringInt (f : IntFmt) (sat : Bool) (v : Int) : Nat × Flags :=
  if sat then (wrapInt f.width (satInt f v).1, (satInt f v).2) else (wrapInt f.width v, 0)

end Sys2Proof.Machine
end

