-- ==== Sys2Proof/Machine/Float.lean ====
section
/-! DEFINITION. Binary floating point (R77 to R83, R86), the fixed tree (R96 to R98), block floating
point (R87 to R92) and the three-term split (R99). An operation forms an exact number and rounds it
once; a number that is not dyadic is held as a truncated magnitude with a sticky mark. -/

namespace Sys2Proof.Machine

/-- A binary floating-point format (R77): width, exponent bits and fraction bits. -/
structure Fmt where
  width : Nat
  ebits : Nat
  frac : Nat
  deriving DecidableEq, Repr, Inhabited

def fp32 : Fmt := ⟨32, 8, 23⟩
def bf16 : Fmt := ⟨16, 8, 7⟩
def fp16 : Fmt := ⟨16, 5, 10⟩

/-- The exponent bias (R77). -/
def Fmt.bias (f : Fmt) : Int := 2 ^ (f.ebits - 1) - 1
/-- The exponent of the smallest normal value. -/
def Fmt.emin (f : Fmt) : Int := 1 - f.bias
/-- The all-ones exponent field. -/
def Fmt.eones (f : Fmt) : Nat := 2 ^ f.ebits - 1
/-- The sign bit of an encoding. -/
def Fmt.signBit (f : Fmt) (s : Bool) : Nat := if s then 2 ^ (f.width - 1) else 0
/-- The encoding of an infinity. -/
def Fmt.inf (f : Fmt) (s : Bool) : Nat := f.signBit s + f.eones * 2 ^ f.frac
/-- The encoding of the largest finite value of a sign. -/
def Fmt.maxFinite (f : Fmt) (s : Bool) : Nat := f.signBit s + f.eones * 2 ^ f.frac - 1
/-- The canonical quiet NaN (R79). -/
def Fmt.nan (f : Fmt) : Nat := f.eones * 2 ^ f.frac + 2 ^ (f.frac - 1)

/-- The rounding modes (R54). -/
inductive RMode where
  | rne
  | rz
  | ru
  | rd
  | sat
  deriving DecidableEq, Repr, Inhabited

/-- The mode of a `MOD[2:0]` value (R54). -/
def rmodeOf : Nat → RMode
  | 1 => .rz
  | 2 => .ru
  | 3 => .rd
  | 4 => .sat
  | _ => .rne

/-- A number before rounding: a NaN (signalling or not), an infinity, or (−1)^neg × m × 2^x. With
`sticky`, the magnitude lies strictly between m × 2^x and (m + 1) × 2^x. -/
inductive Num where
  | nan (signalling : Bool)
  | inf (neg : Bool)
  | fin (neg : Bool) (m : Nat) (x : Int) (sticky : Bool)
  deriving DecidableEq, Repr, Inhabited

/-- The value of an encoding (R78). -/
def decodeNum (f : Fmt) (v : Nat) : Num :=
  let e := bitsOf v f.frac f.ebits
  let m := bitsOf v 0 f.frac
  let s := bitOf v (f.width - 1)
  if e = f.eones then (if m = 0 then .inf s else .nan (!bitOf m (f.frac - 1)))
  else if e = 0 then .fin s m (f.emin - f.frac) false
  else .fin s (2 ^ f.frac + m) (f.emin - f.frac + (e - 1)) false

/-- +0. -/
def Num.zero : Num := .fin false 0 0 false

/-- The number of bits of a magnitude. -/
def bitLen (m : Nat) : Nat := if m = 0 then 0 else Nat.log2 m + 1

/-- Whether a magnitude between two neighbours goes to the greater one (R81). `n` is the lesser
neighbour's integer, `above` and `tie` compare the discarded part with one half. -/
def roundsUp (mode : RMode) (neg : Bool) (n : Nat) (inexact above tie : Bool) : Bool :=
  match mode with
  | .rne => above || (tie && n % 2 == 1)
  | .sat => above || (tie && n % 2 == 1)
  | .rz => false
  | .ru => inexact && !neg
  | .rd => inexact && neg

/-- A magnitude `m × 2^x` brought to a multiple of `2^q`: the integer multiple and whether the
result is inexact (R81). -/
def roundAt (mode : RMode) (neg : Bool) (m : Nat) (x : Int) (sticky : Bool) (q : Int) : Nat × Bool :=
  if q ≤ x then
    let n := m * 2 ^ (x - q).toNat
    (if roundsUp mode neg n sticky false false then n + 1 else n, sticky)
  else
    let k := (q - x).toNat
    let n := m / 2 ^ k
    let r := m % 2 ^ k
    let half := 2 ^ (k - 1)
    let inexact := r != 0 || sticky
    let above := half < r || (r == half && sticky)
    let tie := r == half && !sticky
    (if roundsUp mode neg n inexact above tie then n + 1 else n, inexact)

/-- A finite number rounded to a format, with its flags (R81 to R83). -/
def roundFin (f : Fmt) (mode : RMode) (neg : Bool) (m : Nat) (x : Int) (sticky : Bool) : Nat × Flags :=
  if m = 0 ∧ !sticky then (f.signBit neg, 0)
  else
    let e : Int := x + bitLen m - 1
    let tiny := e < f.emin
    let q : Int := (if tiny then f.emin else e) - f.frac
    let (n, inexact) := roundAt mode neg m x sticky q
    -- n < 2^(frac+1), or n = 2^(frac+1) after a carry: both add into the exponent field
    let enc := n + (q + f.frac - f.emin).toNat * 2 ^ f.frac
    if f.eones * 2 ^ f.frac ≤ enc then
      let toInf := match mode with
        | .rne => true
        | .rz => false
        | .ru => !neg
        | .rd => neg
        | .sat => false
      (if toInf then f.inf neg else f.maxFinite neg, flagOF ||| flagNX)
    else
      (f.signBit neg + enc, flagIf inexact flagNX ||| flagIf (tiny && inexact) flagUF)

/-- A number rounded to a format. A NaN gives the canonical NaN (R79); its operand's `IV` is the
operation's. -/
def roundNum (f : Fmt) (mode : RMode) : Num → Nat × Flags
  | .nan _ => (f.nan, 0)
  | .inf s => (f.inf s, 0)
  | .fin s m x st => roundFin f mode s m x st

/-- `IV` for a signalling NaN operand (R79). -/
def snanFlag : Num → Flags
  | .nan true => flagIV
  | _ => 0

/-- The number is a NaN. -/
def Num.isNan : Num → Bool
  | .nan _ => true
  | _ => false

/-- The number is a zero. -/
def Num.isZero : Num → Bool
  | .fin _ 0 _ false => true
  | _ => false

/-- The number with its sign inverted; a NaN is unchanged. -/
def Num.negate : Num → Num
  | .nan q => .nan q
  | .inf s => .inf (!s)
  | .fin s m x st => .fin (!s) m x st

/-- The signed integer of a magnitude on the grid `2^q`, for `q ≤ x`. -/
def gridInt (neg : Bool) (m : Nat) (x q : Int) : Int :=
  let v : Int := m * 2 ^ (x - q).toNat
  if neg then -v else v

/-- A sum on real numbers (R80): exact, with the sign of an exact zero that the mode gives. -/
def addNum (mode : RMode) : Num → Num → Num × Flags
  | .nan a, b => (.nan false, snanFlag (.nan a) ||| snanFlag b)
  | a, .nan b => (.nan false, snanFlag (.nan b) ||| snanFlag a)
  | .inf s, .inf t => if s = t then (.inf s, 0) else (.nan false, flagIV)
  | .inf s, _ => (.inf s, 0)
  | _, .inf t => (.inf t, 0)
  | .fin s m x _, .fin t n y _ =>
    if m = 0 ∧ n = 0 then (.fin (if s = t then s else mode = .rd) 0 0 false, 0)
    else
      let q := min x y
      let v := gridInt s m x q + gridInt t n y q
      if v = 0 then (.fin (mode = .rd) 0 0 false, 0)
      else (.fin (v < 0) v.natAbs q false, 0)

/-- A product on real numbers, exact (R80). -/
def mulNum : Num → Num → Num × Flags
  | .nan a, b => (.nan false, snanFlag (.nan a) ||| snanFlag b)
  | a, .nan b => (.nan false, snanFlag (.nan b) ||| snanFlag a)
  | .inf s, .inf t => (.inf (s ^^ t), 0)
  | .inf s, .fin t n _ _ => if n = 0 then (.nan false, flagIV) else (.inf (s ^^ t), 0)
  | .fin s m _ _, .inf t => if m = 0 then (.nan false, flagIV) else (.inf (s ^^ t), 0)
  | .fin s m x _, .fin t n y _ => (.fin (s ^^ t) (m * n) (x + y) false, 0)

/-- A quotient, truncated to at least 64 bits with its sticky mark (R80). -/
def divNum : Num → Num → Num × Flags
  | .nan a, b => (.nan false, snanFlag (.nan a) ||| snanFlag b)
  | a, .nan b => (.nan false, snanFlag (.nan b) ||| snanFlag a)
  | .inf _, .inf _ => (.nan false, flagIV)
  | .inf s, .fin t _ _ _ => (.inf (s ^^ t), 0)
  | .fin s _ _ _, .inf t => (.fin (s ^^ t) 0 0 false, 0)
  | .fin s m x _, .fin t n y _ =>
    if n = 0 then (if m = 0 then (.nan false, flagIV) else (.inf (s ^^ t), 0))
    else
      let k := 64 + bitLen n
      (.fin (s ^^ t) (m * 2 ^ k / n) (x - y - k) (m * 2 ^ k % n != 0), 0)

/-- A fused product and sum (R140): NaN with `IV` for 0 × ∞, whatever `c` holds. -/
def fmaNum (mode : RMode) (a b c : Num) : Num × Flags :=
  let (p, fp) := mulNum a b
  let (r, fr) := addNum mode p c
  (r, fp ||| fr)

/-- Square root of a natural number, bit by bit from bit `k - 1` down. -/
def isqrtGo : Nat → Nat → Nat → Nat
  | 0, r, _ => r
  | k + 1, r, n => if (r + 2 ^ k) * (r + 2 ^ k) ≤ n then isqrtGo k (r + 2 ^ k) n else isqrtGo k r n

/-- The floor of the square root. -/
def isqrt (n : Nat) : Nat := isqrtGo (bitLen n / 2 + 1) 0 n

/-- A magnitude `m × 2^x` written with an even exponent. -/
def evenExp (m : Nat) (x : Int) : Nat × Int := if x % 2 = 0 then (m, x) else (2 * m, x - 1)

/-- Square root (R143), truncated to at least 64 bits with its sticky mark. -/
def sqrtNum : Num → Num × Flags
  | .nan q => (.nan false, snanFlag (.nan q))
  | .inf true => (.nan false, flagIV)
  | .inf false => (.inf false, 0)
  | .fin s m x _ =>
    if m = 0 then (.fin s 0 0 false, 0)
    else if s then (.nan false, flagIV)
    else
      let (n, y) := evenExp m x
      let r := isqrt (n * 2 ^ 128)
      (.fin false r (y / 2 - 64) (r * r != n * 2 ^ 128), 0)

/-- Reciprocal square root (R143). -/
def rsqrtNum : Num → Num × Flags
  | .nan q => (.nan false, snanFlag (.nan q))
  | .inf true => (.nan false, flagIV)
  | .inf false => (.fin false 0 0 false, 0)
  | .fin s m x _ =>
    if m = 0 then (.inf s, 0)
    else if s then (.nan false, flagIV)
    else
      let (n, y) := evenExp m x
      let k := 64 + bitLen n
      let r := isqrt (2 ^ (2 * k) / n)
      (.fin false r (-(y / 2) - k) (r * r * n != 2 ^ (2 * k)), 0)

/-- Fraction bits of the working precision of `exp2` and `log2`. -/
def workBits : Nat := 320

/-- Sum of `z^(2k+1) / (2k+1)` on the grid `2^−workBits` for `k` from `i`: `p` is the current power
and `z2` the square of `z` on that grid. -/
def atanhGo : Nat → Nat → Nat → Nat → Nat
  | 0, _, _, _ => 0
  | n + 1, i, p, z2 => p / (2 * i + 1) + atanhGo n (i + 1) (p * z2 / 2 ^ workBits) z2

/-- `2 × atanh(a / b)` on the grid `2^−workBits`, for `a / b ≤ 1/3`. -/
def twoAtanh (a b : Nat) : Nat :=
  let z := a * 2 ^ workBits / b
  2 * atanhGo 104 0 z (z * z / 2 ^ workBits)

/-- ln 2 on the grid `2^−workBits`. -/
def lnTwo : Nat := twoAtanh 1 3

/-- The exponential series from its term `i` on: `t` is the term before it on the working grid. -/
def expGo : Nat → Nat → Nat → Nat → Nat
  | 0, _, _, _ => 0
  | n + 1, i, t, z => let t' := t * z / 2 ^ workBits / i; t' + expGo n (i + 1) t' z

/-- `2^f` on the working grid, for `f` on the working grid and below 1. -/
def exp2Frac (f : Nat) : Nat :=
  let z := f * lnTwo / 2 ^ workBits
  2 ^ workBits + expGo 88 1 (2 ^ workBits) z

/-- The floor of a signed dyadic number on the grid `2^q`, and whether it was exact. -/
def floorAt (neg : Bool) (m : Nat) (x q : Int) : Int × Bool :=
  if q ≤ x then (gridInt neg m x q, true)
  else
    let d : Int := 2 ^ (q - x).toNat
    let v : Int := if neg then -(m : Int) else m
    (v / d, v % d == 0)

/-- `2^x` (R143). An exponent outside ±4,096 is brought to that bound: every format has long
overflowed or underflowed there. -/
def exp2Num : Num → Num × Flags
  | .nan q => (.nan false, snanFlag (.nan q))
  | .inf true => (.fin false 0 0 false, 0)
  | .inf false => (.inf false, 0)
  | .fin s m x _ =>
    let (i, whole) := floorAt s m x 0
    let e : Int := max (-4096) (min 4096 i)
    if whole then (.fin false 1 e false, 0)
    else
      let f := ((floorAt s m x (-(workBits : Int))).1 - i * 2 ^ workBits).toNat
      (.fin false (exp2Frac f) (e - workBits) true, 0)

/-- `log2 x` (R143). -/
def log2Num : Num → Num × Flags
  | .nan q => (.nan false, snanFlag (.nan q))
  | .inf true => (.nan false, flagIV)
  | .inf false => (.inf false, 0)
  | .fin s m x _ =>
    if m = 0 then (.inf true, 0)
    else if s then (.nan false, flagIV)
    else
      let n := bitLen m - 1
      let e : Int := x + n
      if m = 2 ^ n then (.fin (e < 0) e.natAbs 0 false, 0)
      else
        -- ln(m / 2^n) / ln 2, from 2 atanh((m − 2^n) / (m + 2^n))
        let l := twoAtanh (m - 2 ^ n) (m + 2 ^ n) * 2 ^ workBits / lnTwo
        let v : Int := e * 2 ^ workBits + l
        if v < 0 then (.fin true (v.natAbs - 1) (-(workBits : Int)) true, 0)
        else (.fin false v.natAbs (-(workBits : Int)) true, 0)

/-- A value converted from one floating-point format to another (R86). -/
def convertFloat (src dst : Fmt) (mode : RMode) (v : Nat) : Nat × Flags :=
  let a := decodeNum src v
  let (r, fl) := roundNum dst mode a
  (r, fl ||| snanFlag a)

/-- A finite number rounded to an integer, and whether it was inexact (R81, R86). -/
def roundToInt (mode : RMode) (neg : Bool) (m : Nat) (x : Int) (sticky : Bool) : Int × Bool :=
  let (n, inexact) := roundAt mode neg m x sticky 0
  (if neg then -(n : Int) else n, inexact)

/-- A floating-point value converted to an integer (R86). -/
def floatToInt (src : Fmt) (dst : IntFmt) (mode : RMode) (v : Nat) : Nat × Flags :=
  match decodeNum src v with
  | .nan _ => (0, flagIV)
  | .inf s => (wrapInt dst.width (if s then dst.min else dst.max), flagIV)
  | .fin s m x st =>
    let (i, inexact) := roundToInt mode s m x st
    let (r, fl) := satInt dst i
    (wrapInt dst.width r, if fl ≠ 0 then flagIV else flagIf inexact flagNX)

/-- An integer converted to a floating-point value (R86). -/
def intToFloat (dst : Fmt) (mode : RMode) (v : Int) : Nat × Flags :=
  roundFin dst mode (v < 0) v.natAbs 0 false

/-- A value rounded to an integral value of its own format (R142): only `NX` is set. -/
def roundIntegral (f : Fmt) (mode : RMode) (v : Nat) : Nat × Flags :=
  match decodeNum f v with
  | .nan q => (f.nan, snanFlag (.nan q))
  | .inf s => (f.inf s, 0)
  | .fin s m x st =>
    let (n, inexact) := roundAt mode s m x st 0
    ((roundFin f .rne s n 0 false).1, flagIf inexact flagNX)

/-- `RNE(a + b)` in FP32, on encodings (R97). -/
def addF32 (mode : RMode) (a b : Nat) : Nat × Flags :=
  let (r, f1) := addNum mode (decodeNum fp32 a) (decodeNum fp32 b)
  let (v, f2) := roundNum fp32 mode r
  (v, f1 ||| f2)

/-- `RNE(a + b)` in a format, on encodings (R398). -/
def addIn (f : Fmt) (a b : Nat) : Nat × Flags :=
  let (r, f1) := addNum .rne (decodeNum f a) (decodeNum f b)
  let (v, f2) := roundNum f .rne r
  (v, f1 ||| f2)

/-- `RNE(a × b)` in FP32, on encodings. -/
def mulF32 (mode : RMode) (a b : Nat) : Nat × Flags :=
  let (r, f1) := mulNum (decodeNum fp32 a) (decodeNum fp32 b)
  let (v, f2) := roundNum fp32 mode r
  (v, f1 ||| f2)

/-- A quotient in FP32, on encodings. -/
def divF32 (mode : RMode) (a b : Nat) : Nat × Flags :=
  let (r, f1) := divNum (decodeNum fp32 a) (decodeNum fp32 b)
  let (v, f2) := roundNum fp32 mode r
  (v, f1 ||| f2)

/-- The sum of two numbers, rounded RNE to FP32 (R97). -/
def sumF32 (a b : Num) : Num × Flags :=
  let (r, f1) := addNum .rne a b
  let (v, f2) := roundNum fp32 .rne r
  (decodeNum fp32 v, f1 ||| f2)

/-- One level of a fixed tree (R96). -/
def treeLevel {α : Type} (op : α → α → α × Flags) : List α → List α × Flags
  | a :: b :: rest =>
    let (r, f) := op a b
    let (rs, fs) := treeLevel op rest
    (r :: rs, f ||| fs)
  | l => (l, 0)

/-- The levels above a list whose length is a power of two, by fuel. -/
def treeUp {α : Type} (op : α → α → α × Flags) : Nat → List α → List α × Flags
  | 0, l => (l, 0)
  | n + 1, l =>
    if l.length ≤ 1 then (l, 0)
    else
      let (l', f) := treeLevel op l
      let (r, g) := treeUp op n l'
      (r, f ||| g)

/-- The smallest power of two at or above `n`, as its exponent. -/
def ceilLog2 (n : Nat) : Nat := if n ≤ 1 then 0 else Nat.log2 (n - 1) + 1

/-- The fixed tree of R96: padding on the right with the neutral element. -/
def treeReduce {α : Type} (op : α → α → α × Flags) (neutral : α) (l : List α) : α × Flags :=
  let k := ceilLog2 l.length
  let (r, f) := treeUp op k (l ++ List.replicate (2 ^ k - l.length) neutral)
  (r.headD neutral, f)

/-- `tree_sum` of R97 over numbers of unbounded exponent. -/
def treeSum (l : List Num) : Num × Flags := treeReduce sumF32 Num.zero l

/-- The lesser of two numbers is the first, with −0 below +0; neither is a NaN. -/
def Num.lt (a b : Num) : Bool :=
  match a, b with
  | .inf s, .inf t => s && !t
  | .inf s, _ => s
  | _, .inf t => !t
  | .fin s m x _, .fin t n y _ =>
    if m = 0 ∧ n = 0 then s && !t
    else
      let q := min x y
      gridInt s m x q < gridInt t n y q
  | _, _ => false

/-- The two numbers are equal, with −0 equal to +0; neither is a NaN. -/
def Num.eq (a b : Num) : Bool :=
  match a, b with
  | .inf s, .inf t => s == t
  | .fin s m x _, .fin t n y _ =>
    let q := min x y
    gridInt s m x q == gridInt t n y q
  | _, _ => false

/-- The maximum of the fixed tree (R97): a NaN wins, +0 over −0, and no flag. -/
def maxNum (a b : Num) : Num × Flags :=
  if a.isNan || b.isNan then (.nan false, 0) else (if a.lt b then b else a, 0)

/-- Every level of a fixed tree over FP32 encodings, the leaves first (R96, R98). -/
def treeLevels : Nat → List Nat → List (List Nat)
  | 0, l => [l]
  | n + 1, l => l :: treeLevels n (treeLevel (addF32 .rne) l).1

/-- The prefix mass of R98 at leaf `i`, from an accumulator on: `levels` from `treeLevels`, walked from
the level below the root down. -/
def prefixGo (levels : List (List Nat)) (i : Nat) : Nat → Nat × Flags → Nat × Flags
  | 0, acc => plus acc ((levels.headD []).getD i 0)
  | level + 1, acc =>
    prefixGo levels i level
      (if bitOf i level then plus acc ((levels.getD level []).getD (i / 2 ^ level - 1) 0) else acc)
where
  /-- One rounded addition. -/
  plus (acc : Nat × Flags) (v : Nat) : Nat × Flags :=
    let q := addF32 .rne acc.1 v
    (q.1, acc.2 ||| q.2)

/-- `W_i` of R98 for every `i`, with the flags. -/
def prefixMasses (w : List Nat) : List (Nat × Flags) :=
  let k := ceilLog2 w.length
  let levels := treeLevels k (w ++ List.replicate (2 ^ k - w.length) 0)
  (List.range w.length).map fun i => prefixGo levels i k (0, 0)

/-! Block floating point -/

/-- The grid exponent of a block (R87). -/
def bfpGrid (x w : Nat) : Int := (x : Int) - 127 - ((w : Int) - 2)

/-- The exponent field of an FP32 encoding. -/
def expField (v : Nat) : Nat := bitsOf v 23 8

/-- A block of FP32 encodings written as BFPw (R90): exponent, signed mantissas, flags. -/
def bfpEncode (w : Nat) (v : List Nat) : Nat × List Int × Flags :=
  if v.any fun a => expField a == 255 then (255, v.map fun _ => 0, flagIV)
  else
    let x := v.foldl (fun x a => if a % 2 ^ 31 = 0 then x else max x (max 1 (expField a))) 0
    let g := bfpGrid x w
    let hi : Int := 2 ^ (w - 1) - 1
    let lo : Int := if x < 254 then -(2 ^ (w - 1)) else -hi
    let ms := v.map fun a =>
      match decodeNum fp32 a with
      | .fin s m e _ =>
        let (n, inexact) := roundAt .rne s m e false g
        let q : Int := if s then -(n : Int) else n
        let c := min (max q lo) hi
        (c, flagIf (inexact || c != q) flagNX)
      | _ => (0, 0)
    (x, ms.map (·.1), ms.foldl (fun f a => f ||| a.2) 0)

/-- The number of a block element (R89). -/
def bfpNum (x w : Nat) (m : Int) : Num :=
  if x = 255 then .nan false else .fin (m < 0) m.natAbs (bfpGrid x w) false

/-- A block element converted to FP32 (R86, R89), with its flags: −2^128, which lies beyond the format, gives −∞. -/
def bfpToF32 (x w : Nat) (m : Int) : Num × Flags :=
  if x = 254 ∧ m = -(2 ^ (w - 1)) then (.inf true, flagOF ||| flagNX) else (bfpNum x w m, 0)

/-- The mantissas of a packed block (R88): `n` of width `w` from the string read as a number. -/
def unpackSigned (w : Nat) (s : Nat) : Nat → List Int
  | 0 => []
  | n + 1 => toSigned w s :: unpackSigned w (s / 2 ^ w) n

/-- A packed string of signed values, the first lowest (R88, R91). -/
def packSigned (w : Nat) : List Int → Nat
  | [] => 0
  | m :: ms => wrapInt w m + 2 ^ w * packSigned w ms

/-! The three-term split (R99) -/

/-- One truncated BF16 term of an FP32 encoding, as an FP32 encoding; a zero term is +0. -/
def splitTerm (v : Nat) : Nat :=
  let t := v / 65536 * 65536
  if t % 2 ^ 31 = 0 then 0 else t

/-- What an FP32 encoding leaves above a term (exact). -/
def splitRest (v t : Nat) : Nat := (addF32 .rne v (t ^^^ 2 ^ 31)).1

/-- The three BF16 terms of an FP32 encoding, and the flags (R99). -/
def split3 (v : Nat) : (Nat × Nat × Nat) × Flags :=
  match decodeNum fp32 v with
  | .nan q => ((bf16.nan, 0, 0), snanFlag (.nan q))
  | .inf s => ((bf16.inf s, 0, 0), 0)
  | .fin _ _ _ _ =>
    let x1 := splitTerm v
    let d1 := splitRest v x1
    let x2 := splitTerm d1
    let d2 := splitRest d1 x2
    let x3 := splitTerm d2
    ((x1 / 65536, x2 / 65536, x3 / 65536), flagIf (splitRest d2 x3 % 2 ^ 31 != 0) flagNX)

end Sys2Proof.Machine
end

