-- ==== Sys2Proof/Syntax.lean ====
section
/-! DEFINITION. The syntax of the SZ-1: the fields of an instruction word (R50) and one
constructor of `Instr` for every row of the opcode table: 204 instruction forms, which carry the
fields of their word, and 75 events, which carry the numbers of the units they act on. -/

namespace Sys2Proof

/-- The fields of an instruction word but for its opcode (R50). Bits 15:0 of a word are zero and
have no field. -/
structure Form where
  /-- Declared operand ports: 0 one, 1 two, 2 three, 3 none (R51). -/
  arity : BitVec 2
  /-- Tag operation (R52). -/
  tagop : BitVec 3
  /-- Modifier (R53). -/
  mod : BitVec 7
  /-- Immediate. -/
  imm : BitVec 32
  /-- First target (R58), or `xd` (R59). -/
  tgt0 : BitVec 22
  /-- Second target (R58), or `xa`, `xb` and `xc` (R59). -/
  tgt1 : BitVec 22
  /-- First entry of the matching-store window (R62). -/
  msbase : BitVec 6
  /-- Log2 of the window's size (R62). -/
  mslog : BitVec 3
  /-- Marker handling (R48). -/
  punct : BitVec 2
  /-- Predicate use (R55). -/
  pred : BitVec 2
  /-- What the immediate supplies (R56). -/
  immp : BitVec 3
  deriving DecidableEq, Repr, Inhabited

/-- One access from outside the device: from the host through a BAR (R391), from a peer link
(R392) or at the management port (R403). The environment chooses its fields. -/
structure Access where
  /-- The peer link, for a peer access. -/
  link : Nat
  /-- BAR 0 or 2, for a host access. -/
  bar : Nat
  /-- A write, or else a read. -/
  write : Bool
  /-- The address or the offset in the BAR. -/
  addr : Nat
  /-- The number of bytes. -/
  size : Nat
  /-- The data of a write. -/
  data : Nat
  deriving DecidableEq, Repr, Inhabited

/-- The instructions and events of the opcode table, in its order. -/
inductive Instr where
  /-- `PASS` (R108). Emits its L operand unchanged to its targets, or steers it by the predicate. -/
  | pass (f : Form)
  /-- `CONST` (R108). Emits its widened immediate once at kernel start, or once per trigger token. -/
  | const (f : Form)
  /-- `STEER` (R109). Sends L to TGT0 when R is nonzero, else to TGT1. -/
  | steer (f : Form)
  /-- `MERGE` (R109). Emits each L or R token alone, in the order the element fires them. -/
  | merge (f : Form)
  /-- `SELECT` (R109). Emits L when C is nonzero, else R, consuming both. -/
  | select (f : Form)
  /-- `GATE` (R109). Emits L once its R trigger has arrived. -/
  | gate (f : Form)
  /-- `SINK` (R110). Consumes every token on L and emits nothing. -/
  | sink (f : Form)
  /-- `MARK` (R111). Sends a MARK of the token's round to each valid target for each DATA token. -/
  | mark (f : Form)
  /-- `RNDQ` (R111). Stamps tokens with its round register and closes a round after a quota of tokens. -/
  | rndq (f : Form)
  /-- `ALIGN` (R112). Counts the DATA tokens of a round and releases the count at the round's end. -/
  | align (f : Form)
  /-- `COUNT` (R112). Sums the values of a round and releases the total at the round's end. -/
  | count (f : Form)
  /-- `TRAP` (R113). Records USER_TRAP and passes L on, or halts the element with HALT. -/
  | trap (f : Form)
  /-- `ASSERT` (R113). Passes a nonzero L, or records ASSERT and halts the element. -/
  | assert (f : Form)
  /-- `INJ` (R121). Drover core sends one token with a given value, tag, kind and round into the fabric. -/
  | inj (f : Form)
  /-- `TAKE` (R122). Drover core reads a mailbox slot's head token, waiting for one except with P. -/
  | take (f : Form)
  /-- `RECONF` (R114). Sends a RECONF token naming an edge and its new depth to each valid target. -/
  | reconf (f : Form)
  /-- `PROBE` (R115). Emits the element's flag word, arrival counter or occupancy, optionally clearing the flags. -/
  | probe (f : Form)
  /-- `ALLOC` (R159). Admits a token to a loop instance by taking a slot and pushing its field. -/
  | alloc (f : Form)
  /-- `ITER` (R160). Takes the next slot of the instance, records a wave link and emits the value and a retire token. -/
  | iter (f : Form)
  /-- `FREE` (R161). Releases a loop slot, advancing its generation, and serves waiting allocations. -/
  | free (f : Form)
  /-- `POPT` (R162). Leaves a loop by popping the innermost field and emits a retire token. -/
  | popt (f : Form)
  /-- `PUSHT` (R163). Pushes a field from the immediate or R onto the tag. -/
  | pusht (f : Form)
  /-- `SETIT` (R163). Sets the innermost field of L's tag from R. -/
  | setit (f : Form)
  /-- `GETTAG` (R164). Emits the tag, innermost field, colour or depth as a value. -/
  | gettag (f : Form)
  /-- `MKTAG` (R165). Builds a tag value from a colour, a depth and fields. -/
  | mktag (f : Form)
  /-- `SPAWN` (R166). Draws a free colour, writes its colour-table entry and sends the operands into the callee. -/
  | spawn (f : Form)
  /-- `RETURN` (R167). Sends the value to the caller's return target and frees the colour, serving a waiting SPAWN. -/
  | returnTok (f : Form)
  /-- `TSIZE` (R168). Reports the state of a loop instance. -/
  | tsize (f : Form)
  /-- `COLQ` (R168). Reports the free, held and waiting counts of the colour pool. -/
  | colq (f : Form)
  /-- `ADD` (R134). Wrapping or saturating integer addition per lane. -/
  | add (f : Form)
  /-- `SUB` (R134). Wrapping or saturating integer subtraction per lane. -/
  | sub (f : Form)
  /-- `MUL` (R134). Wrapping or saturating integer multiplication per lane. -/
  | mul (f : Form)
  /-- `MULH` (R134). High half of the exact integer product per lane. -/
  | mulh (f : Form)
  /-- `MAD` (R134). Integer multiply-add per lane. -/
  | mad (f : Form)
  /-- `DIV` (R135). Integer division truncating toward zero. -/
  | div (f : Form)
  /-- `REM` (R135). Integer remainder with the sign of L. -/
  | rem (f : Form)
  /-- `NEG` (R134). Integer negation per lane. -/
  | neg (f : Form)
  /-- `ABS` (R134). Integer absolute value per lane. -/
  | abs (f : Form)
  /-- `MIN` (R134). Integer minimum per lane. -/
  | min (f : Form)
  /-- `MAX` (R134). Integer maximum per lane. -/
  | max (f : Form)
  /-- `CMP` (R136). Integer comparison per lane with the condition in MOD. -/
  | cmp (f : Form)
  /-- `AND` (R137). Bitwise AND of 64 bits. -/
  | and (f : Form)
  /-- `OR` (R137). Bitwise OR of 64 bits. -/
  | or (f : Form)
  /-- `XOR` (R137). Bitwise exclusive OR of 64 bits. -/
  | xor (f : Form)
  /-- `NOT` (R137). Bitwise complement of 64 bits. -/
  | not (f : Form)
  /-- `SHL` (R137). Logical shift left per lane. -/
  | shl (f : Form)
  /-- `SHR` (R137). Logical shift right per lane. -/
  | shr (f : Form)
  /-- `SAR` (R137). Arithmetic shift right per lane. -/
  | sar (f : Form)
  /-- `ROT` (R137). Rotate left per lane. -/
  | rot (f : Form)
  /-- `CLZ` (R137). Counts leading zero bits per lane. -/
  | clz (f : Form)
  /-- `POPC` (R137). Counts one bits per lane. -/
  | popc (f : Form)
  /-- `BFX` (R138). Extracts a bit field given by a specification word. -/
  | bfx (f : Form)
  /-- `BFI` (R138). Inserts a bit field into L. -/
  | bfi (f : Form)
  /-- `EXT` (R138). Sign- or zero-extends the low 8, 16 or 32 bits. -/
  | ext (f : Form)
  /-- `AGEN` (R139). Forms a virtual or scratchpad address from base, scaled index and offset. -/
  | agen (f : Form)
  /-- `SAT` (R138). Saturates a value to a narrower destination format. -/
  | sat (f : Form)
  /-- `FADD` (R140). Floating-point addition rounded once. -/
  | fadd (f : Form)
  /-- `FSUB` (R140). Floating-point subtraction rounded once. -/
  | fsub (f : Form)
  /-- `FMUL` (R140). Floating-point multiplication rounded once. -/
  | fmul (f : Form)
  /-- `FMA` (R140). Fused floating-point multiply-add rounded once. -/
  | fma (f : Form)
  /-- `FDIV` (R140). Floating-point division rounded once. -/
  | fdiv (f : Form)
  /-- `FMIN` (R141). Floating-point minimum per lane. -/
  | fmin (f : Form)
  /-- `FMAX` (R141). Floating-point maximum per lane. -/
  | fmax (f : Form)
  /-- `FABS` (R141). Clears the sign bit per lane. -/
  | fabs (f : Form)
  /-- `FNEG` (R141). Inverts the sign bit per lane. -/
  | fneg (f : Form)
  /-- `FCMP` (R141). Floating-point comparison per lane with the condition in MOD. -/
  | fcmp (f : Form)
  /-- `FCLASS` (R141). Classifies each lane into one of ten classes. -/
  | fclass (f : Form)
  /-- `FRCP` (R143). Reciprocal rounded once. -/
  | frcp (f : Form)
  /-- `FRSQ` (R143). Reciprocal square root rounded once. -/
  | frsq (f : Form)
  /-- `FSQRT` (R143). Square root rounded once. -/
  | fsqrt (f : Form)
  /-- `FEXP2` (R143). Base-2 exponential rounded once. -/
  | fexp2 (f : Form)
  /-- `FLOG2` (R143). Base-2 logarithm rounded once. -/
  | flog2 (f : Form)
  /-- `CVT` (R142). Converts lanes between integer and floating-point formats. -/
  | cvt (f : Form)
  /-- `FRND` (R142). Rounds each lane to an integral value in its own format. -/
  | frnd (f : Form)
  /-- `VDOT` (R144). Short-vector dot product added to C. -/
  | vdot (f : Form)
  /-- `VSUM` (R144). Sums the lanes of L. -/
  | vsum (f : Form)
  /-- `VPACK` (R144). Packs lanes of L and R into narrower lanes. -/
  | vpack (f : Form)
  /-- `VUNPK` (R144). Widens half of L's lanes. -/
  | vunpk (f : Form)
  /-- `VSHUF` (R144). Shuffles lanes of L and R by immediate selectors. -/
  | vshuf (f : Form)
  /-- `SCALE_SEND` (R236). Sends a SCALE token with L's value and the block tag over the scale network. -/
  | scaleSend (f : Form)
  /-- `SCALE_APPLY` (R236). Multiplies DATA lanes by the held scale of their block tag. -/
  | scaleApply (f : Form)
  /-- `LD` (R186). Loads from virtual memory and replies the value. -/
  | ld (f : Form)
  /-- `ST` (R186). Stores to virtual memory and replies 0. -/
  | st (f : Form)
  /-- `LDS` (R188). Loads from the tile scratchpad or drover data memory, optionally waiting on or consuming a full bit. -/
  | lds (f : Form)
  /-- `STS` (R188). Stores to the scratchpad or data memory, optionally setting a full bit or waiting for empty. -/
  | sts (f : Form)
  /-- `LKUP` (R189). Looks up a line in the tile's tag table. -/
  | lkup (f : Form)
  /-- `TTSET` (R189). Writes a tag-table entry. -/
  | ttset (f : Form)
  /-- `TTINV` (R189). Invalidates one tag-table entry or all of them. -/
  | ttinv (f : Form)
  /-- `FEQ` (R190). Reads full/empty bits or waits until a run of granules is all full or all empty. -/
  | feq (f : Form)
  /-- `FESET` (R190). Sets a run of granules full or empty in one cycle. -/
  | feset (f : Form)
  /-- `ATOM` (R191). Performs one read-modify-write at the combining store or scratchpad port. -/
  | atom (f : Form)
  /-- `RED` (R192). Combines tokens of one tag in the matching store and fires when the count is reached. -/
  | red (f : Form)
  /-- `FENCE` (R193). Waits until the issuer's earlier requests are performed at its scope, or holds a wave chain position. -/
  | fence (f : Form)
  /-- `XFENCE` (R194). Waits until writes of the from paths are performed and read buffers of the to paths are discarded. -/
  | xfence (f : Form)
  /-- `REORD` (R195). Emits the tokens of a loop instance in iteration order. -/
  | reord (f : Form)
  /-- `PREF` (R196). Warms a translation or fills a scratchpad line from memory. -/
  | pref (f : Form)
  /-- `STRM` (R212). Opens a strided stream on a port from a waybill. -/
  | strm (f : Form)
  /-- `GTHR` (R208). Opens an indexed gather run by the base-die engine. -/
  | gthr (f : Form)
  /-- `SCAT` (R208). Opens an indexed scatter run by the base-die engine. -/
  | scat (f : Form)
  /-- `SCLOSE` (R213). Closes a port, depositing its dirty range and dropping its latches. -/
  | sclose (f : Form)
  /-- `SCLOSE_CUT` (R200). Stops a stream issuing rows and closes the port once issued rows complete. -/
  | scloseCut (f : Form)
  /-- `SWAIT` (R213). Replies once enough rows are complete or the port is done or idle. -/
  | swait (f : Form)
  /-- `SBAR` (R214). Stalls the drover core until every earlier command is complete. -/
  | sbar (f : Form)
  /-- `CIRC` (R210). Moves granules from this tile's scratchpad to another over a circuit. -/
  | circ (f : Form)
  /-- `CIRCX` (R210). Moves one panel over a circuit into a destination ring and sends its panel token. -/
  | circx (f : Form)
  /-- `RING` (R228). Defines or undefines a ring at run time. -/
  | ring (f : Form)
  /-- `RCOMMIT_RSV` (R229). Reserves the tail slot of a ring and replies its address, faulting when full. -/
  | rcommitRsv (f : Form)
  /-- `RCOMMIT_RSVW` (R229). Reserves the tail slot of a ring, waiting while the ring is full. -/
  | rcommitRsvw (f : Form)
  /-- `RCOMMIT_PUB` (R229). Publishes a FILLING slot as FULL and replies its panel token. -/
  | rcommitPub (f : Form)
  /-- `RCOMMIT_TAIL` (R229). Reserves and publishes the tail slot at once for bytes already in place. -/
  | rcommitTail (f : Form)
  /-- `RPOP` (R230). Retires a FULL ring slot read by other means. -/
  | rpop (f : Form)
  /-- `RSTAT_RING` (R230). Replies a ring descriptor. -/
  | rstatRing (f : Form)
  /-- `RSTAT_ENG` (R230). Replies the matrix engine status word after earlier requests. -/
  | rstatEng (f : Form)
  /-- `RSTAT_ENGCLR` (R230). Replies the matrix engine status word and clears its flags. -/
  | rstatEngclr (f : Form)
  /-- `MMA` (R231). Multiplies an A and a B panel into an owned accumulator and retires or keeps the slots. -/
  | mma (f : Form)
  /-- `MMAS` (R232). Multiplies a compressed A panel, expanded by its coordinate stream, into an accumulator. -/
  | mmas (f : Form)
  /-- `ACCZ` (R233). Zeroes an accumulator and sets its owner. -/
  | accz (f : Form)
  /-- `ACCRD` (R233). Reads an accumulator out to scratchpad or a ring slot. -/
  | accrd (f : Form)
  /-- `NZSCAN` (R234). Scans a vector and emits its coordinate stream and non-zero total. -/
  | nzscan (f : Form)
  /-- `XSPLIT` (R235). Writes one BF16 term of the three-term split of an FP32 panel into a ring. -/
  | xsplit (f : Form)
  /-- `TAPP` (R273). Appends one key/value token to a tree, plainly or tentatively. -/
  | tapp (f : Form)
  /-- `TFORK` (R274). Forks a tree set into a new set record. -/
  | tfork (f : Form)
  /-- `TCKPT` (R275). Writes a checkpoint of a tree set. -/
  | tckpt (f : Form)
  /-- `TCOMMIT` (R276). Commits tentative nodes and empties the checkpoint. -/
  | tcommit (f : Form)
  /-- `TTRUNC` (R276). Truncates every tree of a set back to a checkpoint. -/
  | ttrunc (f : Form)
  /-- `TEVICT` (R278). Evicts leaf payloads within a range of positions. -/
  | tevict (f : Form)
  /-- `TDESC` (R280). Runs a budgeted descent and writes the attention output. -/
  | tdesc (f : Form)
  /-- `TMASK` (R282). Binds or unbinds a block table to a set. -/
  | tmask (f : Form)
  /-- `TSTAT_LEN` (R284). Reports a tree's length, levels and root tentativeness. -/
  | tstatLen (f : Form)
  /-- `TSTAT_POOL` (R284). Reports a free count of the set's node pool. -/
  | tstatPool (f : Form)
  /-- `ROPE3_ROT` (R283). Rotates a vector by three-axis positions using PART. -/
  | rope3Rot (f : Form)
  /-- `ROPE3_SET` (R283). Loads the PART register from a 16-byte image. -/
  | rope3Set (f : Form)
  /-- `ROPE3_GETLO` (R283). Replies the low half of PART. -/
  | rope3Getlo (f : Form)
  /-- `ROPE3_GETHI` (R283). Replies the high half of PART. -/
  | rope3Gethi (f : Form)
  /-- `TFREE` (R277). Releases every root of a set or checkpoint record. -/
  | tfree (f : Form)
  /-- `GMASK` (R307). Writes the vocabulary mask of a record's grammar state. -/
  | gmask (f : Form)
  /-- `GMASK_H` (R307). Writes the vocabulary mask for a handle under a given image. -/
  | gmaskH (f : Form)
  /-- `GSTEP` (R308). Applies one grammar step to a record's state and stack. -/
  | gstep (f : Form)
  /-- `GSTEP_H` (R308). Applies one grammar step to a handle and replies a new handle. -/
  | gstepH (f : Form)
  /-- `GSNAP` (R309). Replies the record's grammar state as a handle with a reference. -/
  | gsnap (f : Form)
  /-- `GREST` (R309). Restores a record's grammar state from a handle. -/
  | grest (f : Form)
  /-- `GFORK` (R309). Adds a reference to a handle's top cell. -/
  | gfork (f : Form)
  /-- `GDROP` (R309). Releases a handle's top cell. -/
  | gdrop (f : Form)
  /-- `SAMP` (R300). Samples a token from masked, tempered logits with the counter-based random stream. -/
  | samp (f : Form)
  /-- `LSTAT` (R310). Replies the maximum logit and log2 of the weight sum. -/
  | lstat (f : Form)
  /-- `PENAL` (R301). Writes frequency- and presence-penalised logits. -/
  | penal (f : Form)
  /-- `ACCEPT_OPEN` (R311). Opens a draft on a sequence record. -/
  | acceptOpen (f : Form)
  /-- `ACCEPT_WALK` (R304). Follows the target samples through the draft and replies the accepted node. -/
  | acceptWalk (f : Form)
  /-- `ACCEPT_ABORT` (R305). Settles the draft at node 0 and returns the record to ACTIVE. -/
  | acceptAbort (f : Form)
  /-- `COMMIT` (R312). Commits a token, settling any draft, updating penalties and the step. -/
  | commit (f : Form)
  /-- `COMMIT_FREE` (R312). Aborts any draft, releases the stack and frees the record. -/
  | commitFree (f : Form)
  /-- `RNG` (R313). Replies raw Philox draws. -/
  | rng (f : Form)
  /-- `JMP` (R124). Jumps relative or to a register plus offset. -/
  | jmp (f : Form)
  /-- `BR` (R124). Branches relative when a register comparison holds. -/
  | br (f : Form)
  /-- `CALL` (R124). Jumps and writes the return address to a register. -/
  | call (f : Form)
  /-- `RET` (R124). Jumps to the address in a register. -/
  | ret (f : Form)
  /-- `SYSRD` (R125). Reads a drover system or context register. -/
  | sysrd (f : Form)
  /-- `SYSWR` (R125). Writes a drover system or context register without behaviour of its own. -/
  | syswr (f : Form)
  /-- `ERET` (R127). Returns from the handler to EPC, restoring privilege. -/
  | eret (f : Form)
  /-- `EXIT` (R129). Waits for every command to complete and retires the drover program. -/
  | exit (f : Form)
  /-- `EXIT_DISCARD` (R129). Drops queued commands, waits for issued ones and retires the program. -/
  | exitDiscard (f : Form)
  /-- `WAIT` (R339). Stalls until a counter reaches a value or a timeout passes. -/
  | wait (f : Form)
  /-- `QPOST` (R339). Copies a record into a queue ring and rings the queue. -/
  | qpost (f : Form)
  /-- `EVSIG_ADD` (R339). Adds to an event counter at the arbiter after earlier writes are performed. -/
  | evsigAdd (f : Form)
  /-- `EVSIG_SET` (R339). Sets an event counter at the arbiter after earlier writes are performed. -/
  | evsigSet (f : Form)
  /-- `LAUNCH` (R339). Loads a kernel onto an idle bound group and starts it at once. -/
  | launch (f : Form)
  /-- `CFGW` (R351). Writes one configuration item and waits for acknowledgement or refusal. -/
  | cfgw (f : Form)
  /-- `CFGR` (R351). Reads half of one configuration item. -/
  | cfgr (f : Form)
  /-- `CFGCLR_TILE` (R351). Clears every element, ring and circuit of a tile. -/
  | cfgclrTile (f : Form)
  /-- `CFGCLR_ELEM` (R351). Clears one element. -/
  | cfgclrElem (f : Form)
  /-- `BKPT_SET` (R352). Writes a slot breakpoint's value, mask and enable. -/
  | bkptSet (f : Form)
  /-- `BKPT_CLR` (R352). Clears a slot breakpoint. -/
  | bkptClr (f : Form)
  /-- `BKPT_RES` (R352). Resumes an element in BREAK or HALTED. -/
  | bkptRes (f : Form)
  /-- `SIGCHK` (R353). Verifies a P-521 signature over a digest with a key slot. -/
  | sigchk (f : Form)
  /-- `DGST` (R353). Writes the SHA-512 digest of a virtual-memory range. -/
  | dgst (f : Form)
  /-- `CRC_MEM` (R353). Computes CRC-32C over data memory. -/
  | crcMem (f : Form)
  /-- `CRC_TILE` (R353). Computes CRC-32C over a tile's 512 slot words. -/
  | crcTile (f : Form)
  /-- `GBIND` (R359). Places and binds a group of a given shape. -/
  | gbind (f : Form)
  /-- `GREL` (R359). Releases a group of the context. -/
  | grel (f : Form)
  /-- `GREL_FORCE` (R359). Force-releases a group from control mode. -/
  | grelForce (f : Form)
  /-- `BARINIT_ALLOC` (R368). Allocates a barrier entry with N participants. -/
  | barinitAlloc (f : Form)
  /-- `BARINIT_FREE` (R368). Frees an idle barrier entry. -/
  | barinitFree (f : Form)
  /-- `BARINIT_QUERY` (R368). Reports a barrier entry. -/
  | barinitQuery (f : Form)
  /-- `BARARR_TOK` (R368). Arrives at a barrier once per DATA token. -/
  | bararrTok (f : Form)
  /-- `BARARR_RND` (R368). Arrives at a barrier at each round-end release and holds the marker until release. -/
  | bararrRnd (f : Form)
  /-- `BARARR` (R368). Drover core arrives at a barrier and stalls until released. -/
  | bararr (f : Form)
  /-- `PREEMPT_SOFT` (R329). Starts a soft pre-emption of another context. -/
  | preemptSoft (f : Form)
  /-- `PREEMPT_HARD` (R329). Starts a hard save of another context. -/
  | preemptHard (f : Form)
  /-- `CTXSAVE` (R329). Copies a saved context's save area to a buffer. -/
  | ctxsave (f : Form)
  /-- `CTXREST_RUN` (R329). Optionally copies a buffer in, then restores and runs a saved context. -/
  | ctxrestRun (f : Form)
  /-- `CTXREST_LOAD` (R329). Copies a buffer into a saved context's save area. -/
  | ctxrestLoad (f : Form)
  /-- `MAP_PA` (R384). Writes a page-table entry image at a given level from control mode. -/
  | mapPa (f : Form)
  /-- `MAP_ZERO` (R384). Maps a zeroed frame from the frame pool. -/
  | mapZero (f : Form)
  /-- `MAP_COPY` (R384). Maps a frame from the pool holding a copy of a source page. -/
  | mapCopy (f : Form)
  /-- `UNMAP` (R385). Removes a leaf, drains its accesses and re-latches ports. -/
  | unmap (f : Form)
  /-- `UNMAP_DCLR` (R385). Returns a leaf and clears its D bit. -/
  | unmapDclr (f : Form)
  /-- `MIGR` (R386). Moves a mapped page to a new frame while it stays mapped. -/
  | migr (f : Form)
  /-- `LNKCFG_QUERY` (R401). Replies a link's status word. -/
  | lnkcfgQuery (f : Form)
  /-- `LNKCFG_TRAIN` (R401). Starts training of a peer or host link. -/
  | lnkcfgTrain (f : Form)
  /-- `LNKCFG_DOWN` (R401). Takes a peer or host link down. -/
  | lnkcfgDown (f : Form)
  /-- `LNKCFG_RATIO` (R401). Sets the read/write lane ratio and lending of pseudo-channels. -/
  | lnkcfgRatio (f : Form)
  /-- `LNKADD_START` (R402). Starts a chain-reduction adder from a chain record. -/
  | lnkaddStart (f : Form)
  /-- `LNKADD_STAT` (R402). Replies an adder's status. -/
  | lnkaddStat (f : Form)
  /-- `LNKADD_CANCEL` (R402). Cancels a running adder. -/
  | lnkaddCancel (f : Form)
  /-- Event `ILLEGAL_WORD` (R63). A drover core fetches a word that fails its checks and raises ILLEGAL. -/
  | illegalWord (core : Nat)
  /-- Event `ADDRESS_BREAKPOINT` (R126). A drover fetch at an enabled breakpoint address raises BKPT unless SKIP is set. -/
  | addressBreakpoint (core : Nat)
  /-- Event `HANDLER_ENTRY` (R127). A drover core enters its handler at a word boundary for its own fault or a queued one. -/
  | handlerEntry (core : Nat)
  /-- Event `COMMAND_ISSUE` (R123). A queued drover command issues once its port has accepted the previous one. -/
  | commandIssue (core : Nat) (pick : Nat)
  /-- Event `TOKEN_ARRIVAL` (R28). The placement stage takes one arriving token and places, buffers, spills or routes it. -/
  | tokenArrival (tile : Nat) (elem : Nat) (pick : Nat)
  /-- Event `PULL_BACK` (R33). A freed matching-store entry pulls back the oldest serai record of its bucket. -/
  | pullBack (tile : Nat) (elem : Nat)
  /-- Event `OVERFLOW_REFILL` (R31). The oldest overflow record of a bucket moves into a freed tile record in the background. -/
  | overflowRefill (tile : Nat) (elem : Nat) (bucket : Nat)
  /-- Event `MARKER_ACTION` (R48). An actionable marker at a slot's control stage is forwarded, aligned, absorbed or fires the slot. -/
  | markerAction (tile : Nat) (elem : Nat)
  /-- Event `SLOT_BREAKPOINT_MATCH` (R348). A chosen candidate's tag matches the slot breakpoint, BKPT is recorded and the element enters BREAK. -/
  | slotBreakpointMatch (tile : Nat) (elem : Nat)
  /-- Event `EDGE_RESIZE_DONE` (R103). A closed edge has emptied and takes its new depth. -/
  | edgeResizeDone (tile : Nat) (edge : Nat)
  /-- Event `OUTPUT_QUEUE_DRAIN` (R38). The output queue sends one token of its head entry once the edge or network accepts it. -/
  | outputQueueDrain (tile : Nat) (elem : Nat)
  /-- Event `MAILBOX_DELIVER` (R120). A token enters a drover mailbox slot, waking a waiting TAKE. -/
  | mailboxDeliver (core : Nat) (pick : Nat)
  /-- Event `ROUND_NOTICE` (R45). A sink's notice reaches the context controller, which counts it and reports the oldest undrained round. -/
  | roundNotice (pick : Nat)
  /-- Event `KERNEL_START` (R345). Configured elements start running, the launch colour is taken and ARITY 11 slots and the drover program start. -/
  | kernelStart (group : Nat)
  /-- Event `KERNEL_END` (R347). A retired program and an idle group end the kernel, quiescing elements and closing done ports. -/
  | kernelEnd (group : Nat)
  /-- Event `REQUEST_TRANSLATE` (R175). A virtual-memory request's translation completes and it is held, performed, parked or refused. -/
  | requestTranslate (req : Nat)
  /-- Event `ORDER_CLEAR` (R180). An ordering buffer moves a held access to performing once its chain conditions hold. -/
  | orderClear (req : Nat)
  /-- Event `FENCE_W_PASSED` (R180). A buffer reports a FENCE.W passed to the other seven buffers. -/
  | fenceWPassed (req : Nat)
  /-- Event `WAVE_LINK_ACK` (R181). All eight buffers acknowledge an ITER link and its TGT0 token may leave. -/
  | waveLinkAck (pick : Nat)
  /-- Event `REQUEST_COMPLETE` (R175). A performed request sends its reply, or ERR on an uncorrectable error. -/
  | requestComplete (req : Nat)
  /-- Event `STREAM_LATCH_DONE` (R201). A STRM port finishes latching its window and starts running. -/
  | streamLatchDone (tile : Nat) (port : Nat)
  /-- Event `STREAM_ROW_COMPLETE` (R202). A stream row completes and its row token is sent. -/
  | streamRowComplete (tile : Nat) (port : Nat) (row : Nat)
  /-- Event `PORT_RELATCH` (R203). A port handles a RELATCH token, re-translating the page before forwarding it. -/
  | portRelatch (tile : Nat) (port : Nat)
  /-- Event `GATHER_ROW_COMPLETE` (R208). A gather or scatter row completes at the base-die engine and its token leaves. -/
  | gatherRowComplete (tile : Nat) (port : Nat) (row : Nat)
  /-- Event `CIRCUIT_GRANULE` (R210). A granule reaches its circuit destination, is written and returns its credit. -/
  | circuitGranule (tile : Nat) (circuit : Nat)
  /-- Event `COLOUR_DEADLOCK` (R157). The deadlock budget expires with no colour free and a SPAWN waiting. -/
  | colourDeadlock (ctx : Nat)
  /-- Event `BARRIER_ARRIVAL` (R362). The barrier unit serves one arrival, releasing every record of a completed round. -/
  | barrierArrival (pick : Nat)
  /-- Event `FAULT_APPEND` (R324). A fault record is appended to the context's fault queue, waiting while it is full. -/
  | faultAppend (pick : Nat)
  /-- Event `CCMD_BUILD` (R320). Moves a FREE context to BUILDING. -/
  | ccmdBuild (ctx : Nat)
  /-- Event `CCMD_READY` (R319). Checks the context registers and moves it to READY. -/
  | ccmdReady (ctx : Nat)
  /-- Event `CCMD_KILL` (R320). Kills a context, moving it to DEAD. -/
  | ccmdKill (ctx : Nat)
  /-- Event `CCMD_RESUME` (R320). Resumes a FAULTED context. -/
  | ccmdResume (ctx : Nat)
  /-- Event `SERAIN` (R325). Raising the serai record count adds records to the free list. -/
  | serain (ctx : Nat)
  /-- Event `FAILPG` (R325). Fails every request of the context parked on a page. -/
  | failpg (ctx : Nat)
  /-- Event `DLBUD` (R325). Writing the deadlock budget restarts the deadlock count. -/
  | dlbud (ctx : Nat)
  /-- Event `DRAIN_COMPLETE` (R326). Every started round has drained, the soft save is written and elements quiesce. -/
  | drainComplete (ctx : Nat)
  /-- Event `DRAIN_TIMEOUT` (R326). The drain budget runs out, DRAIN_TIMEOUT is recorded and the save becomes hard. -/
  | drainTimeout (ctx : Nat)
  /-- Event `HARD_SAVE` (R327). Firing stops, networks drain, parked requests are withdrawn and the hard save is written. -/
  | hardSave (ctx : Nat)
  /-- Event `RESTORE` (R328). A restore rebinds the group, rewrites tile names, rebuilds state and resumes the context. -/
  | restore (ctx : Nat)
  /-- Event `CONTEXT_RECLAIMED` (R320). A DEAD context's groups and records are reclaimed and it returns to FREE. -/
  | contextReclaimed (ctx : Nat)
  /-- Event `DOORBELL_RING` (R331). Makes the scheduler read a queue's tail again. -/
  | doorbellRing (value : Nat)
  /-- Event `DOORBELL_ENABLE` (R334). Enables a disabled queue. -/
  | doorbellEnable (value : Nat)
  /-- Event `DOORBELL_DISABLE` (R334). Disables a queue without stopping started kernels. -/
  | doorbellDisable (value : Nat)
  /-- Event `QUEUE_HEAD_TEST` (R334). The scheduler's periodic test of waiting heads every 4,096 cycles. -/
  | queueHeadTest (ctx : Nat) (queue : Nat)
  /-- Event `PLACEMENT` (R335). On a change of state the scheduler places and starts ready heads or restores pre-empted contexts. -/
  | placement
  /-- Event `KERNEL_LOAD` (R343). The loader checks and writes a kernel image onto a bound group. -/
  | kernelLoad (group : Nat)
  /-- Event `PREEMPT_BUDGET_EXPIRY` (R336). An unplaceable head's count reaches PBUD and the scheduler pre-empts a lower-priority context. -/
  | preemptBudgetExpiry (ctx : Nat) (queue : Nat)
  /-- Event `KERNEL_SIGNAL` (R337). After the kernel's writes are performed, EXIT and DONE are written and the signal counter incremented. -/
  | kernelSignal (group : Nat)
  /-- Event `ZEROING_DONE` (R358). A released group's tiles finish zeroing and the group becomes FREE. -/
  | zeroingDone (tile : Nat)
  /-- Event `RESTORE_REBIND` (R357). A waiting restore rebind is retried when tiles are freed. -/
  | restoreRebind (ctx : Nat)
  /-- Event `LINK_TRAINED` (R388). A training link comes UP. -/
  | linkTrained (link : Nat)
  /-- Event `LINK_TRAIN_FAILED` (R388). A training or retraining link goes to FAILED. -/
  | linkTrainFailed (link : Nat)
  /-- Event `FLIT_REPLAY` (R388). A flit failing its CRC is sent again from the replay buffer. -/
  | flitReplay (link : Nat)
  /-- Event `REPLAY_FAILED` (R388). A flit fails replay 16 times and the link retrains. -/
  | replayFailed (link : Nat)
  /-- Event `RETRAIN_DONE` (R388). A retraining link returns to UP and traffic resumes. -/
  | retrainDone (link : Nat)
  /-- Event `HOST_ACCESS` (R391). A PCIe memory request from the host reaches a BAR. -/
  | hostAccess (access : Access)
  /-- Event `PEER_ACCESS` (R392). A peer device's access arrives over a Hexium link and is admitted within the aperture. -/
  | peerAccess (access : Access)
  /-- Event `LANE_LEND` (R395). A pseudo-channel idle for 4,096 cycles with a waiting neighbour starts lending its lanes. -/
  | laneLend (pc : Nat)
  /-- Event `LANE_HANDSHAKE_DONE` (R395). A lending or reclaiming handshake completes. -/
  | laneHandshakeDone (pc : Nat)
  /-- Event `LANE_RECLAIM` (R395). A request for a LENT channel starts reclaiming its lanes. -/
  | laneReclaim (pc : Nat)
  /-- Event `REFRESH_DUE` (R396). A bank's refresh falls due and is issued or postponed. -/
  | refreshDue (pc : Nat) (bank : Nat)
  /-- Event `ACTIVATION_ALERT` (R396). An activation-count alert issues postponed refreshes and back-off before resuming the bank. -/
  | activationAlert (pc : Nat) (bank : Nat)
  /-- Event `CHAIN_BEAT` (R398). An adder processes one beat of its chain stream. -/
  | chainBeat (adder : Nat) (data : Nat)
  /-- Event `ADDER_ABORT` (R399). An adder receives an abort and ends failed. -/
  | adderAbort (adder : Nat)
  /-- Event `POWER_UP` (R403). The management core runs the start sequence from its ROM. -/
  | powerUp
  /-- Event `POWER_SAMPLE` (R409). Module power is sampled every 10 microseconds and firing limits set or lifted. -/
  | powerSample
  /-- Event `PATROL_SCRUB` (R411). One HBM line is read, corrected and written back. -/
  | patrolScrub (address : Nat)
  /-- Event `SRAM_SCRUB` (R410). One scratchpad granule per tile is scrubbed. -/
  | sramScrub (unit : Nat)
  /-- Event `MEMORY_RECALIBRATION` (R410). One pseudo-channel is recalibrated within a refresh window. -/
  | memoryRecalibration (stack : Nat)
  /-- Event `WAIT_TIMEOUT` (R339). A WAIT whose nonzero timeout of scheduler cycles passes before its counter is met ends with xd = 1. -/
  | waitTimeout (core : Nat)
  /-- Event `LINK_RECALIBRATION` (R410). Background link recalibration runs on a link as a retrain, with traffic waiting and none lost. -/
  | linkRecalibration (link : Nat)
  /-- Event `POWER_LOSS` (R403). Module power is removed and the device keeps nothing, so every register, SRAM and state is lost until the next power-up. -/
  | powerLoss
  /-- Event `MANAGEMENT_PORT_REQUEST` (R403). A request arriving on the management port is answered, with the start log when the start has stopped, or with telemetry or an attestation report. -/
  | managementPortRequest (access : Access)
  /-- Event `START_LOG_CLEAR` (R405). Management firmware clears the start log, ending the rule that a step that failed twice runs by its alternative in every later start. -/
  | startLogClear
  /-- Event `MANAGEMENT_FAULT_LOG_CLEAR` (R430). Management firmware reads and clears the management fault log and its overwrite count through the management core. -/
  | managementFaultLogClear
  deriving DecidableEq, Repr, Inhabited

end Sys2Proof
end

