-- ==== Sys2Proof/WellFormed.lean ====
section
/-! DEFINITION. Which words are instructions: the accepted field values of every opcode (R53 to
R56, R105, R131, R158, R185, R211, R226, R269, R306, R329, R338, R349, R359, R367, R383, R400), the
checks of a configuration write (R61, R62) and the checks of a drover core's fetch (R63). -/

namespace Sys2Proof

/-- Who reads a word: a fabric slot or a drover core (R59). -/
inductive Reader where
  | fabric
  | drover
  deriving DecidableEq, Repr, Inhabited

/-- An instruction's F, S or FS marking (R3). -/
inductive Marking where
  | fabric
  | sequential
  | both
  deriving DecidableEq, Repr

/-- What an opcode accepts. Each mask holds bit v when the value v is accepted. -/
structure OpSpec where
  /-- F, S or FS. -/
  marking : Marking
  /-- Accepted `ARITY` values. -/
  arities : Nat
  /-- Accepted `TAGOP` values. -/
  tagops : Nat
  /-- Accepted `PRED` values. -/
  preds : Nat
  /-- Accepted `IMMP` values on a fabric slot. -/
  immps : Nat
  /-- Accepted `IMMP` values on a drover core. -/
  immpsSeq : Nat
  /-- Accepted `PUNCT` values. -/
  puncts : Nat
  /-- `IMM` is a parameter of the instruction. -/
  parameter : Bool
  /-- Accepted type codes (`MOD[6:3]`) of a typed instruction, or 0 for an untyped one. -/
  types : Nat
  /-- Accepted `MOD[2:0]` of a typed instruction, or accepted `MOD` of an untyped one. -/
  lows : Nat
  deriving DecidableEq, Repr

/-- The rows of the opcodes 0x00 to 0x0F. -/
def opSpec0 : Nat → Option OpSpec
  | 0x01 => some ⟨.fabric, 1, 127, 15, 17, 0, 15, false, 0x0, 0x1⟩  -- PASS
  | 0x02 => some ⟨.fabric, 9, 127, 7, 1, 0, 15, true, 0x1FFF, 0x1⟩  -- CONST
  | 0x03 => some ⟨.fabric, 2, 127, 1, 1, 0, 15, false, 0x0, 0x1⟩  -- STEER
  | 0x04 => some ⟨.fabric, 2, 127, 1, 1, 0, 15, false, 0x0, 0x1⟩  -- MERGE
  | 0x05 => some ⟨.fabric, 4, 127, 7, 23, 0, 15, false, 0x0, 0x1⟩  -- SELECT
  | 0x06 => some ⟨.fabric, 2, 127, 7, 17, 0, 15, false, 0x0, 0x1⟩  -- GATE
  | 0x07 => some ⟨.fabric, 1, 1, 1, 1, 0, 5, false, 0x0, 0x1⟩  -- SINK
  | 0x08 => some ⟨.fabric, 1, 1, 1, 1, 0, 4, false, 0x0, 0x1⟩  -- MARK
  | 0x09 => some ⟨.fabric, 7, 5, 1, 1, 0, 2, true, 0x0, 0x1⟩  -- ALIGN
  | 0x0A => some ⟨.fabric, 1, 1, 1, 1, 0, 4, true, 0x0, 0x1⟩  -- RNDQ
  | 0x0B => some ⟨.fabric, 7, 5, 1, 1, 0, 2, false, 0x0, 0x3⟩  -- COUNT
  | 0x0C => some ⟨.fabric, 1, 1, 7, 1, 0, 15, true, 0x0, 0x3⟩  -- TRAP
  | 0x0D => some ⟨.fabric, 1, 1, 1, 1, 0, 15, true, 0x0, 0x1⟩  -- ASSERT
  | 0x0E => some ⟨.sequential, 0, 0, 1, 0, 1, 0, true, 0x0, 0x17⟩  -- INJ
  | 0x0F => some ⟨.sequential, 0, 0, 1, 0, 1, 0, true, 0x0, 0xF⟩  -- TAKE
  | _ => none

/-- The rows of the opcodes 0x10 to 0x1F. -/
def opSpec1 : Nat → Option OpSpec
  | 0x10 => some ⟨.fabric, 1, 1, 7, 1, 0, 15, true, 0x0, 0x1⟩  -- RECONF
  | 0x11 => some ⟨.fabric, 1, 127, 7, 17, 0, 15, false, 0x0, 0xF⟩  -- PROBE
  | _ => none

/-- The rows of the opcodes 0x20 to 0x2F. -/
def opSpec2 : Nat → Option OpSpec
  | 0x20 => some ⟨.fabric, 1, 1, 1, 1, 0, 6, true, 0x0, 0x7F⟩  -- ALLOC
  | 0x21 => some ⟨.fabric, 1, 1, 1, 1, 0, 4, true, 0x0, 0x3⟩  -- ITER
  | 0x22 => some ⟨.fabric, 7, 5, 1, 1, 0, 15, true, 0x0, 0x1⟩  -- FREE
  | 0x23 => some ⟨.fabric, 1, 1, 1, 1, 0, 15, false, 0x0, 0x1⟩  -- POPT
  | 0x24 => some ⟨.fabric, 3, 1, 1, 1, 0, 15, true, 0x0, 0x1⟩  -- PUSHT
  | 0x25 => some ⟨.fabric, 2, 1, 1, 1, 0, 15, false, 0x0, 0x1⟩  -- SETIT
  | 0x26 => some ⟨.fabric, 1, 127, 1, 1, 0, 15, false, 0x0, 0xF⟩  -- GETTAG
  | 0x27 => some ⟨.both, 2, 1, 1, 1, 1, 15, true, 0x0, 0x1⟩  -- MKTAG
  | 0x28 => some ⟨.fabric, 3, 1, 1, 1, 0, 2, true, 0x0, 0x1⟩  -- SPAWN
  | 0x29 => some ⟨.fabric, 7, 1, 1, 1, 0, 4, false, 0x0, 0x1⟩  -- RETURN
  | 0x2A => some ⟨.fabric, 1, 127, 1, 1, 0, 15, true, 0x0, 0x3⟩  -- TSIZE
  | 0x2B => some ⟨.both, 1, 127, 1, 1, 1, 15, false, 0x0, 0x1⟩  -- COLQ
  | _ => none

/-- The rows of the opcodes 0x40 to 0x4F. -/
def opSpec4 : Nat → Option OpSpec
  | 0x40 => some ⟨.both, 2, 127, 15, 31, 13, 15, false, 0x1E0F, 0x11⟩  -- ADD
  | 0x41 => some ⟨.both, 2, 127, 15, 31, 13, 15, false, 0x1E0F, 0x11⟩  -- SUB
  | 0x42 => some ⟨.both, 2, 127, 15, 31, 13, 15, false, 0x1E0F, 0x11⟩  -- MUL
  | 0x43 => some ⟨.both, 2, 127, 15, 31, 13, 15, false, 0x1E0F, 0x1⟩  -- MULH
  | 0x44 => some ⟨.both, 4, 127, 15, 31, 13, 15, false, 0x1E0F, 0x11⟩  -- MAD
  | 0x45 => some ⟨.both, 2, 127, 15, 31, 13, 15, false, 0x1E0F, 0x11⟩  -- DIV
  | 0x46 => some ⟨.both, 2, 127, 15, 31, 13, 15, false, 0x1E0F, 0x1⟩  -- REM
  | 0x47 => some ⟨.both, 1, 127, 15, 31, 13, 15, false, 0xA05, 0x11⟩  -- NEG
  | 0x48 => some ⟨.both, 1, 127, 15, 31, 13, 15, false, 0xA05, 0x11⟩  -- ABS
  | 0x49 => some ⟨.both, 2, 127, 15, 31, 13, 15, false, 0x1E0F, 0x1⟩  -- MIN
  | 0x4A => some ⟨.both, 2, 127, 15, 31, 13, 15, false, 0x1E0F, 0x1⟩  -- MAX
  | 0x4B => some ⟨.both, 2, 127, 15, 31, 13, 15, false, 0x1E1F, 0x3F⟩  -- CMP
  | 0x4C => some ⟨.both, 2, 127, 15, 31, 13, 15, false, 0x10, 0x1⟩  -- AND
  | 0x4D => some ⟨.both, 2, 127, 15, 31, 13, 15, false, 0x10, 0x1⟩  -- OR
  | 0x4E => some ⟨.both, 2, 127, 15, 31, 13, 15, false, 0x10, 0x1⟩  -- XOR
  | 0x4F => some ⟨.both, 1, 127, 15, 31, 13, 15, false, 0x10, 0x1⟩  -- NOT
  | _ => none

/-- The rows of the opcodes 0x50 to 0x5F. -/
def opSpec5 : Nat → Option OpSpec
  | 0x50 => some ⟨.both, 2, 127, 15, 31, 13, 15, false, 0x1E1F, 0x1⟩  -- SHL
  | 0x51 => some ⟨.both, 2, 127, 15, 31, 13, 15, false, 0x1E1F, 0x1⟩  -- SHR
  | 0x52 => some ⟨.both, 2, 127, 15, 31, 13, 15, false, 0xA15, 0x1⟩  -- SAR
  | 0x53 => some ⟨.both, 2, 127, 15, 31, 13, 15, false, 0x1E1F, 0x1⟩  -- ROT
  | 0x54 => some ⟨.both, 1, 127, 15, 31, 13, 15, false, 0x1E1F, 0x1⟩  -- CLZ
  | 0x55 => some ⟨.both, 1, 127, 15, 31, 13, 15, false, 0x1E1F, 0x1⟩  -- POPC
  | 0x56 => some ⟨.both, 2, 127, 15, 31, 13, 15, false, 0x1F, 0x1⟩  -- BFX
  | 0x57 => some ⟨.both, 4, 127, 15, 31, 13, 15, false, 0x1F, 0x1⟩  -- BFI
  | 0x58 => some ⟨.both, 1, 127, 15, 31, 13, 15, false, 0xC, 0x7⟩  -- EXT
  | 0x59 => some ⟨.both, 2, 127, 15, 63, 45, 15, false, 0xA, 0x1F⟩  -- AGEN
  | 0x5A => some ⟨.both, 1, 127, 15, 31, 13, 15, false, 0xF, 0x3F⟩  -- SAT
  | _ => none

/-- The rows of the opcodes 0x60 to 0x6F. -/
def opSpec6 : Nat → Option OpSpec
  | 0x60 => some ⟨.both, 2, 127, 15, 31, 13, 15, false, 0x1E0, 0x1F⟩  -- FADD
  | 0x61 => some ⟨.both, 2, 127, 15, 31, 13, 15, false, 0x1E0, 0x1F⟩  -- FSUB
  | 0x62 => some ⟨.both, 2, 127, 15, 31, 13, 15, false, 0x1E0, 0x1F⟩  -- FMUL
  | 0x63 => some ⟨.both, 4, 127, 15, 31, 13, 15, false, 0x1E0, 0x1F⟩  -- FMA
  | 0x64 => some ⟨.both, 2, 127, 15, 31, 13, 15, false, 0x1E0, 0x1⟩  -- FMIN
  | 0x65 => some ⟨.both, 2, 127, 15, 31, 13, 15, false, 0x1E0, 0x1⟩  -- FMAX
  | 0x66 => some ⟨.both, 1, 127, 15, 31, 13, 15, false, 0x1E0, 0x1⟩  -- FABS
  | 0x67 => some ⟨.both, 1, 127, 15, 31, 13, 15, false, 0x1E0, 0x1⟩  -- FNEG
  | 0x68 => some ⟨.both, 2, 127, 15, 31, 13, 15, false, 0x1E0, 0x7F⟩  -- FCMP
  | 0x69 => some ⟨.both, 1, 127, 15, 31, 13, 15, false, 0x1E0, 0x1F⟩  -- FRCP
  | 0x6A => some ⟨.both, 1, 127, 15, 31, 13, 15, false, 0x1E0, 0x1F⟩  -- FRSQ
  | 0x6B => some ⟨.both, 1, 127, 15, 31, 13, 15, false, 0x1E0, 0x1F⟩  -- FSQRT
  | 0x6C => some ⟨.both, 1, 127, 15, 31, 13, 15, false, 0x1E0, 0x1F⟩  -- FEXP2
  | 0x6D => some ⟨.both, 1, 127, 15, 31, 13, 15, false, 0x1E0, 0x1F⟩  -- FLOG2
  | 0x6E => some ⟨.both, 2, 127, 15, 31, 13, 15, false, 0x1E0, 0x1F⟩  -- FDIV
  | 0x6F => some ⟨.both, 1, 127, 15, 1, 1, 15, true, 0x1FEF, 0x1F⟩  -- CVT
  | _ => none

/-- The rows of the opcodes 0x70 to 0x7F. -/
def opSpec7 : Nat → Option OpSpec
  | 0x70 => some ⟨.both, 1, 127, 15, 31, 13, 15, false, 0x1E0, 0x1F⟩  -- FRND
  | 0x71 => some ⟨.both, 4, 127, 15, 31, 13, 15, false, 0x1FC0, 0x1F⟩  -- VDOT
  | 0x72 => some ⟨.both, 1, 127, 15, 31, 13, 15, false, 0x1FC0, 0x11⟩  -- VSUM
  | 0x73 => some ⟨.both, 2, 127, 15, 31, 13, 15, false, 0x1F80, 0x1F⟩  -- VPACK
  | 0x74 => some ⟨.both, 1, 127, 15, 1, 1, 15, true, 0x640, 0x3⟩  -- VUNPK
  | 0x75 => some ⟨.both, 3, 127, 15, 1, 1, 15, true, 0x1FC0, 0x1⟩  -- VSHUF
  | 0x76 => some ⟨.fabric, 3, 127, 1, 1, 0, 15, true, 0x1E0, 0x1F⟩  -- SCALE
  | 0x77 => some ⟨.both, 1, 127, 15, 31, 13, 15, false, 0x1E0, 0x1⟩  -- FCLASS
  | _ => none

/-- The rows of the opcodes 0x80 to 0x8F. -/
def opSpec8 : Nat → Option OpSpec
  | 0x80 => some ⟨.both, 1, 127, 7, 97, 45, 5, false, 0x0, 0xFFFF⟩  -- LD
  | 0x81 => some ⟨.both, 2, 127, 7, 101, 45, 5, false, 0x0, 0xF⟩  -- ST
  | 0x82 => some ⟨.both, 9, 127, 7, 33, 45, 5, false, 0x0, 0xFFFFFF⟩  -- LDS
  | 0x83 => some ⟨.both, 2, 127, 7, 37, 45, 5, false, 0x0, 0xF0F0F⟩  -- STS
  | 0x84 => some ⟨.fabric, 1, 127, 1, 1, 0, 15, false, 0x0, 0x1⟩  -- LKUP
  | 0x85 => some ⟨.fabric, 2, 127, 1, 3, 0, 15, false, 0x0, 0x1⟩  -- TTSET
  | 0x86 => some ⟨.fabric, 1, 127, 1, 1, 0, 15, false, 0x0, 0x3⟩  -- TTINV
  | 0x87 => some ⟨.fabric, 1, 127, 1, 1, 0, 15, true, 0x0, 0x7⟩  -- FEQ
  | 0x88 => some ⟨.fabric, 1, 127, 7, 1, 0, 15, true, 0x0, 0x3⟩  -- FESET
  | 0x89 => some ⟨.both, 6, 127, 7, 97, 45, 5, false, 0x0, 0x7F8C7C7C7C7000007F8C7C7C7C7⟩  -- ATOM
  | 0x8A => some ⟨.fabric, 2, 127, 1, 4, 0, 15, true, 0x0, 0x73807070707⟩  -- RED
  | 0x8B => some ⟨.both, 1, 127, 1, 65, 1, 15, false, 0x0, 0x1F⟩  -- FENCE
  | 0x8C => some ⟨.both, 1, 127, 1, 1, 1, 15, true, 0x0, 0xF⟩  -- XFENCE
  | 0x8D => some ⟨.fabric, 2, 1, 1, 4, 0, 2, true, 0x0, 0x7F⟩  -- REORD
  | 0x8E => some ⟨.fabric, 1, 127, 1, 1, 0, 15, true, 0x0, 0x3⟩  -- PREF
  | _ => none

/-- The rows of the opcodes 0xA0 to 0xAF. -/
def opSpecA : Nat → Option OpSpec
  | 0xA0 => some ⟨.both, 9, 127, 7, 1, 1, 15, true, 0x0, 0xFF⟩  -- STRM
  | 0xA1 => some ⟨.both, 9, 127, 7, 1, 1, 15, true, 0x0, 0xFF⟩  -- GTHR
  | 0xA2 => some ⟨.both, 9, 127, 7, 1, 1, 15, true, 0x0, 0xFF⟩  -- SCAT
  | 0xA3 => some ⟨.both, 1, 127, 1, 1, 1, 15, true, 0x0, 0xFFFF⟩  -- SCLOSE
  | 0xA4 => some ⟨.both, 1, 127, 1, 1, 1, 15, true, 0x0, 0xFF⟩  -- SWAIT
  | 0xA5 => some ⟨.sequential, 0, 0, 1, 0, 1, 0, false, 0x0, 0x1⟩  -- SBAR
  | 0xA6 => some ⟨.fabric, 2, 127, 7, 1, 0, 15, true, 0x0, 0xF⟩  -- CIRC
  | 0xA7 => some ⟨.fabric, 1, 127, 7, 1, 0, 15, true, 0x0, 0x3⟩  -- CIRCX
  | 0xA8 => some ⟨.both, 9, 127, 1, 1, 1, 15, true, 0x0, 0xFFFF⟩  -- RING
  | 0xA9 => some ⟨.fabric, 9, 127, 7, 1, 0, 15, false, 0x0, 0xFFFFFFFF⟩  -- RCOMMIT
  | 0xAA => some ⟨.fabric, 1, 127, 7, 1, 0, 15, false, 0x0, 0xFF⟩  -- RPOP
  | 0xAB => some ⟨.both, 1, 127, 1, 1, 1, 15, false, 0x0, 0xFFFFFF⟩  -- RSTAT
  | 0xAC => some ⟨.both, 2, 127, 7, 1, 1, 15, true, 0x0, 0x7⟩  -- MMA
  | 0xAD => some ⟨.fabric, 4, 127, 1, 1, 0, 15, true, 0x0, 0x3⟩  -- MMAS
  | 0xAE => some ⟨.both, 9, 127, 7, 1, 1, 15, true, 0x0, 0x1⟩  -- ACCZ
  | 0xAF => some ⟨.both, 9, 127, 7, 1, 1, 15, true, 0x0, 0xFF⟩  -- ACCRD
  | _ => none

/-- The rows of the opcodes 0xB0 to 0xBF. -/
def opSpecB : Nat → Option OpSpec
  | 0xB0 => some ⟨.fabric, 1, 127, 1, 1, 0, 15, true, 0x1A0, 0x3⟩  -- NZSCAN
  | 0xB1 => some ⟨.fabric, 1, 127, 1, 1, 0, 15, true, 0x0, 0x77⟩  -- XSPLIT
  | _ => none

/-- The rows of the opcodes 0xC0 to 0xCF. -/
def opSpecC : Nat → Option OpSpec
  | 0xC0 => some ⟨.fabric, 2, 127, 7, 7, 0, 15, false, 0x0, 0x3⟩  -- TAPP
  | 0xC1 => some ⟨.fabric, 2, 127, 7, 7, 0, 15, false, 0x0, 0x1⟩  -- TFORK
  | 0xC2 => some ⟨.fabric, 2, 127, 7, 7, 0, 15, false, 0x0, 0x1⟩  -- TCKPT
  | 0xC3 => some ⟨.fabric, 2, 127, 7, 7, 0, 15, false, 0x0, 0x1⟩  -- TCOMMIT
  | 0xC4 => some ⟨.fabric, 2, 127, 7, 7, 0, 15, false, 0x0, 0x1⟩  -- TTRUNC
  | 0xC5 => some ⟨.fabric, 2, 127, 7, 7, 0, 15, false, 0x0, 0x1⟩  -- TEVICT
  | 0xC6 => some ⟨.fabric, 1, 127, 7, 1, 0, 15, false, 0x0, 0x1⟩  -- TDESC
  | 0xC7 => some ⟨.fabric, 2, 127, 7, 7, 0, 15, false, 0x0, 0x1⟩  -- TMASK
  | 0xC8 => some ⟨.fabric, 3, 127, 1, 7, 0, 15, false, 0x0, 0xF⟩  -- TSTAT
  | 0xC9 => some ⟨.fabric, 3, 127, 7, 7, 0, 15, false, 0x0, 0xF⟩  -- ROPE3
  | 0xCA => some ⟨.fabric, 1, 127, 7, 1, 0, 15, false, 0x0, 0x1⟩  -- TFREE
  | _ => none

/-- The rows of the opcodes 0xD0 to 0xDF. -/
def opSpecD : Nat → Option OpSpec
  | 0xD0 => some ⟨.fabric, 6, 127, 7, 15, 0, 15, false, 0x0, 0x3⟩  -- GMASK
  | 0xD1 => some ⟨.fabric, 6, 127, 7, 15, 0, 15, false, 0x0, 0x3⟩  -- GSTEP
  | 0xD2 => some ⟨.fabric, 1, 127, 7, 15, 0, 15, false, 0x0, 0x1⟩  -- GSNAP
  | 0xD3 => some ⟨.fabric, 2, 127, 7, 15, 0, 15, false, 0x0, 0x1⟩  -- GREST
  | 0xD4 => some ⟨.fabric, 1, 127, 7, 15, 0, 15, false, 0x0, 0x1⟩  -- GFORK
  | 0xD5 => some ⟨.fabric, 1, 127, 7, 15, 0, 15, false, 0x0, 0x1⟩  -- GDROP
  | 0xD6 => some ⟨.fabric, 1, 127, 7, 1, 0, 15, true, 0x0, 0x1⟩  -- SAMP
  | 0xD7 => some ⟨.fabric, 1, 127, 7, 1, 0, 15, true, 0x0, 0x1⟩  -- LSTAT
  | 0xD8 => some ⟨.fabric, 1, 127, 7, 1, 0, 15, true, 0x0, 0x1⟩  -- PENAL
  | 0xD9 => some ⟨.fabric, 3, 127, 7, 15, 0, 15, false, 0x0, 0x7⟩  -- ACCEPT
  | 0xDA => some ⟨.fabric, 3, 127, 7, 15, 0, 15, false, 0x0, 0x3⟩  -- COMMIT
  | 0xDB => some ⟨.fabric, 4, 127, 7, 15, 0, 15, false, 0x0, 0x3⟩  -- RNG
  | _ => none

/-- The rows of the opcodes 0xE0 to 0xEF. -/
def opSpecE : Nat → Option OpSpec
  | 0xE0 => some ⟨.sequential, 0, 0, 1, 0, 1, 0, true, 0x0, 0x3⟩  -- JMP
  | 0xE1 => some ⟨.sequential, 0, 0, 1, 0, 1, 0, true, 0x0, 0x3F⟩  -- BR
  | 0xE2 => some ⟨.sequential, 0, 0, 1, 0, 1, 0, true, 0x0, 0x3⟩  -- CALL
  | 0xE3 => some ⟨.sequential, 0, 0, 1, 0, 1, 0, true, 0x0, 0x1⟩  -- RET
  | 0xE4 => some ⟨.sequential, 0, 0, 1, 0, 1, 0, true, 0x0, 0x1⟩  -- SYSRD
  | 0xE5 => some ⟨.sequential, 0, 0, 1, 0, 1, 0, true, 0x0, 0x1⟩  -- SYSWR
  | 0xE6 => some ⟨.sequential, 0, 0, 1, 0, 1, 0, true, 0x0, 0x1⟩  -- ERET
  | 0xE7 => some ⟨.sequential, 0, 0, 1, 0, 1, 0, true, 0x0, 0x3⟩  -- EXIT
  | 0xE8 => some ⟨.sequential, 0, 0, 1, 0, 1, 0, true, 0x0, 0x1⟩  -- WAIT
  | 0xE9 => some ⟨.sequential, 0, 0, 1, 0, 1, 0, true, 0x0, 0x1⟩  -- QPOST
  | 0xEA => some ⟨.sequential, 0, 0, 1, 0, 1, 0, true, 0x0, 0x3⟩  -- EVSIG
  | 0xEB => some ⟨.sequential, 0, 0, 1, 0, 1, 0, true, 0x0, 0x1⟩  -- LAUNCH
  | 0xEC => some ⟨.sequential, 0, 0, 1, 0, 1, 0, true, 0x0, 0x1⟩  -- CFGW
  | 0xED => some ⟨.sequential, 0, 0, 1, 0, 1, 0, true, 0x0, 0x3⟩  -- CFGR
  | 0xEE => some ⟨.sequential, 0, 0, 1, 0, 1, 0, true, 0x0, 0x3⟩  -- CFGCLR
  | 0xEF => some ⟨.sequential, 0, 0, 1, 0, 1, 0, true, 0x0, 0x1⟩  -- GBIND
  | _ => none

/-- The rows of the opcodes 0xF0 to 0xFF. -/
def opSpecF : Nat → Option OpSpec
  | 0xF0 => some ⟨.sequential, 0, 0, 1, 0, 1, 0, true, 0x0, 0x3⟩  -- GREL
  | 0xF1 => some ⟨.sequential, 0, 0, 1, 0, 1, 0, true, 0x0, 0x7⟩  -- BARINIT
  | 0xF2 => some ⟨.both, 1, 127, 1, 1, 1, 7, true, 0x0, 0x3⟩  -- BARARR
  | 0xF3 => some ⟨.sequential, 0, 0, 1, 0, 1, 0, true, 0x0, 0x1⟩  -- CTXSAVE
  | 0xF4 => some ⟨.sequential, 0, 0, 1, 0, 1, 0, true, 0x0, 0x3⟩  -- CTXREST
  | 0xF5 => some ⟨.sequential, 0, 0, 1, 0, 1, 0, true, 0x0, 0x3⟩  -- PREEMPT
  | 0xF6 => some ⟨.sequential, 0, 0, 1, 0, 1, 0, true, 0x0, 0x7⟩  -- MAP
  | 0xF7 => some ⟨.sequential, 0, 0, 1, 0, 1, 0, true, 0x0, 0x3⟩  -- UNMAP
  | 0xF8 => some ⟨.sequential, 0, 0, 1, 0, 1, 0, true, 0x0, 0x1⟩  -- MIGR
  | 0xF9 => some ⟨.sequential, 0, 0, 1, 0, 1, 0, true, 0x0, 0xF⟩  -- LNKCFG
  | 0xFA => some ⟨.sequential, 0, 0, 1, 0, 1, 0, true, 0x0, 0x7⟩  -- LNKADD
  | 0xFB => some ⟨.sequential, 0, 0, 1, 0, 1, 0, true, 0x0, 0x1⟩  -- SIGCHK
  | 0xFC => some ⟨.sequential, 0, 0, 1, 0, 1, 0, true, 0x0, 0x1⟩  -- DGST
  | 0xFD => some ⟨.sequential, 0, 0, 1, 0, 1, 0, true, 0x0, 0x3⟩  -- CRC
  | 0xFE => some ⟨.sequential, 0, 0, 1, 0, 1, 0, true, 0x0, 0x7⟩  -- BKPT
  | _ => none

/-- The forms tables, by opcode: `none` for `VOID`, 0xFF and every unassigned opcode (R60, R65). -/
def opSpec (opc : Nat) : Option OpSpec :=
  match opc / 16 with
  | 0 => opSpec0 opc
  | 1 => opSpec1 opc
  | 2 => opSpec2 opc
  | 4 => opSpec4 opc
  | 5 => opSpec5 opc
  | 6 => opSpec6 opc
  | 7 => opSpec7 opc
  | 8 => opSpec8 opc
  | 10 => opSpecA opc
  | 11 => opSpecB opc
  | 12 => opSpecC opc
  | 13 => opSpecD opc
  | 14 => opSpecE opc
  | 15 => opSpecF opc
  | _ => none

/-- Lanes of a type code (R53). -/
def typeLanes : Nat → Nat
  | 6 => 2
  | 7 => 4 | 8 => 4 | 9 => 4 | 10 => 4
  | 11 => 8 | 12 => 8
  | _ => 1

/-- Type codes of integers and bit strings (R53). -/
def typeIsInt (t : Nat) : Bool := t ≤ 4 || (9 ≤ t && t ≤ 12)

/-- The instructions that never pair tokens on their declared ports (R106, R367). -/
def neverPairs (opc : Nat) : Bool :=
  opc == 0x04 || (0x07 ≤ opc && opc ≤ 0x0D) || opc == 0x10 || opc == 0x11 || opc == 0xF2

/-- The input count of a fabric instruction (R51, R106). -/
def inputCount (opc : Nat) (f : Form) : Nat :=
  (if f.arity = 3 then 0 else if neverPairs opc then 1 else f.arity.toNat + 1) +
  (if f.pred ≠ 0 ∧ f.immp ≠ 4 then 1 else 0)

/-- Check 4 of R61: the `ARITY` values an instruction accepts, some of which depend on `MOD`. -/
def arityOk (opc : Nat) (f : Form) : Bool :=
  let a := f.arity.toNat
  let m := f.mod.toNat
  match opc with
  | 0x89 => a == if m % 8 = 7 then 2 else 1            -- ATOM, CAS (R185)
  | 0xA9 => a == 0 || (a == 3 && m / 8 % 4 != 2)       -- RCOMMIT (R226)
  | 0xC8 => a == if m = 0 then 1 else 0                -- TSTAT (R269)
  | 0xC9 => a == if m = 0 then 1 else 0                -- ROPE3 (R269)
  | 0xD0 => a == if m = 1 then 2 else 1                -- GMASK (R306)
  | 0xD1 => a == if m = 1 then 2 else 1                -- GSTEP (R306)
  | 0xD9 => a == if m = 2 then 0 else 1                -- ACCEPT (R306)
  | 0xDA => a == if m = 1 then 0 else 1                -- COMMIT (R306)
  | _ => match opSpec opc with
    | some o => bitOf o.arities a
    | none => false

/-- Check 6 of R61: the `MOD` values an instruction accepts (R53, R54 and its forms table). -/
def modOk (opc : Nat) (f : Form) : Bool :=
  let m := f.mod.toNat
  let t := m / 8
  let lo := m % 8
  (match opSpec opc with
   | some o => if o.types = 0 then bitOf o.lows m else bitOf o.types t && bitOf o.lows lo
   | none => false) &&
  (match opc with
   | 0x4B => t != 4 || lo ≤ 1                                   -- CMP.B64: EQ, NE only
   | 0x6F => lo == 0 || !(typeIsInt t && typeIsInt (f.imm.toNat % 16))   -- CVT between integers
   | 0x71 => !typeIsInt t || lo == 0 || lo == 4                 -- VDOT of integers
   | 0x72 => typeIsInt t || lo == 0                             -- VSUM of floats
   | 0x73 => !typeIsInt t || lo == 0                            -- VPACK of integers
   | 0x74 => t == 6 || lo == 0                                  -- VUNPK
   | 0x76 => f.arity != 0 || m == 40                            -- SCALE send: F32 only
   | 0x8B => !(bitOf m 2 && m % 4 != 0)                         -- FENCE.W has scope 00
   | _ => true)

/-- A wave triple within the ranges of R178. -/
def tripleOk (imm : Nat) : Bool :=
  let p := bitsOf imm 20 10
  let o := bitsOf imm 10 10
  let s := bitsOf imm 0 10
  imm < 2 ^ 30 && 1 ≤ o && o ≤ 1022 && p != o && s != o

/-- A loop reference (R158): bits 31:9 zero. -/
def loopRefOk (imm : Nat) : Bool := imm < 512

/-- The parameter ranges of `IMM` that hold in both modes. -/
def paramOk (opc : Nat) (f : Form) : Bool :=
  let i := f.imm.toNat
  let m := f.mod.toNat
  match opc with
  | 0x27 => i ≤ 6                                                           -- MKTAG (R158)
  | 0x6F => let s := i % 16                                                 -- CVT (R142)
    s ≤ 12 && s != 4 && i < 128 && i / 16 % 8 < typeLanes s
  | 0x74 => i < 2                                                           -- VUNPK (R144)
  | 0x75 => i < 2 ^ (4 * typeLanes (m / 8))                                 -- VSHUF (R144)
  | 0x8B => bitOf m 2 || i == 0                                             -- FENCE (R185)
  | 0x8C => i < 2 ^ 18 && i % 512 != 0 && i / 512 % 512 != 0                -- XFENCE (R185)
  | 0xA8 => if bitOf m 3 then i == 0 else                                   -- RING (R226)
      i < 2 ^ 28 && 1 ≤ bitsOf i 12 8 &&
      16 * bitsOf i 0 12 + 16 * bitsOf i 12 8 * (bitsOf i 20 8 + 1) ≤ 65536
  | 0xAB => i == 0                                                          -- RSTAT (R226)
  | 0xAC => i < 65536 &&                                                    -- MMA (R226)
      (if m = 2 then bitsOf i 8 3 ≤ 6 && bitsOf i 11 3 ≤ 6 else bitsOf i 8 6 == 0)
  | 0xAE => i < 4                                                           -- ACCZ (R226)
  | 0xAF => i < 2 ^ 28 && bitsOf i 5 11 == 0 &&                             -- ACCRD (R226)
      (if bitOf m 1 then bitsOf i 16 12 == 0
       else bitsOf i 2 3 == 0 && 16 * bitsOf i 16 12 + (if bitOf m 0 then 128 else 256) ≤ 65536)
  | _ => true

/-- The parameter ranges of `IMM` on a fabric slot (check 8 of R61). A return target of a `SPAWN` (R158) that names role
0x3FF with `ELEM` or `PORT` not zero is accepted (DESIGN CHOICE, log 148). -/
def paramOkFabric (opc : Nat) (f : Form) : Bool :=
  let i := f.imm.toNat
  let m := f.mod.toNat
  paramOk opc f &&
  (match opc with
   | 0x0A => 1 ≤ i && i ≤ 65535                                             -- RNDQ
   | 0x10 => i < 2 ^ 19                                                     -- RECONF (R114)
   | 0x20 => i < 2 ^ 19 && 1 ≤ bitsOf i 12 7 && bitsOf i 12 7 ≤ 64          -- ALLOC
   | 0x21 => loopRefOk i                                                    -- ITER
   | 0x22 => loopRefOk i                                                    -- FREE
   | 0x24 => if f.arity = 0 then i < 256 else i == 0                        -- PUSHT
   | 0x28 => bitOf i 21 && 1 ≤ i / 2 ^ 22                                   -- SPAWN
   | 0x29 => !bitOf f.tgt0.toNat 21 && !bitOf f.tgt1.toNat 21               -- RETURN
   | 0x2A => loopRefOk i                                                    -- TSIZE
   | 0x76 => if f.arity = 0 then i == 0 else                                -- SCALE (R226)
       i < 2 ^ 17 && (i % 65536 != 0 || f.punct == 1)
   | 0x82 => f.arity != 3 || i < 65536                                      -- LDS
   | 0x87 => if m = 0 then i == 0 else 1 ≤ i && i ≤ 64                      -- FEQ
   | 0x88 => 1 ≤ i && i ≤ 4096                                              -- FESET
   | 0x8B => bitOf m 2 == (f.immp == 6)                                     -- FENCE: W takes a triple
   | 0x89 => !(bitOf m 6 && f.immp == 6)                                    -- ATOM.SP has no triple (R178)
   | 0x8A => 1 ≤ i && i ≤ 65535                                             -- RED
   | 0x8D => i < 256                                                        -- REORD
   | 0x8E => if m = 1 then i ≤ 127 else i == 0                              -- PREF
   | 0xA0 => i < 65536 && i % 16 == 0                                       -- STRM
   | 0xA1 => i < 65536 && i % 16 == 0                                       -- GTHR
   | 0xA2 => i < 65536 && i % 16 == 0                                       -- SCAT
   | 0xA3 => i == 0                                                         -- SCLOSE
   | 0xA4 => i ≤ 2 ^ 24                                                     -- SWAIT
   | 0xA6 => i < 2 ^ 17 && 1 ≤ bitsOf i 3 14 && bitsOf i 3 14 ≤ 4096        -- CIRC
   | 0xA7 => i < 2 ^ 28                                                     -- CIRCX
   | 0xAD => i < 2 ^ 11 && bitsOf i 8 3 ≤ 4                                 -- MMAS
   | 0xB0 => 1 ≤ i && i ≤ 32768                                             -- NZSCAN
   | 0xB1 => i < 64                                                         -- XSPLIT
   | 0xD6 => i < 65536 && i % 16 == 0                                       -- SAMP
   | 0xD7 => i < 65536 && i % 16 == 0                                       -- LSTAT
   | 0xD8 => i < 65536 && i % 16 == 0                                       -- PENAL
   | 0xF2 => i < 1024 && (if m = 0 then f.punct != 1 else f.punct == 1) && !bitOf f.tgt1.toNat 21   -- BARARR
   | _ => true)

/-- Whether the `IMM` column of the forms table holds 0 (or "port value, or 0"), so that `IMM` is
zero under `IMMP` 000. -/
def immIsZero (opc : Nat) : Bool :=
  opc == 0x01 || (0x03 ≤ opc && opc ≤ 0x08) || opc == 0x0B || opc == 0x11 || opc == 0x23 ||
  opc == 0x25 || opc == 0x26 || opc == 0x29 || opc == 0x2B || opc == 0x84 || opc == 0x86 ||
  opc == 0xA9 || opc == 0xAA || opc == 0xAB || (0xC0 ≤ opc && opc ≤ 0xD5) || opc == 0xD9 ||
  opc == 0xDA || opc == 0xDB

/-- The parameter ranges of `IMM` on a drover core (check 8, R63): those of both modes, the zero
that a forms table gives, and the ranges of the drover forms. -/
def paramOkSeq (opc : Nat) (f : Form) : Bool :=
  let i := f.imm.toNat
  let m := f.mod.toNat
  paramOk opc f &&
  (match opc with
   | 0x0E => i < 2 ^ 30                                                     -- INJ (R121)
   | 0x0F => i < 32                                                         -- TAKE (R122)
   | 0x2B => i == 0                                                         -- COLQ
   | 0xA0 => i < 1024                                                       -- STRM (R211)
   | 0xA1 => i < 1024                                                       -- GTHR
   | 0xA2 => i < 1024                                                       -- SCAT
   | 0xA3 => i < 1024                                                       -- SCLOSE
   | 0xA4 => i < 1024                                                       -- SWAIT
   | 0xA5 => i == 0                                                         -- SBAR
   | 0xE9 => i == 0                                                         -- QPOST (R338)
   | 0xEA => i == 0                                                         -- EVSIG
   | 0xEB => i == 0                                                         -- LAUNCH
   | 0xEC => i == 0                                                         -- CFGW (R349)
   | 0xED => i == 0                                                         -- CFGR
   | 0xEE => i == 0                                                         -- CFGCLR
   | 0xEF => i == 0                                                         -- GBIND (R359)
   | 0xF0 => i == 0                                                         -- GREL
   | 0xF1 => i == 0                                                         -- BARINIT (R367)
   | 0xF2 => i == 0                                                         -- BARARR
   | 0xF3 => i < 4096                                                       -- CTXSAVE (R329)
   | 0xF4 => i < 4096                                                       -- CTXREST
   | 0xF5 => i < 4096                                                       -- PREEMPT
   | 0xF6 => if m = 0 then i < 8 else i == 0                                -- MAP (R383)
   | 0xF7 => i == 0                                                         -- UNMAP
   | 0xF8 => i == 0                                                         -- MIGR
   | 0xF9 => i == 0                                                         -- LNKCFG (R400)
   | 0xFA => if m = 0 then i < 4096 else i == 0                             -- LNKADD
   | 0xFB => i < 16                                                         -- SIGCHK (R349)
   | 0xFC => i == 0                                                         -- DGST
   | 0xFD => i == 0                                                         -- CRC
   | 0xFE => i == 0                                                         -- BKPT
   | _ => true)

/-- Check 7 of R61: the window rules of R62, and no instruction of four inputs (R30). -/
def windowOk (opc : Nat) (f : Form) : Bool :=
  let n := inputCount opc f
  if 4 ≤ n then false
  else if 2 ≤ n then f.mslog.toNat ≤ 6 && f.msbase.toNat + 2 ^ f.mslog.toNat ≤ 64
  else f.msbase == 0 && f.mslog == 0

/-- A target that check 9 of R61 accepts (R58): without `V` all zero, and a mailbox target with
element and port zero. -/
def targetOk (t : BitVec 22) : Bool :=
  let n := t.toNat
  if bitOf n 21 then bitsOf n 11 10 != 0x3FF || (bitsOf n 7 4 == 0 && bitsOf n 0 2 == 0)
  else n == 0

/-- Check 8 of R61. -/
def portsOk (opc : Nat) (o : OpSpec) (f : Form) : Bool :=
  let p := f.immp.toNat
  let a := f.arity.toNat
  bitOf o.immps p &&
  -- an immediate port is declared, and leaves at least one port to tokens
  (!(1 ≤ p && p ≤ 3) || (a != 3 && a != 0 && p ≤ a + 1)) &&
  (p != 4 || (f.pred != 0 && !o.parameter)) &&
  (p != 6 || tripleOk f.imm.toNat) &&
  (f.pred == 0 || (a != 3 && bitOf o.preds f.pred.toNat)) &&
  (f.pred != 3 || (bitOf f.tgt0.toNat 21 && bitOf f.tgt1.toNat 21)) &&
  (a != 3 || f.punct.toNat ≤ 1) &&
  bitOf o.puncts f.punct.toNat &&
  (p != 0 || !immIsZero opc || f.imm == 0) &&
  paramOkFabric opc f

/-- The first check of R61 that refuses a word for a fabric slot, or 0. The word's bits 15:0 and
opcode 0x00 are the decoder's. -/
def fabricCheck (opc : Nat) (f : Form) : Nat :=
  match opSpec opc with
  | none => 1
  | some o =>
    if o.marking = .sequential then 3
    else if !arityOk opc f then 4
    else if !bitOf o.tagops f.tagop.toNat then 5
    else if !modOk opc f then 6
    else if !windowOk opc f then 7
    else if !portsOk opc o f then 8
    else if !(targetOk f.tgt0 && targetOk f.tgt1) then 9
    else 0

/-- The `MOD` values that only a fabric slot accepts: full/empty qualifiers and `SP` (R185), and
the round form of `BARARR` (R367). -/
def modFabricOnly (opc : Nat) (f : Form) : Bool :=
  let m := f.mod.toNat
  match opc with
  | 0x82 => m / 8 != 0
  | 0x83 => m / 8 != 0
  | 0x89 => bitOf m 6
  | 0x8B => bitOf m 2
  | 0xF2 => m != 0
  | _ => false

/-- The required values of the sequential reading (R59). -/
def seqFieldsOk (o : OpSpec) (f : Form) : Bool :=
  f.arity == 0 && f.tagop == 0 && f.msbase == 0 && f.mslog == 0 && f.punct == 0 && f.pred == 0 &&
  f.tgt0.toNat < 32 && f.tgt1.toNat < 32768 && bitOf o.immpsSeq f.immp.toNat

/-- The lowest check number that refuses a word for a drover core (R63), or 0. -/
def seqCheck (opc : Nat) (f : Form) : Nat :=
  match opSpec opc with
  | none => 1
  | some o =>
    if o.marking = .fabric then 3
    else if !modOk opc f || modFabricOnly opc f then 6
    else if !paramOkSeq opc f then 8
    else if !seqFieldsOk o f then 9
    else 0

/-- The check of a word's fields for its reader (R61, R63): 0 when the word is accepted. -/
def fieldCheck (r : Reader) (opc : Nat) (f : Form) : Nat :=
  match r with
  | .fabric => fabricCheck opc f
  | .drover => seqCheck opc f

/-- The opcode and the fields of an instruction's word (R50); an event has none. -/
def Instr.parts : Instr → Option (Nat × Form)
  | .pass f => some (0x01, f)
  | .const f => some (0x02, f)
  | .steer f => some (0x03, f)
  | .merge f => some (0x04, f)
  | .select f => some (0x05, f)
  | .gate f => some (0x06, f)
  | .sink f => some (0x07, f)
  | .mark f => some (0x08, f)
  | .rndq f => some (0x0A, f)
  | .align f => some (0x09, f)
  | .count f => some (0x0B, f)
  | .trap f => some (0x0C, f)
  | .assert f => some (0x0D, f)
  | .inj f => some (0x0E, f)
  | .take f => some (0x0F, f)
  | .reconf f => some (0x10, f)
  | .probe f => some (0x11, f)
  | .alloc f => some (0x20, f)
  | .iter f => some (0x21, f)
  | .free f => some (0x22, f)
  | .popt f => some (0x23, f)
  | .pusht f => some (0x24, f)
  | .setit f => some (0x25, f)
  | .gettag f => some (0x26, f)
  | .mktag f => some (0x27, f)
  | .spawn f => some (0x28, f)
  | .returnTok f => some (0x29, f)
  | .tsize f => some (0x2A, f)
  | .colq f => some (0x2B, f)
  | .add f => some (0x40, f)
  | .sub f => some (0x41, f)
  | .mul f => some (0x42, f)
  | .mulh f => some (0x43, f)
  | .mad f => some (0x44, f)
  | .div f => some (0x45, f)
  | .rem f => some (0x46, f)
  | .neg f => some (0x47, f)
  | .abs f => some (0x48, f)
  | .min f => some (0x49, f)
  | .max f => some (0x4A, f)
  | .cmp f => some (0x4B, f)
  | .and f => some (0x4C, f)
  | .or f => some (0x4D, f)
  | .xor f => some (0x4E, f)
  | .not f => some (0x4F, f)
  | .shl f => some (0x50, f)
  | .shr f => some (0x51, f)
  | .sar f => some (0x52, f)
  | .rot f => some (0x53, f)
  | .clz f => some (0x54, f)
  | .popc f => some (0x55, f)
  | .bfx f => some (0x56, f)
  | .bfi f => some (0x57, f)
  | .ext f => some (0x58, f)
  | .agen f => some (0x59, f)
  | .sat f => some (0x5A, f)
  | .fadd f => some (0x60, f)
  | .fsub f => some (0x61, f)
  | .fmul f => some (0x62, f)
  | .fma f => some (0x63, f)
  | .fdiv f => some (0x6E, f)
  | .fmin f => some (0x64, f)
  | .fmax f => some (0x65, f)
  | .fabs f => some (0x66, f)
  | .fneg f => some (0x67, f)
  | .fcmp f => some (0x68, f)
  | .fclass f => some (0x77, f)
  | .frcp f => some (0x69, f)
  | .frsq f => some (0x6A, f)
  | .fsqrt f => some (0x6B, f)
  | .fexp2 f => some (0x6C, f)
  | .flog2 f => some (0x6D, f)
  | .cvt f => some (0x6F, f)
  | .frnd f => some (0x70, f)
  | .vdot f => some (0x71, f)
  | .vsum f => some (0x72, f)
  | .vpack f => some (0x73, f)
  | .vunpk f => some (0x74, f)
  | .vshuf f => some (0x75, f)
  | .scaleSend f => some (0x76, f)
  | .scaleApply f => some (0x76, f)
  | .ld f => some (0x80, f)
  | .st f => some (0x81, f)
  | .lds f => some (0x82, f)
  | .sts f => some (0x83, f)
  | .lkup f => some (0x84, f)
  | .ttset f => some (0x85, f)
  | .ttinv f => some (0x86, f)
  | .feq f => some (0x87, f)
  | .feset f => some (0x88, f)
  | .atom f => some (0x89, f)
  | .red f => some (0x8A, f)
  | .fence f => some (0x8B, f)
  | .xfence f => some (0x8C, f)
  | .reord f => some (0x8D, f)
  | .pref f => some (0x8E, f)
  | .strm f => some (0xA0, f)
  | .gthr f => some (0xA1, f)
  | .scat f => some (0xA2, f)
  | .sclose f => some (0xA3, f)
  | .scloseCut f => some (0xA3, f)
  | .swait f => some (0xA4, f)
  | .sbar f => some (0xA5, f)
  | .circ f => some (0xA6, f)
  | .circx f => some (0xA7, f)
  | .ring f => some (0xA8, f)
  | .rcommitRsv f => some (0xA9, f)
  | .rcommitRsvw f => some (0xA9, f)
  | .rcommitPub f => some (0xA9, f)
  | .rcommitTail f => some (0xA9, f)
  | .rpop f => some (0xAA, f)
  | .rstatRing f => some (0xAB, f)
  | .rstatEng f => some (0xAB, f)
  | .rstatEngclr f => some (0xAB, f)
  | .mma f => some (0xAC, f)
  | .mmas f => some (0xAD, f)
  | .accz f => some (0xAE, f)
  | .accrd f => some (0xAF, f)
  | .nzscan f => some (0xB0, f)
  | .xsplit f => some (0xB1, f)
  | .tapp f => some (0xC0, f)
  | .tfork f => some (0xC1, f)
  | .tckpt f => some (0xC2, f)
  | .tcommit f => some (0xC3, f)
  | .ttrunc f => some (0xC4, f)
  | .tevict f => some (0xC5, f)
  | .tdesc f => some (0xC6, f)
  | .tmask f => some (0xC7, f)
  | .tstatLen f => some (0xC8, f)
  | .tstatPool f => some (0xC8, f)
  | .rope3Rot f => some (0xC9, f)
  | .rope3Set f => some (0xC9, f)
  | .rope3Getlo f => some (0xC9, f)
  | .rope3Gethi f => some (0xC9, f)
  | .tfree f => some (0xCA, f)
  | .gmask f => some (0xD0, f)
  | .gmaskH f => some (0xD0, f)
  | .gstep f => some (0xD1, f)
  | .gstepH f => some (0xD1, f)
  | .gsnap f => some (0xD2, f)
  | .grest f => some (0xD3, f)
  | .gfork f => some (0xD4, f)
  | .gdrop f => some (0xD5, f)
  | .samp f => some (0xD6, f)
  | .lstat f => some (0xD7, f)
  | .penal f => some (0xD8, f)
  | .acceptOpen f => some (0xD9, f)
  | .acceptWalk f => some (0xD9, f)
  | .acceptAbort f => some (0xD9, f)
  | .commit f => some (0xDA, f)
  | .commitFree f => some (0xDA, f)
  | .rng f => some (0xDB, f)
  | .jmp f => some (0xE0, f)
  | .br f => some (0xE1, f)
  | .call f => some (0xE2, f)
  | .ret f => some (0xE3, f)
  | .sysrd f => some (0xE4, f)
  | .syswr f => some (0xE5, f)
  | .eret f => some (0xE6, f)
  | .exit f => some (0xE7, f)
  | .exitDiscard f => some (0xE7, f)
  | .wait f => some (0xE8, f)
  | .qpost f => some (0xE9, f)
  | .evsigAdd f => some (0xEA, f)
  | .evsigSet f => some (0xEA, f)
  | .launch f => some (0xEB, f)
  | .cfgw f => some (0xEC, f)
  | .cfgr f => some (0xED, f)
  | .cfgclrTile f => some (0xEE, f)
  | .cfgclrElem f => some (0xEE, f)
  | .bkptSet f => some (0xFE, f)
  | .bkptClr f => some (0xFE, f)
  | .bkptRes f => some (0xFE, f)
  | .sigchk f => some (0xFB, f)
  | .dgst f => some (0xFC, f)
  | .crcMem f => some (0xFD, f)
  | .crcTile f => some (0xFD, f)
  | .gbind f => some (0xEF, f)
  | .grel f => some (0xF0, f)
  | .grelForce f => some (0xF0, f)
  | .barinitAlloc f => some (0xF1, f)
  | .barinitFree f => some (0xF1, f)
  | .barinitQuery f => some (0xF1, f)
  | .bararrTok f => some (0xF2, f)
  | .bararrRnd f => some (0xF2, f)
  | .bararr f => some (0xF2, f)
  | .preemptSoft f => some (0xF5, f)
  | .preemptHard f => some (0xF5, f)
  | .ctxsave f => some (0xF3, f)
  | .ctxrestRun f => some (0xF4, f)
  | .ctxrestLoad f => some (0xF4, f)
  | .mapPa f => some (0xF6, f)
  | .mapZero f => some (0xF6, f)
  | .mapCopy f => some (0xF6, f)
  | .unmap f => some (0xF7, f)
  | .unmapDclr f => some (0xF7, f)
  | .migr f => some (0xF8, f)
  | .lnkcfgQuery f => some (0xF9, f)
  | .lnkcfgTrain f => some (0xF9, f)
  | .lnkcfgDown f => some (0xF9, f)
  | .lnkcfgRatio f => some (0xF9, f)
  | .lnkaddStart f => some (0xFA, f)
  | .lnkaddStat f => some (0xFA, f)
  | .lnkaddCancel f => some (0xFA, f)
  | _ => none

/-- Whether the fields are those of this row of the opcode table, where several rows share one
opcode and differ in `MOD` or `ARITY`, or in who reads the word (`BARARR`). -/
def Instr.ownsFields (r : Reader) : Instr → Bool
  | .scaleSend f => f.arity == 0
  | .scaleApply f => f.arity != 0
  | .sclose f => !bitOf f.mod.toNat 3
  | .scloseCut f => bitOf f.mod.toNat 3
  | .rcommitRsv f => bitsOf f.mod.toNat 3 2 == 0
  | .rcommitRsvw f => bitsOf f.mod.toNat 3 2 == 1
  | .rcommitPub f => bitsOf f.mod.toNat 3 2 == 2
  | .rcommitTail f => bitsOf f.mod.toNat 3 2 == 3
  | .rstatRing f => bitsOf f.mod.toNat 3 2 == 0
  | .rstatEng f => bitsOf f.mod.toNat 3 2 == 1
  | .rstatEngclr f => 2 ≤ bitsOf f.mod.toNat 3 2
  | .tstatLen f => f.mod == 0
  | .tstatPool f => f.mod != 0
  | .rope3Rot f => f.mod == 0
  | .rope3Set f => f.mod == 1
  | .rope3Getlo f => f.mod == 2
  | .rope3Gethi f => 3 ≤ f.mod.toNat
  | .gmask f => f.mod == 0
  | .gmaskH f => 1 ≤ f.mod.toNat
  | .gstep f => f.mod == 0
  | .gstepH f => 1 ≤ f.mod.toNat
  | .acceptOpen f => f.mod == 1
  | .acceptWalk f => f.mod == 0
  | .acceptAbort f => 2 ≤ f.mod.toNat
  | .commit f => f.mod == 0
  | .commitFree f => 1 ≤ f.mod.toNat
  | .exit f => f.mod == 0
  | .exitDiscard f => 1 ≤ f.mod.toNat
  | .evsigAdd f => f.mod == 0
  | .evsigSet f => 1 ≤ f.mod.toNat
  | .cfgclrTile f => f.mod == 0
  | .cfgclrElem f => 1 ≤ f.mod.toNat
  | .bkptSet f => f.mod == 0
  | .bkptClr f => f.mod == 1
  | .bkptRes f => 2 ≤ f.mod.toNat
  | .crcMem f => f.mod == 0
  | .crcTile f => 1 ≤ f.mod.toNat
  | .grel f => f.mod == 0
  | .grelForce f => 1 ≤ f.mod.toNat
  | .barinitAlloc f => f.mod == 0
  | .barinitFree f => f.mod == 1
  | .barinitQuery f => 2 ≤ f.mod.toNat
  | .preemptSoft f => f.mod == 0
  | .preemptHard f => 1 ≤ f.mod.toNat
  | .ctxrestRun f => f.mod == 0
  | .ctxrestLoad f => 1 ≤ f.mod.toNat
  | .mapPa f => f.mod == 0
  | .mapZero f => f.mod == 1
  | .mapCopy f => 2 ≤ f.mod.toNat
  | .unmap f => f.mod == 0
  | .unmapDclr f => 1 ≤ f.mod.toNat
  | .lnkcfgQuery f => f.mod == 0
  | .lnkcfgTrain f => f.mod == 1
  | .lnkcfgDown f => f.mod == 2
  | .lnkcfgRatio f => 3 ≤ f.mod.toNat
  | .lnkaddStart f => f.mod == 0
  | .lnkaddStat f => f.mod == 1
  | .lnkaddCancel f => 2 ≤ f.mod.toNat
  | .bararrTok f => r == .fabric && f.mod == 0
  | .bararrRnd f => r == .fabric && f.mod != 0
  | .bararr _ => r == .drover
  | _ => true

/-- A well-formed instruction of a reader: its fields pass every check (R61, R63) and belong to its
row. Events have no word and are not well-formed instructions. -/
def Instr.wf (r : Reader) (i : Instr) : Bool :=
  match i.parts with
  | some (opc, f) => i.ownsFields r && fieldCheck r opc f == 0
  | none => false

end Sys2Proof
end

