-- ==== Sys2Proof/Machine/Lanes.lean ====
section
/-! DEFINITION. Packed lanes (R53) and the results of the integer, bit, field, floating-point and
vector operations (R134 to R144): one function a mnemonic, from the fields of the word and the
operands L, R and C to the 64-bit result and the flags it raises. -/

namespace Sys2Proof.Machine

/-- Lane width of a type code (R53). -/
def typeWidth : Nat → Nat
  | 2 => 64 | 3 => 64 | 4 => 64
  | 7 => 16 | 8 => 16 | 9 => 16 | 10 => 16
  | 11 => 8 | 12 => 8
  | _ => 32

/-- A type code read as signed (R53, R75). -/
def typeSigned (t : Nat) : Bool := t == 0 || t == 2 || t == 9 || t == 11

/-- The integer format of a type code's lanes. -/
def typeInt (t : Nat) : IntFmt := ⟨typeWidth t, typeSigned t⟩

/-- The floating-point format of a type code's lanes. -/
def typeFmt (t : Nat) : Fmt := if t = 7 then bf16 else if t = 8 then fp16 else fp32

/-- Lane `k` of a value (R53). -/
def lane (t : Nat) (v : W64) (k : Nat) : Nat := bitsOf v.toNat (typeWidth t * k) (typeWidth t)

/-- All lanes of a value, lane 0 first. -/
def lanes (t : Nat) (v : W64) : List Nat := (List.range (typeLanes t)).map (lane t v)

/-- A value from its lanes of width `w`, lane 0 lowest; the bits above them are zero (R53). -/
def joinLanes (w : Nat) : List Nat → Nat
  | [] => 0
  | l :: ls => l % 2 ^ w + 2 ^ w * joinLanes w ls

/-- A result from its lanes and their flags. -/
def packLanes (t : Nat) (ls : List (Nat × Flags)) : W64 × Flags :=
  (BitVec.ofNat 64 (joinLanes (typeWidth t) (ls.map (·.1))), ls.foldl (fun f a => f ||| a.2) 0)

/-- The type code of a typed word (R53). -/
def typeOf (f : Form) : Nat := f.mod.toNat / 8
/-- `MOD[2:0]` (R54). -/
def lowOf (f : Form) : Nat := f.mod.toNat % 8
/-- `MOD[2:0]` = 100: saturating (R131). -/
def satOf (f : Form) : Bool := lowOf f == 4
/-- The rounding mode (R54). -/
def modeOf (f : Form) : RMode := rmodeOf (lowOf f)

/-- A lane-wise operation of three operands. -/
def lanewise (t : Nat) (op : Nat → Nat → Nat → Nat × Flags) (l r c : W64) : W64 × Flags :=
  packLanes t ((List.range (typeLanes t)).map fun k => op (lane t l k) (lane t r k) (lane t c k))

/-- An integer operation formed exactly and brought to width once (R76, R134). -/
def intOp (f : Form) (op : Int → Int → Int → Int) (l r c : W64) : W64 × Flags :=
  let g := typeInt (typeOf f)
  lanewise (typeOf f) (fun a b d => bringInt g (satOf f) (op (readInt g a) (readInt g b) (readInt g d)))
    l r c

def addValue (f : Form) := intOp f fun a b _ => a + b
def subValue (f : Form) := intOp f fun a b _ => a - b
def mulValue (f : Form) := intOp f fun a b _ => a * b
def madValue (f : Form) := intOp f fun a b c => a * b + c
def negValue (f : Form) := intOp f fun a _ _ => -a
def absValue (f : Form) := intOp f fun a _ _ => if a < 0 then -a else a
def minValue (f : Form) := intOp f fun a b _ => if a ≤ b then a else b
def maxValue (f : Form) := intOp f fun a b _ => if b ≤ a then a else b

/-- The high half of the exact product (R134). -/
def mulhValue (f : Form) (l r c : W64) : W64 × Flags :=
  let g := typeInt (typeOf f)
  lanewise (typeOf f) (fun a b _ => (wrapInt g.width (readInt g a * readInt g b / 2 ^ g.width), 0)) l r c

/-- Division truncating toward zero (R135). -/
def divValue (f : Form) (l r c : W64) : W64 × Flags :=
  let g := typeInt (typeOf f)
  lanewise (typeOf f) (fun a b _ =>
    let x := readInt g a
    let y := readInt g b
    if y = 0 then (wrapInt g.width (if 0 ≤ x then g.max else g.min), flagIV)
    else bringInt g (satOf f) (x.tdiv y)) l r c

/-- The remainder, with the sign of L (R135). -/
def remValue (f : Form) (l r c : W64) : W64 × Flags :=
  let g := typeInt (typeOf f)
  lanewise (typeOf f) (fun a b _ =>
    let x := readInt g a
    let y := readInt g b
    if y = 0 then (a, flagIV) else (wrapInt g.width (x.tmod y), 0)) l r c

/-- The form of a comparison's result (R136, R141): 1 or 0 for one lane, all ones or zero for
packed lanes. -/
def truthLane (t : Nat) (b : Bool) : Nat :=
  if b then (if t ≤ 5 then 1 else 2 ^ typeWidth t - 1) else 0

/-- The condition of `MOD[2:0]` on two integers (R136). -/
def intCond (c : Nat) (a b : Int) : Bool :=
  match c with
  | 0 => a == b
  | 1 => a != b
  | 2 => a < b
  | 3 => a ≤ b
  | 4 => b < a
  | _ => b ≤ a

def cmpValue (f : Form) (l r c : W64) : W64 × Flags :=
  let t := typeOf f
  let g := typeInt t
  lanewise t (fun a b _ => (truthLane t (intCond (lowOf f) (readInt g a) (readInt g b)), 0)) l r c

def andValue (_ : Form) (l r _c : W64) : W64 × Flags := (l &&& r, 0)
def orValue (_ : Form) (l r _c : W64) : W64 × Flags := (l ||| r, 0)
def xorValue (_ : Form) (l r _c : W64) : W64 × Flags := (l ^^^ r, 0)
def notValue (_ : Form) (l _r _c : W64) : W64 × Flags := (~~~l, 0)

/-- A bit operation on the lanes of L with one count, R[7:0] (R137). -/
def bitOp (f : Form) (op : Nat → Nat → Nat → Nat) (l r : W64) : W64 × Flags :=
  let t := typeOf f
  let n := typeWidth t
  packLanes t ((lanes t l).map fun a => (op n a (r.toNat % 256) % 2 ^ n, 0))

def shlValue (f : Form) (l r _c : W64) := bitOp f (fun _ a c => a * 2 ^ c) l r
def shrValue (f : Form) (l r _c : W64) := bitOp f (fun _ a c => a / 2 ^ c) l r
def sarValue (f : Form) (l r _c : W64) := bitOp f (fun n a c => wrapInt n (toSigned n a / 2 ^ c)) l r
def rotValue (f : Form) (l r _c : W64) :=
  bitOp f (fun n a c => a * 2 ^ (c % n) ||| a / 2 ^ (n - c % n)) l r
def clzValue (f : Form) (l r _c : W64) := bitOp f (fun n a _ => n - bitLen a) l r

/-- The number of one bits among the low `n` bits. -/
def popCount : Nat → Nat → Nat
  | 0, _ => 0
  | n + 1, a => a % 2 + popCount n (a / 2)

def popcValue (f : Form) (l r _c : W64) := bitOp f (fun n a _ => popCount n a) l r

/-- The low bit and the width that a field's specification word gives (R138). -/
def fieldSpec (v : W64) : Nat × Nat := (bitsOf v.toNat 0 6, bitsOf v.toNat 8 7)

/-- `BFX` (R138). -/
def bfxValue (f : Form) (l r _c : W64) : W64 × Flags :=
  let t := typeOf f
  let (lo, w) := fieldSpec r
  packLanes t ((lanes t l).map fun a =>
    if w = 0 ∨ typeWidth t < lo + w then (0, flagIV)
    else
      let x := bitsOf a lo w
      (if typeSigned t then wrapInt (typeWidth t) (toSigned w x) else x, 0))

/-- `BFI` (R138). -/
def bfiValue (f : Form) (l r c : W64) : W64 × Flags :=
  let t := typeOf f
  let (lo, w) := fieldSpec c
  lanewise t (fun a b _ =>
    if w = 0 ∨ typeWidth t < lo + w then (a, flagIV)
    else (a % 2 ^ lo + 2 ^ lo * (b % 2 ^ w) + 2 ^ (lo + w) * (a / 2 ^ (lo + w)), 0)) l r l

/-- `EXT` (R138): b is 8, 16 or 32. -/
def extValue (f : Form) (l _r _c : W64) : W64 × Flags :=
  let b := 8 * 2 ^ lowOf f
  (if typeSigned (typeOf f) then sext64 b l.toNat else BitVec.ofNat 64 (l.toNat % 2 ^ b), 0)

/-- The destination formats of `SAT` (R131). -/
def satFmt : Nat → IntFmt
  | 0 => ⟨8, true⟩
  | 1 => ⟨16, true⟩
  | 2 => ⟨32, true⟩
  | 3 => ⟨8, false⟩
  | 4 => ⟨16, false⟩
  | _ => ⟨32, false⟩

def satValue (f : Form) (l r c : W64) : W64 × Flags :=
  let g := typeInt (typeOf f)
  lanewise (typeOf f) (fun a _ _ =>
    let (v, fl) := satInt (satFmt (lowOf f)) (readInt g a)
    (wrapInt g.width v, fl)) l r c

/-- The offset of `IMMP` 101 (R56, R57). -/
def offsetOf (f : Form) : Int := if f.immp = 5 then f.imm.toInt else 0

/-- `AGEN` (R139). -/
def agenValue (f : Form) (l r _c : W64) : W64 × Flags :=
  let s := lowOf f
  if typeOf f = 3 then
    let a := (l.toNat : Int) + r.toInt * 2 ^ s + offsetOf f
    (BitVec.ofNat 64 (wrapInt 56 a), flagIf (a < 0 || 2 ^ 56 ≤ a) flagIV)
  else
    let a := ((l.toNat % 2 ^ 32 : Nat) : Int) + toSigned 32 r.toNat * 2 ^ s + offsetOf f
    (BitVec.ofNat 64 (wrapInt 16 a), flagIf (a < 0 || 2 ^ 16 ≤ a) flagIV)

/-! Floating point -/

/-- A floating-point operation, exact and rounded once a lane (R140). -/
def floatOp (f : Form) (op : RMode → Num → Num → Num → Num × Flags) (l r c : W64) : W64 × Flags :=
  let t := typeOf f
  let g := typeFmt t
  lanewise t (fun a b d =>
    let (x, f1) := op (modeOf f) (decodeNum g a) (decodeNum g b) (decodeNum g d)
    let (v, f2) := roundNum g (modeOf f) x
    (v, f1 ||| f2)) l r c

def faddValue (f : Form) := floatOp f fun m a b _ => addNum m a b
def fsubValue (f : Form) := floatOp f fun m a b _ => addNum m a b.negate
def fmulValue (f : Form) := floatOp f fun _ a b _ => mulNum a b
def fdivValue (f : Form) := floatOp f fun _ a b _ => divNum a b
def fmaValue (f : Form) := floatOp f fun m a b c => fmaNum m a b c
def fsqrtValue (f : Form) := floatOp f fun _ a _ _ => sqrtNum a
def frsqValue (f : Form) := floatOp f fun _ a _ _ => rsqrtNum a
def fexp2Value (f : Form) := floatOp f fun _ a _ _ => exp2Num a
def flog2Value (f : Form) := floatOp f fun _ a _ _ => log2Num a
def frcpValue (f : Form) := floatOp f fun _ a _ _ => divNum (.fin false 1 0 false) a

/-- The signalling-NaN flag of a lane. -/
def laneSnan (g : Fmt) (a : Nat) : Flags := snanFlag (decodeNum g a)

/-- `FMIN` and `FMAX` (R141): the canonical NaN if either is a NaN. -/
def fpick (f : Form) (second : Num → Num → Bool) (l r c : W64) : W64 × Flags :=
  let g := typeFmt (typeOf f)
  lanewise (typeOf f) (fun a b _ =>
    let x := decodeNum g a
    let y := decodeNum g b
    (if x.isNan || y.isNan then g.nan else if second x y then b else a, laneSnan g a ||| laneSnan g b)) l r c

def fminValue (f : Form) := fpick f fun x y => y.lt x
def fmaxValue (f : Form) := fpick f fun x y => x.lt y

/-- `FABS` and `FNEG` (R141). -/
def fsign (f : Form) (op : Nat → Nat → Nat) (l r c : W64) : W64 × Flags :=
  let g := typeFmt (typeOf f)
  lanewise (typeOf f) (fun a _ _ =>
    (if (decodeNum g a).isNan then g.nan else op (2 ^ (g.width - 1)) a, laneSnan g a)) l r c

def fabsValue (f : Form) := fsign f fun s a => a % s
def fnegValue (f : Form) := fsign f fun s a => (a + s) % (2 * s)

/-- The condition of `MOD[2:0]` on two floating-point lanes (R141). -/
def floatCond (c : Nat) (x y : Num) : Bool :=
  if x.isNan || y.isNan then c == 1 || c == 6
  else match c with
  | 0 => x.eq y
  | 1 => !x.eq y
  | 2 => x.lt y && !x.eq y
  | 3 => x.lt y || x.eq y
  | 4 => y.lt x && !x.eq y
  | 5 => y.lt x || x.eq y
  | _ => false

def fcmpValue (f : Form) (l r c : W64) : W64 × Flags :=
  let t := typeOf f
  let g := typeFmt t
  lanewise t (fun a b _ =>
    (truthLane t (floatCond (lowOf f) (decodeNum g a) (decodeNum g b)), laneSnan g a ||| laneSnan g b)) l r c

/-- The class number of an encoding (R141). -/
def classOf (g : Fmt) (a : Nat) : Nat :=
  let sub := bitsOf a g.frac g.ebits == 0
  match decodeNum g a with
  | .nan true => 8
  | .nan false => 9
  | .inf s => if s then 0 else 7
  | .fin s m _ _ =>
    if m = 0 then (if s then 3 else 4)
    else if s then (if sub then 2 else 1) else (if sub then 5 else 6)

def fclassValue (f : Form) (l r c : W64) : W64 × Flags :=
  let g := typeFmt (typeOf f)
  lanewise (typeOf f) (fun a _ _ => (2 ^ classOf g a, 0)) l r c

def frndValue (f : Form) (l r c : W64) : W64 × Flags :=
  let g := typeFmt (typeOf f)
  lanewise (typeOf f) (fun a _ _ => roundIntegral g (modeOf f) a) l r c

/-- One lane converted from a source type to a destination type (R86, R142). -/
def convertLane (src dst : Nat) (mode : RMode) (a : Nat) : Nat × Flags :=
  if typeIsInt src then
    if typeIsInt dst then
      if src = dst then (a, 0) else
        let (v, fl) := satInt (typeInt dst) (readInt (typeInt src) a)
        (wrapInt (typeWidth dst) v, fl)
    else intToFloat (typeFmt dst) mode (readInt (typeInt src) a)
  else if typeIsInt dst then floatToInt (typeFmt src) (typeInt dst) mode a
  else convertFloat (typeFmt src) (typeFmt dst) mode a

/-- `CVT` (R142). -/
def cvtValue (f : Form) (l _r _c : W64) : W64 × Flags :=
  let src := bitsOf f.imm.toNat 0 4
  let first := bitsOf f.imm.toNat 4 3
  let dst := typeOf f
  packLanes dst ((List.range (typeLanes dst)).map fun k =>
    if first + k < typeLanes src then convertLane src dst (modeOf f) (lane src l (first + k)) else (0, 0))

/-- `VDOT` (R144). -/
def vdotValue (f : Form) (l r c : W64) : W64 × Flags :=
  let t := typeOf f
  if typeIsInt t then
    let g := typeInt t
    let acc : IntFmt := ⟨32, typeSigned t⟩
    let v := ((lanes t l).zip (lanes t r)).foldl (fun s p => s + readInt g p.1 * readInt g p.2) (readInt acc c.toNat)
    let (n, fl) := bringInt acc (satOf f) v
    (BitVec.ofNat 64 n, fl)
  else
    let g := typeFmt t
    let ps := ((lanes t l).zip (lanes t r)).map fun p => mulNum (decodeNum g p.1) (decodeNum g p.2)
    let (sum, f1) := treeSum (ps.map (·.1))
    let (x, f2) := addNum (modeOf f) (decodeNum fp32 (c.toNat % 2 ^ 32)) sum
    let (v, f3) := roundNum fp32 (modeOf f) x
    (BitVec.ofNat 64 v, ps.foldl (fun s p => s ||| p.2) 0 ||| f1 ||| f2 ||| f3)

/-- `VSUM` (R144). -/
def vsumValue (f : Form) (l _r _c : W64) : W64 × Flags :=
  let t := typeOf f
  if typeIsInt t then
    let g := typeInt t
    let v := (lanes t l).foldl (fun s a => s + readInt g a) 0
    let (n, fl) := bringInt ⟨32, typeSigned t⟩ (satOf f) v
    (BitVec.ofNat 64 n, fl)
  else
    let g := typeFmt t
    let xs := (lanes t l).map (decodeNum g)
    let (sum, f1) := treeSum xs
    (BitVec.ofNat 64 (roundNum fp32 .rne sum).1, xs.foldl (fun s x => s ||| snanFlag x) 0 ||| f1)

/-- `VPACK` (R144): each half of the result from one operand. -/
def vpackValue (f : Form) (l r _c : W64) : W64 × Flags :=
  let t := typeOf f
  let n := typeLanes t / 2
  let w := 2 * typeWidth t
  let conv := fun (v : W64) (k : Nat) =>
    let a := bitsOf v.toNat (w * k) w
    if typeIsInt t then
      let (x, fl) := satInt (typeInt t) (readInt ⟨w, typeSigned t⟩ a)
      (wrapInt (typeWidth t) x, fl)
    else convertFloat fp32 (typeFmt t) (modeOf f) a
  packLanes t ((List.range n).map (conv l) ++ (List.range n).map (conv r))

/-- `VUNPK` (R144). -/
def vunpkValue (f : Form) (l _r _c : W64) : W64 × Flags :=
  let t := typeOf f
  let h := f.imm.toNat % 2
  if t = 6 then
    let g := if lowOf f = 1 then fp16 else bf16
    packLanes t ((List.range 2).map fun k => convertFloat g fp32 .rne (bitsOf l.toNat (16 * (2 * h + k)) 16))
  else
    packLanes t ((List.range 4).map fun k =>
      (wrapInt 16 (readInt ⟨8, typeSigned t⟩ (bitsOf l.toNat (8 * (4 * h + k)) 8)), 0))

/-- `VSHUF` (R144): with one declared port every lane of R reads as zero. -/
def vshufValue (f : Form) (l r _c : W64) : W64 × Flags :=
  let t := typeOf f
  let m := typeLanes t
  packLanes t ((List.range m).map fun k =>
    let sel := bitsOf f.imm.toNat (4 * k) 4
    (if sel < m then lane t l sel else if 8 ≤ sel ∧ sel < 8 + m then lane t r (sel - 8) else 0, 0))

end Sys2Proof.Machine
end

