-- ==== Sys2Proof/Decode.lean ====
section
/-! DEFINITION. The decoder: a total function from a 128-bit word, or from bytes, to an instruction
or a named refusal (R50, R59 to R65); and the encoder, written from the same layout. -/

namespace Sys2Proof

/-- Why a word is no instruction, in the order of the checks of R61. -/
inductive BadWord where
  /-- Opcode 0x00: the empty slot (R60). -/
  | void
  /-- Check 1: the opcode is 0xFF or unassigned (R65). -/
  | opcode
  /-- Check 2: bits 15:0 are not zero. -/
  | lowBits
  /-- Check 3: the instruction is not of this reader (R3). -/
  | marking
  /-- Check 4: `ARITY`. -/
  | arity
  /-- Check 5: `TAGOP`. -/
  | tagop
  /-- Check 6: a reserved `MOD`. -/
  | modifier
  /-- Check 7: the window rules (R62). -/
  | window
  /-- Check 8: `IMMP`, `PRED`, `PUNCT` or a parameter out of range. -/
  | parameter
  /-- Check 9: a target, or a required value of R59. -/
  | target
  /-- Fewer than sixteen bytes. -/
  | truncated
  deriving DecidableEq, Repr, Inhabited

/-- The check number that a fault record's auxiliary word holds (R61, R63). -/
def BadWord.number : BadWord → Nat
  | .void => 1
  | .opcode => 1
  | .lowBits => 2
  | .marking => 3
  | .arity => 4
  | .tagop => 5
  | .modifier => 6
  | .window => 7
  | .parameter => 8
  | .target => 9
  | .truncated => 0

/-- The refusal that a check number of `fieldCheck` stands for. -/
def badWordOf : Nat → BadWord
  | 2 => .lowBits
  | 3 => .marking
  | 4 => .arity
  | 5 => .tagop
  | 6 => .modifier
  | 7 => .window
  | 8 => .parameter
  | 9 => .target
  | _ => .opcode

/-- The opcode of a word (R50). -/
def wordOpcode (w : W128) : Nat := (w.extractLsb' 120 8).toNat

/-- The fields of a word (R50). -/
def wordForm (w : W128) : Form where
  arity := w.extractLsb' 118 2
  tagop := w.extractLsb' 115 3
  mod := w.extractLsb' 108 7
  imm := w.extractLsb' 76 32
  tgt0 := w.extractLsb' 54 22
  tgt1 := w.extractLsb' 32 22
  msbase := w.extractLsb' 26 6
  mslog := w.extractLsb' 23 3
  punct := w.extractLsb' 21 2
  pred := w.extractLsb' 19 2
  immp := w.extractLsb' 16 3

/-- The instructions of the opcodes 0x00 to 0x0F. -/
def instrOf0 (opc : Nat) (f : Form) : Option Instr :=
  match opc with
  | 0x01 => some (.pass f)
  | 0x02 => some (.const f)
  | 0x03 => some (.steer f)
  | 0x04 => some (.merge f)
  | 0x05 => some (.select f)
  | 0x06 => some (.gate f)
  | 0x07 => some (.sink f)
  | 0x08 => some (.mark f)
  | 0x0A => some (.rndq f)
  | 0x09 => some (.align f)
  | 0x0B => some (.count f)
  | 0x0C => some (.trap f)
  | 0x0D => some (.assert f)
  | 0x0E => some (.inj f)
  | 0x0F => some (.take f)
  | _ => none

/-- The instructions of the opcodes 0x10 to 0x1F. -/
def instrOf1 (opc : Nat) (f : Form) : Option Instr :=
  match opc with
  | 0x10 => some (.reconf f)
  | 0x11 => some (.probe f)
  | _ => none

/-- The instructions of the opcodes 0x20 to 0x2F. -/
def instrOf2 (opc : Nat) (f : Form) : Option Instr :=
  match opc with
  | 0x20 => some (.alloc f)
  | 0x21 => some (.iter f)
  | 0x22 => some (.free f)
  | 0x23 => some (.popt f)
  | 0x24 => some (.pusht f)
  | 0x25 => some (.setit f)
  | 0x26 => some (.gettag f)
  | 0x27 => some (.mktag f)
  | 0x28 => some (.spawn f)
  | 0x29 => some (.returnTok f)
  | 0x2A => some (.tsize f)
  | 0x2B => some (.colq f)
  | _ => none

/-- The instructions of the opcodes 0x40 to 0x4F. -/
def instrOf4 (opc : Nat) (f : Form) : Option Instr :=
  match opc with
  | 0x40 => some (.add f)
  | 0x41 => some (.sub f)
  | 0x42 => some (.mul f)
  | 0x43 => some (.mulh f)
  | 0x44 => some (.mad f)
  | 0x45 => some (.div f)
  | 0x46 => some (.rem f)
  | 0x47 => some (.neg f)
  | 0x48 => some (.abs f)
  | 0x49 => some (.min f)
  | 0x4A => some (.max f)
  | 0x4B => some (.cmp f)
  | 0x4C => some (.and f)
  | 0x4D => some (.or f)
  | 0x4E => some (.xor f)
  | 0x4F => some (.not f)
  | _ => none

/-- The instructions of the opcodes 0x50 to 0x5F. -/
def instrOf5 (opc : Nat) (f : Form) : Option Instr :=
  match opc with
  | 0x50 => some (.shl f)
  | 0x51 => some (.shr f)
  | 0x52 => some (.sar f)
  | 0x53 => some (.rot f)
  | 0x54 => some (.clz f)
  | 0x55 => some (.popc f)
  | 0x56 => some (.bfx f)
  | 0x57 => some (.bfi f)
  | 0x58 => some (.ext f)
  | 0x59 => some (.agen f)
  | 0x5A => some (.sat f)
  | _ => none

/-- The instructions of the opcodes 0x60 to 0x6F. -/
def instrOf6 (opc : Nat) (f : Form) : Option Instr :=
  match opc with
  | 0x60 => some (.fadd f)
  | 0x61 => some (.fsub f)
  | 0x62 => some (.fmul f)
  | 0x63 => some (.fma f)
  | 0x6E => some (.fdiv f)
  | 0x64 => some (.fmin f)
  | 0x65 => some (.fmax f)
  | 0x66 => some (.fabs f)
  | 0x67 => some (.fneg f)
  | 0x68 => some (.fcmp f)
  | 0x69 => some (.frcp f)
  | 0x6A => some (.frsq f)
  | 0x6B => some (.fsqrt f)
  | 0x6C => some (.fexp2 f)
  | 0x6D => some (.flog2 f)
  | 0x6F => some (.cvt f)
  | _ => none

/-- The instructions of the opcodes 0x70 to 0x7F. -/
def instrOf7 (opc : Nat) (f : Form) : Option Instr :=
  match opc with
  | 0x77 => some (.fclass f)
  | 0x70 => some (.frnd f)
  | 0x71 => some (.vdot f)
  | 0x72 => some (.vsum f)
  | 0x73 => some (.vpack f)
  | 0x74 => some (.vunpk f)
  | 0x75 => some (.vshuf f)
  | 0x76 => some (if f.arity == 0 then .scaleSend f else .scaleApply f)
  | _ => none

/-- The instructions of the opcodes 0x80 to 0x8F. -/
def instrOf8 (opc : Nat) (f : Form) : Option Instr :=
  match opc with
  | 0x80 => some (.ld f)
  | 0x81 => some (.st f)
  | 0x82 => some (.lds f)
  | 0x83 => some (.sts f)
  | 0x84 => some (.lkup f)
  | 0x85 => some (.ttset f)
  | 0x86 => some (.ttinv f)
  | 0x87 => some (.feq f)
  | 0x88 => some (.feset f)
  | 0x89 => some (.atom f)
  | 0x8A => some (.red f)
  | 0x8B => some (.fence f)
  | 0x8C => some (.xfence f)
  | 0x8D => some (.reord f)
  | 0x8E => some (.pref f)
  | _ => none

/-- The instructions of the opcodes 0xA0 to 0xAF. -/
def instrOfA (opc : Nat) (f : Form) : Option Instr :=
  match opc with
  | 0xA0 => some (.strm f)
  | 0xA1 => some (.gthr f)
  | 0xA2 => some (.scat f)
  | 0xA3 => some (if !bitOf f.mod.toNat 3 then .sclose f else .scloseCut f)
  | 0xA4 => some (.swait f)
  | 0xA5 => some (.sbar f)
  | 0xA6 => some (.circ f)
  | 0xA7 => some (.circx f)
  | 0xA8 => some (.ring f)
  | 0xA9 => some (if bitsOf f.mod.toNat 3 2 == 0 then .rcommitRsv f else if bitsOf f.mod.toNat 3 2 == 1 then .rcommitRsvw f else if bitsOf f.mod.toNat 3 2 == 2 then .rcommitPub f else .rcommitTail f)
  | 0xAA => some (.rpop f)
  | 0xAB => some (if bitsOf f.mod.toNat 3 2 == 0 then .rstatRing f else if bitsOf f.mod.toNat 3 2 == 1 then .rstatEng f else .rstatEngclr f)
  | 0xAC => some (.mma f)
  | 0xAD => some (.mmas f)
  | 0xAE => some (.accz f)
  | 0xAF => some (.accrd f)
  | _ => none

/-- The instructions of the opcodes 0xB0 to 0xBF. -/
def instrOfB (opc : Nat) (f : Form) : Option Instr :=
  match opc with
  | 0xB0 => some (.nzscan f)
  | 0xB1 => some (.xsplit f)
  | _ => none

/-- The instructions of the opcodes 0xC0 to 0xCF. -/
def instrOfC (opc : Nat) (f : Form) : Option Instr :=
  match opc with
  | 0xC0 => some (.tapp f)
  | 0xC1 => some (.tfork f)
  | 0xC2 => some (.tckpt f)
  | 0xC3 => some (.tcommit f)
  | 0xC4 => some (.ttrunc f)
  | 0xC5 => some (.tevict f)
  | 0xC6 => some (.tdesc f)
  | 0xC7 => some (.tmask f)
  | 0xC8 => some (if f.mod == 0 then .tstatLen f else .tstatPool f)
  | 0xC9 => some (if f.mod == 0 then .rope3Rot f else if f.mod == 1 then .rope3Set f else if f.mod == 2 then .rope3Getlo f else .rope3Gethi f)
  | 0xCA => some (.tfree f)
  | _ => none

/-- The instructions of the opcodes 0xD0 to 0xDF. -/
def instrOfD (opc : Nat) (f : Form) : Option Instr :=
  match opc with
  | 0xD0 => some (if f.mod == 0 then .gmask f else .gmaskH f)
  | 0xD1 => some (if f.mod == 0 then .gstep f else .gstepH f)
  | 0xD2 => some (.gsnap f)
  | 0xD3 => some (.grest f)
  | 0xD4 => some (.gfork f)
  | 0xD5 => some (.gdrop f)
  | 0xD6 => some (.samp f)
  | 0xD7 => some (.lstat f)
  | 0xD8 => some (.penal f)
  | 0xD9 => some (if f.mod == 1 then .acceptOpen f else if f.mod == 0 then .acceptWalk f else .acceptAbort f)
  | 0xDA => some (if f.mod == 0 then .commit f else .commitFree f)
  | 0xDB => some (.rng f)
  | _ => none

/-- The instructions of the opcodes 0xE0 to 0xEF. -/
def instrOfE (opc : Nat) (f : Form) : Option Instr :=
  match opc with
  | 0xE0 => some (.jmp f)
  | 0xE1 => some (.br f)
  | 0xE2 => some (.call f)
  | 0xE3 => some (.ret f)
  | 0xE4 => some (.sysrd f)
  | 0xE5 => some (.syswr f)
  | 0xE6 => some (.eret f)
  | 0xE7 => some (if f.mod == 0 then .exit f else .exitDiscard f)
  | 0xE8 => some (.wait f)
  | 0xE9 => some (.qpost f)
  | 0xEA => some (if f.mod == 0 then .evsigAdd f else .evsigSet f)
  | 0xEB => some (.launch f)
  | 0xEC => some (.cfgw f)
  | 0xED => some (.cfgr f)
  | 0xEE => some (if f.mod == 0 then .cfgclrTile f else .cfgclrElem f)
  | 0xEF => some (.gbind f)
  | _ => none

/-- The instructions of the opcodes 0xF0 to 0xFF. -/
def instrOfF (r : Reader) (opc : Nat) (f : Form) : Option Instr :=
  match opc with
  | 0xFE => some (if f.mod == 0 then .bkptSet f else if f.mod == 1 then .bkptClr f else .bkptRes f)
  | 0xFB => some (.sigchk f)
  | 0xFC => some (.dgst f)
  | 0xFD => some (if f.mod == 0 then .crcMem f else .crcTile f)
  | 0xF0 => some (if f.mod == 0 then .grel f else .grelForce f)
  | 0xF1 => some (if f.mod == 0 then .barinitAlloc f else if f.mod == 1 then .barinitFree f else .barinitQuery f)
  | 0xF2 => some (if r = .drover then .bararr f else if f.mod = 0 then .bararrTok f else .bararrRnd f)
  | 0xF5 => some (if f.mod == 0 then .preemptSoft f else .preemptHard f)
  | 0xF3 => some (.ctxsave f)
  | 0xF4 => some (if f.mod == 0 then .ctxrestRun f else .ctxrestLoad f)
  | 0xF6 => some (if f.mod == 0 then .mapPa f else if f.mod == 1 then .mapZero f else .mapCopy f)
  | 0xF7 => some (if f.mod == 0 then .unmap f else .unmapDclr f)
  | 0xF8 => some (.migr f)
  | 0xF9 => some (if f.mod == 0 then .lnkcfgQuery f else if f.mod == 1 then .lnkcfgTrain f else if f.mod == 2 then .lnkcfgDown f else .lnkcfgRatio f)
  | 0xFA => some (if f.mod == 0 then .lnkaddStart f else if f.mod == 1 then .lnkaddStat f else .lnkaddCancel f)
  | _ => none

/-- The instruction that an opcode and its fields name, by the rows of the opcode table; `none` for
an unassigned opcode (R64, R65). -/
def instrOf (r : Reader) (opc : Nat) (f : Form) : Option Instr :=
  match opc / 16 with
  | 0 => instrOf0 opc f
  | 1 => instrOf1 opc f
  | 2 => instrOf2 opc f
  | 4 => instrOf4 opc f
  | 5 => instrOf5 opc f
  | 6 => instrOf6 opc f
  | 7 => instrOf7 opc f
  | 8 => instrOf8 opc f
  | 10 => instrOfA opc f
  | 11 => instrOfB opc f
  | 12 => instrOfC opc f
  | 13 => instrOfD opc f
  | 14 => instrOfE opc f
  | 15 => instrOfF r opc f
  | _ => none

/-- The instruction that a reader takes from a word, or why it takes none. The checks are made in
the order of R61: the opcode, bits 15:0, then the fields. -/
def decode (r : Reader) (w : W128) : Except BadWord Instr :=
  let opc := wordOpcode w
  if opc = 0 then .error .void
  else match opSpec opc with
  | none => .error .opcode
  | some _ =>
    if w.extractLsb' 0 16 ≠ 0 then .error .lowBits
    else match fieldCheck r opc (wordForm w) with
    | 0 => match instrOf r opc (wordForm w) with
      | some i => .ok i
      | none => .error .opcode
    | n => .error (badWordOf n)

/-- The word that sixteen bytes hold, least significant byte first (R5). -/
def wordOfBytes (bs : List Byte) : W128 := BitVec.ofNat 128 (ofBytes bs)

/-- The instruction at the head of a list of bytes, and the bytes behind it. -/
def decodeBytes (r : Reader) (bs : List Byte) : Except BadWord (Instr × List Byte) :=
  if bs.length < 16 then .error .truncated
  else match decode r (wordOfBytes (bs.take 16)) with
  | .ok i => .ok (i, bs.drop 16)
  | .error e => .error e

/-- The word of an opcode and its fields, laid out by R50. -/
def packWord (opc : Nat) (f : Form) : W128 :=
  BitVec.ofNat 8 opc ++ f.arity ++ f.tagop ++ f.mod ++ f.imm ++ f.tgt0 ++ f.tgt1 ++ f.msbase ++
    f.mslog ++ f.punct ++ f.pred ++ f.immp ++ (0 : BitVec 16)

/-- The word of an instruction; an event has none and gives the empty slot's word. -/
def encode (i : Instr) : W128 :=
  match i.parts with
  | some (opc, f) => packWord opc f
  | none => 0

/-- The instruction that the decoder reads from the bits `w` of a table row: sixteen bytes, the
first the least significant, read as a fabric slot's word or else as a drover core's. -/
def decodeTableWord (_nbits w : Nat) : Option Instr :=
  match decodeBytes .fabric (toBytes w 16) with
  | .ok (i, _) => some i
  | .error _ => match decodeBytes .drover (toBytes w 16) with
    | .ok (i, _) => some i
    | .error _ => none

end Sys2Proof
end

