-- ==== Sys2Proof/Machine/State.lean ====
section
/-! DEFINITION. The state of the SZ-1 as plain data: everything the spec gives the machine, and three
fields of the model's own (`tick`, `turn` and `unit`), which say which unit moves next. -/

namespace Sys2Proof.Machine

open Sys2Proof

/-! ## Tokens (R18 to R23) -/

/-- A token's kind (R23). -/
inductive Kind where
  | data
  | mark
  | stop
  | scale
  | reconf
  | relatch
  | err
  | reserved
  deriving DecidableEq, Repr, Inhabited

/-- A token's body and the sideband that travels with it everywhere (R18, R19). -/
structure Token where
  kind : Kind := .data
  value : W64 := 0
  tag : W64 := 0
  s : Bool := false
  round : BitVec 8 := 0
  ctx : BitVec 8 := 0
  deriving DecidableEq, Repr, Inhabited

/-- A physical destination: a slot's port, or a drover core's mailbox slot (R19, R356). -/
inductive Dest where
  | slot (tile elem slot port : Nat)
  | mailbox (core slot : Nat)
  deriving DecidableEq, Repr, Inhabited

/-- What emits a token: a slot's target field, a drover core, or another unit. Tokens of one source
to one destination form one channel (R27). -/
inductive Source where
  | slot (tile elem slot field : Nat)
  | core (n : Nat)
  | unit (key : Nat)
  deriving DecidableEq, Repr, Inhabited

/-- The networks that tokens travel on (R13): the two virtual networks of the token network, and the
scale network. -/
inductive Net where
  | vn0
  | vn1
  | scale
  deriving DecidableEq, Repr, Inhabited

/-- A token on its way: in an edge buffer of its tile, or on a network (R13, R25). -/
structure Flight where
  src : Source
  dst : Dest
  net : Net
  tok : Token
  /-- The step at which it was sent: the key of what its sender knew then (R426). -/
  step : Nat := 0
  deriving DecidableEq, Repr, Inhabited

/-! ## Requests (R174, R175) -/

/-- Who made a request and so takes its reply. -/
inductive Origin where
  | slot (tile elem slot : Nat)
  | core (n : Nat)
  deriving DecidableEq, Repr, Inhabited

/-- The units that serve requests, each from its own queue in order of arrival. -/
inductive Engine where
  | scratch (tile : Nat)
  | tagTable (tile : Nat)
  | memory (die : Nat)
  | stream (tile port : Nat)
  | circuit (tile : Nat)
  | matrix (tile : Nat)
  | ringPort (tile : Nat)
  | scan (tile : Nat)
  | summary (tile : Nat)
  | grammar (die n : Nat)
  | sampler (die n : Nat)
  | accept (die n : Nat)
  deriving DecidableEq, Repr, Inhabited

/-- A request, or a marker, `STOP` or `ERR` on a request channel (R49). `tag` is the firing's output
tag and `wave` its input tag T. -/
structure Req where
  instr : Instr
  origin : Origin
  kind : Kind := .data
  tag : W64 := 0
  wave : W64 := 0
  round : BitVec 8 := 0
  ctx : BitVec 8 := 0
  l : W64 := 0
  r : W64 := 0
  c : W64 := 0
  s : Bool := false
  /-- The coordinate tokens that an `MMAS` firing took (R232). -/
  coords : List Token := []
  /-- The block copied when the request was accepted (R198, R279, R289). -/
  blk : List Byte := []
  /-- A wave-ordered access that its predicate suppresses: it only sends its notice (R179). -/
  notice : Bool := false
  /-- The step that issued it. -/
  seq : Nat := 0
  deriving DecidableEq, Repr, Inhabited

/-- The states of a request to virtual memory (R175). -/
inductive ReqState where
  | translating
  | parked
  | held
  | performing
  deriving DecidableEq, Repr, Inhabited

/-- A request at a die's memory interface. -/
structure MemReq where
  req : Req
  state : ReqState := .translating
  /-- The virtual address, its low bits cleared below the width (R170). -/
  va : Nat := 0
  /-- The bytes accessed; 0 for a fence. -/
  width : Nat := 0
  /-- The translation (R175): the leaf's entry, its level and the entry's address. -/
  leaf : Nat := 0
  lvl : Nat := 3
  epa : Nat := 0
  /-- The step at which it reached the interface. -/
  at_ : Nat := 0
  /-- The step at which it parked: the parking order (R175, R325, R327). -/
  parkedAt : Option Nat := none
  /-- It has failed with a code, and its record waits for the fault queue (R324). -/
  failing : Option Nat := none
  deriving DecidableEq, Repr

/-- A position of a wave's chain, as the ordering buffers know it (R178, R179). -/
structure ChainPos where
  pred : Nat
  own : Nat
  succ : Nat
  /-- A `FENCE.W` position (R180). -/
  fence : Bool := false
  parked : Bool := false
  performed : Bool := false
  /-- Where it lies in the memory of its stack, and its bytes. -/
  loc : Nat := 0
  width : Nat := 0
  deriving DecidableEq, Repr, Inhabited

/-- A wave entry of the ordering buffers (R182), and the wave that it is linked from (R181). -/
structure Wave where
  ctx : BitVec 8
  tag : W64
  chain : List ChainPos := []
  link : Option W64 := none
  deriving DecidableEq, Repr, Inhabited

/-- A wave link on its way to the ordering buffers (R181). -/
structure LinkMsg where
  id : Nat
  ctx : BitVec 8
  src : W64
  dst : W64
  deriving DecidableEq, Repr, Inhabited

/-- An older value of a byte that a read may still return after a write on path `src` (R184): a read
on a path of the mask `dst` by a unit that `cleared` does not name; bits 31:16 are the paths' version caches (R381).
`tick` is the step of the write. -/
structure Stale where
  src : Nat
  /-- The unit that wrote: a tile, 16384 + core, or 32768 + die. -/
  unit : Nat := 0
  /-- The units, counters and arrivals that a chain leads to from the write (R426). -/
  known : List Nat := []
  dst : BitVec 32
  cleared : List Nat := []
  ctx : BitVec 8
  loc : Nat
  old : Byte
  tick : Nat
  deriving DecidableEq, Repr, Inhabited

/-- A write that a unit makes by itself, such as to a colour's entry or to a serai record, and that cannot be performed
yet (R377, R386): the path and unit, the context, the address and the bytes. -/
structure LateWrite where
  path : Nat
  unit : Nat
  ctx : BitVec 8
  va : Nat
  bytes : List Byte
  /-- A fault of it is recorded by the context controller (R155). -/
  noted : Bool := false
  deriving DecidableEq, Repr, Inhabited

/-! ## Elements (R28 to R48, R100 to R104) -/

/-- One value position of a matching-store entry (R30): absent, or a kind with its value. -/
structure Operand where
  kind : Option Kind := none
  value : W64 := 0
  s : Bool := false
  deriving DecidableEq, Repr, Inhabited

/-- The states of a matching-store entry. -/
inductive EntryState where
  | free
  | held
  | reserved
  deriving DecidableEq, Repr, Inhabited

/-- A matching-store entry (R30). `age` is that of its completing operand and `passed` the times
that it was passed over (R36). -/
structure Entry where
  state : EntryState := .free
  slot : Nat := 0
  l : Operand := {}
  r : Operand := {}
  c : Operand := {}
  tag : W64 := 0
  round : BitVec 8 := 0
  age : Nat := 0
  passed : Nat := 0
  deriving DecidableEq, Repr, Inhabited

/-- A token taken by the placement stage, with its slot, port and age (R28). `attempt` is the place
of its first attempt among the waiting allocations (R152, R229). -/
structure BufTok where
  slot : Nat
  port : Nat
  tok : Token
  age : Nat := 0
  passed : Nat := 0
  attempt : Option Nat := none
  deriving DecidableEq, Repr, Inhabited

/-- A ready pair in the serai latch (R33). `bucket` names the record of an expected `REORD` token or
of a `SCALE` operand, which is freed when it fires. -/
structure LatchPair where
  slot : Nat
  entry : Entry
  deriving DecidableEq, Repr, Inhabited

/-- A serai record (R32), with the slot it waits for and its address. -/
structure SeraiRec where
  slot : Nat
  port : Nat
  tok : Token
  age : Nat := 0
  /-- Its scratchpad or virtual address. -/
  addr : Nat := 0
  deriving DecidableEq, Repr, Inhabited

/-- A serai bucket (R31): the tile part's records, then the overflow list. -/
structure Bucket where
  tile : List SeraiRec := []
  overflow : List SeraiRec := []
  /-- Index of the oldest tile record in the bucket's part. -/
  head : Nat := 0
  /-- Its two register words as a restore wrote them, until its records change (R431). -/
  regs : Option (Nat × Nat) := none
  deriving DecidableEq, Repr, Inhabited

/-- An item of an output-queue entry: a token for a target field, or a request for a unit. `link`
names the wave link that it waits for (R181). -/
inductive OutItem where
  | token (field : Nat) (target : BitVec 22) (tok : Token) (link : Option Nat)
  | physical (field : Nat) (dst : Dest) (tok : Token)
  | returned (colour : Nat) (target : BitVec 22) (tok : Token)
  | request (req : Req)
  deriving DecidableEq, Repr

/-- An output-queue entry: the slot that fired and the items still to be sent (R38). -/
structure OutEntry where
  slot : Nat
  items : List OutItem
  deriving DecidableEq, Repr

/-- A marker that has reached a slot and is not yet acted on (R47): its port, its round, and its place
in the order of arrivals (R28). -/
structure MarkIn where
  port : Nat
  round : BitVec 8
  age : Nat
  deriving DecidableEq, Repr, Inhabited

/-- A `RECONF` or `RELATCH` token at the control stage, with its port and age. -/
structure ControlIn where
  port : Nat
  tok : Token
  age : Nat
  deriving DecidableEq, Repr, Inhabited

/-- A slot: its word, its breakpoint register (R348), and what its instruction keeps. -/
structure SlotState where
  word : Option Instr := none
  /-- Breakpoint register (R348). -/
  bval : W64 := 0
  bmask : W64 := 0
  /-- An `ARITY` 11 slot that has still to fire at kernel start (R51). -/
  start : Bool := false
  /-- Round register of `MARK` and `RNDQ` (R111). -/
  rr : BitVec 8 := 0
  /-- The count of `RNDQ`, the total of `ALIGN` or `COUNT`, `exp` of `REORD` (R431). -/
  count : W64 := 0
  /-- The first tag of `ALIGN` or `COUNT`, the key of `REORD` (R431). -/
  key : Option W64 := none
  /-- The markers that have arrived and are not yet acted on (R47). -/
  marks : List MarkIn := []
  /-- The last round whose marker was acted on; 255 before round 0 (R48). -/
  done : BitVec 8 := 255
  /-- The round whose `MARK` the slot still owes: its release is under way (R48, R111, R368). -/
  releasing : Option (BitVec 8) := none
  /-- `RECONF` and `RELATCH` tokens at the control stage, in their order of arrival (R47). -/
  control : List ControlIn := []
  /-- Coordinate buffer of an `MMAS` slot (R232). -/
  coords : List Token := []
  /-- Colours drawn by this `SPAWN` and not yet returned, with the round of the draw (R166). -/
  drawn : List (Nat × BitVec 8) := []
  deriving DecidableEq, Repr

/-- The states of an element (R101). -/
inductive ElemState where
  | fused
  | idle
  | configured
  | running
  | broken
  | halted
  | quiesced
  deriving DecidableEq, Repr, Inhabited

/-- A fabric element. -/
structure Element where
  state : ElemState := .idle
  slots : FMap SlotState := []
  entries : FMap Entry := []
  /-- Single-operand buffer of 8 (R28). -/
  buf : List BufTok := []
  latch : Option LatchPair := none
  buckets : FMap Bucket := []
  /-- Input queues of 8 tokens for virtual networks 0 and 1 (R28): slot, port and token. -/
  in0 : List (Nat × Nat × Token) := []
  in1 : List (Nat × Nat × Token) := []
  /-- Output queue of 4 (R38). -/
  out : List OutEntry := []
  /-- Arrival counter (R28). -/
  arrival : Nat := 0
  /-- Sticky flags (R84). -/
  flags : Flags := 0
  /-- Serai depth B and tile-part base (R31, R73). -/
  depth : Nat := 0
  base : Nat := 0
  /-- The slot of a held breakpoint pair (R350), and the pair's age. -/
  heldSlot : Nat := 0
  heldAge : Nat := 0
  /-- A pair that matched fires first after `BKPT.RES`, without a test (R352). -/
  skipBreak : Bool := false
  /-- Networks whose held head has had its `SERAI_FULL` recorded (R34). -/
  noted : List Net := []
  /-- Quiescing: it fires no more, and is QUIESCED once its output queue is empty (R101). -/
  stopping : Bool := false
  deriving DecidableEq, Repr

/-- An edge's buffer (R102, R103); `closing` holds the depths that `RECONF`s wait to set, in their order. -/
structure Edge where
  depth : Nat := 2
  initial : Nat := 2
  max : Nat := 2
  closing : List Nat := []
  deriving DecidableEq, Repr, Inhabited


/-! ## Tiles (R197 to R235, R268, R289) -/

/-- The states of a stream port (R200). -/
inductive PortState where
  | idle
  | latching
  | parked
  | running
  | done
  deriving DecidableEq, Repr, Inhabited

/-- A latched page (R201): its virtual base, its size in bytes, its leaf; `failed` for a part that
`FAILPG` failed. -/
structure Latch where
  va : Nat
  size : Nat
  leaf : W64
  failed : Bool := false
  deriving DecidableEq, Repr, Inhabited

/-- A stream port (R197 to R208). -/
structure Port where
  state : PortState := .idle
  /-- The opening command, with its waybill copy (R198) in `blk`. -/
  opener : Option Req := none
  /-- Markers of the opening instruction that wait for its reply (R49). -/
  held : List Req := []
  latches : List Latch := []
  /-- Rows complete, those that ended in `ERR`, and whether one did (R213). -/
  rows : Nat := 0
  errs : Bool := false
  /-- Rows complete of a gather or scatter, which complete in any order. -/
  doneRows : FMap Bool := []
  /-- Rows parked on an absent page (R208), with the page's address plus 1. -/
  rowWait : FMap Nat := []
  /-- A row whose fault record waits for the fault queue, with its code (R324). -/
  failing : Option (Nat × Nat) := none
  /-- The address that a `STRM` is parked on, and whether it was running. -/
  parkVa : Option Nat := none
  wasRunning : Bool := false
  /-- `SCLOSE.CUT` ended the stream (R200). -/
  cut : Bool := false
  /-- Opening reply sent (R212). -/
  replied : Bool := false
  /-- Dirty range: lowest and highest byte address written (R205). -/
  dirty : Option (Nat × Nat) := none
  /-- Page bases whose absence on the index array has been recorded (R208). -/
  noted : List Nat := []
  /-- Page bases whose protection or malformed-entry fault on the index array has been recorded (R208). -/
  badIndex : List Nat := []
  /-- The stack whose base die runs a gather or scatter: that of `IBASE` + offset at its opening (R208). -/
  stack : Nat := 0
  /-- `RELATCH` tokens waiting to be handled (R203). -/
  relatch : List Token := []
  /-- Parked on the absent page of a dirty-range deposit (R322). -/
  depositing : Bool := false
  /-- Restored as DONE: its window is latched again before its `SCLOSE` completes (R206). -/
  unlatched : Bool := false
  deriving DecidableEq, Repr

/-- The states of a ring slot (R217). -/
inductive RingSlot where
  | free
  | filling
  | full
  | reading
  deriving DecidableEq, Repr, Inhabited

/-- A ring descriptor with its slot states (R216, R217). -/
structure Ring where
  defined : Bool := false
  base : Nat := 0
  pb : Nat := 0
  cnt : Nat := 0
  head : Nat := 0
  tail : Nat := 0
  used : Nat := 0
  full : Nat := 0
  slots : FMap RingSlot := []
  /-- Producers that wait for a slot, in the order of their first attempt (R218), by key. -/
  waiters : List Nat := []
  /-- The slots, plus 1, that the head's advance gave to producers that waited, by key (R218). -/
  granted : FMap Nat := []
  deriving DecidableEq, Repr, Inhabited

/-- An accumulator (R223): 64 FP32 values, value (i, j) at 8i + j, and its owner. -/
structure Acc where
  vals : FMap W64 := []
  owner : Option W64 := none
  deriving DecidableEq, Repr, Inhabited

/-- A circuit at its source tile (R209, R210). -/
structure Circuit where
  bound : Bool := false
  route : Nat := 0
  /-- Transfers queued; the head is in progress. -/
  queue : List Req := []
  /-- The destination slot that a `CIRCX` has reserved (R210). -/
  slot : Option Nat := none
  /-- Granules of the head that were sent, and granules written at the destination. -/
  sent : Nat := 0
  landed : Nat := 0
  /-- A granule that has been read and emptied, and waits for a credit (R210). -/
  held : Option Nat := none
  /-- Granules on their way: destination address and data. -/
  flight : List (Nat × Nat) := []
  deriving DecidableEq, Repr

/-- A tile: its group and role, its elements, its scratchpad and its engines. -/
structure Tile where
  group : Option Nat := none
  role : Nat := 0
  /-- Held until its zeroing is done (R358). -/
  zeroing : Bool := false
  elems : FMap Element := []
  /-- Scratchpad bytes (R169); an unlisted byte is zero (R171). -/
  mem : FMap Byte := []
  /-- Full/empty bits of the 4,096 granules (R171). -/
  full : FMap Bool := []
  /-- Tag table lines (R173); an unlisted entry is invalid (all ones). -/
  tags : FMap Nat := []
  /-- Edges by producer: element * 64 + slot * 2 + field (R102). -/
  edges : FMap Edge := []
  ports : FMap Port := []
  rings : FMap Ring := []
  accs : FMap Acc := []
  /-- Matrix engine flags (R223). -/
  engFlags : Flags := 0
  circuits : FMap Circuit := []
  /-- Requests waiting on full/empty bits at the scratchpad port (R172). -/
  waiting : List Req := []
  /-- `PART` of the summary unit (R257). -/
  part : BitVec 128 := 0
  /-- `.live` ranges of the image (R341): base and length. -/
  live : List (Nat × Nat) := []
  deriving DecidableEq, Repr

/-! ## Drover cores (R116 to R129) -/

/-- A command in the scoreboard (R123). `port` is the key of its engine port. -/
structure Cmd where
  req : Req
  port : Nat
  issued : Bool := false
  deriving DecidableEq, Repr

/-- What a drover core keeps while a word of several steps waits. -/
inductive Pending where
  | none
  /-- The word was fetched past the breakpoints, and waits (R126). -/
  | fetched
  /-- A reply that has arrived for the waiting word. -/
  | reply (v : W64)
  /-- A request has been sent, at a step, and its reply is awaited. -/
  | sent (seq : Nat)
  /-- A command that must leave the scoreboard first. -/
  | timed (ticks : Nat)
  /-- A result that waits on, in the second part of a word (R385, R386). -/
  | late (v : W64)
  /-- A barrier has released the core's arrival, and the release is on its way (R364): the result, the barrier's die, and the
  step of the release. -/
  | released (v : W64) (die step : Nat)
  deriving DecidableEq, Repr, Inhabited

/-- A drover core. -/
structure Core where
  pc : BitVec 12 := 0
  /-- `x1` to `x31`; `x0` reads zero (R116). -/
  x : FMap W64 := []
  dmem : FMap Byte := []
  code : FMap W128 := []
  /-- `STATUS` (R119): bits `HALT`, `PPRIV`, `HND`, `PRIV`. -/
  status : W64 := 1
  flags : Flags := 0
  epc : W64 := 0
  ecause : W64 := 0
  evec : W64 := 0
  erec : W64 := 0
  cycle : W64 := 0
  ctxid : W64 := 0
  exitw : W64 := 0
  bkpc : FMap W64 := []
  bkctl : W64 := 0
  mbox : FMap (List Token) := []
  /-- The rounds whose marker each mailbox slot has stored, of those that are not drained (R45). -/
  marked : FMap (List (BitVec 8)) := []
  cmds : List Cmd := []
  /-- The group that it serves (R355). -/
  group : Option Nat := none
  /-- It fetches and executes words. -/
  running : Bool := false
  /-- A program has been started and has not yet retired (R129). -/
  active : Bool := false
  wait : Pending := .none
  /-- The commands that an `EXIT.DISCARD` at a word has dropped, while a handler interrupts its wait (R127, R129). -/
  discard : Option (BitVec 12 × Nat) := none
  deriving DecidableEq, Repr

/-! ## Faults (R321 to R324, R430) -/

/-- A fault record (R321). `unit` is the 22-bit `UNIT` field; `val` and `aux` are `none` where the spec
states no value for the fault. -/
structure FaultRec where
  code : Nat
  own : Bool := false
  ukind : Nat := 0
  unit : Nat := 0
  ctx : BitVec 8 := 0
  tag : W64 := 0
  val : Option W64 := none
  aux : Option W64 := none
  deriving DecidableEq, Repr, Inhabited

/-- A record on its way to a context's fault queue; `elem` names the element whose outputs it holds
back (R324). -/
structure PendFault where
  rcd : FaultRec
  elem : Option (Nat × Nat) := none
  deriving DecidableEq, Repr, Inhabited

/-! ## Contexts (R317 to R329) and colours (R154 to R157) -/

/-- The states of a context (R318). -/
inductive CtxState where
  | free
  | building
  | ready
  | running
  | draining
  | saved
  | faulted
  | dead
  deriving DecidableEq, Repr, Inhabited

/-- The states of a colour (R155). -/
inductive ColState where
  | free
  | held
  | launch
  deriving DecidableEq, Repr, Inhabited

/-- A colour's entry (R155), with the group and the round of the draw. -/
structure Colour where
  state : ColState := .free
  caller : W64 := 0
  ret : BitVec 22 := 0
  tile : Nat := 0
  elem : Nat := 0
  slot : Nat := 0
  group : Nat := 0
  round : BitVec 8 := 0
  deriving DecidableEq, Repr, Inhabited

/-- A `SPAWN` firing that waits at the context controller (R156, R166). `drew` is the colour whose
entry is still to be written (R155). -/
structure SpawnWait where
  tile : Nat
  elem : Nat
  slot : Nat
  tag : W64
  round : BitVec 8
  l : Token
  r : Option Token
  drew : Option Nat := none
  /-- The code of the fault that its entry met, while its `ERR` waits for room in the output queue (R38, R155). -/
  failed : Option Nat := none
  deriving DecidableEq, Repr, Inhabited

/-- What a save holds of a group (R328): its tiles by role, its drover core, and what they had under way. Tiles
and cores are named as they were at the save; a restore renames them. -/
structure GroupImage where
  group : Nat
  tiles : List (Nat × Tile) := []
  core : Core := {}
  /-- How many requests were withdrawn from it or queued at the engines (R327, R328). -/
  requests : Nat := 0
  /-- Register words that are still to be written, from bytes that no save of the device wrote: role, element, index and
  word (R431). -/
  words : List (Nat × Nat × Nat × Nat) := []
  /-- Tokens of delay lines and edges (R104). -/
  flights : List Flight := []
  /-- Waiting `SPAWN`s. -/
  spawns : List SpawnWait := []
  deriving DecidableEq, Repr, Inhabited

/-- What a save holds of the context (R328): the parts that a restore rebuilds. -/
structure SaveImage where
  hard : Bool
  fsave : Bool
  oldRound : BitVec 8 := 0
  len : Nat := 0
  groups : List GroupImage := []
  /-- Withdrawn requests (R327), and the queued requests of each engine in their order. -/
  reqs : List MemReq := []
  queues : List (Engine × List Req) := []
  /-- Wave entries and links of the withdrawn requests (R327). -/
  waves : List Wave := []
  links : List LinkMsg := []
  deriving DecidableEq, Repr, Inhabited

/-- A copy of a save area that `CTXSAVE` or `CTXREST` has started and that waits (R329): whether it saves, whether a restore
follows, the event counter to raise, with its context, and the buffer. -/
structure CtxJob where
  save : Bool
  run : Bool := false
  event : Nat × Nat
  buffer : Nat
  deriving DecidableEq, Repr, Inhabited

/-- A context. -/
structure Ctx where
  state : CtxState := .free
  saved1 : Bool := false
  fsave : Bool := false
  hsave : Bool := false
  drovf : Bool := false
  /-- The registers 0x102 to 0x11F (R317) by address. -/
  regs : FMap W64 := []
  colours : FMap Colour := []
  spawns : List SpawnWait := []
  /-- Free overflow records of the HBM serai, by index (R31, R325). -/
  seraiFree : List Nat := []
  /-- An append to the fault queue met a fault and is held (R324). -/
  appendHeld : Bool := false
  save : Option SaveImage := none
  /-- What its earlier saves held, the newest first: what the bytes of a save area denote. -/
  images : List SaveImage := []
  /-- Event counters to be incremented when the context is SAVED (R329): context and counter. -/
  saveEvents : List (Nat × Nat) := []
  /-- A restore that waits for its groups to be placed (R357), with its events. -/
  restoring : Option (List (Nat × Nat)) := none
  /-- The copies of its save area that wait, the oldest first (R329). -/
  jobs : List CtxJob := []
  /-- The hard save has begun, and whether from FAULTED (R320, R327). -/
  saving : Option Bool := none
  /-- The pre-emption is the scheduler's (R336): the kernel's priority, and its place in the order. -/
  bySched : Option (Nat × Nat) := none
  deriving DecidableEq, Repr

/-! ## Groups and kernels (R345 to R347, R354 to R358) -/

/-- The states of a group (R354). -/
inductive GroupState where
  | free
  | bound
  | running
  | unplaced
  | zeroing
  deriving DecidableEq, Repr, Inhabited

/-- The states of a kernel (R345). -/
inductive KernelState where
  | none
  | loading
  | loaded
  | running
  | suspended
  | ended
  | refused
  deriving DecidableEq, Repr, Inhabited

/-- What started a kernel: a queue record, at its virtual address, or `LAUNCH` on a core with the
record in its data memory (R339). -/
inductive Launcher where
  | queue (q : Nat) (addr : Nat)
  | core (n : Nat) (addr : Nat)
  deriving DecidableEq, Repr, Inhabited

/-- A kernel on its group. -/
structure Kernel where
  state : KernelState := .none
  launcher : Launcher := .queue 0 0
  image : Nat := 0
  args : Nat := 0
  saddr : Nat := 0
  prio : Nat := 0
  nopre : Bool := false
  lcol : Nat := 0
  entry : Nat := 0xFFFF
  /-- The place in the order of starts (R336). -/
  started : Nat := 0
  /-- The moment at which its record's wait on a counter was met (R337). -/
  met : Option Nat := none
  /-- Sinks of the image (R45). -/
  sinks : Nat := 0
  /-- The rings that the image defines, with their tiles (R346). -/
  rings : List (Nat × Nat) := []
  /-- Notices counted per round, the oldest undrained round and the latest round started (R45). -/
  notices : FMap Nat := []
  oldest : BitVec 8 := 0
  latest : Option (BitVec 8) := none
  /-- How many rounds have started: the latest round without its reduction mod 256, plus 1 (R44). -/
  rounds : Nat := 0
  /-- The drover program has retired (R347), with its `EXITW`. -/
  retired : Bool := false
  exitw : W64 := 0
  deriving DecidableEq, Repr, Inhabited

/-- A group (R354). -/
structure Group where
  state : GroupState := .free
  origin : Nat := 0
  core : Nat := 0
  ctx : BitVec 8 := 0
  gw : Nat := 0
  gh : Nat := 0
  roles : Nat := 0
  /-- Role to physical tile. -/
  manifest : FMap Nat := []
  kernel : Kernel := {}
  /-- The group ran an earlier kernel (R343). -/
  ran : Bool := false
  deriving DecidableEq, Repr, Inhabited

/-- A sink's notice to the context controller (R45). -/
structure Notice where
  group : Nat
  round : BitVec 8
  deriving DecidableEq, Repr, Inhabited

/-! ## Queues (R330 to R337) -/

/-- A signal on its way through the arbiter (R337): the record's result, then the counter. -/
structure Signal where
  ctx : BitVec 8
  launcher : Launcher
  saddr : Nat := 0
  exit : Nat := 0
  /-- `DONE`, `FAIL` and `FCODE`, bits 15:8 of the record. -/
  status : Nat := 0x80
  /-- The group whose kernel ended. -/
  group : Option Nat := none
  /-- 0: the record is to be written; 1: the counter is to be raised. -/
  stage : Nat := 0
  /-- It waits for an absent page, which is recorded. -/
  waitVa : Option Nat := none
  deriving DecidableEq, Repr, Inhabited

/-- What the scheduler keeps of a queue beside its descriptor in memory (R334 to R336). -/
structure QueueInfo where
  /-- The group of the record that it last started, while that has not yet ended and signalled (R334). -/
  inFlight : Option Nat := none
  /-- The head lies on an absent page that was recorded (R333). -/
  absent : Option Nat := none
  /-- The head failed to be placed, and its count runs (R336). -/
  counting : Bool := false
  deriving DecidableEq, Repr, Inhabited

/-! ## Barriers (R360 to R363) -/

/-- An arrival record: a fabric slot's reply target with its group, or a drover core. -/
structure Arrival where
  /-- The barrier's handle. -/
  handle : Nat := 0
  core : Option Nat := none
  group : Nat := 0
  tile : Nat := 0
  elem : Nat := 0
  slot : Nat := 0
  target : BitVec 22 := 0
  tag : W64 := 0
  round : BitVec 8 := 0
  ctx : BitVec 8 := 0
  /-- The round arrived at. -/
  at_ : BitVec 8 := 0
  /-- The step at which it arrived: the key of what is known before it (R365), and of the wait of its core. -/
  step : Nat := 0
  /-- It has failed with a code, and its record waits for the fault queue (R324, R363). -/
  failed : Option Nat := none
  deriving DecidableEq, Repr, Inhabited

/-- A barrier entry (R360): FREE when `n` is 0. -/
structure Barrier where
  ctx : BitVec 8 := 0
  cur : BitVec 8 := 0
  n : Nat := 0
  cnt : Nat := 0
  held : Nat := 0
  records : List Arrival := []
  deriving DecidableEq, Repr, Inhabited

/-! ## Links, lanes and adders (R387 to R399) -/

/-- The states of a link (R388). -/
inductive LinkState where
  | down
  | training
  | up
  | retraining
  | failed
  deriving DecidableEq, Repr, Inhabited

/-- A link with its counters. -/
structure Link where
  state : LinkState := .down
  replay : Nat := 0
  retrain : Nat := 0
  /-- The step at which it left UP to train again, while the traffic of before waits (R388). -/
  left : Option Nat := none
  deriving DecidableEq, Repr, Inhabited

/-- The lane states of a pseudo-channel (R395). -/
inductive LaneState where
  | own
  | lending
  | lent
  | reclaiming
  deriving DecidableEq, Repr, Inhabited

/-- A pseudo-channel: lanes, ratio (R394) and refreshes (R396). -/
structure Lane where
  state : LaneState := .own
  /-- 0 for 16:16, 1 for 24:8, 2 for 28:4. -/
  ratio : Nat := 1
  lend : Bool := false
  /-- The ratio changes that wait, the oldest first: the core whose `LNKCFG` asks, the ratio and the lend bit. -/
  wants : List (Nat × Nat × Bool) := []
  /-- Postponed refreshes of each bank. -/
  postponed : FMap Nat := []
  deriving DecidableEq, Repr, Inhabited

/-- A chain-reduction adder (R397 to R402). -/
structure Adder where
  src : Nat := 0
  dst : Nat := 0
  count : Nat := 0
  chain : Nat := 0
  inn : Nat := 0xFF
  out : Nat := 0xFF
  type : Nat := 0
  ctx : BitVec 8 := 0
  event : Nat := 0
  running : Bool := false
  ended : Bool := false
  failed : Bool := false
  flags : Flags := 0
  beats : Nat := 0
  /-- Named by a `START` since power-up. -/
  used : Bool := false
  /-- The absent page that it waits for, which is recorded, and whether `FAILPG` failed it. -/
  waitVa : Option Nat := none
  pageFailed : Bool := false
  /-- The adder that its stream goes to has ended failed: what it sends is discarded. -/
  cut : Bool := false
  deriving DecidableEq, Repr, Inhabited

/-- A beat or an abort on a link, towards a die (R398, R399). -/
structure Beat where
  link : Nat
  die : Nat
  chain : Nat
  abort : Bool := false
  data : Nat := 0
  deriving DecidableEq, Repr, Inhabited

/-! ## Start and management (R403 to R411) -/

/-- A start log record (R405). -/
structure StartRec where
  boot : Nat
  step : Nat
  out : Nat
  code : Nat := 0
  detail : Nat := 0
  deriving DecidableEq, Repr, Inhabited

/-- The states of the device's start (R403). -/
inductive StartState where
  | cold
  | stopped
  | serving
  deriving DecidableEq, Repr, Inhabited

/-- An image that a start runs, with its signature block and the public key that comes with it (R340, R404, R406). -/
structure StageImage where
  bytes : List Byte
  sig : List Byte
  key : Nat × Nat
  deriving DecidableEq, Repr, Inhabited

/-- A control-mode program that management firmware places on a drover core (R420). -/
structure Firmware where
  core : Nat
  ctx : BitVec 8
  evec : BitVec 12
  code : List W128
  deriving DecidableEq, Repr, Inhabited

/-- The management core's state and the module's flash and fuses. -/
structure Management where
  start : StartState := .cold
  boot : Nat := 0
  /-- The start log, oldest first, at most 4,096 records. -/
  log : List StartRec := []
  /-- Steps that run by their alternative in every later start (R405). -/
  alternative : List Nat := []
  /-- Fused-off elements: tile * 16 + element (R101). -/
  fused : FMap Bool := []
  /-- Slots that the fuse map marks bad: (tile * 16 + element) * 32 + slot. -/
  badSlots : FMap Bool := []
  /-- The secure-launch fuse (R408). -/
  secure : Bool := false
  /-- Signature key slots: a P-521 public key (R353). -/
  sigKeys : FMap (Nat × Nat) := []
  /-- Context key slots: an AES-256 key plus 1, or 0 for an empty slot (R380). -/
  ctxKeys : FMap Nat := []
  /-- Stacks marked failed (R403 step 4). -/
  badStacks : FMap Bool := []
  /-- Measurement list: SHA-512 digests in run order (R407). -/
  measured : List Nat := []
  /-- Management fault log (R430) and its count of overwritten records. -/
  faults : List FaultRec := []
  lost : Nat := 0
  /-- Power limit in force (R409): 0 none, 1 three of four, 2 one of two. -/
  limit : Nat := 0
  /-- Samples in a row above 2,200 W. -/
  overCount : Nat := 0
  /-- Telemetry counters, which saturate (R410, R411). -/
  counters : FMap Nat := []
  /-- What the management port last answered (R403, R407, R410). -/
  answer : List Byte := []
  deriving DecidableEq, Repr

/-! ## The machine -/

/-- The unit whose turn is next: a drover core, an element, a serving unit, or an event. -/
inductive Turn where
  | core (n : Nat)
  | elem (tile elem : Nat)
  | engine (e : Engine)
  | event (i : Instr)
  deriving DecidableEq, Repr, Inhabited

/-- A firing (R36, R39): the slot, its operands with immediates supplied, the tag T, the round, and
the coordinate tokens taken. `marker` for a firing on a marker (R48), `start` for an `ARITY` 11 slot
at kernel start. -/
structure Firing where
  tile : Nat
  elem : Nat
  slot : Nat
  l : Operand := {}
  r : Operand := {}
  c : Operand := {}
  tag : W64 := 0
  round : BitVec 8 := 0
  marker : Bool := false
  start : Bool := false
  coords : List Token := []
  deriving DecidableEq, Repr

/-- The unit that executes the instruction of this step. -/
inductive UnitCtx where
  | idle
  | core (n : Nat)
  | slot (f : Firing)
  | engine (e : Engine) (r : Req)
  deriving DecidableEq, Repr

/-- Why a step stops. -/
inductive Fault where
  /-- Raised by an instruction that is executed outside every unit that can execute it: no core, no
  slot and no engine holds it. No step of the machine raises it, because a step names the unit
  first. Safe: the machine stops where the hardware has no such case. -/
  | noUnit
  deriving DecidableEq, Repr

/-- Why the model refuses a step. -/
inductive Refusal where
  /-- The instruction has no meaning in the model. Raised by an arm of `exec` only. Safe. -/
  | notModelled (mnemonic : String)
  deriving DecidableEq, Repr

/-- The state of the device. -/
structure State where
  /-- Main memory by physical address (R372). -/
  mem : FMap Byte := []
  tiles : FMap Tile := []
  cores : FMap Core := []
  ctxs : FMap Ctx := []
  groups : FMap Group := []
  /-- Tokens in edge buffers and on the networks, oldest first (R25, R27). -/
  net : List Flight := []
  /-- Requests to virtual memory, oldest first (R175). -/
  reqs : List MemReq := []
  /-- Queues of the serving units, by `engineKey`. -/
  queues : FMap (List Req) := []
  /-- Units whose head request waits for an absent page, at its address (R256, R290). -/
  parked : List (Engine × Nat) := []
  /-- Wave entries of the ordering buffers (R182) and links on their way (R181). -/
  waves : List Wave := []
  iterLinks : List LinkMsg := []
  /-- Older values that reads on other paths may still return (R184). -/
  stale : List Stale := []
  /-- Records on their way to the fault queues (R324). -/
  pend : List PendFault := []
  notices : List Notice := []
  /-- Barriers by handle (R360), and arrivals on the network. -/
  barriers : FMap Barrier := []
  arrivals : List Arrival := []
  /-- The 64-byte lines of main memory that a scrub has found uncorrectable (R410). -/
  badLines : FMap Bool := []
  /-- Writes of the units' own that cannot be performed yet, oldest first. -/
  late : List LateWrite := []
  /-- Where the group table lies (R354). -/
  gtab : Nat := 2 ^ 39 - 4096 * 2112
  /-- Queue table address (R330) and what the scheduler keeps. -/
  qtab : Nat := 0
  qinfo : FMap QueueInfo := []
  signals : List Signal := []
  /-- The queue last started at each priority, plus 1 (R335). -/
  lastQueue : FMap Nat := []
  links : FMap Link := []
  lanes : FMap Lane := []
  adders : FMap Adder := []
  beats : List Beat := []
  /-- Apertures of the peer links (R392): base and size. -/
  apertures : FMap (Nat × Nat) := []
  mgmt : Management := {}
  /-- Numbers handed out: requests, links and starts. -/
  seq : Nat := 0
  /-- The model's own: steps taken, whose turn is next, and the unit that executes. -/
  tick : Nat := 0
  turn : Turn := .event .powerUp
  unit : UnitCtx := .idle
  deriving DecidableEq, Repr

/-- The machine right after reset (R403): every register, SRAM, context, barrier and group at its
reset value. -/
def State.reset : State := {}

end Sys2Proof.Machine
end

