-- ==== Sys2Proof/Config.lean ====
section
/-! DEFINITION. The free values: constants without a body, so that no proof can see what they are. A
claim about the machine holds whatever they are. -/

namespace Sys2Proof.Config

open Sys2Proof Sys2Proof.Machine

/-- Whose turn follows step `tick`: the spec orders the units only by its rules (R426). -/
opaque nextTurn : Nat → Turn
/-- The step as of which a read at step `tick` of the eight bytes `loc` sees the writes of other paths
(R170, R184). -/
opaque viewTick : Nat → Nat → Nat
/-- A byte that a host or peer window answers at step `tick` (R392). -/
opaque windowByte : Nat → Nat → Byte
/-- Whether the peer refuses an access as outside its aperture (R392). -/
opaque peerRefuses : Nat → Nat → Bool
/-- A byte of a part of a save record whose inner layout the spec does not give (R328): it depends on what is saved of
the group, the role (0x3FF for the drover core) and the part. -/
opaque saveByte : GroupImage → Nat → Nat → Nat → Byte
/-- The image that the bytes of a save area denote (R328, R329). -/
opaque imageOf : List Byte → SaveImage
/-- Whether a step of the start passes, by start number, step and unit (R403). -/
opaque startPasses : Nat → Nat → Nat → Bool
/-- The first-stage image that a start finds in a flash slot: 0 slot A, 1 slot B (R404). -/
opaque firstStage : Nat → Nat → StageImage
/-- The second-stage image that reaches a start from a source: 0 the host through BAR2, 1 storage (R406). -/
opaque secondStage : Nat → Nat → StageImage
/-- The SHA-512 digest of Valjor's public key in the ROM (R404). -/
opaque romDigest : List Byte
/-- The device identity key, before it is brought into its range (R407). -/
opaque identityKey : Nat
/-- What a signature at a step takes as its secret number, before it is brought into its range (R407). -/
opaque signNonce : Nat → Nat → Nat
/-- The bytes of the fuse map (R403, R407). -/
opaque fuseMap : List Byte
/-- The programs that management firmware places on drover cores when the device begins to serve (R420). -/
opaque firmware : List Firmware
/-- How far a telemetry counter has come at a step (R410). -/
opaque counted : Nat → Nat → Nat
/-- Where management firmware puts the queue table (R330). -/
opaque queueTable : Nat
/-- The keys that the start loads (R403 step 6); slot 1 holds the identity public key instead (R407). -/
opaque sigKey : Nat → Option (Nat × Nat)
/-- The context keys that the start loads. -/
opaque ctxKey : Nat → Option Nat
/-- Apertures that management firmware sets for the peer links (R392): base and size. -/
opaque aperture : Nat → Nat × Nat
/-- Module power in watts at a sample (R409). -/
opaque power : Nat → Nat
/-- Whether memory answers step `tick` with an uncorrectable error (R175, R410). -/
opaque spoiled : Nat → Bool
/-- What a fault record written at a step holds in `VAL` where the spec states no value (R321). -/
opaque openVal : Nat → W64
/-- And in `AUX`. -/
opaque openAux : Nat → W64
/-- Cycles that passed on a core's clock before step `tick` (R118). -/
opaque cyclesPassed : Nat → W64
/-- Whether a circuit's step sends a granule, or else lands one (R210). -/
opaque circuitSends : Nat → Bool
/-- What management firmware writes at a step to a register that an event names without a value (R325). -/
opaque firmwareValue : Nat → W64
/-- The elements that the fuse map names, tile * 16 + element, and the slots that it marks bad (R403). -/
opaque fusedElements : List Nat
/-- The bad slots: (tile * 16 + element) * 32 + slot. -/
opaque badSlots : List Nat
/-- The secure-launch fuse (R408). -/
opaque secureFuse : Bool
/-- A bank is busy when its refresh falls due at a step (R396). -/
opaque bankBusy : Nat → Bool
/-- Postponed refreshes that an idle bank keeps at a step (R396). -/
opaque refreshesKept : Nat → Nat
/-- The value of a `STOP` that a firing emits, or a unit forwards, at a step (R40, R49). -/
opaque stopValue : Nat → W64
/-- The tag source operand at a step where the highest declared port holds no operand (R146). -/
opaque openSource : Nat → W64
/-- The version of a buffer whose place in the version table is itself encrypted with a version that the table holds
encrypted (R380, R381). -/
opaque openVersion : Nat → Nat
/-- Lanes in use on a link, and in total on a die edge (R401). -/
opaque lanesOf : Nat → Nat × Nat
/-- Whether, at a step, an access of a unit that works waits for a pseudo-channel (R395). -/
opaque unitAsks : Nat → Nat → Bool
/-- The pseudo-channel of its stack that serves a physical address, taken mod 64 (R393). -/
opaque channelOf : Nat → Nat

end Sys2Proof.Config
end

