-- ==== Sys2Proof/Machine/Crypto.lean ====
section
/-! DEFINITION. The public algorithms that the spec names: Philox4x32-10 (R300), CRC-32C (R353),
AES-256 (FIPS 197, R380), SHA-512 (FIPS 180-4) and ECDSA over P-521 (FIPS 186-5, R353). -/

namespace Sys2Proof.Machine

open Sys2Proof

/-! ## Philox (R300) -/

/-- `n` rounds of Philox on four 32-bit counters with a two-word key. -/
def philoxGo : Nat → Nat × Nat → Nat × Nat × Nat × Nat → Nat × Nat × Nat × Nat
  | 0, _, c => c
  | n + 1, (k0, k1), (c0, c1, c2, c3) =>
    let p := 0xD2511F53 * c0
    let q := 0xCD9E8D57 * c2
    philoxGo n ((k0 + 0x9E3779B9) % 2 ^ 32, (k1 + 0xBB67AE85) % 2 ^ 32)
      ((q / 2 ^ 32) ^^^ c1 ^^^ k0, q % 2 ^ 32, (p / 2 ^ 32) ^^^ c3 ^^^ k1, p % 2 ^ 32)

/-- Philox4x32-10 (R300). -/
def philox (key c0 c1 c2 c3 : Nat) : Nat × Nat × Nat × Nat :=
  philoxGo 10 (key % 2 ^ 32, key / 2 ^ 32 % 2 ^ 32) (c0, c1, c2, c3)

/-! ## CRC-32C (R353) -/

/-- `n` reflected steps of the register. -/
def crcBits : Nat → Nat → Nat
  | 0, r => r
  | n + 1, r => crcBits n (if r % 2 = 1 then (r / 2) ^^^ 0x82F63B78 else r / 2)

/-- CRC-32C of bytes after an earlier result (R353): the register starts at its complement. -/
def crc32c (init : Nat) (bs : List Byte) : Nat :=
  (bs.foldl (fun r b => crcBits 8 (r ^^^ b.toNat)) (init ^^^ 0xFFFFFFFF)) ^^^ 0xFFFFFFFF

/-! ## AES-256 (R380) -/

/-- Multiply by x in the field of FIPS 197. -/
def aesX (a : Nat) : Nat := if a < 128 then 2 * a else (2 * a - 256) ^^^ 0x1B

/-- Multiply in the field, over the low `n` bits of `b`. -/
def aesMul : Nat → Nat → Nat → Nat
  | 0, _, _ => 0
  | n + 1, a, b => (if b % 2 = 1 then a else 0) ^^^ aesMul n (aesX a) (b / 2)

/-- `a` to the power 254, the inverse, by squarings: a^2 * a^4 * … * a^128. -/
def aesInvGo : Nat → Nat → Nat → Nat
  | 0, _, acc => acc
  | n + 1, a, acc => let s := aesMul 8 a a; aesInvGo n s (aesMul 8 acc s)

/-- The substitution of a byte. -/
def aesSub (a : Nat) : Nat :=
  let i := aesInvGo 7 a 1
  let r := fun k => (i * 2 ^ k % 256) ||| (i / 2 ^ (8 - k))
  i ^^^ r 1 ^^^ r 2 ^^^ r 3 ^^^ r 4 ^^^ 0x63

/-- Substitution of the four bytes of a word. -/
def aesSubWord (w : List Nat) : List Nat := w.map aesSub

/-- One round of bytes: substitution and row shifts; byte `r + 4c` is row `r`, column `c`. -/
def aesShift (st : List Nat) : List Nat :=
  (List.range 16).map fun i => aesSub (st.getD ((i + 4 * (i % 4)) % 16) 0)

/-- The column mix. -/
def aesMix (st : List Nat) : List Nat :=
  (List.range 16).map fun i =>
    let b := fun r => st.getD (i / 4 * 4 + (i % 4 + r) % 4) 0
    aesX (b 0) ^^^ (aesX (b 1) ^^^ b 1) ^^^ b 2 ^^^ b 3

/-- Exclusive or of byte lists. -/
def xorBytes (a b : List Nat) : List Nat := List.zipWith (· ^^^ ·) a b

/-- The next eight words of the key schedule, as 32 bytes. -/
def aesNextKey (rcon : Nat) (k : List Nat) : List Nat :=
  let w := fun i => (k.drop (4 * i)).take 4
  let t := aesSubWord ((w 7).drop 1 ++ (w 7).take 1)
  let w0 := xorBytes (w 0) (xorBytes t [rcon, 0, 0, 0])
  let w1 := xorBytes (w 1) w0
  let w2 := xorBytes (w 2) w1
  let w3 := xorBytes (w 3) w2
  let w4 := xorBytes (w 4) (aesSubWord w3)
  let w5 := xorBytes (w 5) w4
  let w6 := xorBytes (w 6) w5
  let w7 := xorBytes (w 7) w6
  w0 ++ w1 ++ w2 ++ w3 ++ w4 ++ w5 ++ w6 ++ w7

/-- The key schedule: `n` blocks of eight words. -/
def aesKeys : Nat → Nat → List Nat → List Nat
  | 0, _, _ => []
  | n + 1, rcon, k => k ++ aesKeys n (aesX rcon) (aesNextKey rcon k)

/-- Rounds after the first key: `n` rounds remain, the last without the column mix. -/
def aesRounds : Nat → List Nat → List Nat → List Nat
  | 0, _, st => st
  | n + 1, ks, st =>
    let t := aesShift st
    aesRounds n (ks.drop 16) (xorBytes (if n = 0 then t else aesMix t) (ks.take 16))

/-- Big-endian bytes of a number. -/
def bigEndian (n v : Nat) : List Nat := (List.range n).map fun i => v / 256 ^ (n - 1 - i) % 256

/-- The number of big-endian bytes. -/
def ofBigEndian (bs : List Nat) : Nat := bs.foldl (fun a b => a * 256 + b) 0

/-- AES-256 of a 16-byte block under a 256-bit key, both read big-endian. -/
def aes256 (key block : Nat) : List Nat :=
  let ks := aesKeys 8 1 (bigEndian 32 key)
  aesRounds 14 (ks.drop 16) (xorBytes (bigEndian 16 block) (ks.take 16))

/-! ## SHA-512 (R340, R353) -/

/-- Integer cube root by bits: the largest r with r^3 ≤ n. -/
def icbrtGo : Nat → Nat → Nat → Nat
  | 0, r, _ => r
  | k + 1, r, n => let c := r + 2 ^ k; icbrtGo k (if c * c * c ≤ n then c else r) n

/-- Integer square root by bits. -/
def isqrtBits : Nat → Nat → Nat → Nat
  | 0, r, _ => r
  | k + 1, r, n => let c := r + 2 ^ k; isqrtBits k (if c * c ≤ n then c else r) n

/-- A number has no divisor from 2 on, for `k` candidates. -/
def noDivisor : Nat → Nat → Nat → Bool
  | 0, _, _ => true
  | k + 1, d, n => if d * d > n then true else if n % d = 0 then false else noDivisor k (d + 1) n

/-- The primes below 410, of which the first 80 give the constants. -/
def shaPrimes : List Nat := (List.range 410).filter fun n => n ≥ 2 && noDivisor 21 2 n

/-- Round constants: the fractions of the cube roots of the first 80 primes. -/
def shaK : List Nat := shaPrimes.map fun p => icbrtGo 67 0 (p * 2 ^ 192) % 2 ^ 64

/-- Initial hash: the fractions of the square roots of the first eight primes. -/
def shaInit : List Nat := (shaPrimes.take 8).map fun p => isqrtBits 69 0 (p * 2 ^ 128) % 2 ^ 64

/-- Rotation right of 64 bits. -/
def rotr (n x : Nat) : Nat := (x / 2 ^ n) ||| (x * 2 ^ (64 - n) % 2 ^ 64)

/-- The message schedule, extended by `n` words from the last 16 (newest first). -/
def shaExtend : Nat → List Nat → List Nat
  | 0, w => w
  | n + 1, w =>
    let g := fun k => w.getD k 0
    let s0 := rotr 1 (g 14) ^^^ rotr 8 (g 14) ^^^ (g 14 / 2 ^ 7)
    let s1 := rotr 19 (g 1) ^^^ rotr 61 (g 1) ^^^ (g 1 / 2 ^ 6)
    shaExtend n ((s1 + g 6 + s0 + g 15) % 2 ^ 64 :: w)

/-- One round on the eight working words. -/
def shaRound (v : List Nat) (kw : Nat) : List Nat :=
  let g := fun k => v.getD k 0
  let s1 := rotr 14 (g 4) ^^^ rotr 18 (g 4) ^^^ rotr 41 (g 4)
  let ch := (g 4 &&& g 5) ^^^ ((2 ^ 64 - 1 - g 4) &&& g 6)
  let t1 := g 7 + s1 + ch + kw
  let s0 := rotr 28 (g 0) ^^^ rotr 34 (g 0) ^^^ rotr 39 (g 0)
  let mj := (g 0 &&& g 1) ^^^ (g 0 &&& g 2) ^^^ (g 1 &&& g 2)
  [(t1 + s0 + mj) % 2 ^ 64, g 0, g 1, g 2, (g 3 + t1) % 2 ^ 64, g 4, g 5, g 6]

/-- One block of 128 bytes. -/
def shaBlock (h : List Nat) (b : List Nat) : List Nat :=
  let w := (List.range 16).map fun i => ofBigEndian ((b.drop (8 * i)).take 8)
  let ws := (shaExtend 64 w.reverse).reverse
  let v := (List.zipWith (· + ·) ws shaK).foldl shaRound h
  List.zipWith (fun a c => (a + c) % 2 ^ 64) h v

/-- All whole blocks of a padded message. -/
def shaBlocks : Nat → List Nat → List Nat → List Nat
  | 0, h, _ => h
  | n + 1, h, b => shaBlocks n (shaBlock h (b.take 128)) (b.drop 128)

/-- SHA-512 of bytes, as 64 bytes in the order of FIPS 180-4. -/
def sha512 (bs : List Byte) : List Nat :=
  let n := bs.length
  let z := (239 - n % 128) % 128
  let m := bs.map BitVec.toNat ++ [0x80] ++ List.replicate z 0 ++ bigEndian 16 (8 * n)
  (shaBlocks (m.length / 128) shaInit m).flatMap (bigEndian 8)

/-! ## ECDSA over P-521 (R353) -/

/-- The field prime, the group order, the coefficient b and the base point. -/
def p521 : Nat := 2 ^ 521 - 1
/-- The order of the base point. -/
def p521n : Nat :=
  0x1fffffffffffffffffffffffffffffffffffffffffffffffffffffffffffffffffa51868783bf2f966b7fcc0148f709a5d03bb5c9b8899c47aebb6fb71e91386409
/-- The base point. -/
def p521g : Nat × Nat :=
  (0xc6858e06b70404e9cd9e3ecb662395b4429c648139053fb521f828af606b4d3dbaa14b5e77efe75928fe1dc127a2ffa8de3348b3c1856a429bf97e7e31c2e5bd66,
   0x11839296a789a3bc0045c8a5fb42c7d1bd998f54449579b446817afbd17273e662c97ee72995ef42640c550b9013fad0761353c7086a272c24088be94769fd16650)

/-- Power modulo m over the low `k` bits of the exponent. -/
def powMod (m : Nat) : Nat → Nat → Nat → Nat → Nat
  | 0, _, _, acc => acc
  | k + 1, b, e, acc => powMod m k (b * b % m) (e / 2) (if e % 2 = 1 then acc * b % m else acc)

/-- The inverse modulo a prime below 2^521. -/
def invMod (m a : Nat) : Nat := powMod m 521 (a % m) (m - 2) 1

/-- A point of the curve, or none for the point at infinity. -/
abbrev Point := Option (Nat × Nat)

/-- Addition of points; the coefficient a is -3. -/
def pointAdd : Point → Point → Point
  | none, q => q
  | p, none => p
  | some (x1, y1), some (x2, y2) =>
    if x1 = x2 ∧ (y1 + y2) % p521 = 0 then none
    else
      let l := if x1 = x2 then (3 * x1 * x1 + (p521 - 3)) * invMod p521 (2 * y1) % p521
        else (y2 + p521 - y1) * invMod p521 (x2 + p521 - x1) % p521
      let x3 := (l * l + 2 * p521 - x1 - x2) % p521
      some (x3, (l * (x1 + p521 - x3) + p521 - y1) % p521)

/-- A multiple of a point, over the low `k` bits of the factor. -/
def pointMul : Nat → Nat → Point → Point → Point
  | 0, _, _, acc => acc
  | k + 1, e, p, acc =>
    pointMul k (e / 2) (pointAdd p p) (if e % 2 = 1 then pointAdd acc p else acc)

/-- Verification of an ECDSA signature (r, s) over a 64-byte digest (FIPS 186-5). -/
def ecdsaOk (key : Nat × Nat) (digest r s : Nat) : Bool :=
  if r = 0 ∨ p521n ≤ r ∨ s = 0 ∨ p521n ≤ s then false
  else
    let w := invMod p521n s
    let u1 := digest * w % p521n
    let u2 := r * w % p521n
    match pointAdd (pointMul 521 u1 (some p521g) none) (pointMul 521 u2 (some key) none) with
    | none => false
    | some (x, _) => x % p521n == r

end Sys2Proof.Machine
end

