-- ==== Sys2Proof/Machine/Ops.lean ====
section
/-! DEFINITION. The named operations over the state: accessors, faults and the drover handler, the
paths to memory, scratchpads, translation and virtual memory. -/

namespace Sys2Proof.Machine

open Sys2Proof

/-! ## Accessors -/

/-- A tile, a drover core, a context and a group by number. -/
def State.tile (s : State) (t : Nat) : Tile := mapGet {} s.tiles t
/-- Replace a tile. -/
def State.setTile (s : State) (t : Nat) (x : Tile) : State := { s with tiles := mapSet {} s.tiles t x }
/-- Change a tile. -/
def State.modTile (s : State) (t : Nat) (f : Tile → Tile) : State := s.setTile t (f (s.tile t))
/-- A drover core. -/
def State.core (s : State) (n : Nat) : Core := mapGet {} s.cores n
/-- Replace a drover core. -/
def State.setCore (s : State) (n : Nat) (x : Core) : State := { s with cores := mapSet {} s.cores n x }
/-- Change a drover core. -/
def State.modCore (s : State) (n : Nat) (f : Core → Core) : State := s.setCore n (f (s.core n))
/-- A context. -/
def State.ctx (s : State) (c : Nat) : Ctx := mapGet {} s.ctxs c
/-- Replace a context. -/
def State.setCtx (s : State) (c : Nat) (x : Ctx) : State := { s with ctxs := mapSet {} s.ctxs c x }
/-- Change a context. -/
def State.modCtx (s : State) (c : Nat) (f : Ctx → Ctx) : State := s.setCtx c (f (s.ctx c))
/-- A group. -/
def State.group (s : State) (g : Nat) : Group := mapGet {} s.groups g
/-- Change a group. -/
def State.modGroup (s : State) (g : Nat) (f : Group → Group) : State :=
  { s with groups := mapSet {} s.groups g (f (s.group g)) }
/-- An element of a tile. -/
def Tile.elem (x : Tile) (e : Nat) : Element := mapGet {} x.elems e
/-- Change an element of a tile. -/
def Tile.modElem (x : Tile) (e : Nat) (f : Element → Element) : Tile :=
  { x with elems := mapSet {} x.elems e (f (x.elem e)) }
/-- An element. -/
def State.elem (s : State) (t e : Nat) : Element := (s.tile t).elem e
/-- Change an element. -/
def State.modElem (s : State) (t e : Nat) (f : Element → Element) : State :=
  s.modTile t fun x => x.modElem e f
/-- A slot of an element. -/
def Element.slot (x : Element) (k : Nat) : SlotState := mapGet {} x.slots k
/-- Change a slot of an element. -/
def Element.modSlot (x : Element) (k : Nat) (f : SlotState → SlotState) : Element :=
  { x with slots := mapSet {} x.slots k (f (x.slot k)) }
/-- Change a slot. -/
def State.modSlot (s : State) (t e k : Nat) (f : SlotState → SlotState) : State :=
  s.modElem t e fun x => x.modSlot k f
/-- A slot. -/
def State.slot (s : State) (t e k : Nat) : SlotState := (s.elem t e).slot k
/-- A stream port, a ring, an accumulator and a circuit of a tile. -/
def Tile.port (x : Tile) (p : Nat) : Port := mapGet {} x.ports p
/-- Change a port. -/
def State.modPort (s : State) (t p : Nat) (f : Port → Port) : State :=
  s.modTile t fun x => { x with ports := mapSet {} x.ports p (f (x.port p)) }
/-- A ring. -/
def Tile.ring (x : Tile) (n : Nat) : Ring := mapGet {} x.rings n
/-- Change a ring. -/
def State.modRing (s : State) (t n : Nat) (f : Ring → Ring) : State :=
  s.modTile t fun x => { x with rings := mapSet {} x.rings n (f (x.ring n)) }
/-- An accumulator. -/
def Tile.acc (x : Tile) (n : Nat) : Acc := mapGet {} x.accs n
/-- Change an accumulator. -/
def State.modAcc (s : State) (t n : Nat) (f : Acc → Acc) : State :=
  s.modTile t fun x => { x with accs := mapSet {} x.accs n (f (x.acc n)) }
/-- A circuit. -/
def Tile.circuit (x : Tile) (n : Nat) : Circuit := mapGet {} x.circuits n
/-- Change a circuit. -/
def State.modCircuit (s : State) (t n : Nat) (f : Circuit → Circuit) : State :=
  s.modTile t fun x => { x with circuits := mapSet {} x.circuits n (f (x.circuit n)) }

/-- The key of a serving unit's queue. -/
def engineKey : Engine → Nat
  | .scratch t => t * 64
  | .tagTable t => t * 64 + 1
  | .circuit t => t * 64 + 2
  | .matrix t => t * 64 + 3
  | .scan t => t * 64 + 4
  | .summary t => t * 64 + 5
  | .ringPort t => t * 64 + 6
  | .stream t p => t * 64 + 8 + p % 8
  | .memory d => (16384 + d) * 64
  | .grammar d n => (16384 + d) * 64 + 1 + n % 16
  | .sampler d n => (16384 + d) * 64 + 17 + n % 16
  | .accept d n => (16384 + d) * 64 + 33 + n % 4

/-- The unit that a unit number in a key names: a tile, or 32768 + die. -/
def keyUnit (k : Nat) : Nat := if k / 64 < 16384 then k / 64 else k / 64 + 16384
/-- The unit in which a serving unit works: its tile, or 32768 + its die. -/
def Engine.unit (e : Engine) : Nat := keyUnit (engineKey e)
/-- The unit that a source of tokens is: a tile, 16384 + core, or 32768 + die. -/
def Source.who : Source → Nat
  | .slot t _ _ _ => t
  | .core n => 16384 + n
  | .unit k => keyUnit k
/-- The unit that a destination lies in. -/
def Dest.who : Dest → Nat
  | .slot t _ _ _ => t
  | .mailbox n _ => 16384 + n

/-- The queue of a serving unit. -/
def State.queue (s : State) (e : Engine) : List Req := mapGet [] s.queues (engineKey e)
/-- Replace the queue of a serving unit. -/
def State.setQueue (s : State) (e : Engine) (q : List Req) : State :=
  { s with queues := mapSet [] s.queues (engineKey e) q }
/-- Remove the request that a serving unit has executed. -/
def State.popQueue (s : State) (e : Engine) : State := s.setQueue e (s.queue e).tail

/-- The die of a tile and of a drover core. -/
def dieOf (t : Nat) : Nat := t / 4096
/-- Column and row of a tile. -/
def tileX (t : Nat) : Nat := t % 64
/-- Row of a tile on its die. -/
def tileY (t : Nat) : Nat := t / 64 % 64
/-- The drover core whose region holds a tile (R11). -/
def regionOf (t : Nat) : Nat := dieOf t * 64 + tileY t / 8 * 8 + tileX t / 8

/-! ## Drover registers (R116, R119) -/

/-- A register of a core; `x0` reads zero. -/
def Core.reg (c : Core) (n : Nat) : W64 := if n % 32 = 0 then 0 else mapGet 0 c.x (n % 32)
/-- Write a register of a core; a write to `x0` is discarded. -/
def Core.setReg (c : Core) (n : Nat) (v : W64) : Core :=
  if n % 32 = 0 then c else { c with x := mapSet 0 c.x (n % 32) v }
/-- `STATUS.PRIV`: control mode. -/
def Core.priv (c : Core) : Bool := c.status.getLsbD 0
/-- `STATUS.HND`: a handler runs. -/
def Core.hnd (c : Core) : Bool := c.status.getLsbD 1
/-- `STATUS.PPRIV`. -/
def Core.ppriv (c : Core) : Bool := c.status.getLsbD 2
/-- A status word of four fields (R119). -/
def statusOf (halt ppriv hnd priv : Bool) : W64 :=
  BitVec.ofNat 64 (8 * b2n halt + 4 * b2n ppriv + 2 * b2n hnd + b2n priv)

/-! ## Bytes -/

/-- `n` bytes of a byte map from an address on. -/
def memRead (m : FMap Byte) (a n : Nat) : List Byte := (List.range n).map fun i => mapGet 0 m (a + i)
/-- Write bytes to a byte map from an address on. -/
def memWrite (m : FMap Byte) (a : Nat) : List Byte → FMap Byte
  | [] => m
  | b :: bs => memWrite (mapSet 0 m a b) (a + 1) bs
/-- A little-endian number in a byte map (R5). -/
def memNat (m : FMap Byte) (a n : Nat) : Nat := ofBytes (memRead m a n)
/-- Bytes of a byte list. -/
def slice (bs : List Byte) (a n : Nat) : List Byte := (bs.drop a).take n
/-- A little-endian number in a byte list (R5). -/
def natAt (bs : List Byte) (a n : Nat) : Nat := ofBytes (slice bs a n)

/-! ## Faults -/

/-- A context register by address (R317). -/
def Ctx.reg (c : Ctx) (a : Nat) : W64 := mapGet 0 c.regs a
/-- Write a context register. -/
def Ctx.setReg (c : Ctx) (a : Nat) (v : W64) : Ctx := { c with regs := mapSet 0 c.regs a v }

/-- The fault queue of a context is full (R324). -/
def Ctx.queueFull (x : Ctx) : Bool :=
  ((x.reg 0x10D).toNat + 2 ^ 32 - (x.reg 0x10C).toNat % 2 ^ 32) % 2 ^ 32 == (x.reg 0x10B).toNat

/-- A context has a fault queue in use (R430). -/
def Ctx.hasQueue (x : Ctx) : Bool := !(x.state == .free || x.state == .building || x.state == .dead)

/-- The fault queue of a context takes no record now: it is full, or an append to it is held (R324). -/
def State.faultsHeld (s : State) (c : BitVec 8) : Bool :=
  (s.ctx c.toNat).hasQueue && ((s.ctx c.toNat).appendHeld || (s.ctx c.toNat).queueFull)

/-- Add a fault to those on their way to a fault queue (R324). -/
def State.record (s : State) (r : FaultRec) (elem : Option (Nat × Nat) := none) : State :=
  { s with pend := s.pend ++ [{ rcd := r, elem := elem }] }

/-- `UNIT` of a slot, of a drover core's word, of a tile engine and of a die unit (R322). -/
def unitSlot (s : State) (t e k : Nat) : Nat := (s.tile t).role * 4096 + e * 256 + k
/-- `UNIT` of a drover core. -/
def unitCore (pc n : Nat) : Nat := pc * 1024 + n
/-- `UNIT` of a tile engine. -/
def unitEngine (s : State) (t g : Nat) : Nat := (s.tile t).role * 4096 + g
/-- `UNIT` of a die unit. -/
def unitDie (d u : Nat) : Nat := d * 256 + u

/-- The context that a tile's group belongs to (R16). -/
def State.tileCtx (s : State) (t : Nat) : BitVec 8 :=
  match (s.tile t).group with
  | some g => (s.group g).ctx
  | none => 0

/-- Append to the management fault log, a ring of 256 records (R430). -/
def State.logFault (s : State) (r : FaultRec) : State :=
  let m := s.mgmt
  if m.faults.length < 256 then { s with mgmt := { m with faults := m.faults ++ [r] } }
  else { s with mgmt := { m with faults := m.faults.tail ++ [r], lost := min (m.lost + 1) (2 ^ 64 - 1) } }

/-- The 32 bytes of a fault record (R321), written at a step: what the spec does not state is open. -/
def FaultRec.bytes (r : FaultRec) (tick : Nat) : List Byte :=
  toBytes (r.code + r.ctx.toNat * 2 ^ 8 + b2n r.own * 2 ^ 16 + r.unit % 2 ^ 22 * 2 ^ 40 + r.ukind % 4 * 2 ^ 62) 8
    ++ toBytes r.tag.toNat 8 ++ toBytes (r.val.getD (Config.openVal tick)).toNat 8
    ++ toBytes (r.aux.getD (Config.openAux tick)).toNat 8

/-- An element that is asked to quiesce (R101): it fires no more, and a RUNNING one is QUIESCED once it has drained,
which is when its output queue is empty (DEDUCED, log 113). -/
def Element.quiesce (x : Element) : Element :=
  match x.state with
  | .configured | .broken => { x with state := .quiesced }
  | .running => if x.out.isEmpty then { x with state := .quiesced } else { x with stopping := true }
  | _ => x

/-- An element that is QUIESCED with what its output queue holds, as a save leaves it (R326, R328). -/
def Element.freeze (x : Element) : Element :=
  match x.state with
  | .configured | .broken | .running => { x with state := .quiesced, stopping := false }
  | _ => { x with stopping := false }

/-- Resume from the context controller (R101). -/
def Element.resume (x : Element) : Element :=
  match x.state with
  | .broken | .quiesced => { x with state := .running, stopping := false }
  | _ => { x with stopping := false }

/-- Change every tile of a context's groups. -/
def State.mapTiles (s : State) (p : Tile → Bool) (f : Tile → Tile) : State :=
  { s with tiles := s.tiles.filterMap fun kv =>
      let y := if p kv.2 then f kv.2 else kv.2
      if y = {} then none else some (kv.1, y) }

/-- A tile belongs to a group of the context. -/
def State.ownsTile (s : State) (c : Nat) (x : Tile) : Bool :=
  match x.group with
  | some g => (s.group g).ctx.toNat == c && (s.group g).state != .free
  | none => false

/-- Change every element of a context. -/
def State.mapElems (s : State) (c : Nat) (f : Element → Element) : State :=
  s.mapTiles (s.ownsTile c) fun x =>
    { x with elems := x.elems.filterMap fun kv => let y := f kv.2; if y = {} then none else some (kv.1, y) }

/-- A fatal fault of a context (R320): RUNNING goes to FAULTED and its elements quiesce; in the other
states the fault is recorded only. -/
def State.fatal (s : State) (c : Nat) : State :=
  if (s.ctx c).state = .running then
    (s.modCtx c fun x => { x with state := .faulted }).mapElems c Element.quiesce
  else s

/-- A double fault in DRAINING or FAULTED is recorded (R320): its record is appended as those of the other units are, for the
core has stopped (DESIGN CHOICE, log 143). -/
def State.recordFatal (s : State) (r : FaultRec) : State :=
  let st := (s.ctx r.ctx.toNat).state
  if st = .draining ∨ st = .faulted then s.record r else s

/-- Where a core's own fault record goes (R324). -/
def recAddr : Nat := 0xFFE0

/-- The registers of a core that has entered its handler (R127): where it was, why, and that its
privilege is kept in `PPRIV`. -/
def Core.enter (c : Core) (code : Nat) (epc : BitVec 12) : Core :=
  { c with
    epc := epc.setWidth 64
    ecause := BitVec.ofNat 64 code
    erec := BitVec.ofNat 64 recAddr
    status := statusOf false c.priv true c.priv
    pc := c.evec.setWidth 12
    discard := match c.wait with | .timed k => some (c.pc, k) | _ => c.discard
    wait := .none }

/-- The record of a fault of a core's own word (R321, R322). -/
def State.ownFault (s : State) (n code : Nat) (val aux : Option W64) : FaultRec :=
  { code := code, own := true, ukind := 1, unit := unitCore (s.core n).pc.toNat n
    ctx := (s.core n).ctxid.setWidth 8, val := val, aux := aux }

/-- TAKING AN EXCEPTION: a word of core `n` raises a fault (R127). The record goes to data memory
0xFFE0 and the core enters its handler; a fault in the handler stops the core and its context is
FAULTED, or the fault is recorded where the context is DRAINING or FAULTED (R320). -/
def State.enterHandler (s : State) (n code : Nat) (val aux : Option W64) : State :=
  let c := s.core n
  if c.hnd then
    ((s.setCore n { c with status := statusOf true c.ppriv true c.priv, running := false }).recordFatal
      (s.ownFault n code val aux)).fatal c.ctxid.toNat
  else
    s.setCore n (({ c with dmem := memWrite c.dmem recAddr ((s.ownFault n code val aux).bytes s.tick) }).enter code c.pc)

/-- The return from a handler (R127). -/
def Core.leave (c : Core) : Core :=
  { c with pc := c.epc.setWidth 12, status := statusOf false c.ppriv false c.ppriv, wait := .none }

/-- Fault codes (R323). -/
def fcPageAbsent : Nat := 0x01
/-- `PAGE_PROT`. -/
def fcPageProt : Nat := 0x02
/-- `PAGE_BADPTE`. -/
def fcPageBad : Nat := 0x03
/-- `SERAI_FULL`. -/
def fcSeraiFull : Nat := 0x08
/-- `COLOUR_DEADLOCK`. -/
def fcDeadlock : Nat := 0x09
/-- `TAG_DEPTH`. -/
def fcTagDepth : Nat := 0x0A
/-- `TAG_FOREIGN`. -/
def fcTagForeign : Nat := 0x0B
/-- `SCALE_MISMATCH`. -/
def fcScale : Nat := 0x0C
/-- `CFG_BADOP`. -/
def fcCfgBadOp : Nat := 0x10
/-- `CFG_NACK`. -/
def fcCfgNack : Nat := 0x11
/-- `CFG_BUSY`. -/
def fcCfgBusy : Nat := 0x12
/-- `CFG_VERIFY`. -/
def fcCfgVerify : Nat := 0x13
/-- `RING_OVERFLOW`. -/
def fcRing : Nat := 0x19
/-- `ACC_CONFLICT`. -/
def fcAcc : Nat := 0x1A
/-- `TREE_POOL_EMPTY`. -/
def fcTreePool : Nat := 0x20
/-- `TREE_BADHANDLE`. -/
def fcTreeHandle : Nat := 0x21
/-- `GRAMMAR_STACK`. -/
def fcGrammarStack : Nat := 0x22
/-- `GRAMMAR_BADIMAGE`. -/
def fcGrammarImage : Nat := 0x23
/-- `BKPT`. -/
def fcBkpt : Nat := 0x28
/-- `USER_TRAP`. -/
def fcTrap : Nat := 0x29
/-- `ASSERT`. -/
def fcAssert : Nat := 0x2A
/-- `ILLEGAL`. -/
def fcIllegal : Nat := 0x2B
/-- `PRIV`. -/
def fcPriv : Nat := 0x2C
/-- `LINK_DOWN`. -/
def fcLinkDown : Nat := 0x30
/-- `MEM_UNCORRECTABLE`. -/
def fcMem : Nat := 0x31
/-- `DRAIN_TIMEOUT`. -/
def fcDrain : Nat := 0x32

/-! ## Operations that may stop (R175, R256, R290) -/

/-- Why an operation ends without its effect: a fault to record, an `ERR` without a record, an absent
page to wait for, or a condition that does not hold yet. -/
inductive Stop where
  | fault (code : Nat) (val aux : Option W64)
  | error (code : Nat)
  | absent (va : Nat)
  | wait
  deriving DecidableEq, Repr

/-- An operation on the state: its whole effect, or the reason why it has none. -/
abbrev Act (α : Type) := State → Except Stop (α × State)

/-- An operation that changes nothing. -/
def Act.ret {α : Type} (a : α) : Act α := fun s => .ok (a, s)
/-- One operation, then the next. -/
def Act.andThen {α β : Type} (m : Act α) (f : α → Act β) : Act β := fun s =>
  match m s with
  | .ok (a, s') => f a s'
  | .error e => .error e
/-- Stop. -/
def Act.stop {α : Type} (e : Stop) : Act α := fun _ => .error e
/-- Look at the state. -/
def Act.look {α : Type} (f : State → α) : Act α := fun s => .ok (f s, s)
/-- Change the state. -/
def Act.change (f : State → State) : Act Unit := fun s => .ok ((), f s)
/-- Stop unless a condition holds. -/
def Act.need (c : Bool) (e : Stop) : Act Unit := if c then Act.ret () else Act.stop e
/-- Do an operation for every item, in order. -/
def Act.each {α β : Type} (f : α → Act β) : List α → Act (List β)
  | [] => Act.ret []
  | a :: as => (f a).andThen fun b => (Act.each f as).andThen fun bs => Act.ret (b :: bs)
/-- Fold an operation over a list. -/
def Act.fold {α β : Type} (f : β → α → Act β) : β → List α → Act β
  | b, [] => Act.ret b
  | b, a :: as => (f b a).andThen fun b' => Act.fold f b' as

/-! ## Paths (R184, R194) -/

/-- The engine classes (R184). -/
def pathE : Nat := 0
/-- Streams. -/
def pathS : Nat := 1
/-- Gather and scatter engines. -/
def pathG : Nat := 2
/-- The matrix engine. -/
def pathM : Nat := 3
/-- Summary units. -/
def pathT : Nat := 4
/-- Boundary units. -/
def pathB : Nat := 5
/-- Drover cores and the scheduler. -/
def pathD : Nat := 6
/-- The host. -/
def pathH : Nat := 7
/-- Peer links and adders. -/
def pathP : Nat := 8

/-- A reader of memory: a path and a unit: a tile, 16384 + core, or 32768 + die. -/
structure Agent where
  path : Nat
  unit : Nat
  deriving DecidableEq, Repr

/-- The die of a unit. -/
def unitDieOf (u : Nat) : Nat := if u < 16384 then u / 4096 else if u < 32768 then (u - 16384) / 64 else u - 32768

/-- The key of an agent, and that of every agent of its path on its die. -/
def Agent.key (a : Agent) : Nat := a.path + 64 * a.unit
/-- The key of a path on a die. -/
def dieKey (path d : Nat) : Nat := path + 64 * (65536 + d)
/-- The version caches of an agent's path (R381). -/
def Agent.versions (a : Agent) : Agent := ⟨16 + a.path, a.unit⟩
/-- The mask of some paths with their version caches. -/
def withVersions (paths : Nat) : BitVec 32 := BitVec.ofNat 32 (paths % 512 * (1 + 2 ^ 16))

/-- The agent of a tile's elements, a core and a die. -/
def agentE (t : Nat) : Agent := ⟨pathE, t⟩
/-- The agent of a core. -/
def agentD (n : Nat) : Agent := ⟨pathD, 16384 + n⟩
/-- The scheduler and the controller (R330). -/
def agentSched : Agent := ⟨pathD, 32768⟩

/-- The key of all paths of a unit together. -/
def unitKey (u : Nat) : Nat := 63 + 64 * u
/-- The key under which a read by an agent is remembered: that of its unit, or of its version cache (R381). -/
def Agent.readKey (a : Agent) : Nat := if a.path < 16 then unitKey a.unit else a.key

/-- A read by the agent may return the entry's older value. -/
def Stale.sees (e : Stale) (a : Agent) (loc : Nat) : Bool :=
  e.loc == loc && e.dst.getLsbD a.path && !e.cleared.contains a.key && !e.cleared.contains a.readKey
    && !e.cleared.contains (dieKey a.path (unitDieOf a.unit))

/-- Change the entries that `p` picks, and every earlier entry of the same byte (R428): what has become
visible hides what it replaced. -/
def clearBack (p : Stale → Bool) (f : Stale → Stale) : List Stale → List Nat × List Stale
  | [] => ([], [])
  | e :: es =>
    let (locs, es) := clearBack p f es
    if p e || locs.contains e.loc then (e.loc :: locs, f e :: es) else (locs, e :: es)

/-- Change the entries that `p` picks, and what they replaced. -/
def State.clear (s : State) (p : Stale → Bool) (f : Stale → Stale) : State := { s with stale := (clearBack p f s.stale).2 }

/-- An entry without some paths of its mask. -/
def Stale.without (e : Stale) (paths : BitVec 32) : Stale := { e with dst := e.dst &&& ~~~paths }

/-- The agent will not return older values of the entries that `p` picks. -/
def State.freshen (s : State) (a : Agent) (p : Stale → Bool) : State :=
  s.clear p fun e => { e with cleared := a.key :: e.cleared }

/-- An entry under the knowledge that leads from one unit to another. -/
def Stale.learn (src dst : Nat) (e : Stale) : Stale :=
  let e := if e.known.contains src ∧ !e.known.contains dst then { e with known := dst :: e.known } else e
  if e.cleared.contains (unitKey src) ∧ !e.cleared.contains (unitKey dst) then { e with cleared := unitKey dst :: e.cleared } else e

/-- What one unit sends reaches another: what was performed before the sending is ordered before what follows the
arrival (R426), and reads return nothing older than what reads before them returned (R428). The chains that the model
follows are those of tokens, requests, replies, arrivals at barriers and signals, unit by unit: DEDUCED, log 7. -/
def State.learn (s : State) (src dst : Nat) : State :=
  { s with stale := if src = dst then s.stale else s.stale.map (Stale.learn src dst) }

/-- The writes that a chain leads from to `src` are seen by the unit `dst` on every path: the edges of R427 that carry
data to any path. -/
def State.showKnown (s : State) (src dst : Nat) : State :=
  s.clear (fun e => e.known.contains src) fun e => { e with cleared := unitKey dst :: e.cleared, known := dst :: e.known }

/-- The key of what is known at a step: at a write, at the sending of a token, at an arrival, or at a wait that is met. -/
def arrivalKey (step : Nat) : Nat := 2 ^ 70 + step

/-- The entries once a unit knows what was ordered before the writes that `p` picks. -/
def knowAll (p : Stale → Bool) (u : Nat) (es : List Stale) : List Stale :=
  ((es.filter p).map (·.tick)).eraseDups.foldl (fun es k => es.map (Stale.learn (arrivalKey k) u)) es
/-- A unit has observed the writes that `p` picks, and knows what was ordered before each (R426, edges 3, 11 and 12). -/
def State.knowWrites (s : State) (p : Stale → Bool) (u : Nat) : State := { s with stale := knowAll p u s.stale }

/-- An agent has read a byte as written before the step `view`: its unit returns no older value on any path (R427, R428),
and it knows what was ordered before the write that it has read (R426, edge 3). -/
def State.observe (s : State) (a : Agent) (loc view : Nat) : State :=
  let last := (s.stale.filter fun e => e.loc == loc && e.tick < view).getLast?
  let es := if a.path < 16 then knowAll (fun e => e.loc == loc && some e.tick == last.map (·.tick)) a.unit s.stale else s.stale
  { s with stale := es.map fun e =>
      if e.loc / 8 = loc / 8 ∧ e.tick < view ∧ !e.cleared.contains a.readKey then { e with cleared := a.readKey :: e.cleared }
      else e }

/-- A read of a byte whose newest value is `cur`: an older value may be returned (R184), the same choice
for every byte of an aligned eight (R170), and values that are older still are returned no more to the reader's unit
(R428), nor to the units that what it sends then reaches (`State.learn`). -/
def State.readVisible (s : State) (a : Agent) (loc : Nat) (cur : Byte) : Byte × State :=
  if s.stale.all (fun e => !e.sees a loc) then (cur, s.observe a loc (s.tick + 1))
  else
    let view := Config.viewTick s.tick (loc / 8)
    (match s.stale.find? fun e => e.sees a loc && view ≤ e.tick with
      | some e => e.old
      | none => cur, s.observe a loc view)

/-- What has been performed so far is known under a key. -/
def State.markAll (s : State) (key : Nat) : State :=
  { s with stale := s.stale.map fun e => { e with known := (key :: e.known).eraseDups } }

/-- A write by an agent leaves the older value for reads on the other paths (R184) and in every path's version caches
(R381), and hides from reads on its own path what it replaces. What its unit knows is ordered before it (R426). An older
write that no path sees any more is forgotten. -/
def State.noteWrite (s : State) (a : Agent) (c : BitVec 8) (loc : Nat) (old : Byte) : State :=
  let own := BitVec.ofNat 32 (2 ^ a.path)
  let s := s.learn a.unit (arrivalKey s.tick)
  let es := s.stale.filterMap fun e =>
    if e.loc = loc then (if (e.without own).dst = 0 then none else some (e.without own)) else some e
  { s with stale := es ++ [{ src := a.path, unit := a.unit, known := [a.unit, arrivalKey s.tick]
                             dst := withVersions 511 &&& ~~~own, ctx := c, loc, old, tick := s.tick }] }

/-- A scope around a unit holds another unit: 0 the tile or core, 1 the die, 2 and 3 the device (R177, R194). -/
def inScope (scope unit other : Nat) : Bool :=
  if scope = 0 then unit == other else if scope = 1 then unitDieOf unit == unitDieOf other else true

/-- A fence from a mask of paths to a mask of paths and their version caches, at a scope that holds both the writer and
the reader; what the host and peers wrote is performed at the device, and a fence from the host carries what it wrote to
every path (R177, R194, R381, R391, R426, R427). -/
def State.xfence (s : State) (c : BitVec 8) (src dst scope unit : Nat) : State :=
  let paths := (List.range 25).filter fun p => p % 16 < 9 && bitOf dst (p % 16)
  let keys := paths.map fun p => if scope = 0 then (Agent.mk p unit).key else dieKey p (unitDieOf unit)
  let outside := fun (e : Stale) => e.src == pathH || e.src == pathP
  (s.clear (fun e => bitOf src pathH && e.src == pathH) fun e => e.without (withVersions 0x1FF)).clear
    (fun e => bitOf src e.src && (outside e || (e.ctx == c && inScope scope unit e.unit))) fun e =>
      if scope ≥ 2 then e.without (withVersions dst) else { e with cleared := keys ++ e.cleared }

/-- The key of the rows that a stream port has completed (R213). -/
def portKey (t p : Nat) : Nat := 2 ^ 66 + t * 8 + p % 8
/-- What a row of a port wrote in this step is counted among its rows. -/
def State.countRow (s : State) (t p : Nat) : State :=
  { s with stale := s.stale.map fun e =>
      if e.tick = s.tick ∧ e.unit = t ∧ (e.src = pathS ∨ e.src = pathG) then { e with known := portKey t p :: e.known } else e }
/-- The rows that a port has counted are visible to every path (R213). -/
def State.showCounted (s : State) (t p : Nat) : State :=
  s.clear (fun e => e.known.contains (portKey t p)) fun e => e.without (withVersions 0x1FF)
/-- A stream that opens counts its rows anew. -/
def State.forgetRows (s : State) (t p : Nat) : State :=
  { s with stale := s.stale.map fun e => { e with known := e.known.filter fun k => k != portKey t p } }

/-- The key of the effects of the commands that a core has queued (R214). -/
def commandKey (n : Nat) : Nat := 2 ^ 68 + n
/-- The writes that `p` picks are effects of a core's commands. -/
def State.markCommand (s : State) (n : Nat) (p : Stale → Bool) : State :=
  { s with stale := s.stale.map fun e => if p e then { e with known := commandKey n :: e.known } else e }
/-- The tiles of a drover core's region (R11). -/
def regionTiles (n : Nat) : List Nat :=
  (List.range 64).map fun k => n / 64 * 4096 + (n % 64 / 8 * 8 + k / 8) * 64 + n % 8 * 8 + k % 8
/-- The effects of the commands that a core has queued are seen by what it queues from now on (R214, R426, edge 14). -/
def State.showCommands (s : State) (n : Nat) : State :=
  ((16384 + n) :: regionTiles n).foldl (fun s u => s.showKnown (commandKey n) u) s

/-- Everything that is visible at device scope becomes visible to a path (R213, R267, R288, R337). -/
def State.showAll (s : State) (src dst : Nat) : State :=
  s.clear (fun e => bitOf src e.src) fun e => e.without (BitVec.ofNat 32 dst)

/-! ## Scratchpads (R169 to R172) -/

/-- The location of a scratchpad byte among all locations. -/
def spLoc (t a : Nat) : Nat := 2 ^ 60 + t * 2 ^ 16 + a % 2 ^ 16

/-- Read scratchpad bytes on a path. -/
def spRead (path t : Nat) : Nat → Nat → State → List Byte × State
  | _, 0, s => ([], s)
  | a, n + 1, s =>
    let (b, s) := s.readVisible ⟨path, t⟩ (spLoc t a) (mapGet 0 (s.tile t).mem (a % 2 ^ 16))
    let (bs, s) := spRead path t (a + 1) n s
    (b :: bs, s)

/-- Write scratchpad bytes on a path. -/
def spWrite (path t : Nat) : Nat → List Byte → State → State
  | _, [], s => s
  | a, b :: bs, s =>
    let old := mapGet 0 (s.tile t).mem (a % 2 ^ 16)
    let s := s.noteWrite ⟨path, t⟩ (s.tileCtx t) (spLoc t a) old
    spWrite path t (a + 1) bs (s.modTile t fun x => { x with mem := mapSet 0 x.mem (a % 2 ^ 16) b })

/-- A granule's full/empty bit (R171). -/
def State.isFull (s : State) (t g : Nat) : Bool := mapGet false (s.tile t).full g
/-- Set `n` granules' bits. -/
def State.setFull (s : State) (t g n : Nat) (v : Bool) : State :=
  s.modTile t fun x => { x with full := (List.range n).foldl (fun m i => mapSet false m (g + i) v) x.full }
/-- Set the bits of the granules that hold `n` bytes from an address on. -/
def State.fillBytes (s : State) (t a n : Nat) : State :=
  if n = 0 then s else s.setFull t (a / 16) ((a + n - 1) / 16 - a / 16 + 1) true

/-- An element request that observes a full bit sees the granule's data (R184), and what was ordered before the writes of
it (R426, edge 11). -/
def State.seeGranule (s : State) (t g : Nat) : State :=
  let p := fun (e : Stale) => spLoc t (16 * g) ≤ e.loc && e.loc < spLoc t (16 * g) + 16
  (s.freshen (agentE t) p).knowWrites p t

/-- A unit of a tile sees the scratchpad bytes of a range as written up to a step on a mask of paths (R221, R426). -/
def State.seeRange (s : State) (src path t a n before : Nat) : State :=
  let p := fun (e : Stale) => bitOf src e.src && spLoc t 0 + a ≤ e.loc && e.loc < spLoc t 0 + a + n && e.tick ≤ before
  (s.freshen ⟨path, t⟩ p).knowWrites p t

/-- Scratchpad operations as steps of an operation. -/
def spGet (path t a n : Nat) : Act (List Byte) := fun s => .ok (spRead path t a n s)
/-- Write bytes to a scratchpad. -/
def spPut (path t a : Nat) (bs : List Byte) : Act Unit := Act.change (spWrite path t a bs)

/-! ## Translation (R369 to R374) -/

/-- What a walk finds: a leaf's entry, its level and the entry's address, an absent entry at a level,
or a malformed entry. -/
inductive Walk where
  | leaf (e lvl epa : Nat)
  | absent (lvl epa : Nat)
  | bad
  deriving DecidableEq, Repr

/-- The bytes that an entry of a level covers (R371). -/
def regionSize (lvl : Nat) : Nat := 2 ^ (46 - 10 * lvl)

/-- A valid entry breaks R371 or R372 at a level. -/
def entryBad (lvl e : Nat) : Bool :=
  let pa := bitsOf e 16 36 * 65536
  let tgt := bitsOf e 8 4
  let enc := bitOf e 6
  if bitOf e 1 then
    lvl == 0 || (lvl == 1 && pa % regionSize 1 != 0) || (lvl == 2 && pa % regionSize 2 != 0)
      || tgt > 9 || (enc && tgt != 0) || bitOf e 2 || bitsOf e 12 4 != 0
      || (tgt == 0 && pa + regionSize lvl > 2 ^ 39)
  else
    lvl == 3 || tgt != 0 || bitsOf e 52 12 != 0 || bitsOf e 2 6 != 0 || bitOf e 12

/-- Walk from a table at a level on, over the levels that remain; `gone` says where no memory is mapped. -/
def walkGo (m : FMap Byte) (gone : Nat → Bool) (va : Nat) : Nat → Nat → Nat → Walk
  | 0, _, _ => .bad
  | n + 1, lvl, table =>
    let epa := table + 8 * (va / regionSize lvl % 1024)
    let e := memNat m epa 8
    if gone epa then .bad
    else if !bitOf e 0 then .absent lvl epa
    else if entryBad lvl e then .bad
    else if bitOf e 1 then .leaf e lvl epa
    else walkGo m gone va n (lvl + 1) (bitsOf e 13 39 * 8192)

/-- A physical address lies in a stack that the start has marked failed: its 64 GiB are not mapped (R403). -/
def State.stackFailed (s : State) (pa : Nat) : Bool := mapGet false s.mgmt.badStacks (pa / 2 ^ 36)
/-- A physical address lies in the group table, which no context can map (R354). -/
def State.inGroupTable (s : State) (pa : Nat) : Bool := s.gtab ≤ pa && pa < s.gtab + 4096 * 2112
/-- No memory is mapped at a physical address. -/
def State.unmappable (s : State) (pa : Nat) : Bool := s.stackFailed pa || s.inGroupTable pa

/-- A translated page: its entry, level and the entry's address. -/
structure Page where
  e : Nat
  lvl : Nat
  epa : Nat
  deriving DecidableEq, Repr, Inhabited

/-- The physical address of a virtual one in a page. -/
def Page.pa (p : Page) (va : Nat) : Nat := bitsOf p.e 16 36 * 65536 + va % regionSize p.lvl
/-- The target of a page (R370). -/
def Page.tgt (p : Page) : Nat := bitsOf p.e 8 4

/-- The walk of an address in a context's table (R369). A leaf or a table in a failed stack names no memory, nor does a leaf
for an address in the group table (R354), and each counts as one that R372 does not allow: DESIGN CHOICE, log 133. -/
def State.walk (s : State) (c : BitVec 8) (va : Nat) : Walk :=
  let root := ((s.ctx c.toNat).reg 0x102).toNat
  if root ≠ bitsOf root 13 39 * 8192 then .bad
  else match walkGo s.mem s.stackFailed va 4 0 root with
    | .leaf e lvl epa =>
      if (Page.mk e lvl epa).tgt = 0 ∧ s.unmappable ((Page.mk e lvl epa).pa va) then .bad else .leaf e lvl epa
    | w => w

/-- The key of a counter: its physical address. -/
def State.counterKey (s : State) (c : BitVec 8) (va : Nat) : Nat :=
  2 ^ 64 + (match s.walk c va with | .leaf e lvl epa => (Page.mk e lvl epa).pa va | _ => 2 ^ 60)

/-- A signal on a counter: what was performed before it is seen by those whose wait it meets (R337). -/
def State.signal (s : State) (c : BitVec 8) (va : Nat) : State := s.markAll (s.counterKey c va)

/-- The counter block of an encrypted granule (R380). -/
def counterBlock (buf ver va : Nat) : Nat := buf * 2 ^ 116 + ver * 2 ^ 84 + bitsOf va 4 52

/-- The key slot of a context (R317, R380): an AES-256 key plus 1, or 0. -/
def State.contextKey (s : State) (c : BitVec 8) : Nat := mapGet 0 s.mgmt.ctxKeys (((s.ctx c.toNat).reg 0x103).toNat % 256)

/-- The keystream byte of an address in a buffer of a version (R380). -/
def State.cipherByte (s : State) (c : BitVec 8) (buf ver va : Nat) : Byte :=
  BitVec.ofNat 8 ((aes256 (s.contextKey c - 1) (counterBlock buf ver va)).getD (va % 16) 0)

/-- Bytes of main memory as a path's version caches hold them (R381). -/
def cachedBytes (a : Agent) : Nat → Nat → State → List Byte × State
  | _, 0, s => ([], s)
  | pa, n + 1, s =>
    let (b, s) := s.readVisible a.versions pa (mapGet 0 s.mem pa)
    let (bs, s) := cachedBytes a (pa + 1) n s
    (b :: bs, s)

/-- The version of an encrypted buffer (R380, R381): the N32 of the context's version table, through its leaf; `fuel`
tables deep where the table is itself encrypted. -/
def versionGo (a : Agent) (c : BitVec 8) : Nat → Nat → State → Except Stop (Nat × State)
  | 0, buf, s => .ok (Config.openVersion buf, s)
  | n + 1, buf, s =>
    let va := ((s.ctx c.toNat).reg 0x104).toNat + 4 * buf
    match s.walk c va with
    | .absent _ _ => .error (.absent va)
    | .bad => .error (.fault fcPageBad (some (BitVec.ofNat 64 va)) none)
    | .leaf e lvl epa =>
      let p : Page := ⟨e, lvl, epa⟩
      if p.tgt ≠ 0 then .ok (ofBytes ((List.range 4).map fun i => Config.windowByte s.tick (va + i)), s)
      else
        let (bs, s) := cachedBytes a (p.pa va) 4 s
        if !bitOf e 6 then .ok (ofBytes bs, s)
        else match versionGo a c n (bitsOf e 52 12) s with
          | .error e => .error e
          | .ok (ver, s) => .ok (ofBytes ((bs.zip (List.range 4)).map fun b =>
              b.1 ^^^ s.cipherByte c (bitsOf e 52 12) ver (va + b.2)), s)

/-- The version of a buffer as an agent's translation point holds it. -/
def State.version (s : State) (a : Agent) (c : BitVec 8) (buf : Nat) : Except Stop (Nat × State) := versionGo a c 2 buf s

/-- The link of a leaf's target: 1 the host, 2 + k peer link k (R370, R392). -/
def leafLink (e : Nat) : Option Nat :=
  let tgt := bitsOf e 8 4
  if tgt = 0 then none else if tgt = 1 then some 8 else some (tgt - 2)

/-- Check an access to a leaf that was found (R374, R390, R392): its protection, its context's key and
version, and the link of a window. -/
def State.checkLeaf (s : State) (c : BitVec 8) (p : Page) (va : Nat) (rd wr : Bool) : Except Stop Page :=
  let v := BitVec.ofNat 64 va
  if (rd && !bitOf p.e 3) || (wr && !bitOf p.e 4) then .error (.fault fcPageProt (some v) (some 2))
  else if bitOf p.e 6 && s.contextKey c = 0 then
    .error (.fault fcPageProt (some v) (some 4))
  else if p.tgt = 0 then
    (if bitOf p.e 6 then
      match s.version agentSched c (bitsOf p.e 52 12) with
      | .ok _ => .ok p
      | .error e => .error e
     else .ok p)
  else
    let link := if p.tgt = 1 then 8 else p.tgt - 2
    if (mapGet {} s.links link).state ≠ .up then .error (.error fcLinkDown)
    else if p.tgt ≠ 1 && Config.peerRefuses s.tick (p.pa va) then .error (.fault fcPageProt (some v) (some 5))
    else .ok p

/-- Translate and check an access (R175, R371, R374). -/
def translate (s : State) (c : BitVec 8) (va : Nat) (rd wr : Bool) : Except Stop Page :=
  let v := BitVec.ofNat 64 va
  if va ≥ 2 ^ 56 then .error (.fault fcPageProt (some v) (some 1))
  else match s.walk c va with
    | .bad => .error (.fault fcPageBad (some v) none)
    | .absent _ _ => .error (.absent va)
    | .leaf e lvl epa => s.checkLeaf c ⟨e, lvl, epa⟩ va rd wr

/-! ## What carries an access (R10, R13, R388, R395) -/

/-- The die edges from one die to another (R10, R13): x before y, so that 0 goes to 3 through 1, 3 to 0 through 2, 1 to 2
through 0 and 2 to 1 through 3. -/
def dieRoute (a b : Nat) : List Nat :=
  match a, b with
  | 0, 1 | 1, 0 => [9]
  | 2, 3 | 3, 2 => [10]
  | 0, 2 | 2, 0 => [11]
  | 1, 3 | 3, 1 => [12]
  | 0, 3 => [9, 12]
  | 3, 0 => [10, 11]
  | 1, 2 => [9, 11]
  | 2, 1 => [10, 12]
  | _, _ => []

/-- Every die edge between two dies is UP: while one is not, the traffic over it waits (R388). -/
def State.edgesUp (s : State) (a b : Nat) : Bool := (dieRoute a b).all fun l => (mapGet {} s.links l).state == .up

/-- No die edge between two dies is lost: one that trains will carry what waits for it (R388, R389). -/
def State.edgesKept (s : State) (a b : Nat) : Bool :=
  (dieRoute a b).all fun l => (mapGet {} s.links l).state == .up || (mapGet {} s.links l).state == .retraining

/-- The neighbour of a pseudo-channel (R395). -/
def neighbour (k : Nat) : Nat := if k % 2 = 0 then k + 1 else k - 1
/-- The pseudo-channel that serves a physical address: stack * 64 + channel (R393). -/
def channelAt (pa : Nat) : Nat := pa / 2 ^ 36 * 64 + Config.channelOf pa % 64
/-- The lanes of a pseudo-channel serve its requests: they are its own, and no handshake of its pair runs (R395). -/
def State.laneServes (s : State) (k : Nat) : Bool :=
  (mapGet {} s.lanes k).state == .own
    && (match (mapGet {} s.lanes (neighbour k)).state with | .own | .lent => true | .lending | .reclaiming => false)

/-- An access of an agent to main memory can be served now. -/
def State.reaches (s : State) (a : Agent) (pa : Nat) : Bool :=
  s.edgesUp (unitDieOf a.unit) (pa / 2 ^ 37) && s.laneServes (channelAt pa)
/-- Every access of an agent to a range of main memory can be served now, line by line. -/
def State.reachesAll (s : State) (a : Agent) (pa n : Nat) : Bool :=
  (List.range ((pa + n + 63) / 64 - pa / 64)).all fun i => s.reaches a (64 * (pa / 64 + i))

/-- A 64-byte line of main memory that a scrub has found uncorrectable (R410). -/
def State.lineBad (s : State) (pa : Nat) : Bool := mapGet false s.badLines (pa / 64)
/-- Some of `n` bytes of a page lie in such a line. -/
def State.pageBad (s : State) (p : Page) (va n : Nat) : Bool :=
  p.tgt == 0 && !s.badLines.isEmpty && (List.range n).any fun i => s.lineBad (p.pa (va + i))

/-- The keystream byte of an address in a page, for an agent; zero in a plain page (R380). -/
def State.keyByte (s : State) (a : Agent) (c : BitVec 8) (p : Page) (va : Nat) : Byte × State :=
  if bitOf p.e 6 then
    match s.version a c (bitsOf p.e 52 12) with
    | .ok (ver, s) => (s.cipherByte c (bitsOf p.e 52 12) ver va, s)
    | .error _ => (0, s)
  else (0, s)

/-- Read the byte of a translated address. -/
def State.pageByte (s : State) (a : Agent) (c : BitVec 8) (p : Page) (va : Nat) : Byte × State :=
  if p.tgt = 0 then
    let (b, s) := s.readVisible a (p.pa va) (mapGet 0 s.mem (p.pa va))
    let (k, s) := s.keyByte a c p va
    (b ^^^ k, s)
  else (Config.windowByte s.tick va, s)

/-- Set `D` of a leaf that is written on path E, D, T or B (R375). -/
def State.markDirty (s : State) (path : Nat) (p : Page) : State :=
  if (path = pathE ∨ path = pathD ∨ path = pathT ∨ path = pathB) then
    { s with mem := mapSet 0 s.mem p.epa (mapGet 0 s.mem p.epa ||| 0x20) }
  else s

/-- Write a byte of physical memory. A line that was uncorrectable holds data again: DESIGN CHOICE, log 134. -/
def State.physWrite (s : State) (a : Agent) (c : BitVec 8) (pa : Nat) (b : Byte) : State :=
  let s := s.noteWrite a c pa (mapGet 0 s.mem pa)
  { s with mem := mapSet 0 s.mem pa b, badLines := mapSet false s.badLines (pa / 64) false }

/-- Write a byte of physical memory without a translation; where no memory is mapped nothing is written (R354, R403). -/
def State.physPut (s : State) (a : Agent) (c : BitVec 8) (pa : Nat) (b : Byte) : State :=
  if 2 ^ 39 ≤ pa ∨ s.unmappable pa then s else s.physWrite a c pa b

/-- Write the byte of a translated address; a window's write leaves the device (R392). -/
def State.pageWrite (s : State) (a : Agent) (c : BitVec 8) (p : Page) (va : Nat) (b : Byte) : State :=
  let s := s.markDirty a.path p
  if p.tgt = 0 then
    let (k, s) := s.keyByte a c p va
    s.physWrite a c (p.pa va) (b ^^^ k)
  else s

/-- The byte of a translated address can be accessed now; a read meets a line that is uncorrectable (R410). -/
def State.serves (s : State) (a : Agent) (p : Page) (va : Nat) (rd : Bool) : Except Stop Unit :=
  if p.tgt = 0 ∧ !s.reaches a (p.pa va) then .error .wait
  else if rd && s.pageBad p va 1 then .error (.fault fcMem (some (BitVec.ofNat 64 va)) none)
  else .ok ()

/-- Read `n` bytes of virtual memory. -/
def vread (a : Agent) (c : BitVec 8) : Nat → Nat → Act (List Byte)
  | _, 0 => Act.ret []
  | va, n + 1 => fun s =>
    match translate s c va true false with
    | .error e => .error e
    | .ok p =>
      match s.serves a p va true with
      | .error e => .error e
      | .ok () =>
      let (b, s) := s.pageByte a c p va
      match vread a c (va + 1) n s with
      | .ok (bs, s) => .ok (b :: bs, s)
      | .error e => .error e

/-- Write bytes to virtual memory. A write waits while its page migrates (R377, R386). -/
def vwrite (a : Agent) (c : BitVec 8) : Nat → List Byte → Act Unit
  | _, [] => Act.ret ()
  | va, b :: bs => fun s =>
    match translate s c va false true with
    | .error e => .error e
    | .ok p =>
      match s.serves a p va false with
      | .error e => .error e
      | .ok () => if bitOf p.e 7 then .error .wait else vwrite a c (va + 1) bs (s.pageWrite a c p va b)

/-- A write of a context is kept: a later one of the units' own waits behind it. -/
def State.lateFor (s : State) (c : BitVec 8) : Bool := s.late.any fun w => w.ctx == c

/-- A write that a unit makes by itself: performed now, or kept while its page migrates (R377, R386), is absent, or is not
reached (R388, R395); the writes of a context keep their order. One that meets a fault is lost: DESIGN CHOICE, log 114; that
of a colour's entry records its fault (R155). -/
def State.writeLate (s : State) (a : Agent) (c : BitVec 8) (va : Nat) (bs : List Byte) (noted : Bool := false) : State :=
  let kept := { s with late := s.late ++ [{ path := a.path, unit := a.unit, ctx := c, va, bytes := bs, noted }] }
  if s.lateFor c then kept
  else match vwrite a c va bs s with
    | .ok (_, s) => s
    | .error .wait | .error (.absent _) => kept
    | .error (.fault code val aux) =>
      if noted then s.record { code, ukind := 3, unit := unitDie 0 192, ctx := c, val, aux } else s
    | .error _ => s

/-- The writes that were kept are tried again, in their order. -/
def State.retryLate (s : State) : State :=
  s.late.foldl (fun s w => s.writeLate ⟨w.path, w.unit⟩ w.ctx w.va w.bytes w.noted) { s with late := [] }

/-- Read a little-endian number of virtual memory. -/
def vnat (a : Agent) (c : BitVec 8) (va n : Nat) : Act Nat :=
  (vread a c va n).andThen fun bs => Act.ret (ofBytes bs)
/-- Write a little-endian number to virtual memory. -/
def vput (a : Agent) (c : BitVec 8) (va n v : Nat) : Act Unit := vwrite a c va (toBytes v n)

/-- Read bytes of a translated page, all in one page. -/
def pageRead (a : Agent) (c : BitVec 8) (p : Page) : Nat → Nat → State → List Byte × State
  | _, 0, s => ([], s)
  | va, n + 1, s =>
    let (b, s) := s.pageByte a c p va
    let (bs, s) := pageRead a c p (va + 1) n s
    (b :: bs, s)

/-- Write bytes of a translated page, all in one page. -/
def pageWrites (a : Agent) (c : BitVec 8) (p : Page) : Nat → List Byte → State → State
  | _, [], s => s
  | va, b :: bs, s => pageWrites a c p (va + 1) bs (s.pageWrite a c p va b)

/-- The page base of an absent address: its absent region (R371); of a mapped one, its page. -/
def State.pageRange (s : State) (c : BitVec 8) (va : Nat) : Nat × Nat :=
  let lvl := match s.walk c va with
    | .leaf _ lvl _ => lvl
    | .absent lvl _ => lvl
    | .bad => 3
  (va / regionSize lvl * regionSize lvl, regionSize lvl)

/-- One more dropped prefetch or speculative access (R376). -/
def State.countDrop (s : State) (c : BitVec 8) : State :=
  s.modCtx c.toNat fun x =>
    x.setReg 0x11B (if (x.reg 0x11B).toNat = 2 ^ 64 - 1 then x.reg 0x11B else x.reg 0x11B + 1)

end Sys2Proof.Machine
end

