-- ==== Sys2Proof/Machine/Operands.lean ====
section
/-! DEFINITION. Operands and results: immediates (R57), tags and their operations (R20 to R22, R145),
the operands of a firing and of a drover word, and what a firing emits (R39 to R41, R55). -/

namespace Sys2Proof.Machine

open Sys2Proof

/-! ## Immediates (R57) -/

/-- An immediate widened by a type code. -/
def widenType (t : Nat) (imm : BitVec 32) : W64 :=
  if t = 0 ∨ t = 1 ∨ t = 5 ∨ t = 3 then imm.setWidth 64
  else if t = 2 ∨ t = 4 then imm.signExtend 64
  else imm ++ imm

/-- The immediate of a port: by the instruction's type, zero-extended for the tree and sequence
instructions (R269, R306) and for the count of `RED` and the field of `REORD`, else sign-extended. -/
def widenPort (opc : Nat) (f : Form) : W64 :=
  if 0xC0 ≤ opc ∧ opc < 0xE0 ∨ opc = 0x8A ∨ opc = 0x8D then f.imm.setWidth 64
  else match opSpec opc with
    | some o => if o.types = 0 then f.imm.signExtend 64 else widenType (typeOf f) f.imm
    | none => f.imm.signExtend 64

/-- A `DATA` operand without `S`. -/
def dataOperand (v : W64) : Operand := { kind := some .data, value := v }

/-- The opcode of an instruction; 0 for an event. -/
def opcodeOf (i : Instr) : Nat := match i.parts with | some (o, _) => o | none => 0
/-- The fields of an instruction. -/
def formOf (i : Instr) : Form := match i.parts with | some (_, f) => f | none => default

/-- The predicate comes from a token on port P (R51). -/
def predToken (f : Form) : Bool := f.pred != 0 && f.immp != 4

/-- The operand that the immediate supplies at a position of an entry, if it does (R30, R56): `IMMP` 100 supplies
port P, which occupies the C position of an instruction without a port C. -/
def immOperand (opc : Nat) (f : Form) (port : Nat) : Option Operand :=
  if f.immp.toNat = port + 1 ∧ port < 3 then some (dataOperand (widenPort opc f))
  else if port = 2 ∧ f.immp = 4 ∧ f.arity ≠ 2 then some (dataOperand (widenPort opc f))
  else none

/-! ## Tags (R20 to R22) -/

/-- The number of fields of a tag. -/
def tagDepth (t : W64) : Nat := bitsOf t.toNat 49 3
/-- The colour of a tag. -/
def tagColour (t : W64) : Nat := bitsOf t.toNat 52 12
/-- Field `k` of a tag. -/
def tagField (t : W64) (k : Nat) : Nat := bitsOf t.toNat (8 * k) 8
/-- A tag of a colour, a depth and fields. -/
def mkTag (colour depth fields : Nat) : W64 :=
  BitVec.ofNat 64 (colour % 4096 * 2 ^ 52 + depth % 8 * 2 ^ 49 + fields % 2 ^ 48)
/-- The fields of a tag below field `k`. -/
def tagBelow (t : W64) (k : Nat) : Nat := t.toNat % 2 ^ (8 * k)
/-- The tag with one field more. -/
def tagPush (t : W64) (field : Nat) : W64 :=
  mkTag (tagColour t) (tagDepth t + 1) (tagBelow t (tagDepth t) + field % 256 * 2 ^ (8 * tagDepth t))
/-- The tag without its innermost field. -/
def tagPop (t : W64) : W64 := mkTag (tagColour t) (tagDepth t - 1) (tagBelow t (tagDepth t - 1))
/-- The tag with its innermost field set; unchanged at depth 0. -/
def tagSet (t : W64) (field : Nat) : W64 :=
  if tagDepth t = 0 then t
  else mkTag (tagColour t) (tagDepth t) (tagBelow t (tagDepth t - 1) + field % 256 * 2 ^ (8 * (tagDepth t - 1)))
/-- The innermost field; 0 at depth 0. -/
def tagInner (t : W64) : Nat := if tagDepth t = 0 then 0 else tagField t (tagDepth t - 1)
/-- The innermost slot (R21). -/
def innerSlot (t : W64) : Nat := tagInner t % 64
/-- The block tag (R21). -/
def blockTag (t : W64) : W64 := tagSet t 0
/-- The tag of a colour at depth 0. -/
def colourTag (c : Nat) : W64 := mkTag c 0 0
/-- A value that keeps R21. -/
def tagOk (t : W64) : Bool :=
  tagDepth t ≤ 6 && !t.getLsbD 48 && t.toNat % 2 ^ 48 == tagBelow t (tagDepth t)

/-- A round is later than another (R44). -/
def roundLater (a b : BitVec 8) : Bool := let d := (a - b).toNat; 1 ≤ d && d ≤ 127
/-- The later of two rounds. -/
def laterRound (a b : BitVec 8) : BitVec 8 := if roundLater b a then b else a

/-- A context owns a colour (R154). -/
def State.ownsColour (s : State) (c : BitVec 8) (col : Nat) : Bool := col < ((s.ctx c.toNat).reg 0x106).toNat

/-- The output tag that a `TAGOP` gives (R145), or the code of its fault. -/
def tagOut (s : State) (c : BitVec 8) (op : Nat) (t src : W64) : Except Nat W64 :=
  if op = 0 then .ok t
  else if op = 1 then (if tagDepth t = 6 then .error fcTagDepth else .ok (tagPush t 0))
  else if op = 2 then (if tagDepth t = 0 then .error fcTagDepth else .ok (tagPop t))
  else if op = 3 then .ok (blockTag t)
  else if op = 4 then (if tagDepth t = 0 then .error fcTagDepth else .ok (tagSet t (src.toNat % 256)))
  else if op = 5 then
    (if s.ownsColour c (src.toNat % 4096) then .ok (colourTag (src.toNat % 4096)) else .error fcTagForeign)
  else
    (if !tagOk src then .error fcIllegal
     else if s.ownsColour c (tagColour src) then .ok src else .error fcTagForeign)

/-! ## The operands of a firing -/

/-- The operand on the highest declared port (R146). -/
def Firing.highest (fr : Firing) (f : Form) : Operand :=
  if f.arity = 0 then fr.l else if f.arity = 1 then fr.r else if f.arity = 2 then fr.c else dataOperand 0

/-- The tag source operand (R146); a free value where the highest declared port holds no operand, as in a firing of
`MERGE` on its other port (R106; log 122). -/
def Firing.tagSource (fr : Firing) (s : State) (f : Form) : W64 :=
  if (fr.highest f).kind.isSome then (fr.highest f).value else Config.openSource s.tick

/-- The output tag of a firing (R145). -/
def Firing.tagOut (fr : Firing) (s : State) (f : Form) : Except Nat W64 :=
  Machine.tagOut s (s.tileCtx fr.tile) f.tagop.toNat fr.tag (fr.tagSource s f)

/-- The operands in port order. -/
def Firing.operands (fr : Firing) : List Operand := [fr.l, fr.r, fr.c]
/-- The value of the first `ERR` operand in the order L, R, C. R41 does not say which value goes on where two
operands are `ERR`: DESIGN CHOICE, log 110. -/
def Firing.err? (fr : Firing) : Option W64 :=
  (fr.operands.find? fun o => o.kind == some .err).map Operand.value
/-- An operand is a `STOP` (R40). -/
def Firing.hasStop (fr : Firing) : Bool := fr.operands.any fun o => o.kind == some .stop
/-- The OR of the operands' `S` bits (R39). -/
def Firing.sOr (fr : Firing) : Bool := fr.operands.any Operand.s
/-- The operands that come from tokens, not from the immediate; a token on port P is one, in the C position (R30,
R55). -/
def Firing.tokens (fr : Firing) (f : Form) : List Operand :=
  (([fr.l, fr.r, fr.c].zip [0, 1, 2]).filter fun (o, k) =>
    o.kind.isSome && f.arity != 3 &&
      ((f.immp.toNat != k + 1 && decide (k ≤ f.arity.toNat)) || (k == 2 && predToken f))).map Prod.fst
/-- The token operands differ in their `S` bits (R133). -/
def Firing.sMixed (fr : Firing) (f : Form) : Bool :=
  let ts := fr.tokens f
  ts.any Operand.s && ts.any fun o => !o.s
/-- The predicate is true (R55): the immediate with `IMMP` 100, else the token of port P, in the C position. -/
def Firing.predicate (fr : Firing) (f : Form) : Bool := if f.immp = 4 then f.imm != 0 else fr.c.value != 0
/-- The predicate suppresses the evaluation (R55). -/
def Firing.suppressed (fr : Firing) (f : Form) : Bool :=
  (f.pred == 1 && !fr.predicate f) || (f.pred == 2 && fr.predicate f)

/-- A target field of a form, and whether it is valid (R58). -/
def targetOf (f : Form) (field : Nat) : BitVec 22 := if field = 0 then f.tgt0 else f.tgt1
/-- A target is valid. -/
def targetValid (t : BitVec 22) : Bool := t.getLsbD 21
/-- The role, element, slot and port of a target (R58). -/
def targetRole (t : BitVec 22) : Nat := bitsOf t.toNat 11 10
/-- The element of a target. -/
def targetElem (t : BitVec 22) : Nat := bitsOf t.toNat 7 4
/-- The slot of a target. -/
def targetSlot (t : BitVec 22) : Nat := bitsOf t.toNat 2 5
/-- The port of a target. -/
def targetPort (t : BitVec 22) : Nat := bitsOf t.toNat 0 2

/-! ## What a firing emits -/

/-- A token of a firing (R39). -/
def Firing.token (fr : Firing) (s : State) (kind : Kind) (v tag : W64) (sbit : Bool) : Token :=
  { kind, value := v, tag, s := sbit, round := fr.round, ctx := s.tileCtx fr.tile }

/-- An item for a target field, if its target is valid (R107). -/
def Firing.item (_fr : Firing) (f : Form) (field : Nat) (t : Token) (link : Option Nat := none) : List OutItem :=
  if targetValid (targetOf f field) then [.token field (targetOf f field) t link] else []

/-- Put items into the output queue as one entry (R38). -/
def State.pushOut (s : State) (t e k : Nat) (items : List OutItem) : State :=
  if items.isEmpty then s
  else s.modElem t e fun x => { x with out := x.out ++ [{ slot := k, items := items }] }

/-- The output queue of an element has a free entry (R38). -/
def State.outRoom (s : State) (t e : Nat) : Bool := (s.elem t e).out.length < 4

/-- Emit a firing's items. -/
def Firing.push (fr : Firing) (items : List OutItem) (s : State) : State :=
  s.pushOut fr.tile fr.elem fr.slot items

/-- The target fields that a value goes to: with `PRED` 11 the predicate chooses one (R55). -/
def Firing.fields (fr : Firing) (f : Form) : List Nat :=
  if f.pred = 3 then (if fr.predicate f then [0] else [1]) else [0, 1]

/-- Emit one value to the targets of some fields. -/
def Firing.emit (fr : Firing) (f : Form) (fields : List Nat) (kind : Kind) (v tag : W64) (sbit : Bool)
    (s : State) : State :=
  fr.push (fields.flatMap fun k => fr.item f k (fr.token s kind v tag sbit)) s

/-- Record a fault of a firing with its tag (R321). -/
def Firing.fault (fr : Firing) (code : Nat) (val aux : Option W64) (s : State) : State :=
  s.record { code, ukind := 0, unit := unitSlot s fr.tile fr.elem fr.slot, ctx := s.tileCtx fr.tile,
             tag := fr.tag, val, aux } (some (fr.tile, fr.elem))

/-- Record a fault and emit `ERR` with its code and a tag to each valid target. R147 gives that `ERR` its value and its tag;
its `S` is 0: DESIGN CHOICE, log 138. -/
def Firing.raiseAs (fr : Firing) (f : Form) (tag : W64) (code : Nat) (aux : Option W64) (s : State) : State :=
  fr.emit f [0, 1] .err (BitVec.ofNat 64 code) tag false (fr.fault code none aux s)

/-- Record a fault and emit `ERR` with its code and tag T to each valid target (R147). -/
def Firing.raise (fr : Firing) (f : Form) (code : Nat) (aux : Option W64) (s : State) : State :=
  fr.raiseAs f fr.tag code aux s

/-- What every firing does before its evaluation: `ERR`, then `STOP` operands (R40, R41), the
predicate (R55) and the tag (R147). The evaluation receives the output tag. R40 gives the emitted `STOP` its tag and
no value: a free value (log 111); its `S` is 0 (DESIGN CHOICE, log 138). A predicate that suppresses the evaluation suppresses its `SCALE_MISMATCH` too
(R133: DESIGN CHOICE, log 14), and so does a fault of the `TAGOP`, which is raised in its place (R147: DESIGN CHOICE,
log 138). -/
def Firing.run (fr : Firing) (f : Form) (eval : W64 → State → State) (s : State) : State :=
  match fr.err? with
  | some v =>
    let tag := match fr.tagOut s f with | .ok t => t | .error _ => fr.tag
    fr.emit f [0, 1] .err v tag false s
  | none =>
    if fr.hasStop then
      match fr.tagOut s f with
      | .ok t => fr.emit f [0, 1] .stop (Config.stopValue s.tick) t false s
      | .error code => fr.raise f code (some (f.tagop.setWidth 64)) s
    else if fr.suppressed f then s
    else match fr.tagOut s f with
      | .ok t => eval t s
      | .error code => fr.raise f code (some (f.tagop.setWidth 64)) s

/-- OR flags into the element's flag word (R85). -/
def State.orFlags (s : State) (t e : Nat) (fl : Flags) : State :=
  s.modElem t e fun x => { x with flags := x.flags ||| fl }

/-- A firing that computes one value and its flags. -/
def Firing.value (fr : Firing) (f : Form) (sbit : Bool) (v : W64 × Flags) (tag : W64) (s : State) : State :=
  fr.emit f (fr.fields f) .data v.1 tag sbit (s.orFlags fr.tile fr.elem v.2)

/-! ## The operands of a drover word (R59) -/

/-- `xd`, `xa`, `xb`, `xc`. -/
def Form.xd (f : Form) : Nat := f.tgt0.toNat % 32
/-- `xa`. -/
def Form.xa (f : Form) : Nat := bitsOf f.tgt1.toNat 0 5
/-- `xb`. -/
def Form.xb (f : Form) : Nat := bitsOf f.tgt1.toNat 5 5
/-- `xc`. -/
def Form.xc (f : Form) : Nat := bitsOf f.tgt1.toNat 10 5

/-- The operands of a word: `IMM` replaces `xb` or `xc` (R57, R59). -/
def coreOperands (opc : Nat) (f : Form) (c : Core) : W64 × W64 × W64 :=
  (c.reg (Form.xa f),
   if f.immp = 2 then widenPort opc f else c.reg (Form.xb f),
   if f.immp = 3 then widenPort opc f else c.reg (Form.xc f))

/-- The next word. -/
def Core.next (c : Core) : Core := { c with pc := c.pc + 1, wait := .none }

/-- A word that writes `xd` and goes on. -/
def State.coreResult (s : State) (n : Nat) (f : Form) (v : W64) : State :=
  s.modCore n fun c => (c.setReg (Form.xd f) v).next

/-- A word without a result. -/
def State.coreDone (s : State) (n : Nat) : State := s.modCore n Core.next

end Sys2Proof.Machine
end

