-- ==== Sys2Proof/Machine/Element.lean ====
section
/-! DEFINITION. The element: where tokens go (R25, R356), the placement stage with the serai (R26 to
R34), the candidates and the choice among them (R36), and the control stage (R47). -/

namespace Sys2Proof.Machine

open Sys2Proof

/-! ## Destinations (R25, R356) -/

/-- A group's manifest entry for a role, with `V` in bit 15 (R354). -/
def Group.entry (g : Group) (role : Nat) : Nat := mapGet 0 g.manifest role

/-- Translate a target through a group's manifest (R356). -/
def Group.resolve (g : Group) (target : BitVec 22) : Option Dest :=
  let e := g.entry (targetRole target)
  if e < 2 ^ 15 then none
  else if targetRole target = 0x3FF then some (.mailbox (e % 256) (targetSlot target))
  else some (.slot (e % 2 ^ 14) (targetElem target) (targetSlot target) (targetPort target))

/-- Translate a target at a tile. -/
def State.resolve (s : State) (t : Nat) (target : BitVec 22) : Option Dest :=
  match (s.tile t).group with
  | some g => (s.group g).resolve target
  | none => none

/-- Put a token on its way. -/
def State.send (s : State) (src : Source) (dst : Dest) (net : Net) (tok : Token) : State :=
  { s.learn src.who (arrivalKey s.tick) with net := s.net ++ [{ src, dst, net, tok, step := s.tick }] }

/-- The key of an edge's buffer (R102). -/
def edgeKey (e k field : Nat) : Nat := e * 64 + k * 2 + field

/-- The tokens of a slot's target field that are in its edge buffer (R25). -/
def State.edgeLoad (s : State) (t e k field : Nat) : Nat :=
  (s.net.filter fun fl => fl.src == .slot t e k field &&
    (match fl.dst with | .slot t' _ _ _ => t' == t | _ => false)).length

/-- An edge takes one more token of its producer (R25, R103). -/
def State.edgeOpen (s : State) (t e k field : Nat) (dst : Dest) : Bool :=
  match dst with
  | .slot t' _ _ _ =>
    if t' = t then
      let ed := mapGet {} (s.tile t).edges (edgeKey e k field)
      ed.closing.isEmpty && s.edgeLoad t e k field < ed.depth
    else true
  | .mailbox _ _ => true

/-- A slot's channels are reply channels, on `VN` 1: the ring port's replies and panel tokens (R19, R219). -/
def slotVn (i : Instr) : Bool :=
  match i with
  | .ring _ | .rcommitRsv _ | .rcommitRsvw _ | .rcommitPub _ | .rcommitTail _ | .rpop _ | .rstatRing _ => true
  | _ => false

/-! ## Inputs of a slot (R30, R51) -/

/-- The instruction of a slot. -/
def SlotState.op (k : SlotState) : Nat := match k.word with | some i => opcodeOf i | none => 0
/-- The fields of a slot's word. -/
def SlotState.form (k : SlotState) : Form := match k.word with | some i => formOf i | none => default

/-- A port (0 L, 1 R, 2 C, 3 P) is an input that tokens supply (R26, R51). -/
def portIsInput (i : Instr) (port : Nat) : Bool :=
  let f := formOf i
  if f.arity = 3 then false
  else if port = 3 then predToken f
  else if opcodeOf i = 0x8A ∨ opcodeOf i = 0x8D then port == 0
  else port ≤ f.arity.toNat && f.immp.toNat ≠ port + 1

/-- The ports that tokens supply. -/
def inputPorts (i : Instr) : List Nat := [0, 1, 2, 3].filter (portIsInput i)
/-- The ports whose tokens pair: the coordinate tokens on port C of `MMAS` do not (R232). -/
def pairPorts (i : Instr) : List Nat := (inputPorts i).filter fun p => !(opcodeOf i == 0xAD && p == 2)

/-- The position of a port in an entry: P occupies C (R30). -/
def positionOf (port : Nat) : Nat := if port ≥ 2 then 2 else port

/-- A position of an entry. -/
def Entry.pos (e : Entry) (k : Nat) : Operand := if k = 0 then e.l else if k = 1 then e.r else e.c
/-- Set a position of an entry. -/
def Entry.setPos (e : Entry) (k : Nat) (o : Operand) : Entry :=
  if k = 0 then { e with l := o } else if k = 1 then { e with r := o } else { e with c := o }

/-- A token as an operand. -/
def Token.operand (t : Token) : Operand := { kind := some t.kind, value := t.value, s := t.s }

/-- An entry of a slot with the operands that the immediate supplies (R30). -/
def newEntry (i : Instr) (k : Nat) (tag : W64) (round : BitVec 8) : Entry :=
  [0, 1, 2].foldl (fun e p => match immOperand (opcodeOf i) (formOf i) p with
    | some o => e.setPos p o
    | none => e) { state := .held, slot := k, tag, round }

/-- Every port that pairs is present. -/
def Entry.complete (e : Entry) (i : Instr) : Bool :=
  (pairPorts i).all fun p => (e.pos (positionOf p)).kind.isSome

/-- Fill a port of an entry; the latest operand's round and age stand (R36, R39). -/
def Entry.fill (e : Entry) (port : Nat) (tok : Token) (age : Nat) : Entry :=
  { (e.setPos (positionOf port) tok.operand) with age := age, round := laterRound e.round tok.round }

/-! ## The serai (R31 to R34) -/

/-- The records of a bucket, oldest first. -/
def Bucket.all (b : Bucket) : List SeraiRec := b.tile ++ b.overflow

/-- Change a bucket of an element. -/
def Element.modBucket (x : Element) (idx : Nat) (f : Bucket → Bucket) : Element :=
  { x with buckets := mapSet {} x.buckets idx (f (mapGet {} x.buckets idx)) }
/-- A bucket. -/
def Element.bucket (x : Element) (idx : Nat) : Bucket := mapGet {} x.buckets idx

/-- The 32 bytes of a record (R32). -/
def SeraiRec.bytes (r : SeraiRec) (next : Nat) : List Byte :=
  let kind := match r.tok.kind with | .stop => 2 | .err => 6 | .scale => 3 | _ => 0
  toBytes (kind + b2n r.tok.s * 8 + r.tok.round.toNat * 16 + r.port * 2 ^ 12 + r.tok.ctx.toNat * 2 ^ 16
      + next % 2 ^ 56 * 2 ^ 64) 16 ++ toBytes r.tok.value.toNat 8 ++ toBytes r.tok.tag.toNat 8

/-- The scratchpad address of the `i`-th tile record of a bucket (R31). -/
def Element.tileRecord (x : Element) (idx i : Nat) : Nat :=
  (x.base + 32 * (idx * x.depth + (if x.depth = 0 then 0 else i % x.depth))) % 2 ^ 16

/-- Write the tile part of a bucket: the bytes of each record present and the full bit of its granule
1; a record that is gone is cleared, its granule 1 before its granule 0 (R32). -/
def State.mirrorBucket (s : State) (t e idx : Nat) : State :=
  let x := s.elem t e
  let b := x.bucket idx
  (List.range x.depth).foldl (fun s i =>
    let j := (i + x.depth - b.head % (max x.depth 1)) % (max x.depth 1)
    let a := x.tileRecord idx i
    match b.tile[j]? with
    | some r => (spWrite pathE t a (r.bytes 0) s).setFull t ((a + 16) / 16) 1 true
    | none =>
      if s.isFull t ((a + 16) / 16) then
        (spWrite pathE t a (List.replicate 16 0)
          (spWrite pathE t (a + 16) (List.replicate 16 0) s)).setFull t ((a + 16) / 16) 1 false
      else s) s

/-- The overflow records of a bucket in memory: each names the next (R32). -/
def overflowWrites (agent : Agent) (c : BitVec 8) : List SeraiRec → Act Unit
  | [] => Act.ret ()
  | r :: rs =>
    let next := match rs with | r' :: _ => r'.addr | [] => 0
    (vwrite agent c r.addr (r.bytes next)).andThen fun _ => overflowWrites agent c rs

/-- Return an overflow record to the context's free list (R31). -/
def State.freeOverflow (s : State) (c : BitVec 8) (addr : Nat) : State :=
  s.modCtx c.toNat fun x => { x with seraiFree := x.seraiFree ++ [(addr - (x.reg 0x107).toNat) / 32] }

/-- An overflow record leaves its list: granule 1 is cleared, then granule 0 (R32), and the record is free (R31). -/
def State.clearOverflow (s : State) (t : Nat) (r : SeraiRec) : State :=
  let zero := List.replicate 16 (0 : Byte)
  (((s.writeLate (agentE t) (s.tileCtx t) (r.addr + 16) zero).writeLate (agentE t) (s.tileCtx t) r.addr zero)).freeOverflow
    (s.tileCtx t) r.addr

/-- The records of an overflow list are written again, each with its `NEXT` (R32). -/
def State.relinkAll (s : State) (t : Nat) : List SeraiRec → State
  | [] => s
  | r :: rs =>
    (s.writeLate (agentE t) (s.tileCtx t) r.addr (r.bytes (match rs with | r' :: _ => r'.addr | [] => 0))).relinkAll t rs

/-- The `NEXT` fields of an overflow list after records in its middle or at its end have left it (R32). -/
def State.relink (s : State) (t : Nat) (p : SeraiRec → Bool) (rs : List SeraiRec) : State :=
  if (rs.dropWhile p).any p then s.relinkAll t (rs.filter fun r => !p r) else s

/-- Remove records of a bucket, given by a test, and bring the tile part with its bits and the overflow list up to
date. -/
def State.dropRecords (s : State) (t e idx : Nat) (p : SeraiRec → Bool) : State :=
  let b := (s.elem t e).bucket idx
  let s := (b.overflow.filter p).foldl (fun s r => s.clearOverflow t r) (s.relink t p b.overflow)
  let gone := (b.tile.takeWhile p).length
  let depth := max (s.elem t e).depth 1
  (s.modElem t e fun x => x.modBucket idx fun b =>
    { tile := b.tile.filter (fun r => !p r), overflow := b.overflow.filter (fun r => !p r),
      head := (b.head + gone) % depth }).mirrorBucket t e idx

/-- Append a record to a bucket (R31, R33): to the tile part while the overflow list is empty and it
has room, else to the overflow list; `SERAI_FULL` while no record is free, or the fault of its page (R34). -/
def State.appendRecord (s : State) (t e idx : Nat) (r : SeraiRec) : Except Stop State :=
  let x := s.elem t e
  let b := x.bucket idx
  if b.overflow.isEmpty && b.tile.length < x.depth then
    .ok ((s.modElem t e fun x => x.modBucket idx fun b => { b with tile := b.tile ++ [r], regs := none }).mirrorBucket t e idx)
  else
    let c := s.tileCtx t
    match (s.ctx c.toNat).seraiFree with
    | [] => .error (.fault fcSeraiFull none none)
    | i :: rest =>
      if s.lateFor c then .error .wait
      else
      let r := { r with addr := ((s.ctx c.toNat).reg 0x107).toNat + 32 * i }
      let l := match b.overflow.getLast? with | some q => [q, r] | none => [r]
      match overflowWrites (agentE t) c l s with
      | .error e => .error e
      | .ok (_, s) =>
        .ok ((s.modCtx c.toNat fun y => { y with seraiFree := rest }).modElem t e fun x =>
          x.modBucket idx fun b => { b with overflow := b.overflow ++ [r], regs := none })

/-- The first record of each port that an equal tag gathers (R33). -/
def gatherRecords (i : Instr) (tok : Token) (port : Nat) (rs : List SeraiRec) : List SeraiRec :=
  (pairPorts i).filterMap fun p =>
    if p = port then none
    else rs.find? fun r => r.tok.tag == tok.tag && r.tok.ctx == tok.ctx && r.port == p

/-- What the placement stage does with a token: it is taken, or held with a reason. -/
abbrev Placed := Except Stop State

/-- A held head's `SERAI_FULL`, or the fault of the overflow record's page, is recorded once (R34); the other holds
are without a fault. -/
def State.noteHeld (s : State) (t e k : Nat) (n : Net) (tok : Token) (why : Stop) : State :=
  let rcd := fun (code : Nat) (val aux : Option W64) =>
    if (s.elem t e).noted.contains n then s
    else (s.modElem t e fun x => { x with noted := x.noted ++ [n] }).record
      { code, ukind := 0, unit := unitSlot s t e k, ctx := s.tileCtx t, tag := tok.tag, val, aux }
  match why with
  | .absent va => rcd fcPageAbsent (some (BitVec.ofNat 64 va)) none
  | .fault code val aux => rcd code val aux
  | _ => s

/-- Spill a token into a bucket (R33): it completes a pair with records of its tag, which goes to the
serai latch, or becomes a record. -/
def State.spill (s : State) (t e k idx port age : Nat) (i : Instr) (tok : Token) : Placed :=
  let x := s.elem t e
  let got := gatherRecords i tok port (x.bucket idx).all
  let pair := got.foldl (fun en r => en.fill r.port r.tok age) (newEntry i k tok.tag tok.round)
  let pair := pair.fill port tok age
  if pair.complete i then
    if x.latch.isSome then .error .wait
    else
      .ok ((s.dropRecords t e idx fun r => got.contains r).modElem t e fun x =>
        { x with latch := some { slot := k, entry := pair } })
  else s.appendRecord t e idx { slot := k, port, tok, age }

/-- An entry has been freed: a bucket that is not empty reserves it for a pull-back (R33). -/
def Element.freeEntry (x : Element) (idx : Nat) : Element :=
  let en : Entry := match (x.bucket idx).all with
    | r :: _ => { state := .reserved, slot := r.slot, tag := r.tok.tag }
    | [] => {}
  { x with entries := mapSet {} x.entries idx en }

/-- An entry. -/
def Element.entry (x : Element) (idx : Nat) : Entry := mapGet {} x.entries idx
/-- Set an entry. -/
def Element.setEntry (x : Element) (idx : Nat) (en : Entry) : Element :=
  { x with entries := mapSet {} x.entries idx en }

/-- The index of a tag's entry in a window (R29). -/
def entryIndex (f : Form) (slot : Nat) : Nat := (f.msbase.toNat + slot % 2 ^ f.mslog.toNat) % 64

/-- Place a token of a two- or three-input instruction (R29). -/
def State.placePair (s : State) (t e k port age : Nat) (i : Instr) (tok : Token) : Placed :=
  let idx := entryIndex (formOf i) (innerSlot tok.tag)
  let en := (s.elem t e).entry idx
  if en.state = .free then
    .ok (s.modElem t e fun x => x.setEntry idx ((newEntry i k tok.tag tok.round).fill port tok age))
  else if en.state = .held ∧ en.tag = tok.tag ∧ (en.pos (positionOf port)).kind = none then
    .ok (s.modElem t e fun x => x.setEntry idx (en.fill port tok age))
  else s.spill t e k idx port age i tok

/-! ## `RED` and `REORD` at placement (R192, R195) -/

/-- A float of `RED` or `ATOM`: add, or `FMIN` and `FMAX` (R141). -/
def floatCombine (op : Nat) (f : Form) (a b : W64) : W64 × Flags :=
  if op = 0 then let r := addF32 .rne a.toNat b.toNat; (BitVec.ofNat 64 r.1, r.2)
  else if op = 1 then fminValue { f with mod := 40 } a b 0
  else fmaxValue { f with mod := 40 } a b 0

/-- One combination of `RED` and of `ATOM` (R191, R192): types 0 to 5, operations 0 to 5. -/
def combine (f : Form) (type op : Nat) (a b : W64) : W64 × Flags :=
  let g := { f with mod := BitVec.ofNat 7 (8 * type) }
  if op = 3 then (a &&& b, 0) else if op = 4 then (a ||| b, 0) else if op = 5 then (a ^^^ b, 0)
  else if type = 5 then floatCombine op f a b
  else if op = 0 then addValue g a b 0
  else if op = 1 then minValue g a b 0
  else maxValue g a b 0

/-- The type and operation of `RED` and `ATOM` (R191). -/
def redType (f : Form) : Nat := bitsOf f.mod.toNat 3 3
/-- The operation. -/
def redOp (f : Form) : Nat := f.mod.toNat % 8

/-- A token joins the count of its entry (R192). -/
def redJoin (f : Form) (en : Entry) (tok : Token) (age : Nat) : Entry × Flags :=
  let (v, fl) := combine f (redType f) (redOp f) en.l.value tok.value
  ({ en with l := { en.l with value := v }, c := { kind := some .data, value := en.c.value + 1 },
             age := age, round := laterRound en.round tok.round }, fl)

/-- The entry that a first token of `RED` makes. -/
def redFirst (i : Instr) (k : Nat) (tok : Token) (age : Nat) : Entry :=
  { (newEntry i k tok.tag tok.round) with
    l := { kind := some .data, value := tok.value, s := tok.s }, c := { kind := some .data, value := 1 }, age := age }

/-- Record `SCALE_MISMATCH` of a token at a slot. -/
def State.scaleMismatch (s : State) (t e k : Nat) (tag : W64) : State :=
  s.record { code := fcScale, ukind := 0, unit := unitSlot s t e k, ctx := s.tileCtx t, tag } (some (t, e))

/-- The count of `RED` has been reached. -/
def Entry.counted (en : Entry) (f : Form) : Bool := en.c.value == f.imm.setWidth 64

/-- A `STOP` or `ERR` becomes the L operand of its `RED` entry, which is then ready (R40, R41). -/
def redClosed (f : Form) (en : Entry) (tok : Token) (age : Nat) : Entry :=
  { en with l := tok.operand, c := { kind := some .data, value := f.imm.setWidth 64 }, age := age
            round := laterRound en.round tok.round }

/-- The entry that the first token of a count makes. -/
def redStart (i : Instr) (k : Nat) (tok : Token) (age : Nat) : Entry :=
  if tok.kind = .data then redFirst i k tok age else redClosed (formOf i) (redFirst i k tok age) tok age

/-- A further token of a count (R192): the entry after it, or none where its `S` differs, so that it is discarded. -/
def redAdd (f : Form) (en : Entry) (tok : Token) (age : Nat) : Option (Entry × Flags) :=
  if tok.kind ≠ .data then some (redClosed f en tok age, 0)
  else if tok.s ≠ en.l.s then none
  else some (redJoin f en tok age)

/-- Place a token of `RED` (R192). A token of tag T that comes after the count has been reached, and before the entry
fires, starts a new count and so spills: DESIGN CHOICE, log 112. -/
def State.placeRed (s : State) (t e k age : Nat) (i : Instr) (tok : Token) : Placed :=
  let f := formOf i
  let idx := entryIndex f (innerSlot tok.tag)
  let en := (s.elem t e).entry idx
  if en.state = .free then .ok (s.modElem t e fun x => x.setEntry idx (redStart i k tok age))
  else if en.state = .held ∧ en.tag = tok.tag ∧ !en.counted f then
    match redAdd f en tok age with
    | none => .ok (s.scaleMismatch t e k tok.tag)
    | some (en, fl) => .ok ((s.modElem t e fun x => x.setEntry idx en).orFlags t e fl)
  else s.appendRecord t e idx { slot := k, port := 0, tok, age }

/-- A pull-back of `RED` combines the records of the tag, oldest first, until the count is reached (R192): the entry,
the records that it took, and the state. -/
def redPull (f : Form) (t e : Nat) : List SeraiRec → Entry → State → Entry × List SeraiRec × State
  | [], en, s => (en, [], s)
  | q :: qs, en, s =>
    if en.counted f then (en, [], s)
    else match redAdd f en q.tok q.age with
      | none => let r := redPull f t e qs en (s.scaleMismatch t e q.slot q.tok.tag); (r.1, q :: r.2.1, r.2.2)
      | some (en, fl) => let r := redPull f t e qs en (s.orFlags t e fl); (r.1, q :: r.2.1, r.2.2)

/-- Put a token into the single-operand buffer of 8 (R28). -/
def State.placeSingle (s : State) (t e k port age : Nat) (tok : Token) : Placed :=
  if (s.elem t e).buf.length < 8 then
    .ok (s.modElem t e fun x => { x with buf := x.buf ++ [{ slot := k, port, tok, age }] })
  else .error .wait

/-- Place a token of `REORD` (R195): the first one sets the key. A token outside a loop records its fault and goes
on as an `ERR`. -/
def State.placeReord (s : State) (t e k age : Nat) (i : Instr) (tok : Token) : Placed :=
  if tagDepth tok.tag = 0 then
    (s.placeSingle t e k 0 age { tok with kind := .err, value := BitVec.ofNat 64 fcTagDepth, s := false }).map fun s =>
      s.record { code := fcTagDepth, ukind := 0, unit := unitSlot s t e k, ctx := s.tileCtx t, tag := tok.tag } (some (t, e))
  else
    let f := formOf i
    let s := match (s.slot t e k).key with
      | none => s.modSlot t e k fun y => { y with key := some (tagPop tok.tag), count := f.imm.setWidth 64 &&& 0xFF }
      | some _ => s
    let idx := entryIndex f (innerSlot tok.tag)
    let en := (s.elem t e).entry idx
    if en.state = .free then
      .ok (s.modElem t e fun x => x.setEntry idx
        { state := .held, slot := k, l := tok.operand, tag := tok.tag, round := tok.round, age := age })
    else s.appendRecord t e idx { slot := k, port := 0, tok, age }

/-- The tag that `REORD` fires next. -/
def SlotState.expected (y : SlotState) : Option W64 := y.key.map fun t => tagPush t y.count.toNat

/-- An expected token found in a bucket goes to the serai latch (R195). -/
def State.seekReord (s : State) (t e k : Nat) : State :=
  let x := s.elem t e
  let y := x.slot k
  match y.word, y.expected with
  | some i, some tag =>
    if opcodeOf i ≠ 0x8D ∨ x.latch.isSome then s
    else
      let idx := entryIndex (formOf i) (innerSlot tag)
      if (x.entry idx).state = .held ∧ (x.entry idx).tag = tag then s
      else match (x.bucket idx).all.find? fun r => r.tok.tag == tag && r.slot == k with
        | none => s
        | some r =>
          s.modElem t e fun x => { x with latch := some { slot := k, entry :=
            { state := .held, slot := k, l := r.tok.operand, tag := tag, round := r.tok.round, age := r.age } } }
  | _, _ => s

/-! ## `SCALE` at placement (R236) -/

/-- The entry index of a block tag (R236). -/
def scaleIndex (f : Form) (b : W64) : Nat :=
  entryIndex f (if tagDepth b < 2 then 0 else tagField b (tagDepth b - 2) % 64)

/-- Place a token of an applying `SCALE` (R236): a scale is held, a `DATA` token meets the scale of its
block in the latch, and either spills where the entry does not fit. -/
def State.placeScale (s : State) (t e k port age : Nat) (i : Instr) (tok : Token) : Placed :=
  let f := formOf i
  let x := s.elem t e
  if tok.kind = .scale then
    let idx := scaleIndex f tok.tag
    if (x.entry idx).state = .free then
      .ok (s.modElem t e fun x => x.setEntry idx
        { state := .held, slot := k, r := tok.operand, c := { value := f.imm.setWidth 64 &&& 0xFFFF },
          tag := tok.tag, round := tok.round, age := age })
    else s.appendRecord t e idx { slot := k, port, tok, age }
  else
    let idx := scaleIndex f (blockTag tok.tag)
    let en := x.entry idx
    if en.state = .held ∧ en.tag = blockTag tok.tag then
      if x.latch.isSome then .error .wait
      else .ok (s.modElem t e fun x => { x with latch := some { slot := k, entry :=
        { state := .held, slot := k, l := tok.operand, r := en.r, tag := tok.tag, round := tok.round, age := age } } })
    else s.appendRecord t e idx { slot := k, port, tok, age }

/-- A bucket record whose scale is held fires through the latch, oldest first (R236). -/
def State.seekScale (s : State) (t e k : Nat) : State :=
  let x := s.elem t e
  match (x.slot k).word with
  | none => s
  | some i =>
    if opcodeOf i ≠ 0x76 ∨ (formOf i).arity ≠ 1 ∨ x.latch.isSome then s
    else
      let f := formOf i
      let hit := (List.range (2 ^ f.mslog.toNat)).findSome? fun j =>
        let idx := (f.msbase.toNat + j) % 64
        let en := x.entry idx
        if en.state = .held ∧ en.r.kind = some .scale then
          ((x.bucket idx).all.find? fun r => r.tok.kind != .scale && blockTag r.tok.tag == en.tag).map fun r => (idx, en, r)
        else none
      match hit with
      | none => s
      | some (idx, en, r) =>
        (s.dropRecords t e idx (· == r)).modElem t e fun x => { x with latch := some { slot := k, entry :=
          { state := .held, slot := k, l := r.tok.operand, r := en.r, tag := r.tok.tag, round := r.tok.round, age := r.age } } }

/-! ## The placement stage (R26, R28) -/

/-- A refused arrival (R26): its fault code. Where several cases of R26 hold for one token, the first of the tests below
names the fault: the element's state, `VOID`, `CTX`, `KIND` 7, `SCALE`, the port. DESIGN CHOICE, log 137. -/
def refusedArrival (s : State) (t e k port : Nat) (tok : Token) : Option Nat :=
  let x := s.elem t e
  if x.state = .idle ∨ x.state = .fused then some fcCfgNack
  else match (x.slot k).word with
    | none => some fcIllegal
    | some i =>
      let scaleNode := opcodeOf i == 0x76 && (formOf i).arity == 1
      if tok.ctx ≠ s.tileCtx t then some fcPriv
      else if tok.kind = .reserved then some fcIllegal
      else if tok.kind = .scale ∧ !scaleNode then some fcScale
      else if !portIsInput i port then some fcIllegal
      else if scaleNode ∧ ((tok.kind = .scale ∧ port ≠ 1) ∨ (tok.kind = .data ∧ port ≠ 0)) then some fcIllegal
      else none

/-- The number of a kind (R23). -/
def kindCode : Kind → Nat
  | .data => 0 | .mark => 1 | .stop => 2 | .scale => 3
  | .reconf => 4 | .relatch => 5 | .err => 6 | .reserved => 7

/-- A round may still come at a slot: it is 1 to 128 after the last one acted on, which is as far as a source may be ahead
while that one's successor is undrained (R44). -/
def SlotState.mayCome (y : SlotState) (n : BitVec 8) : Bool := 1 ≤ (n - y.done).toNat && (n - y.done).toNat ≤ 128

/-- Record a marker's arrival at a slot (R47): a round that was acted on, or that the port has, is not kept again. -/
def SlotState.noteMark (y : SlotState) (m : MarkIn) : SlotState :=
  if !y.mayCome m.round || y.marks.any (fun q => q.port == m.port && q.round == m.round) then y
  else { y with marks := y.marks ++ [m] }

/-- The placement stage takes a token for a slot's port (R28). A token that R26 refuses is not taken, and the arrival
counter does not advance for it: DESIGN CHOICE, log 137. -/
def State.place (s : State) (t e k port : Nat) (tok : Token) : Placed :=
  match refusedArrival s t e k port tok with
  | some code => .ok (s.record { code, ukind := 0, unit := unitSlot s t e k, ctx := s.tileCtx t, tag := tok.tag, aux := some (BitVec.ofNat 64 (kindCode tok.kind + port * 256)) })
  | none =>
    match (s.slot t e k).word with
    | none => .ok s
    | some i =>
      let opc := opcodeOf i
      let f := formOf i
      let age := (s.elem t e).arrival + 1
      let r : Placed :=
        if tok.kind = .mark then .ok (s.modSlot t e k fun y => y.noteMark ⟨port, tok.round, age⟩)
        else if tok.kind = .reconf ∨ tok.kind = .relatch then
          .ok (s.modSlot t e k fun y => { y with control := y.control ++ [⟨port, tok, age⟩] })
        else if opc = 0xAD ∧ port = 2 then
          (if (s.slot t e k).coords.length < 64 then
            .ok (s.modSlot t e k fun y => { y with coords := y.coords ++ [tok] })
           else .error .wait)
        else if opc = 0x8A then s.placeRed t e k age i tok
        else if opc = 0x8D ∧ tok.kind = .data then s.placeReord t e k age i tok
        else if opc = 0x76 ∧ f.arity = 1 then s.placeScale t e k port age i tok
        else if inputCount opc f ≤ 1 ∨ opc = 0x8D then
          s.placeSingle t e k port age tok
        else s.placePair t e k port age i tok
      match r with
      | .error w => .error w
      | .ok s => .ok (((s.modElem t e fun x => { x with arrival := x.arrival + 1 }).seekReord t e k).seekScale t e k)

/-- The input queue of a virtual network; a scale token stays on its network until it is placed. -/
def Element.input (x : Element) : Net → List (Nat × Nat × Token)
  | .vn0 => x.in0
  | .vn1 => x.in1
  | .scale => []
/-- Replace the input queue of a virtual network. -/
def Element.setInput (x : Element) (n : Net) (q : List (Nat × Nat × Token)) : Element :=
  match n with
  | .vn0 => { x with in0 := q }
  | .vn1 => { x with in1 := q }
  | .scale => x

/-- A head of a network was taken: a later hold there is recorded anew (R34). -/
def Element.taken (x : Element) (n : Net) : Element := { x with noted := x.noted.filter (· != n) }

/-- The placement stage tries the head of a network's input queue: the state, and whether it was taken (R28, R34). -/
def State.tryHead (s : State) (t e : Nat) (n : Net) : State × Bool :=
  match (s.elem t e).input n with
  | [] => (s, false)
  | (k, p, tok) :: rest => match s.place t e k p tok with
    | .ok s => (s.modElem t e fun x => (x.setInput n rest).taken n, true)
    | .error w => (s.noteHeld t e k n tok w, false)

/-- The placement stage is free for an arrival: no entry waits for its pull-back (R33). -/
def Element.stageFree (x : Element) : Bool := x.entries.all fun kv => kv.2.state != .reserved

/-- One turn of the placement stage: the head of `VN` 1, or of `VN` 0 where that is held (R28, R34). -/
def State.placeOne (s : State) (t e : Nat) : State :=
  if (s.elem t e).stageFree then
    let r := s.tryHead t e .vn1
    if r.2 then r.1 else (r.1.tryHead t e .vn0).1
  else s

/-- A record is that of the pair in the serai latch, and is freed when the pair fires (R195, R236). -/
def Element.inLatch (x : Element) (r : SeraiRec) : Bool :=
  match x.latch with
  | some p => r.slot == p.slot && r.age == p.entry.age
  | none => false

/-- Fill a reserved entry from its bucket: the oldest record, then every other record of its tag on a
port not yet present (R33); for `RED` every record of the tag (R192). -/
def State.pullInto (s : State) (t e idx : Nat) : State :=
  let x := s.elem t e
  match (x.bucket idx).all.filter fun r => !x.inLatch r with
  | [] => s.modElem t e fun x => x.setEntry idx {}
  | r :: _ =>
    match (x.slot r.slot).word with
    | none => s.dropRecords t e idx (· == r)
    | some i =>
      let f := formOf i
      if opcodeOf i = 0x8A then
        let rs := (x.bucket idx).all.filter fun q => q.tok.tag == r.tok.tag
        let got := redPull f t e rs.tail (redStart i r.slot r.tok r.age) s
        (got.2.2.dropRecords t e idx fun q => q == r || got.2.1.contains q).modElem t e fun x => x.setEntry idx got.1
      else if opcodeOf i = 0x8D then
        (s.dropRecords t e idx (· == r)).modElem t e fun x => x.setEntry idx
          { state := .held, slot := r.slot, l := r.tok.operand, tag := r.tok.tag, round := r.tok.round, age := r.age }
      else if opcodeOf i = 0x76 then
        (match (x.bucket idx).all.find? fun q => q.tok.kind == .scale with
          | some q =>
            ((s.dropRecords t e idx (· == q)).modElem t e fun x => x.setEntry idx
              { state := .held, slot := q.slot, r := q.tok.operand, c := { value := f.imm.setWidth 64 &&& 0xFFFF },
                tag := q.tok.tag, round := q.tok.round, age := q.age }).seekScale t e q.slot
          | none => s.modElem t e fun x => x.setEntry idx {})
      else
        let got := gatherRecords i r.tok r.port (x.bucket idx).all
        let en := (got.foldl (fun en q => en.fill q.port q.tok q.age)
          ((newEntry i r.slot r.tok.tag r.tok.round).fill r.port r.tok r.age))
        (s.dropRecords t e idx fun q => q == r || got.contains q).modElem t e fun x => x.setEntry idx en

/-! ## Candidates (R36) -/

/-- Where a candidate stands. -/
inductive Place where
  | entry (idx : Nat)
  | latch
  | buf (i : Nat)
  /-- A `STOP` 1 at the head of an `MMAS` slot's coordinate buffer (R232). -/
  | coord (k : Nat)
  deriving DecidableEq, Repr

/-- A ready pair: its slot, operands, tag, round, age and how often it was passed over. -/
structure Cand where
  place : Place
  slot : Nat
  ent : Entry
  deriving DecidableEq, Repr

/-- The earliest of some rounds. -/
def earliestRound : List (BitVec 8) → Option (BitVec 8)
  | [] => none
  | r :: rs => match earliestRound rs with
    | none => some r
    | some q => some (if roundLater r q then q else r)

/-- The round that the slot acts on next: the earliest whose marker stands at every input port (R47). -/
def SlotState.nextMark (y : SlotState) : Option (BitVec 8) :=
  match y.word with
  | none => none
  | some i =>
    let ports := inputPorts i
    earliestRound ((y.marks.map MarkIn.round).filter fun r =>
      !ports.isEmpty && ports.all fun p => y.marks.any fun m => m.port == p && m.round == r)

/-- The round of the control stage: the one under release, else the next marker's. -/
def SlotState.markRound (y : SlotState) : BitVec 8 := y.releasing.getD (y.nextMark.getD (y.done + 1))

/-- The round whose marker a `PUNCT` 01 slot forwards next (R48); while no round's marker stands at every port, the latest
round that this can be: no port's next marker is of a later one. -/
def SlotState.alignRound (y : SlotState) : BitVec 8 :=
  y.nextMark.getD <| ([0, 1, 2, 3].filterMap fun p =>
    earliestRound ((y.marks.filter fun m => m.port == p).map MarkIn.round)).foldl laterRound (y.done + 1)

/-- A held-back pair: `PUNCT` 01 and a round later than the next to be forwarded (R48). -/
def SlotState.alignHolds (y : SlotState) (round : BitVec 8) : Bool :=
  y.form.punct == 1 && roundLater round y.alignRound

/-- A round is closed at a slot: its marker has been acted on (R47). -/
def SlotState.closeRound (y : SlotState) (n : BitVec 8) : SlotState :=
  { y with done := n, releasing := none, marks := y.marks.filter fun m => roundLater m.round n }

/-- The tokens of a tag through its second `STOP` 0, and what stays (R232); none while one is missing. -/
def takeCoords (tag : W64) : Nat → List Token → Option (List Token × List Token)
  | _, [] => none
  | n, t :: ts =>
    if t.tag ≠ tag then (takeCoords tag n ts).map fun (a, b) => (a, t :: b)
    else if t.kind = .stop ∧ t.value = 0 then
      (if n = 0 then some ([t], ts) else (takeCoords tag (n - 1) ts).map fun (a, b) => (t :: a, b))
    else (takeCoords tag n ts).map fun (a, b) => (t :: a, b)

/-- The coordinates that the pair of a tag takes: those of one panel, or an `ERR` in their place (R232). -/
def coordSet (tag : W64) : List Token → Option (List Token × List Token)
  | [] => none
  | t :: ts =>
    if t.tag ≠ tag then none
    else if t.kind = .err then some ([t], ts)
    else if t.kind = .stop ∧ t.value = 1 then none
    else takeCoords tag 1 (t :: ts)

/-- A held entry is a ready pair of its slot. -/
def entryReady (y : SlotState) (en : Entry) : Bool :=
  match y.word with
  | none => false
  | some i =>
    if en.state ≠ .held then false
    else if opcodeOf i = 0x8A then en.counted (formOf i)
    else if opcodeOf i = 0x8D then y.expected == some en.tag
    else if opcodeOf i = 0x76 ∧ (formOf i).arity = 1 then false
    else if opcodeOf i = 0xAD then
      en.complete i && (coordSet en.tag y.coords).isSome
    else en.complete i

/-- A single-operand entry as a pair: its token on its port, the immediates beside it. -/
def bufEntry (i : Instr) (b : BufTok) : Entry :=
  { ((newEntry i b.slot b.tok.tag b.tok.round).fill b.port b.tok b.age) with passed := b.passed }

/-- The ready pairs of an element; `fits` says of a single-operand entry whether its slot can fire. -/
def Element.cands (x : Element) (fits : BufTok → Bool) (ready : Cand → Bool := fun _ => true) : List Cand :=
  let es := x.entries.filterMap fun kv =>
    if entryReady (x.slot kv.2.slot) kv.2 then some (Cand.mk (.entry kv.1) kv.2.slot kv.2) else none
  let ls := match x.latch with
    | some p =>
      if (x.slot p.slot).op = 0xAD ∧ (coordSet p.entry.tag (x.slot p.slot).coords).isNone then []
      else [Cand.mk .latch p.slot p.entry]
    | none => []
  let bs := (x.buf.zip (List.range x.buf.length)).filterMap fun (b, k) =>
    match (x.slot b.slot).word with
    | some i => if fits b then some (Cand.mk (.buf k) b.slot (bufEntry i b)) else none
    | none => none
  let ss := x.slots.filterMap fun kv => match kv.2.coords with
    | c :: _ => if c.kind = .stop ∧ c.value = 1 then
        some (Cand.mk (.coord kv.1) kv.1 { slot := kv.1, tag := c.tag, round := c.round }) else none
    | [] => none
  ((es ++ ls).filter ready ++ bs ++ ss).filter fun c => !(x.slot c.slot).alignHolds c.ent.round

/-- The better of two pairs: lower age, then lower slot (R36). -/
def Cand.before (a b : Cand) : Bool := a.ent.age < b.ent.age || (a.ent.age == b.ent.age && a.slot < b.slot)

/-- The best of a list of pairs. -/
def bestCand : List Cand → Option Cand
  | [] => none
  | c :: cs => match bestCand cs with
    | none => some c
    | some d => if d.before c then some d else some c

/-- A held scale and a bucket record that waits to meet it (R236). -/
def Element.scaleWaits (x : Element) (k : Nat) (idx : Nat) (n : BitVec 8) : Bool :=
  let en := x.entry idx
  en.state == .held && en.slot == k && en.r.kind == some .scale && (x.bucket idx).all.any fun r =>
    r.slot == k && r.tok.kind != .scale && blockTag r.tok.tag == en.tag && !roundLater r.tok.round n

/-- The token that a `REORD` fires next, or a token whose scale a `SCALE` holds, of round n or earlier, stands in a bucket
while another pair holds the serai latch: it is ready, and waits for the latch (R195, R236). -/
def Element.expectedWaits (x : Element) (k : Nat) (n : BitVec 8) : Bool :=
  let y := x.slot k
  x.latch.isSome && match y.word, y.expected with
  | some i, some tag => opcodeOf i == 0x8D
      && (x.bucket (entryIndex (formOf i) (innerSlot tag))).all.any fun r =>
        r.tok.tag == tag && r.slot == k && !roundLater r.tok.round n
  | some i, none => opcodeOf i == 0x76 && (formOf i).arity == 1
      && (List.range 64).any fun idx => x.scaleWaits k idx n
  | _, _ => false

/-- The slot's next marker is actionable (R47): a token that waits to fire holds it back. -/
def Element.markerReady (x : Element) (k : Nat) (cands : List Cand) : Bool :=
  match (x.slot k).nextMark with
  | none => false
  | some n => (cands.all fun c => !(c.slot == k && !roundLater c.ent.round n)) && !x.expectedWaits k n

/-- What a control stage acts on. -/
inductive ControlItem where
  | token
  | marker
  deriving DecidableEq, Repr

/-- The control stage of a slot acts on its oldest `RECONF` or `RELATCH` token, or on its marker, or on the `MARK` that it
still owes, in arrival order for each port (R36, R47); `free` says that the marker need not wait. -/
def Element.controlPick (x : Element) (k : Nat) (cands : List Cand) (free : Bool) : Option ControlItem :=
  let y := x.slot k
  let mark := free && (y.releasing.isSome || x.markerReady k cands)
  match y.control with
  | [] => if mark then some .marker else none
  | c :: _ =>
    if mark && y.marks.any (fun m => m.port == c.port && m.round == y.markRound && m.age < c.age) then some .marker
    else some .token

/-- The slot whose control stage acts, the lower slot first (R36), and on what. -/
def Element.controlSlot (x : Element) (free : Nat → Bool) : Option (Nat × ControlItem) :=
  let cs := x.cands fun _ => true
  (List.range 32).findSome? fun k => (x.controlPick k cs (free k)).map fun c => (k, c)

/-- What an element does in a turn (R36). -/
inductive Choice where
  | nothing
  | control (k : Nat) (c : ControlItem)
  | pair (c : Cand)
  deriving DecidableEq, Repr

/-- The choice by R36: a pair passed over 32 times, a control stage, then the lowest age. -/
def Element.choose (x : Element) (fits : BufTok → Bool) (ready : Cand → Bool) (free : Nat → Bool) : Choice :=
  let cs := x.cands fits ready
  match bestCand (cs.filter fun c => c.ent.passed ≥ 32) with
  | some c => .pair c
  | none =>
    match x.controlSlot free with
    | some (k, c) => .control k c
    | none => match bestCand cs with
      | some c => .pair c
      | none => .nothing

/-- Every other candidate is passed over once more (R36). -/
def Element.passOver (x : Element) (cs : List Cand) (fired : Option Place) : Element :=
  cs.foldl (fun x c =>
    if some c.place = fired then x
    else match c.place with
      | .entry idx => x.setEntry idx { x.entry idx with passed := (x.entry idx).passed + 1 }
      | .latch => { x with latch := x.latch.map fun p => { p with entry := { p.entry with passed := p.entry.passed + 1 } } }
      | .buf i => { x with buf := x.buf.set i { (x.buf.getD i default) with passed := (x.buf.getD i default).passed + 1 } }
      | .coord _ => x) x

/-- The firing of a pair (R39): with it go the coordinates of an `MMAS`, whose `ERR` is its C operand. -/
def Cand.firing (c : Cand) (t e : Nat) (y : SlotState) : Firing :=
  let fr : Firing :=
    { tile := t, elem := e, slot := c.slot, l := c.ent.l, r := c.ent.r, c := c.ent.c, tag := c.ent.tag, round := c.ent.round }
  if y.op ≠ 0xAD then fr
  else match c.place with
    | .coord _ => { fr with coords := y.coords.take 1 }
    | _ => match coordSet c.ent.tag y.coords with
      | some (ts, _) =>
        { fr with coords := ts, c := match ts with | [x] => x.operand | _ => {} }
      | none => fr

/-- Free the place of a pair that fires (R39): an entry starts its pull-back, and an `MMAS` takes its
coordinates. -/
def Element.take (x : Element) (c : Cand) : Element :=
  let x := if (x.slot c.slot).op = 0xAD then x.modSlot c.slot fun y => { y with coords :=
      match c.place with
      | .coord _ => y.coords.tail
      | _ => match coordSet c.ent.tag y.coords with | some (_, rest) => rest | none => y.coords }
    else x
  match c.place with
  | .entry idx => x.freeEntry idx
  | .latch => { x with latch := none }
  | .buf i => { x with buf := dropNth x.buf i }
  | .coord _ => x

/-- The record of a `REORD` or `SCALE` pair that fires from the latch is freed with it (R195, R236). -/
def State.dropFired (s : State) (t e : Nat) (c : Cand) : State :=
  let y := s.slot t e c.slot
  if c.place = .latch ∧ (y.op = 0x8D ∨ y.op = 0x76) then
    let idx := if y.op = 0x8D then entryIndex y.form (innerSlot c.ent.tag) else scaleIndex y.form (blockTag c.ent.tag)
    s.dropRecords t e idx fun r => r.slot == c.slot && r.age == c.ent.age
  else s

/-- The serai latch has been freed by a slot: the other slots whose expected token or scaled token waits in a bucket look
for it again (R195, R236). -/
def State.seekOthers (s : State) (t e k : Nat) : State :=
  (List.range 32).foldl (fun s j => if j = k then s else (s.seekReord t e j).seekScale t e j) s

/-- When the serai latch has been freed, the other slots look for their tokens; a `REORD` slot that fires looks once its
`exp` has advanced. -/
def State.seekAgain (s : State) (t e : Nat) (c : Cand) : State :=
  if c.place = .latch then s.seekOthers t e c.slot else s

/-- A record that a release passes stands in the serai latch too: the latch is freed with it (R195). -/
def State.unlatchRecord (s : State) (t e : Nat) (r : SeraiRec) : State :=
  if (s.elem t e).inLatch r then (s.modElem t e fun x => { x with latch := none }).seekOthers t e r.slot else s

/-- A chosen pair leaves its place to fire (R36, R39). -/
def State.takePair (s : State) (t e : Nat) (cs : List Cand) (c : Cand) : State :=
  ((s.modElem t e fun x => ((x.passOver cs (some c.place)).take c)).dropFired t e c).seekAgain t e c

end Sys2Proof.Machine
end

