-- ==== Sys2Proof/Machine/Units.lean ====
section
/-! DEFINITION. How an instruction's meaning takes the unit that executes it: a slot's firing, a drover
core's word, or a request at its unit (R3, R107, R116, R174). -/

namespace Sys2Proof.Machine

open Sys2Proof

/-- The answer of a meaning. -/
abbrev Answer := Host.Outcome State Fault Refusal

/-- An instruction marked F: a firing; on a drover core `ILLEGAL`, check 3 (R3, R63). -/
def onSlot (s : State) (go : Firing → State → State) : Answer :=
  match s.unit with
  | .slot fr => .next (go fr s)
  | .core n => .next (s.enterHandler n fcIllegal none (some 3))
  | _ => .fault .noUnit

/-- An instruction marked S: a drover word (R3). -/
def onCore (s : State) (go : Nat → State → State) : Answer :=
  match s.unit with
  | .core n => .next (go n s)
  | _ => .fault .noUnit

/-- An instruction marked FS (R3). -/
def onBoth (s : State) (slot : Firing → State → State) (core : Nat → State → State) : Answer :=
  match s.unit with
  | .slot fr => .next (slot fr s)
  | .core n => .next (core n s)
  | _ => .fault .noUnit

/-- A request instruction marked F: a firing sends it, its unit performs it (R174). -/
def onRequest (s : State) (slot : Firing → State → State) (unit : Engine → Req → State → State) : Answer :=
  match s.unit with
  | .slot fr => .next (slot fr s)
  | .core n => .next (s.enterHandler n fcIllegal none (some 3))
  | .engine e r => .next (unit e r s)
  | .idle => .fault .noUnit

/-- A request instruction marked FS. -/
def onAll (s : State) (slot : Firing → State → State) (core : Nat → State → State)
    (unit : Engine → Req → State → State) : Answer :=
  match s.unit with
  | .slot fr => .next (slot fr s)
  | .core n => .next (core n s)
  | .engine e r => .next (unit e r s)
  | .idle => .fault .noUnit

/-- A word raises a fault of its own (R127). -/
def State.coreFault (s : State) (n code : Nat) (aux val : Option W64 := none) : State :=
  s.enterHandler n code val aux

/-- A word that an operation decides: its result, a fault of the core, or a wait in which the word is
executed again. An absent page is a fault of the word (R175). -/
def State.coreAct {α : Type} (s : State) (n : Nat) (m : Act α) (k : α → State → State) : State :=
  match m s with
  | .ok (a, s') => k a s'
  | .error (.fault code val aux) => s.enterHandler n code val aux
  | .error (.error code) => s.enterHandler n code none none
  | .error (.absent va) => s.enterHandler n fcPageAbsent (some (BitVec.ofNat 64 va)) none
  | .error .wait => s

/-- The context of a core. -/
def Core.context (c : Core) : BitVec 8 := c.ctxid.setWidth 8

/-! ## Commands of a drover core (R123) -/

/-- A command enters the scoreboard of 32; a full one stalls the core (R123). -/
def State.command (s : State) (n port : Nat) (r : Req) : State :=
  let c := s.core n
  if c.cmds.length < 32 then
    (s.setCore n { c with cmds := c.cmds ++ [{ req := r, port := port }] }).coreDone n
  else s

/-- A command whose reply the core waits for and writes to `xd`: it is sent once, and the word is
executed again until the reply is there. -/
def State.query (s : State) (n : Nat) (f : Form) (port : Nat) (r : Req) : State :=
  let c := s.core n
  match c.wait with
  | .reply v => s.coreResult n f v
  | .sent _ => s
  | _ =>
    if c.cmds.length < 32 then
      s.setCore n { c with cmds := c.cmds ++ [{ req := r, port := port }], wait := .sent r.seq }
    else s

/-- The launch colour's tag of the kernel that a core serves (R227). -/
def State.coreTag (s : State) (n : Nat) : W64 :=
  match (s.core n).group with
  | some g => colourTag (s.group g).kernel.lcol
  | none => 0

/-- A command of a core: its word, its tag, and its operands. -/
def State.commandReq (s : State) (n : Nat) (i : Instr) (l r c : W64) (blk : List Byte) : Req :=
  { instr := i, origin := .core n, tag := s.coreTag n, wave := s.coreTag n, ctx := (s.core n).context
    l := l, r := r, c := c, blk := blk, seq := s.tick }

/-- A command has completed: it leaves the scoreboard (R123). What this step wrote is an effect of it. -/
def State.commandDone (s : State) (r : Req) : State :=
  match r.origin with
  | .core n => (s.markCommand n fun e => e.tick == s.tick).modCore n fun c => { c with cmds := c.cmds.filter fun x => !(x.issued && x.req.seq == r.seq) }
  | _ => s

/-- The tile that a core's command names by role: bound in its group and inside its region (R197, R227). -/
def State.commandTile (s : State) (n : Nat) (role : Nat) : Option Nat :=
  match (s.core n).group with
  | none => none
  | some g =>
    let e := (s.group g).entry role
    if role < 0x3FF ∧ e ≥ 2 ^ 15 ∧ regionOf (e % 2 ^ 14) = n then some (e % 2 ^ 14) else none

/-! ## Requests (R174) -/

/-- The request of a firing: its operands, output tag and wave. -/
def Firing.request (fr : Firing) (i : Instr) (kind : Kind) (tag : W64) (s : State) : Req :=
  { instr := i, origin := .slot fr.tile fr.elem fr.slot, kind := kind, tag := tag, wave := fr.tag, round := fr.round
    ctx := s.tileCtx fr.tile, l := fr.l.value, r := fr.r.value, c := fr.c.value, s := fr.sOr
    coords := fr.coords, seq := s.tick }

/-- A firing of a request instruction: `ERR` and `STOP` operands travel on the request channel and no
request is executed (R40, R41, R49); otherwise one request leaves (R174). -/
def Firing.sendRequest (fr : Firing) (i : Instr) (s : State) : State :=
  let f := formOf i
  match fr.err? with
  | some v =>
    let tag := match fr.tagOut s f with | .ok t => t | .error _ => fr.tag
    fr.push [.request { fr.request i .err tag s with l := v }] s
  | none =>
    if fr.hasStop then
      match fr.tagOut s f with
      | .ok t => fr.push [.request (fr.request i .stop t s)] s
      | .error code => fr.raise f code (some (f.tagop.setWidth 64)) s
    else if fr.suppressed f then s
    else match fr.tagOut s f with
      | .ok t => fr.push [.request (fr.request i .data t s)] s
      | .error code => fr.raise f code (some (f.tagop.setWidth 64)) s

/-- The source key of a serving unit's replies. -/
def Req.source (e : Engine) : Source := .unit (engineKey e)

/-- Send a token of a request to one of its targets (R24, R174): on `VN` 1, through the manifest of the
firing's tile; a role that is not bound records `ILLEGAL` and is not sent (R356). -/
def State.answerTo (s : State) (src : Source) (r : Req) (target : BitVec 22) (tok : Token) : State :=
  match r.origin with
  | .core _ => s
  | .slot t e k =>
    if targetValid target then
      match s.resolve t target with
      | some d => s.send src d .vn1 tok
      | none => s.record { code := fcIllegal, ukind := 0, unit := unitSlot s t e k, ctx := r.ctx, tag := r.tag, aux := some (target.setWidth 64) }
    else s

/-- The unit of a request: its tile or its core. -/
def Req.unit (r : Req) : Nat := match r.origin with | .slot t _ _ => t | .core n => 16384 + n

/-- A reply: one token for each valid target (R174); to a drover word, its result. With it goes what is ordered before
the request (R426). -/
def State.reply (s : State) (e : Engine) (r : Req) (kind : Kind) (v : W64) : State :=
  match r.origin with
  | .core n => (s.learn e.unit (16384 + n)).modCore n fun c => if c.wait = .sent r.seq then { c with wait := .reply v } else c
  | .slot _ _ _ =>
    let s := s.learn r.unit (arrivalKey s.tick)
    let f := formOf r.instr
    let tok : Token := { kind := kind, value := v, tag := r.tag, s := false, round := r.round, ctx := r.ctx }
    (s.answerTo (Req.source e) r f.tgt0 tok).answerTo (Req.source e) r f.tgt1 tok

/-- The group of a tile. -/
def State.groupOf (s : State) (t : Nat) : Nat := ((s.tile t).group).getD 0

/-- A sink's notice of a round (R45). -/
def State.notify (s : State) (g : Nat) (round : BitVec 8) : State :=
  { s with notices := s.notices ++ [{ group := g, round := round }] }

/-- A marker, `STOP` or `ERR` on a request channel is forwarded to each reply target; a marker without
a target ends there, at a sink (R45, R49). A command's `ERR` is its result. -/
def State.forward (s : State) (e : Engine) (r : Req) : State :=
  match r.origin with
  | .core _ => if r.kind = .err then s.reply e r .err r.l else s
  | .slot t _ _ =>
    let s := s.learn r.unit (arrivalKey s.tick)
    let f := formOf r.instr
    let tok : Token := { kind := r.kind
                         value := if r.kind = .err then r.l else if r.kind = .stop then Config.stopValue s.tick else 0, tag := r.tag, round := r.round, ctx := r.ctx }
    if r.kind = .mark ∧ !targetValid f.tgt0 ∧ !targetValid f.tgt1 then s.notify (s.groupOf t) r.round
    else (s.answerTo (Req.source e) r f.tgt0 tok).answerTo (Req.source e) r f.tgt1 tok

/-! ## Rounds (R43 to R45) -/

/-- A source starts a round with a token of it: it is later than the latest one started. -/
def Kernel.starts (k : Kernel) (r : BitVec 8) : Bool :=
  match k.latest with | none => true | some q => roundLater r q
/-- A round has been started. -/
def Kernel.begun (k : Kernel) (r : BitVec 8) : Kernel :=
  if k.starts r then { k with latest := some r, rounds := k.rounds + (r - k.latest.getD 255).toNat } else k
/-- A round is one of those started so far: the latest one or an earlier one (R44). -/
def Kernel.isStarted (k : Kernel) (r : BitVec 8) : Bool :=
  match k.latest with | none => false | some q => (q - r).toNat < 128 && (q - r).toNat < k.rounds
/-- How far a round is ahead of the oldest undrained one; a kernel without sinks has none undrained. -/
def Kernel.lead (k : Kernel) (r : BitVec 8) : Nat := if k.sinks = 0 then 0 else (r - k.oldest).toNat
/-- A round that a source may not start yet (R44); one that was started goes on. -/
def Kernel.tooFar (k : Kernel) (r : BitVec 8) : Bool := !k.isStarted r && 128 ≤ k.lead r
/-- Every started round has reached every sink (R326). -/
def Kernel.drained (k : Kernel) : Bool :=
  k.sinks == 0 || (match k.latest with | none => true | some q => roundLater k.oldest q)

/-- A source of a tile's group starts a round, or goes on with it. -/
def State.beginRound (s : State) (t : Nat) (r : BitVec 8) : State :=
  match (s.tile t).group with
  | some g => s.modGroup g fun x => { x with kernel := x.kernel.begun r }
  | none => s

/-- The program of a context has stopped, but for a handler (R326). -/
def State.draining (s : State) (c : BitVec 8) : Bool := (s.ctx c.toNat).state == .draining

/-- The tile or die that a serving unit belongs to, as the fault record names it (R322). -/
def engineUnit (s : State) : Engine → Nat × Nat
  | .scratch t => (2, unitEngine s t 2)
  | .tagTable t => (2, unitEngine s t 3)
  | .circuit t => (2, unitEngine s t 0)
  | .matrix t => (2, unitEngine s t 0)
  | .scan t => (2, unitEngine s t 4)
  | .summary t => (2, unitEngine s t 1)
  | .ringPort t => (2, unitEngine s t 0)
  | .stream t p => (2, unitEngine s t (8 + p % 8))
  | .memory d => (3, unitDie d 64)
  | .grammar d n => (3, unitDie d (n % 16))
  | .sampler d n => (3, unitDie d (16 + n % 16))
  | .accept d n => (3, unitDie d (32 + n % 4))

/-- The tag that a fault of a request is recorded with (R321): at the memory interface and at a stream port the request's
own (DEDUCED, log 119), at the other units the firing's tag T (R145, R224, R272, R290). -/
def Req.faultTag (r : Req) : Engine → W64
  | .memory _ => r.tag
  | .stream _ _ => r.tag
  | _ => r.wave

/-- Record a fault of a request at its unit (R321, R322). -/
def State.faultAt (s : State) (e : Engine) (r : Req) (code : Nat) (val aux : Option W64) : State :=
  let u := engineUnit s e
  s.record { code, ukind := u.1, unit := u.2, ctx := r.ctx, tag := r.faultTag e, val, aux }

/-- A record of a unit of a context has yet to be appended: the unit waits with it (R324). -/
def State.unitWaits (s : State) (u : Nat × Nat) (c : BitVec 8) : Bool :=
  s.pend.any fun p => p.rcd.ctx == c && (p.rcd.ukind, p.rcd.unit) == u
/-- A serving unit waits for the append of a record of its own. -/
def State.recordWaits (s : State) (e : Engine) (c : BitVec 8) : Bool := s.unitWaits (engineUnit s e) c

/-- The head request of a unit fails (R224, R272, R290): its fault is recorded, and it waits at the head for the append
(R324), to reply `ERR` with the code as an `ERR` on the channel does. -/
def State.failAt (s : State) (e : Engine) (r : Req) (code : Nat) (val aux : Option W64) : State :=
  let s := s.faultAt e r code val aux
  { s.setQueue e ({ r with kind := .err, l := BitVec.ofNat 64 code } :: (s.queue e).tail) with
    parked := s.parked.filter fun p => p.1 != e }

/-- The head request of a unit waits for a page: its record is made once (R256, R290). -/
def State.notePark (s : State) (e : Engine) (r : Req) (va : Nat) : State :=
  if s.parked.contains (e, va) then s
  else { s with parked := s.parked ++ [(e, va)] }.faultAt e r fcPageAbsent (some (BitVec.ofNat 64 va)) none

/-- The head request of a unit ends: it leaves the queue and waits for no page, and a command leaves the
scoreboard. -/
def State.endHead (s : State) (e : Engine) : State :=
  let s' := { s.popQueue e with parked := s.parked.filter fun p => p.1 != e }
  match s.queue e with
  | r :: _ => s'.commandDone r
  | [] => s'

/-- A unit that executes the head of its queue: a marker, `STOP` or `ERR` is forwarded (R49), a request
is performed; what waits stays at the head, and its absent page is recorded once. -/
def State.serve (s : State) (e : Engine) (r : Req) (m : Act (W64 × Bool)) : State :=
  if r.kind = .mark ∨ r.kind = .stop ∨ r.kind = .err then (s.endHead e).forward e r
  else match m s with
    | .ok ((v, true), s') => (s'.endHead e).reply e r .data v
    | .ok ((_, false), s') => s'.endHead e
    | .error (.fault code val aux) => s.failAt e r code val aux
    | .error (.error code) => (s.endHead e).reply e r .err (BitVec.ofNat 64 code)
    | .error (.absent va) => s.notePark e r va
    | .error .wait => s

end Sys2Proof.Machine
end

