-- ==== Sys2Proof/Machine/Arithmetic.lean ====
section
/-! DEFINITION. The arithmetic instructions (R130 to R144) in both modes. The values and flags are those
of Machine/Lanes. -/

namespace Sys2Proof.Machine

open Sys2Proof

/-- A fabric firing of arithmetic: token operands that differ in `S` evaluate nothing and emit `ERR`
with the output tag (R24, R133); else the value goes to the targets with that `S`, and the flags to the element (R85, R130). -/
def arithFire (f : Form) (op : W64 → W64 → W64 → W64 × Flags) (fr : Firing) (s : State) : State :=
  fr.run f (fun tag s =>
    if fr.sMixed f then fr.raiseAs f tag fcScale none s
    else fr.value f ((fr.tokens f).any Operand.s) (op fr.l.value fr.r.value fr.c.value) tag s) s

/-- A fabric firing of a bit instruction: the output `S` is the OR of the operands' (R39, R133). -/
def bitFire (f : Form) (op : W64 → W64 → W64 → W64 × Flags) (fr : Firing) (s : State) : State :=
  fr.run f (fun tag s =>
    fr.value f ((fr.tokens f).any Operand.s) (op fr.l.value fr.r.value fr.c.value) tag s) s

/-- A drover word of arithmetic: the value goes to `xd`, and the flags to `FLAGS` (R117, R130). -/
def arithCore (opc : Nat) (f : Form) (op : W64 → W64 → W64 → W64 × Flags) (n : Nat) (s : State) : State :=
  let c := s.core n
  let (l, r, x) := coreOperands opc f c
  let (v, fl) := op l r x
  s.setCore n ((({ c with flags := c.flags ||| fl }).setReg (Form.xd f) v).next)

/-- `ADD`. -/
def execAdd (f : Form) (s : State) : Answer :=
  onBoth s (arithFire f (addValue f)) (arithCore 0x40 f (addValue f))
/-- `SUB`. -/
def execSub (f : Form) (s : State) : Answer :=
  onBoth s (arithFire f (subValue f)) (arithCore 0x41 f (subValue f))
/-- `MUL`. -/
def execMul (f : Form) (s : State) : Answer :=
  onBoth s (arithFire f (mulValue f)) (arithCore 0x42 f (mulValue f))
/-- `MULH`. -/
def execMulh (f : Form) (s : State) : Answer :=
  onBoth s (arithFire f (mulhValue f)) (arithCore 0x43 f (mulhValue f))
/-- `MAD`. -/
def execMad (f : Form) (s : State) : Answer :=
  onBoth s (arithFire f (madValue f)) (arithCore 0x44 f (madValue f))
/-- `DIV`. -/
def execDiv (f : Form) (s : State) : Answer :=
  onBoth s (arithFire f (divValue f)) (arithCore 0x45 f (divValue f))
/-- `REM`. -/
def execRem (f : Form) (s : State) : Answer :=
  onBoth s (arithFire f (remValue f)) (arithCore 0x46 f (remValue f))
/-- `NEG`. -/
def execNeg (f : Form) (s : State) : Answer :=
  onBoth s (arithFire f (negValue f)) (arithCore 0x47 f (negValue f))
/-- `ABS`. -/
def execAbs (f : Form) (s : State) : Answer :=
  onBoth s (arithFire f (absValue f)) (arithCore 0x48 f (absValue f))
/-- `MIN`. -/
def execMin (f : Form) (s : State) : Answer :=
  onBoth s (arithFire f (minValue f)) (arithCore 0x49 f (minValue f))
/-- `MAX`. -/
def execMax (f : Form) (s : State) : Answer :=
  onBoth s (arithFire f (maxValue f)) (arithCore 0x4A f (maxValue f))
/-- `CMP`. -/
def execCmp (f : Form) (s : State) : Answer :=
  onBoth s (arithFire f (cmpValue f)) (arithCore 0x4B f (cmpValue f))
/-- `AND`. -/
def execAnd (f : Form) (s : State) : Answer :=
  onBoth s (bitFire f (andValue f)) (arithCore 0x4C f (andValue f))
/-- `OR`. -/
def execOr (f : Form) (s : State) : Answer :=
  onBoth s (bitFire f (orValue f)) (arithCore 0x4D f (orValue f))
/-- `XOR`. -/
def execXor (f : Form) (s : State) : Answer :=
  onBoth s (bitFire f (xorValue f)) (arithCore 0x4E f (xorValue f))
/-- `NOT`. -/
def execNot (f : Form) (s : State) : Answer :=
  onBoth s (bitFire f (notValue f)) (arithCore 0x4F f (notValue f))
/-- `SHL`. -/
def execShl (f : Form) (s : State) : Answer :=
  onBoth s (bitFire f (shlValue f)) (arithCore 0x50 f (shlValue f))
/-- `SHR`. -/
def execShr (f : Form) (s : State) : Answer :=
  onBoth s (bitFire f (shrValue f)) (arithCore 0x51 f (shrValue f))
/-- `SAR`. -/
def execSar (f : Form) (s : State) : Answer :=
  onBoth s (bitFire f (sarValue f)) (arithCore 0x52 f (sarValue f))
/-- `ROT`. -/
def execRot (f : Form) (s : State) : Answer :=
  onBoth s (bitFire f (rotValue f)) (arithCore 0x53 f (rotValue f))
/-- `CLZ`. -/
def execClz (f : Form) (s : State) : Answer :=
  onBoth s (bitFire f (clzValue f)) (arithCore 0x54 f (clzValue f))
/-- `POPC`. -/
def execPopc (f : Form) (s : State) : Answer :=
  onBoth s (bitFire f (popcValue f)) (arithCore 0x55 f (popcValue f))
/-- `BFX`. -/
def execBfx (f : Form) (s : State) : Answer :=
  onBoth s (bitFire f (bfxValue f)) (arithCore 0x56 f (bfxValue f))
/-- `BFI`. -/
def execBfi (f : Form) (s : State) : Answer :=
  onBoth s (bitFire f (bfiValue f)) (arithCore 0x57 f (bfiValue f))
/-- `EXT`. -/
def execExt (f : Form) (s : State) : Answer :=
  onBoth s (arithFire f (extValue f)) (arithCore 0x58 f (extValue f))
/-- `AGEN`. -/
def execAgen (f : Form) (s : State) : Answer :=
  onBoth s (arithFire f (agenValue f)) (arithCore 0x59 f (agenValue f))
/-- `SAT`. -/
def execSat (f : Form) (s : State) : Answer :=
  onBoth s (arithFire f (satValue f)) (arithCore 0x5A f (satValue f))
/-- `FADD`. -/
def execFadd (f : Form) (s : State) : Answer :=
  onBoth s (arithFire f (faddValue f)) (arithCore 0x60 f (faddValue f))
/-- `FSUB`. -/
def execFsub (f : Form) (s : State) : Answer :=
  onBoth s (arithFire f (fsubValue f)) (arithCore 0x61 f (fsubValue f))
/-- `FMUL`. -/
def execFmul (f : Form) (s : State) : Answer :=
  onBoth s (arithFire f (fmulValue f)) (arithCore 0x62 f (fmulValue f))
/-- `FMA`. -/
def execFma (f : Form) (s : State) : Answer :=
  onBoth s (arithFire f (fmaValue f)) (arithCore 0x63 f (fmaValue f))
/-- `FMIN`. -/
def execFmin (f : Form) (s : State) : Answer :=
  onBoth s (arithFire f (fminValue f)) (arithCore 0x64 f (fminValue f))
/-- `FMAX`. -/
def execFmax (f : Form) (s : State) : Answer :=
  onBoth s (arithFire f (fmaxValue f)) (arithCore 0x65 f (fmaxValue f))
/-- `FABS`. -/
def execFabs (f : Form) (s : State) : Answer :=
  onBoth s (arithFire f (fabsValue f)) (arithCore 0x66 f (fabsValue f))
/-- `FNEG`. -/
def execFneg (f : Form) (s : State) : Answer :=
  onBoth s (arithFire f (fnegValue f)) (arithCore 0x67 f (fnegValue f))
/-- `FCMP`. -/
def execFcmp (f : Form) (s : State) : Answer :=
  onBoth s (arithFire f (fcmpValue f)) (arithCore 0x68 f (fcmpValue f))
/-- `FRCP`. -/
def execFrcp (f : Form) (s : State) : Answer :=
  onBoth s (arithFire f (frcpValue f)) (arithCore 0x69 f (frcpValue f))
/-- `FRSQ`. -/
def execFrsq (f : Form) (s : State) : Answer :=
  onBoth s (arithFire f (frsqValue f)) (arithCore 0x6A f (frsqValue f))
/-- `FSQRT`. -/
def execFsqrt (f : Form) (s : State) : Answer :=
  onBoth s (arithFire f (fsqrtValue f)) (arithCore 0x6B f (fsqrtValue f))
/-- `FEXP2`. -/
def execFexp2 (f : Form) (s : State) : Answer :=
  onBoth s (arithFire f (fexp2Value f)) (arithCore 0x6C f (fexp2Value f))
/-- `FLOG2`. -/
def execFlog2 (f : Form) (s : State) : Answer :=
  onBoth s (arithFire f (flog2Value f)) (arithCore 0x6D f (flog2Value f))
/-- `FDIV`. -/
def execFdiv (f : Form) (s : State) : Answer :=
  onBoth s (arithFire f (fdivValue f)) (arithCore 0x6E f (fdivValue f))
/-- `CVT`. -/
def execCvt (f : Form) (s : State) : Answer :=
  onBoth s (arithFire f (cvtValue f)) (arithCore 0x6F f (cvtValue f))
/-- `FRND`. -/
def execFrnd (f : Form) (s : State) : Answer :=
  onBoth s (arithFire f (frndValue f)) (arithCore 0x70 f (frndValue f))
/-- `VDOT`. -/
def execVdot (f : Form) (s : State) : Answer :=
  onBoth s (arithFire f (vdotValue f)) (arithCore 0x71 f (vdotValue f))
/-- `VSUM`. -/
def execVsum (f : Form) (s : State) : Answer :=
  onBoth s (arithFire f (vsumValue f)) (arithCore 0x72 f (vsumValue f))
/-- `VPACK`. -/
def execVpack (f : Form) (s : State) : Answer :=
  onBoth s (arithFire f (vpackValue f)) (arithCore 0x73 f (vpackValue f))
/-- `VUNPK`. -/
def execVunpk (f : Form) (s : State) : Answer :=
  onBoth s (arithFire f (vunpkValue f)) (arithCore 0x74 f (vunpkValue f))
/-- `VSHUF`. -/
def execVshuf (f : Form) (s : State) : Answer :=
  onBoth s (bitFire f (vshufValue f)) (arithCore 0x75 f (vshufValue f))
/-- `FCLASS`. -/
def execFclass (f : Form) (s : State) : Answer :=
  onBoth s (arithFire f (fclassValue f)) (arithCore 0x77 f (fclassValue f))

end Sys2Proof.Machine
end

