-- ==== Sys2Proof/Machine/Waves.lean ====
section
/-! DEFINITION. Wave ordering (R178 to R182): chains, links, and when an access may be performed. The
model's eight ordering buffers hold one list: a notice reaches all of them at once. -/

namespace Sys2Proof.Machine

open Sys2Proof

/-- A wave-ordered access (R178). -/
def waveOrdered (i : Instr) : Bool := (formOf i).immp == 6

/-- The position that a triple names (R56): predecessor, own number and successor. -/
def tripleOf (f : Form) : ChainPos :=
  { pred := bitsOf f.imm.toNat 20 10, own := bitsOf f.imm.toNat 10 10, succ := bitsOf f.imm.toNat 0 10 }

/-- Position `b` follows position `a` (R179). -/
def ChainPos.follows (b a : ChainPos) : Bool := a.succ == b.own || b.pred == a.own

/-- The positions before one, back to the first; none while one is not known. -/
def chainBack (ch : List ChainPos) : Nat → ChainPos → Option (List ChainPos)
  | 0, _ => none
  | n + 1, b =>
    if b.pred = 0 then some []
    else match ch.find? fun a => b.follows a && a.own != b.own with
      | none => none
      | some a => (chainBack ch n a).map (a :: ·)

/-- Two accesses overlap. -/
def ChainPos.overlaps (a b : ChainPos) : Bool := a.loc < b.loc + b.width && b.loc < a.loc + a.width

/-- The chain has ended: its last position is known (R180). -/
def Wave.ended (w : Wave) : Bool := w.chain.any fun p => p.succ == 0

/-- The chain has ended and every access of it is performed (R182). -/
def Wave.over (w : Wave) : Bool :=
  match w.chain.find? fun p => p.succ == 0 with
  | none => false
  | some z => match chainBack w.chain (w.chain.length + 1) z with
    | none => false
    | some l => (z :: l).all ChainPos.performed

/-- A wave's entry. -/
def State.wave (s : State) (c : BitVec 8) (tag : W64) : Option Wave := s.waves.find? fun w => w.ctx == c && w.tag == tag

/-- The waves that are linked from one. -/
def State.linkedFrom (s : State) (w : Wave) : List Wave := s.waves.filter fun v => v.ctx == w.ctx && v.link == some w.tag

/-- A wave takes an entry of the buffers: until its chain has ended, every access of it is performed, and every wave
linked from it has begun (R182). -/
def State.waveKept (s : State) (w : Wave) : Bool := !(w.over && (s.linkedFrom w).all fun v => !v.chain.isEmpty)

/-- The buffers have room for a position of a wave, and for its entry (R182). -/
def State.waveRoom (s : State) (c : BitVec 8) (tag : W64) : Bool :=
  let kept := s.waves.filter s.waveKept
  (kept.map fun w => w.chain.length).sum < 16384 && (kept.any (fun w => w.ctx == c && w.tag == tag) || kept.length < 4096)

/-- Some waves' entries go: the waves linked from them, whose links hold nothing back any more, are linked no more. -/
def State.dropWaves (s : State) (p : Wave → Bool) : State :=
  let gone := s.waves.filter p
  { s with waves := (s.waves.filter fun w => !p w).map fun v =>
      if gone.any fun w => w.ctx == v.ctx && v.link == some w.tag then { v with link := none } else v }

/-- The entries that the buffers need no more go (R182). An ended wave from which no link has been recorded takes no
entry, but that its chain has ended stays known until its tag's next wave begins, for a link may still come: DEDUCED,
log 117. -/
def State.tidyWaves (s : State) : State := s.dropWaves fun w => !s.waveKept w && !(s.linkedFrom w).isEmpty

/-- A wave of a tag begins: what is known of the tag's earlier wave, which is over, is forgotten (R181, R182). -/
def State.beginWave (s : State) (c : BitVec 8) (tag : W64) : State :=
  s.dropWaves fun w => w.ctx == c && w.tag == tag && w.over

/-- A wave of a tag is created by `ALLOC`, `ITER`, `SPAWN`, kernel start or `INJ`: what is known of the tag's earlier wave is
forgotten, its link with it, unless accesses of it are still to be performed (R181, R182). -/
def State.newWave (s : State) (c : BitVec 8) (tag : W64) : State :=
  s.dropWaves fun w => w.ctx == c && w.tag == tag && (w.over || w.chain.isEmpty)

/-- The wave of a tag has an entry; a wave that is over has given it up for the next one (R182). -/
def State.openWave (s : State) (c : BitVec 8) (tag : W64) : State :=
  let s := s.beginWave c tag
  if (s.wave c tag).isSome then s else { s with waves := s.waves ++ [{ ctx := c, tag := tag }] }

/-- A position of a wave's chain becomes known, or changes (R179). -/
def State.notePos (s : State) (c : BitVec 8) (tag : W64) (p : ChainPos) : State :=
  let known := match s.wave c tag with | some w => w.chain.any fun q => q.own == p.own | none => false
  let s := if known && (match s.wave c tag with | some w => !w.over | none => true) then s else s.openWave c tag
  State.tidyWaves { s with waves := s.waves.map fun w =>
      if w.ctx = c ∧ w.tag = tag then { w with chain := (w.chain.filter fun q => q.own != p.own) ++ [p] } else w }

/-- A position counts as performed. -/
def State.passPos (s : State) (c : BitVec 8) (tag : W64) (own : Nat) : State :=
  State.tidyWaves { s with waves := s.waves.map fun w =>
      if w.ctx = c ∧ w.tag = tag then
        { w with chain := w.chain.map fun q => if q.own = own then { q with performed := true, parked := false } else q }
      else w }

/-- Every position before one is known, none of them is parked, and what must be performed before it is:
the accesses that overlap it, or for a fence every one, and each earlier fence (R180). -/
def Wave.clears (w : Wave) (b : ChainPos) : Bool :=
  match chainBack w.chain (w.chain.length + 1) b with
  | none => false
  | some l => l.all fun a => !a.parked && (a.performed || (!a.fence && !b.fence && !a.overlaps b))

/-- The wave that a wave is linked from holds nothing back (R180). -/
def State.linkClears (s : State) (w : Wave) (b : ChainPos) : Bool :=
  match w.link with
  | none => true
  | some tag => match s.wave w.ctx tag with
    | none => false
    | some v => v.ended && v.chain.all fun a => a.performed || !a.overlaps b

/-- A held access may be performed (R180). -/
def State.chainClear (s : State) (c : BitVec 8) (tag : W64) (own : Nat) : Bool :=
  match s.wave c tag with
  | none => false
  | some w => match w.chain.find? fun q => q.own == own with
    | none => false
    | some b => w.clears b && s.linkClears w b

/-- A link reaches the buffers: wave `dst` is linked from wave `src` (R181). -/
def State.recordLink (s : State) (m : LinkMsg) : State :=
  let s := s.openWave m.ctx m.dst
  { s with waves := s.waves.map fun w => if w.ctx = m.ctx ∧ w.tag = m.dst then { w with link := some m.src } else w }

/-- `WAVE_LINK_ACK` (R181): a link is recorded at the buffers, once they have room for it (R182), and the token that
waits for it may leave. -/
def execWaveLinkAck (pick : Nat) (s : State) : Answer :=
  .next (match s.iterLinks[pick]? with
    | none => s
    | some m =>
      if s.waveRoom m.ctx m.dst then { s.recordLink m with iterLinks := dropNth s.iterLinks pick } else s)

end Sys2Proof.Machine
end

