-- ==== Sys2Proof/Machine/Drover.lean ====
section
/-! DEFINITION. The drover core (R116 to R129): control flow, the mailbox, tokens into the fabric, the
handler, the scoreboard and the end of a program. -/

namespace Sys2Proof.Machine

open Sys2Proof

/-! ## Control flow (R124) -/

/-- A jump to a word address; outside 0 to 4,095 it raises `ILLEGAL` at the branch (R124). -/
def State.jump (s : State) (n : Nat) (target : Int) (link : Core → Core) : State :=
  if 0 ≤ target ∧ target < 4096 then
    s.modCore n fun c => { (link c) with pc := BitVec.ofNat 12 target.toNat, wait := .none }
  else s.coreFault n fcIllegal

/-- The target of `JMP` and `CALL`: relative to the word, or `xa` plus the offset (R124). -/
def jumpTarget (f : Form) (c : Core) : Int :=
  (if f.mod = 0 then (c.pc.toNat : Int) else ((c.reg (Form.xa f)).toNat : Int)) + f.imm.toInt

/-- `JMP` (R124). -/
def execJmp (f : Form) (s : State) : Answer :=
  onCore s fun n s => s.jump n (jumpTarget f (s.core n)) id

/-- The condition of `BR` (R124). -/
def branchTaken (c : Nat) (a b : W64) : Bool :=
  if c = 0 then a == b else if c = 1 then a != b
  else if c = 2 then a.slt b else if c = 3 then !a.slt b
  else if c = 4 then a.ult b else !a.ult b

/-- `BR` (R124): a branch that is not taken goes to PC + 1 as to a target, and so raises `ILLEGAL` at word 4,095
(DESIGN CHOICE, log 9: the other words there go on at word 0). -/
def execBr (f : Form) (s : State) : Answer :=
  onCore s fun n s =>
    let c := s.core n
    s.jump n (if branchTaken f.mod.toNat (c.reg (Form.xa f)) (c.reg (Form.xb f))
      then (c.pc.toNat : Int) + f.imm.toInt else (c.pc.toNat : Int) + 1) id

/-- `CALL` (R124): the return address goes to `xd`. -/
def execCall (f : Form) (s : State) : Answer :=
  onCore s fun n s =>
    let c := s.core n
    s.jump n (jumpTarget f c) fun c => c.setReg (Form.xd f) (BitVec.ofNat 64 (c.pc.toNat + 1))

/-- `RET` (R124). -/
def execRet (f : Form) (s : State) : Answer :=
  onCore s fun n s => s.jump n ((s.core n).reg (Form.xa f)).toNat id

/-! ## Exceptions (R63, R126, R127) -/

/-- `ERET` (R127): the return from a handler. -/
def execEret (_f : Form) (s : State) : Answer :=
  onCore s fun n s =>
    if (s.core n).hnd then s.modCore n Core.leave else s.coreFault n fcIllegal

/-- The check that a core's word fails at fetch, if it does (R63). -/
def State.fetchCheck (s : State) (n : Nat) : Except Nat Instr :=
  let c := s.core n
  match decode .drover (mapGet 0 c.code c.pc.toNat) with
  | .ok i => .ok i
  | .error b => .error b.number

/-- An enabled breakpoint stands at the core's word (R126). -/
def Core.atBreakpoint (c : Core) : Bool :=
  (List.range 4).any fun k => c.bkctl.getLsbD k && (mapGet 0 c.bkpc k).toNat == c.pc.toNat

/-- A fetch at an enabled breakpoint with `SKIP` set clears `SKIP`, whatever the word (R126). -/
def Core.skipped (c : Core) : Core :=
  if c.wait = .none ∧ c.atBreakpoint then { c with bkctl := c.bkctl &&& ~~~(0x10#64) } else c

/-- A core fetches an illegal word and raises `ILLEGAL` with the check number (R63). -/
def execIllegalWord (core : Nat) (s : State) : Answer :=
  .next (match s.fetchCheck core with
    | .error k => if (s.core core).running then
        (s.modCore core Core.skipped).coreFault core fcIllegal (some (BitVec.ofNat 64 k)) else s
    | .ok _ => s)

/-- A fetch at an enabled breakpoint raises `BKPT` unless `SKIP` is set (R126). -/
def execAddressBreakpoint (core : Nat) (s : State) : Answer :=
  .next (if (s.core core).running && (s.core core).atBreakpoint && !(s.core core).bkctl.getLsbD 4
    then s.coreFault core fcBkpt else s)

/-- A core is the home core of a context whose fault queue is not empty (R127, R324). -/
def State.queuedFault (s : State) (n : Nat) : Bool :=
  let c := s.core n
  let x := s.ctx c.context.toNat
  c.running && !c.hnd && (x.reg 0x118).getLsbD 31 && (x.reg 0x118).toNat % 256 == n
    && (x.reg 0x10C).toNat % 2 ^ 32 != (x.reg 0x10D).toNat % 2 ^ 32

/-- The home core enters its handler for the queue: the head record moves to data memory 0xFFE0 and
`FQHEAD` advances (R127, R324). Where the record's page cannot be read the core waits, and nothing changes: DESIGN
CHOICE, log 73. -/
def State.takeQueued (s : State) (n : Nat) : State :=
  let c := s.core n
  let x := s.ctx c.context.toNat
  let len := max (x.reg 0x10B).toNat 1
  let addr := (x.reg 0x10A).toNat + 32 * ((x.reg 0x10C).toNat % len)
  match vread (agentD n) c.context addr 32 s with
  | .ok (bs, s) =>
    let s := s.modCtx c.context.toNat fun x => x.setReg 0x10C (BitVec.ofNat 64 (((x.reg 0x10C).toNat + 1) % 2 ^ 32))
    s.setCore n (({ c with dmem := memWrite c.dmem recAddr bs }).enter (natAt bs 0 1) c.pc)
  | .error _ => s
/-- `HANDLER_ENTRY` (R127). -/
def execHandlerEntry (core : Nat) (s : State) : Answer :=
  .next (if s.queuedFault core then s.takeQueued core else s)

/-! ## The mailbox (R120 to R122) -/

/-- The header word of a mailbox slot's head (R122). -/
def mailHeader : List Token → W64
  | [] => 0
  | t :: ts => BitVec.ofNat 64 (2 ^ 63 + (ts.length + 1) * 2 ^ 20 + t.ctx.toNat * 2 ^ 12 + t.round.toNat * 16
      + b2n t.s * 8 + kindCode t.kind)

/-- A mailbox slot. -/
def Core.mail (c : Core) (k : Nat) : List Token := mapGet [] c.mbox k

/-- `TAKE` (R122): `V` takes the head's value, `H` and `T` read its header and tag, `P` never waits. -/
def takeWord (f : Form) (n : Nat) (s : State) : State :=
  let c := s.core n
  let k := f.imm.toNat % 32
  let q := c.mail k
  if f.mod = 3 then s.coreResult n f (mailHeader q)
  else match q with
    | [] => s
    | t :: ts =>
      if f.mod = 0 then
        (s.setCore n { c with mbox := mapSet [] c.mbox k ts }).coreResult n f (if t.kind = .mark then 0 else t.value)
      else s.coreResult n f (if f.mod = 1 then mailHeader q else t.tag)
/-- `TAKE` (R122). -/
def execTake (f : Form) (s : State) : Answer := onCore s (takeWord f)

/-- The kind of `INJ` (R121). -/
def injKind (m : Nat) : Kind := if m = 1 then .mark else if m = 2 then .stop else .data

/-- The network of a core's token: a channel to a mailbox is a reply channel, on `VN` 1 (R23). -/
def Dest.injNet : Dest → Net
  | .mailbox _ _ => .vn1
  | .slot _ _ _ _ => .vn0

/-- The network takes another token of a core (R121): fewer than 4 tokens stand at the destination element or are on their
way to it from the core, so that what waits there leaves room for the tokens that end the wait (R28, R413): DESIGN CHOICE,
log 139. -/
def State.injRoom (s : State) (n : Nat) : Dest → Bool
  | .mailbox _ _ => true
  | .slot t e _ _ =>
    (s.net.filter fun fl => fl.src == .core n && (match fl.dst with | .slot t' e' _ _ => t' == t && e' == e | .mailbox _ _ => false)).length
      + (s.elem t e).in0.length + (s.elem t e).buf.length < 4

/-- `INJ` (R121): one token into the fabric; an operand without a target names no role. While the context drains a handler's `INJ` stalls (R326), a
FAULTED context starts no round (R320), and a round 128 ahead waits (R44). A `DATA` token's wave begins (R181). -/
def injWord (f : Form) (n : Nat) (s : State) : State :=
  let c := s.core n
  let tag := c.reg (Form.xb f)
  let target : BitVec 22 := f.imm.setWidth 22
  let round : BitVec 8 := BitVec.ofNat 8 (bitsOf f.imm.toNat 22 8)
  match c.group with
  | none => s.coreFault n fcIllegal
  | some g =>
    match if targetValid target then (s.group g).resolve target else none with
    | none => s.coreFault n fcIllegal
    | some d =>
      if !tagOk tag then s.coreFault n fcIllegal
      else if !s.ownsColour c.context (tagColour tag) then s.coreFault n fcTagForeign
      else if s.draining c.context || (s.group g).kernel.tooFar round
          || ((s.ctx c.context.toNat).state == .faulted && (s.group g).kernel.starts round)
          || !s.injRoom n d then s
      else
        let kind := injKind f.mod.toNat
        let tok : Token := { kind := kind, value := if kind = .mark then 0 else c.reg (Form.xa f), tag := tag
                             s := f.mod == 4, round := round, ctx := c.context }
        let s := if kind = .data then s.newWave c.context tag else s
        ((s.modGroup g fun x => { x with kernel := x.kernel.begun round }).send (.core n) d d.injNet tok).coreDone n
/-- `INJ` (R121). -/
def execInj (f : Form) (s : State) : Answer := onCore s (injWord f)

/-! ## System registers (R118, R125) -/

/-- `SBSTAT`: commands queued and issued (R118). -/
def Core.sbstat (c : Core) : W64 :=
  BitVec.ofNat 64 ((c.cmds.filter fun x => !x.issued).length + (c.cmds.filter fun x => x.issued).length * 256)

/-- `CSTATE` (R318). -/
def Ctx.cstate (c : Ctx) : W64 :=
  let st := match c.state with
    | .free => 0 | .building => 1 | .ready => 2 | .running => 3
    | .draining => 4 | .saved => 5 | .faulted => 6 | .dead => 7
  BitVec.ofNat 64 (st + b2n c.saved1 * 2 ^ 8 + b2n c.fsave * 2 ^ 9 + b2n c.hsave * 2 ^ 10 + b2n c.drovf * 2 ^ 11)

/-- A context register as read: a WO register reads zero (R317). -/
def Ctx.read (c : Ctx) (a : Nat) : W64 :=
  if a = 0x100 then c.cstate
  else if a = 0x101 ∨ a = 0x11C ∨ a = 0x11D then 0
  else if a = 0x109 then BitVec.ofNat 64 c.seraiFree.length
  else c.reg a

/-- A system register as read, or none for an address without one (R118, R317). -/
def State.sysRead (s : State) (n a : Nat) : Option W64 :=
  let c := s.core n
  match a with
  | 0x000 => some c.status
  | 0x001 => some (c.flags.setWidth 64)
  | 0x002 => some c.epc
  | 0x003 => some c.ecause
  | 0x004 => some c.evec
  | 0x005 => some c.erec
  | 0x006 => some c.cycle
  | 0x007 => some (BitVec.ofNat 64 n)
  | 0x008 => some c.ctxid
  | 0x009 => some c.exitw
  | 0x00A => some c.sbstat
  | 0x014 => some c.bkctl
  | a =>
    if 0x010 ≤ a ∧ a ≤ 0x013 then some (mapGet 0 c.bkpc (a - 0x010))
    else if 0x100 ≤ a ∧ a ≤ 0x11F then some ((s.ctx c.context.toNat).read a)
    else none

/-- `SYSRD` (R125). Reading `CYCLE` brings it up to the cycles that passed, which the model leaves open. -/
def sysrdWord (f : Form) (n : Nat) (s : State) : State :=
  let a := f.imm.toNat % 4096
  let s := if a = 0x006 then s.modCore n fun c => { c with cycle := c.cycle + Config.cyclesPassed s.tick } else s
  match s.sysRead n a with
  | some v => s.coreResult n f v
  | none => s.coreFault n fcIllegal
/-- `SYSRD` (R125). -/
def execSysrd (f : Form) (s : State) : Answer := onCore s (sysrdWord f)

/-! ## The end of a program (R129) -/

/-- The program retires: the context is told (R129, R347). -/
def State.retire (s : State) (n : Nat) (w : W64) : State :=
  let g := (s.core n).group
  let s := s.modCore n fun c => { c with exitw := w, running := false, active := false, wait := .none, discard := none }
  match g with
  | some g => s.modGroup g fun x => { x with kernel := { x.kernel with retired := true, exitw := w } }
  | none => s

/-- `EXITW` (R129). -/
def exitWord (code : W64) (n : Nat) (d : Bool) : W64 :=
  BitVec.ofNat 64 (code.toNat % 2 ^ 32 + n * 2 ^ 32 + b2n d * 2 ^ 48)

/-- `EXIT` (R129): ends the program once every command is complete. -/
def execExit (f : Form) (s : State) : Answer :=
  onCore s fun n s =>
    let c := s.core n
    if c.cmds.isEmpty then s.retire n (exitWord (c.reg (Form.xa f)) 0 false) else s

/-- How many commands the `EXIT.DISCARD` at a core's word has dropped so far, handlers between notwithstanding (R129). -/
def Core.discarded (c : Core) : Nat :=
  match c.wait, c.discard with
  | .timed k, _ => k
  | _, some (pc, k) => if pc = c.pc then k else 0
  | _, none => 0

/-- `EXIT.DISCARD` (R129): drops the queued commands first. -/
def execExitDiscard (f : Form) (s : State) : Answer :=
  onCore s fun n s =>
    let c := s.core n
    let dropped := (c.cmds.filter fun x => !x.issued).length
    let total := dropped + c.discarded
    if dropped = c.cmds.length then
      (s.setCore n { c with cmds := [] }).retire n (exitWord (c.reg (Form.xa f)) total true)
    else s.setCore n { c with cmds := c.cmds.filter (·.issued), wait := .timed total }

/-! ## Commands (R123) -/

/-- `SBAR` (R214): every earlier command is complete, and what comes after it sees their effects. -/
def execSbar (_f : Form) (s : State) : Answer :=
  onCore s fun n s => if (s.core n).cmds.isEmpty then (s.showCommands n).coreDone n else s

end Sys2Proof.Machine
end

