-- ==== Sys2Proof/Machine/Request.lean ====
section
/-! DEFINITION. The memory request (R169 to R196): the scratchpad port, the tag table, and the request
instructions with the events of a request's life. -/

namespace Sys2Proof.Machine

open Sys2Proof

/-! ## Accesses (R170, R186, R191) -/

/-- The bytes of an access: its width code (R185), or for `ATOM` that of its type (R191). -/
def accessWidth (i : Instr) : Nat :=
  let f := formOf i
  if opcodeOf i = 0x89 then (if redType f = 2 ∨ redType f = 3 ∨ redType f = 4 then 8 else 4)
  else 2 ^ (f.mod.toNat % 4)

/-- An address with its offset (R56, R186). -/
def withOffset (f : Form) (a : W64) : W64 := if f.immp = 5 then a + f.imm.signExtend 64 else a
/-- The low bits of an address below the width are cleared (R170). -/
def alignTo (w a : Nat) : Nat := a / w * w
/-- The value of a load (R170): sign-extended with `SX`. -/
def loadValue (i : Instr) (bs : List Byte) : W64 :=
  if (formOf i).mod.getLsbD 2 then sext64 (8 * accessWidth i) (ofBytes bs) else BitVec.ofNat 64 (ofBytes bs)
/-- The bytes of a store (R170). -/
def storeBytes (i : Instr) (v : W64) : List Byte := toBytes v.toNat (accessWidth i)

/-- The new value of an atomic (R191). -/
def atomNew (f : Form) (w old : Nat) (r c : W64) : Nat :=
  let r' := r.toNat % 2 ^ (8 * w)
  if redOp f = 6 then r'
  else if redOp f = 7 then (if old = r' then c.toNat % 2 ^ (8 * w) else old)
  else (combine f (redType f) (redOp f) (BitVec.ofNat 64 old) (BitVec.ofNat 64 r')).1.toNat % 2 ^ (8 * w)

/-! ## Where a request comes from -/

/-- The die's memory interface that a request's slot uses. -/
def Req.interface (r : Req) : Engine :=
  match r.origin with
  | .slot t _ _ => .memory (dieOf t)
  | .core n => .memory (n / 64)
/-- The tile of a request's slot. -/
def Req.tile (r : Req) : Nat := match r.origin with | .slot t _ _ => t | .core _ => 0
/-- The element of a request. -/
def Req.element (r : Req) : Option (Nat × Nat) := match r.origin with | .slot t e _ => some (t, e) | .core _ => none

/-! ## The scratchpad port (R171, R172, R188, R190) -/

/-- The scratchpad address of an `LDS`, `STS` or `ATOM.SP` (R188). -/
def spAddress (r : Req) : Nat :=
  let f := formOf r.instr
  alignTo (accessWidth r.instr) (if f.arity = 3 then f.imm.toNat % 2 ^ 16 else (withOffset f r.l).toNat % 2 ^ 16)

/-- The first granule of an `FEQ` or `FESET` (R190). -/
def firstGranule (l : W64) : Nat := l.toNat % 2 ^ 16 / 16

/-- Some granules are all full, or all empty. -/
def State.granules (s : State) (t g n : Nat) (v : Bool) : Bool := (List.range n).all fun k => s.isFull t (g + k) == v

/-- A request's condition on the full/empty bits holds (R172). -/
def State.portReady (s : State) (t : Nat) (r : Req) : Bool :=
  let f := formOf r.instr
  let q := bitsOf f.mod.toNat 3 2
  match opcodeOf r.instr with
  | 0x82 => q == 0 || s.isFull t (spAddress r / 16)
  | 0x83 => q != 2 || !s.isFull t (spAddress r / 16)
  | 0x87 => f.mod == 0 || s.granules t (firstGranule r.l) f.imm.toNat (f.mod == 1)
  | _ => true

/-- A request that observes full bits sees the granules' data (R184). -/
def State.seeFull (s : State) (t g n : Nat) : State :=
  (List.range n).foldl (fun s k => if s.isFull t (g + k) then s.seeGranule t (g + k) else s) s

/-- The word of `FEQ.RD`: 64 granules, those past 4,095 empty (R190). -/
def State.feqWord (s : State) (t g : Nat) : W64 :=
  BitVec.ofNat 64 ((List.range 64).foldl (fun v k => v + b2n (g + k < 4096 && s.isFull t (g + k)) * 2 ^ k) 0)

/-- `LDS` at the port (R188). -/
def portLoad (t : Nat) (r : Req) (s : State) : W64 × State :=
  let q := bitsOf (formOf r.instr).mod.toNat 3 2
  let a := spAddress r
  let s := if q = 0 then s else s.seeGranule t (a / 16)
  let (bs, s) := spRead pathE t a (accessWidth r.instr) s
  (loadValue r.instr bs, if q = 2 then s.setFull t (a / 16) 1 false else s)

/-- `STS` at the port (R188). -/
def portStore (t : Nat) (r : Req) (s : State) : W64 × State :=
  let a := spAddress r
  let s := spWrite pathE t a (storeBytes r.instr r.r) s
  (0, if bitsOf (formOf r.instr).mod.toNat 3 2 = 0 then s else s.setFull t (a / 16) 1 true)

/-- `FEQ` at the port (R190). -/
def portFeq (t : Nat) (r : Req) (s : State) : W64 × State :=
  let f := formOf r.instr
  let g := firstGranule r.l
  if f.mod = 0 then (s.feqWord t g, s.seeFull t g 64)
  else (r.l, if f.mod = 1 then s.seeFull t g f.imm.toNat else s)

/-- `FESET` at the port (R190). -/
def portFeset (t : Nat) (r : Req) (s : State) : W64 × State :=
  (r.l, s.setFull t (firstGranule r.l) (formOf r.instr).imm.toNat ((formOf r.instr).mod == 1))

/-- `ATOM.SP` at the port (R191). -/
def portAtom (t : Nat) (r : Req) (s : State) : W64 × State :=
  let w := accessWidth r.instr
  let (bs, s) := spRead pathE t (spAddress r) w s
  (BitVec.ofNat 64 (ofBytes bs),
   spWrite pathE t (spAddress r) (toBytes (atomNew (formOf r.instr) w (ofBytes bs) r.r r.c) w) s)

/-- Perform a request at the scratchpad port. -/
def portPerform (t : Nat) (r : Req) (s : State) : W64 × State :=
  match opcodeOf r.instr with
  | 0x82 => portLoad t r s
  | 0x83 => portStore t r s
  | 0x87 => portFeq t r s
  | 0x88 => portFeset t r s
  | _ => portAtom t r s

/-- A waiting request, or a marker behind the waiting requests of its slot, can go (R172, R174). -/
def State.waiterReady (s : State) (t : Nat) (before : List Req) (r : Req) : Bool :=
  if r.kind = .data then s.portReady t r else before.all fun q => q.origin != r.origin

/-- The first request of the waiting list that can go, with its place. -/
def State.firstWaiter (s : State) (t : Nat) : List Req → List Req → Option (Nat × Req)
  | _, [] => none
  | before, r :: rs =>
    if s.waiterReady t before r then some (before.length, r) else s.firstWaiter t (before ++ [r]) rs

/-- Serve a request of the scratchpad port: its effect and its reply. -/
def State.portServe (s : State) (t : Nat) (r : Req) : State :=
  if r.kind = .data then
    let (v, s) := portPerform t r s
    s.reply (.scratch t) r .data v
  else s.forward (.scratch t) r

/-- Serve the waiting list in arrival order until nothing more can go (R172). -/
def settleGo (t : Nat) : Nat → State → State
  | 0, s => s
  | n + 1, s =>
    match s.firstWaiter t [] (s.tile t).waiting with
    | none => s
    | some (k, r) =>
      settleGo t n ((s.modTile t fun x => { x with waiting := dropNth x.waiting k }).portServe t r)

/-- Serve what a change of full/empty bits lets go. -/
def State.settle (s : State) (t : Nat) : State := settleGo t (s.tile t).waiting.length s

/-- The scratchpad port takes the head of its queue (R172): it performs it, or puts it into the waiting list of 64.
When the list is full it does not accept a request that would wait: that element's requests wait behind those of the
other elements. -/
def portTurn (e : Engine) (r : Req) (s : State) : State :=
  match e with
  | .scratch t =>
    if (if r.kind = .err then true else s.waiterReady t (s.tile t).waiting r) then ((s.endHead e).portServe t r).settle t
    else if (s.tile t).waiting.length < 64 then
      (s.endHead e).modTile t fun x => { x with waiting := x.waiting ++ [r] }
    else
      let q := s.queue e
      s.setQueue e ((q.filter fun x => x.element != r.element) ++ q.filter fun x => x.element == r.element)
  | _ => s

/-! ## The tag table (R173, R189) -/

/-- The value that marks an entry invalid. -/
def lineInvalid : Nat := 2 ^ 47 - 1
/-- An entry of a tile's tag table. -/
def Tile.line (x : Tile) (i : Nat) : Nat := mapGet lineInvalid x.tags i
/-- Set an entry. -/
def State.setLine (s : State) (t i v : Nat) : State :=
  s.modTile t fun x => { x with tags := mapSet lineInvalid x.tags i v }
/-- The lowest entry that names a line (R189). -/
def Tile.lookLine (x : Tile) (v : Nat) : W64 :=
  match (List.range 128).find? fun i => x.line i == v with
  | some i => BitVec.ofNat 64 i
  | none => 0xFFFF

/-- The tag-table port takes the head of its queue. -/
def tableTurn (go : Nat → Req → State → W64 × State) (e : Engine) (r : Req) (s : State) : State :=
  match e with
  | .tagTable t => s.serve e r fun s => let (v, s) := go t r s; .ok ((v, true), s)
  | _ => s

/-! ## Virtual memory: the accesses themselves -/

/-- An agent sees the newest bytes of a translated page, as an atomic does: it is performed after every write before it,
whatever path that came on (R177, R191). -/
def State.seePage (s : State) (a : Agent) (p : Page) (va n : Nat) : State :=
  if p.tgt = 0 then s.freshen a fun e => p.pa va ≤ e.loc && e.loc < p.pa va + n else s

/-- An access to a translated page: a load, a store or an atomic (R186, R191). -/
def accessPage (a : Agent) (c : BitVec 8) (p : Page) (va : Nat) (i : Instr) (r k : W64) (s : State) : W64 × State :=
  let w := accessWidth i
  match opcodeOf i with
  | 0x80 => let (bs, s) := pageRead a c p va w s; (loadValue i bs, s)
  | 0x81 => (0, pageWrites a c p va (storeBytes i r) s)
  | _ =>
    let (bs, s) := pageRead a c p va w (s.seePage a p va w)
    (BitVec.ofNat 64 (ofBytes bs), pageWrites a c p va (toBytes (atomNew (formOf i) w (ofBytes bs) r k) w) s)

/-- An instruction reads, and writes, virtual memory. -/
def readsMemory (i : Instr) : Bool := opcodeOf i == 0x80 || opcodeOf i == 0x89
/-- It writes virtual memory. -/
def writesMemory (i : Instr) : Bool := opcodeOf i == 0x81 || opcodeOf i == 0x89

/-- A drover core's `LD`, `ST` or `ATOM` as one operation: translated, then performed (R175, R186). -/
def coreAccess (n : Nat) (i : Instr) (a r k : W64) : Act W64 := fun s =>
  let c := (s.core n).context
  let va := alignTo (accessWidth i) (withOffset (formOf i) a).toNat
  match translate s c va (readsMemory i) (writesMemory i) with
  | .error e => .error e
  | .ok p =>
    if Config.spoiled s.tick then .error (.fault fcMem (some (BitVec.ofNat 64 va)) none)
    else match s.serves (agentD n) p va (readsMemory i) with
      | .error e => .error e
      | .ok () =>
        if writesMemory i ∧ bitOf p.e 7 then .error .wait
        else .ok (accessPage (agentD n) c p va i r k s)

/-- A line of a scratchpad is filled from memory (R196). -/
def fillLine (t i : Nat) (c : BitVec 8) (p : Page) (va : Nat) (s : State) : State :=
  let (bs, s) := pageRead (agentE t) c p va 512 s
  ((spWrite pathE t (512 * i) bs s).setFull t (32 * i) 32 true).settle t

/-! ## The life of a request (R174, R175) -/

/-- A request reaches its die's memory interface (R174). -/
def State.toInterface (s : State) (r : Req) : State :=
  let va := match opcodeOf r.instr with
    | 0x8E => alignTo 512 r.l.toNat
    | 0x8B => 0
    | 0x8C => 0
    | _ => alignTo (accessWidth r.instr) (withOffset (formOf r.instr) r.l).toNat
  let w := match opcodeOf r.instr with
    | 0x8E => 512
    | 0x8B => 0
    | 0x8C => 0
    | _ => accessWidth r.instr
  { s with reqs := s.reqs ++ [{ req := r, va := va, width := w, at_ := s.tick }] }

/-- Requests of a context parked on a die (R175). -/
def State.parkedOn (s : State) (c : BitVec 8) (d : Nat) : Nat :=
  (s.reqs.filter fun m => m.state == .parked && m.req.ctx == c && dieOf m.req.tile == d).length

/-- Change a request in the list. -/
def State.setReq (s : State) (k : Nat) (m : MemReq) : State := { s with reqs := setNth s.reqs k m }
/-- A request has ended. -/
def State.dropReq (s : State) (k : Nat) : State := { s with reqs := dropNth s.reqs k }

/-- Where a translated request's bytes lie: in main memory, or beyond it in a window (R370). -/
def MemReq.loc (m : MemReq) : Nat :=
  let p : Page := ⟨m.leaf, m.lvl, m.epa⟩
  p.tgt * 2 ^ 60 + p.pa m.va

/-- A request's position in its chain. -/
def MemReq.pos (m : MemReq) (performed parked : Bool) : ChainPos :=
  { tripleOf (formOf m.req.instr) with
    fence := opcodeOf m.req.instr == 0x8B, performed := performed, parked := parked, loc := m.loc, width := m.width }

/-- The position of a wave-ordered request becomes known (R179). -/
def State.noteReq (s : State) (m : MemReq) (performed parked : Bool) : State :=
  if waveOrdered m.req.instr then s.notePos m.req.ctx m.req.wave (m.pos performed parked) else s

/-- A request ends with an `ERR` reply; in its chain it counts as performed (R175). -/
def State.endErr (s : State) (k : Nat) (m : MemReq) (code : Nat) : State :=
  ((s.dropReq k).noteReq m true false).reply m.req.interface m.req .err (BitVec.ofNat 64 code)

/-- A request fails: its fault is recorded, and it replies `ERR` with the code once the record has been appended
(R175, R324). -/
def State.failReq (s : State) (k : Nat) (m : MemReq) (code : Nat) (val aux : Option W64) : State :=
  (s.faultAt m.req.interface m.req code val aux).setReq k { m with state := .performing, failing := some code }

/-- A request to a window whose link has left UP to train again since it was issued: it is traffic that waits (R388); what
is issued later fails at once (R390; DEDUCED, log 126). -/
def State.trafficWaits (s : State) (m : MemReq) : Bool :=
  match s.walk m.req.ctx m.va with
  | .leaf e _ _ => (match leafLink e with
    | some l => (mapGet {} s.links l).left.any fun k => m.at_ ≤ k
    | none => false)
  | _ => false

/-- `PREF` is translated (R196): it never parks; an absent page is counted and replies 1. -/
def State.translatePref (s : State) (k : Nat) (m : MemReq) : State :=
  let r := m.req
  let f := formOf r.instr
  let t := r.tile
  let i := f.imm.toNat % 128
  let clear := fun (v : Nat) (s : State) =>
    if f.mod = 1 then ((s.setLine t i v).setFull t (32 * i) 32 false).settle t else s
  match translate s r.ctx m.va true false with
  | .ok p =>
    (clear (bitsOf m.va 9 47) s).setReq k { m with state := .performing, leaf := p.e, lvl := p.lvl, epa := p.epa }
  | .error (.absent _) => (((clear lineInvalid s).dropReq k).countDrop r.ctx).reply r.interface r .data 1
  | .error (.fault code val aux) =>
    (clear lineInvalid s).failReq k m code val aux
  | .error (.error code) => if s.trafficWaits m then s else (clear lineInvalid s).endErr k m code
  | .error .wait => s

/-- `LD`, `ST` and `ATOM` are translated (R175, R187). A write waits while its page migrates (R386). -/
def State.translateAccess (s : State) (k : Nat) (m : MemReq) : State :=
  let r := m.req
  if waveOrdered r.instr && !s.waveRoom r.ctx r.wave then s
  else match translate s r.ctx m.va (readsMemory r.instr) (writesMemory r.instr) with
    | .ok p =>
      if writesMemory r.instr ∧ bitOf p.e 7 then s
      else
        let m' := { m with
          state := if waveOrdered r.instr then .held else .performing
          leaf := p.e
          lvl := p.lvl
          epa := p.epa }
        (s.noteReq m' false false).setReq k m'
    | .error (.absent va) =>
      if opcodeOf r.instr = 0x80 ∧ bitsOf (formOf r.instr).mod.toNat 3 2 = 1 then (s.countDrop r.ctx).endErr k m fcPageAbsent
      else if 1024 ≤ s.parkedOn r.ctx (dieOf r.tile) then s
      else ((s.noteReq m false true).setReq k { m with state := .parked, parkedAt := some s.tick }).faultAt r.interface r fcPageAbsent (some (BitVec.ofNat 64 va)) none
    | .error (.fault code val aux) => s.failReq k m code val aux
    | .error (.error code) => if s.trafficWaits m then s else s.endErr k m code
    | .error .wait => s

/-- A request that was parked is translated again after those that parked before it on its die (R175, R327). -/
def State.parkTurn (s : State) (m : MemReq) : Bool :=
  match m.parkedAt with
  | none => true
  | some k => s.reqs.all fun q => !(q.state == .translating && q.req.ctx == m.req.ctx
      && dieOf q.req.tile == dieOf m.req.tile && (match q.parkedAt with | some j => j < k | none => false))

/-- `REQUEST_TRANSLATE` (R175): a translation completes. What has no address needs none. -/
def execRequestTranslate (req : Nat) (s : State) : Answer :=
  .next (match s.reqs[req]? with
    | none => s
    | some m =>
      if m.state ≠ .translating ∨ m.failing.isSome ∨ !s.parkTurn m then s
      else if m.req.notice then
        (if s.waveRoom m.req.ctx m.req.wave then (s.noteReq m true false).dropReq req else s)
      else if m.req.kind ≠ .data ∨ opcodeOf m.req.instr = 0x8C then s.setReq req { m with state := .performing }
      else if opcodeOf m.req.instr = 0x8B then
        (if waveOrdered m.req.instr then
          (if s.waveRoom m.req.ctx m.req.wave then (s.noteReq m false false).setReq req { m with state := .held } else s)
         else s.setReq req { m with state := .performing })
      else if opcodeOf m.req.instr = 0x8E then s.translatePref req m
      else s.translateAccess req m)

/-- `ORDER_CLEAR` (R180): a held access moves to performing. -/
def execOrderClear (req : Nat) (s : State) : Answer :=
  .next (match s.reqs[req]? with
    | none => s
    | some m =>
      if m.state = .held ∧ s.chainClear m.req.ctx m.req.wave (tripleOf (formOf m.req.instr)).own then
        s.setReq req { m with state := .performing }
      else s)

/-- `FENCE_W_PASSED` (R180): every earlier access of the fence's wave is performed. -/
def execFenceWPassed (req : Nat) (s : State) : Answer :=
  .next (match s.reqs[req]? with
    | none => s
    | some m =>
      let own := (tripleOf (formOf m.req.instr)).own
      if opcodeOf m.req.instr = 0x8B ∧ waveOrdered m.req.instr ∧ m.state = .performing
          ∧ s.chainClear m.req.ctx m.req.wave own then
        s.passPos m.req.ctx m.req.wave own
      else s)

/-- A `FENCE.W` has been passed. -/
def State.fencePassed (s : State) (m : MemReq) : Bool :=
  match s.wave m.req.ctx m.req.wave with
  | none => true
  | some w => w.chain.all fun p => p.own != (tripleOf (formOf m.req.instr)).own || p.performed

/-- Every queue of requests, the waiting lists and the ports' commands. -/
def State.unserved (s : State) : List Req :=
  s.queues.flatMap (·.2) ++ s.tiles.flatMap fun kv =>
    kv.2.waiting ++ (kv.2.ports.flatMap fun p => p.2.held ++ (if p.2.replied then [] else p.2.opener.toList))
      ++ kv.2.circuits.flatMap fun c => c.2.queue

/-- Every request that the element issued before a `FENCE` is performed (R193). -/
def State.fenceDone (s : State) (k : Nat) (m : MemReq) : Bool :=
  let mine := fun (r : Req) => r.element == m.req.element && r.seq < m.req.seq && !r.notice
  (s.reqs.zip (List.range s.reqs.length)).all (fun q => q.2 == k || !mine q.1.req) && s.unserved.all fun r => !mine r

/-- The path that a request's writes take (R184). The writes of a stream are its rows, which are issued and performed in
one step, so that none is ever accepted and not performed: DEDUCED, log 118. -/
def writePath (i : Instr) : Option Nat :=
  let o := opcodeOf i
  if writesMemory i ∨ o = 0x83 ∨ (o = 0x8E ∧ (formOf i).mod = 1) then some pathE
  else if 0xAC ≤ o ∧ o ≤ 0xB1 then some pathM
  else if 0xC0 ≤ o ∧ o ≤ 0xCF then some pathT
  else if 0xD0 ≤ o ∧ o ≤ 0xDF then some pathB
  else if o = 0xA6 ∨ o = 0xA7 then some pathS
  else none

/-- The unit that performs a request's writes: for a boundary unit its die, else the unit that made the request. -/
def Req.writer (r : Req) : Nat :=
  let o := opcodeOf r.instr
  if 0xD0 ≤ o ∧ o ≤ 0xDF then 32768 + unitDieOf r.unit else r.unit

/-- Every write of the context on a from path that an engine of the scope had accepted when the fence reached it is
performed, and no write of the units' own is kept (R194). -/
def State.xfenceDone (s : State) (k : Nat) (m : MemReq) : Bool :=
  let f := formOf m.req.instr
  let hit := fun (r : Req) => r.ctx == m.req.ctx && !r.notice && inScope (f.mod.toNat % 4) m.req.unit r.writer
    && (match writePath r.instr with
      | some p => bitOf (f.imm.toNat % 512) p
      | none => false)
  (s.reqs.take k).all (fun q => !(hit q.req && q.at_ ≤ m.at_)) && s.unserved.all (fun r => !(hit r && r.seq < m.at_))
    && s.late.all fun w => !(w.ctx == m.req.ctx && bitOf (f.imm.toNat % 512) w.path && inScope (f.mod.toNat % 4) m.req.unit w.unit)

/-- `XFENCE` (R194): the masks and the scope of a word. -/
def xfenceOf (f : Form) (c : BitVec 8) (unit : Nat) (s : State) : State :=
  s.xfence c (f.imm.toNat % 512) (bitsOf f.imm.toNat 9 9) (f.mod.toNat % 4) unit

/-- The page of a translated request. -/
def MemReq.page (m : MemReq) : Page := ⟨m.leaf, m.lvl, m.epa⟩

/-- The pseudo-channel of an access to main memory: stack * 64 + channel (R393, R395). -/
def MemReq.channel (m : MemReq) : Option Nat :=
  if m.width ≠ 0 ∧ m.page.tgt = 0 then some (channelAt (m.page.pa m.va)) else none

/-- What carries an access can serve it now: a window's link is UP (R388), or the die edges to its stack are and the lanes
of its pseudo-channel are its own (R10, R395). -/
def State.carries (s : State) (m : MemReq) : Bool :=
  match leafLink m.leaf with
  | some l => (mapGet {} s.links l).state == .up
  | none => m.width == 0 || s.reaches (agentE m.req.tile) (m.page.pa m.va)

/-- A request reads memory, or fills a line from it. -/
def readsLine (i : Instr) : Bool := readsMemory i || (opcodeOf i == 0x8E && (formOf i).mod == 1)

/-- An access meets an uncorrectable error: at any time (R175), or as a read of a line that a scrub has found (R410). -/
def State.struck (s : State) (m : MemReq) : Bool :=
  m.width != 0 && (Config.spoiled s.tick || (readsLine m.req.instr && s.pageBad m.page m.va m.width))

/-- A request may be performed now: a marker after the earlier requests of its slot, a fence after what
it waits for, and the `XFENCE`s of one slot, whose waits hold in their order, in that order (R194, R416). -/
def State.mayComplete (s : State) (k : Nat) (m : MemReq) : Bool :=
  if m.state ≠ .performing then false
  else if m.req.kind = .err then true
  else if m.req.kind ≠ .data then (s.reqs.take k).all fun q => q.req.origin != m.req.origin || q.req.notice
  else if opcodeOf m.req.instr = 0x8C then
    s.xfenceDone k m && (s.reqs.take k).all fun q => q.req.origin != m.req.origin || q.req.notice
  else if opcodeOf m.req.instr = 0x8B then
    (if waveOrdered m.req.instr then s.fencePassed m else s.fenceDone k m)
  else s.carries m

/-- The effect of a request that is performed, and its reply's value. `PREF.T` of a present page replies 0, as `PREF.F`
does (R196: DESIGN CHOICE, log 149). -/
def reqPerform (m : MemReq) (s : State) : W64 × State :=
  let r := m.req
  let p : Page := ⟨m.leaf, m.lvl, m.epa⟩
  match opcodeOf r.instr with
  | 0x8B => (r.l, s)
  | 0x8C => (r.l, xfenceOf (formOf r.instr) r.ctx r.tile s)
  | 0x8E => (0, if (formOf r.instr).mod = 1 then fillLine r.tile ((formOf r.instr).imm.toNat % 128) r.ctx p m.va s else s)
  | _ => accessPage (agentE r.tile) r.ctx p m.va r.instr r.r r.c s

/-- `REQUEST_COMPLETE` (R175): a request is performed and replies; an uncorrectable error of memory
replies `ERR` 0x31 and is recorded. -/
def execRequestComplete (req : Nat) (s : State) : Answer :=
  .next (match s.reqs[req]? with
    | none => s
    | some m =>
      match m.failing with
      | some code => if s.recordWaits m.req.interface m.req.ctx then s else s.endErr req m code
      | none =>
      if !s.mayComplete req m then s
      else if m.req.kind ≠ .data then (s.dropReq req).forward m.req.interface m.req
      else if s.struck m then s.failReq req m fcMem (some (BitVec.ofNat 64 m.va)) none
      else
        let (v, s) := reqPerform m s
        let s := if waveOrdered m.req.instr then
          s.passPos m.req.ctx m.req.wave (tripleOf (formOf m.req.instr)).own else s
        (s.dropReq req).reply m.req.interface m.req .data v)

/-- A mapped page releases its parked requests, in parking order (R175). -/
def State.releaseParked (s : State) (c : BitVec 8) (lo size : Nat) : State :=
  { s with reqs := s.reqs.map fun m =>
      if m.state = .parked ∧ m.req.ctx = c ∧ lo ≤ m.va ∧ m.va < lo + size then { m with state := .translating } else m }

/-! ## The instructions (R185 to R196) -/

/-- A wave-ordered access that its predicate suppresses sends its notice, which waits at the memory interface while the
buffers are full, and counts as performed in its chain (R179, R182). -/
def Firing.sendAccess (fr : Firing) (i : Instr) (s : State) : State :=
  let f := formOf i
  if waveOrdered i && fr.err?.isNone && !fr.hasStop && fr.suppressed f then
    fr.push [.request { fr.request i .data fr.tag s with notice := true }] s
  else fr.sendRequest i s

/-- A firing that sends a request unless its operands are refused with `ILLEGAL` (R147). -/
def Firing.sendChecked (fr : Firing) (i : Instr) (bad : Bool) (s : State) : State :=
  let f := formOf i
  if fr.err?.isNone && !fr.hasStop && !fr.suppressed f && (fr.tagOut s f).toBool && bad then
    fr.raise f fcIllegal (some (f.tagop.setWidth 64)) s
  else fr.sendRequest i s

/-- `LD` (R186, R187): on a core `SPEC` of an absent page counts a drop and gives 1. -/
def execLd (f : Form) (s : State) : Answer :=
  onBoth s (fun fr s => fr.sendAccess (.ld f) s)
    (fun n s =>
      let a := (s.core n).reg (Form.xa f)
      match coreAccess n (.ld f) a 0 0 s with
      | .error (.absent _) =>
        if bitsOf f.mod.toNat 3 2 = 1 then (s.countDrop (s.core n).context).coreResult n f 1
        else s.coreAct n (coreAccess n (.ld f) a 0 0) fun v s => s.coreResult n f v
      | _ => s.coreAct n (coreAccess n (.ld f) a 0 0) fun v s => s.coreResult n f v)

/-- `ST` (R186). -/
def execSt (f : Form) (s : State) : Answer :=
  onBoth s (fun fr s => fr.sendAccess (.st f) s)
    (fun n s =>
      let o := coreOperands 0x81 f (s.core n)
      s.coreAct n (coreAccess n (.st f) o.1 o.2.1 0) fun _ s => s.coreDone n)

/-- The data memory address of a core's `LDS` or `STS` (R169, R188). -/
def dmemAddress (i : Instr) (a : W64) : Nat := alignTo (accessWidth i) ((withOffset (formOf i) a).toNat % 2 ^ 16)

/-- `LDS` (R188). -/
def execLds (f : Form) (s : State) : Answer :=
  onAll s (fun fr s => fr.sendRequest (.lds f) s)
    (fun n s =>
      let c := s.core n
      s.coreResult n f (loadValue (.lds f)
        (memRead c.dmem (dmemAddress (.lds f) (c.reg (Form.xa f))) (accessWidth (.lds f)))))
    portTurn

/-- `STS` (R188). -/
def execSts (f : Form) (s : State) : Answer :=
  onAll s (fun fr s => fr.sendRequest (.sts f) s)
    (fun n s =>
      let o := coreOperands 0x83 f (s.core n)
      (s.modCore n fun c => { c with dmem := memWrite c.dmem (dmemAddress (.sts f) o.1) (storeBytes (.sts f) o.2.1) }).coreDone n)
    portTurn

/-- `LKUP` (R189). -/
def execLkup (f : Form) (s : State) : Answer :=
  onRequest s (fun fr s => fr.sendRequest (.lkup f) s)
    (tableTurn fun t r s => ((s.tile t).lookLine (bitsOf r.l.toNat 9 47), s))

/-- `TTSET` refuses its operands (R189). -/
def ttsetBad (l r : W64) : Bool := l.toNat ≥ 128 || bitsOf r.toNat 9 47 == lineInvalid || bitsOf r.toNat 56 8 != 0

/-- `TTSET` (R189). -/
def execTtset (f : Form) (s : State) : Answer :=
  onRequest s (fun fr s => fr.sendChecked (.ttset f) (ttsetBad fr.l.value fr.r.value) s)
    (tableTurn fun t r s => (r.l, s.setLine t (r.l.toNat % 128) (bitsOf r.r.toNat 9 47)))

/-- `TTINV` (R189). -/
def execTtinv (f : Form) (s : State) : Answer :=
  onRequest s (fun fr s => fr.sendChecked (.ttinv f) (f.mod == 0 && fr.l.value.toNat ≥ 128) s)
    (tableTurn fun t r s => (r.l,
      if f.mod = 1 then s.modTile t fun x => { x with tags := [] } else s.setLine t (r.l.toNat % 128) lineInvalid))

/-- A run of granules passes the last one (R190). -/
def runBad (f : Form) (l : W64) : Bool := firstGranule l + f.imm.toNat > 4096

/-- `FEQ` (R190). -/
def execFeq (f : Form) (s : State) : Answer :=
  onRequest s (fun fr s => fr.sendChecked (.feq f) (f.mod != 0 && runBad f fr.l.value) s) portTurn

/-- `FESET` (R190). -/
def execFeset (f : Form) (s : State) : Answer :=
  onRequest s (fun fr s => fr.sendChecked (.feset f) (runBad f fr.l.value) s) portTurn

/-- `ATOM` (R191). -/
def execAtom (f : Form) (s : State) : Answer :=
  onAll s (fun fr s => fr.sendAccess (.atom f) s)
    (fun n s =>
      let o := coreOperands 0x89 f (s.core n)
      s.coreAct n (coreAccess n (.atom f) o.1 o.2.1 o.2.2) fun v s => s.coreResult n f v)
    portTurn

/-- `RED` (R192): the count is reached and the combined value leaves. -/
def execRed (f : Form) (s : State) : Answer :=
  onSlot s fun fr s => fr.run f (fun tag s => fr.emit f [0, 1] .data fr.l.value tag fr.l.s s) s

/-- `FENCE` (R193): a core's earlier accesses are complete when it executes. -/
def execFence (f : Form) (s : State) : Answer :=
  onBoth s (fun fr s => fr.sendRequest (.fence f) s)
    (fun n s => s.coreResult n f ((s.core n).reg (Form.xa f)))

/-- `XFENCE` (R194). On a core it waits for the writes that were accepted before it. -/
def execXfence (f : Form) (s : State) : Answer :=
  onBoth s (fun fr s => fr.sendRequest (.xfence f) s)
    (fun n s =>
      let c := s.core n
      let since := match c.wait with | .timed k => k | _ => s.tick
      let m : MemReq := { req := { instr := .xfence f, origin := .core n, ctx := c.context, seq := since }, at_ := since }
      if s.xfenceDone s.reqs.length m then (xfenceOf f c.context (16384 + n) s).coreResult n f (c.reg (Form.xa f))
      else s.setCore n { c with wait := .timed since })

/-- The field that `REORD` expects after one (R195). -/
def nextField (k field : Nat) : Nat :=
  if field % 64 + 1 = k then (field / 64 + 1) % 4 * 64 else field + 1

/-- `REORD` (R195): a token of the expected tag leaves, and the next is looked for. -/
def execReord (f : Form) (s : State) : Answer :=
  onSlot s fun fr s => fr.run f (fun _ s =>
    ((fr.emit f [0, 1] .data fr.l.value fr.tag fr.l.s s).modSlot fr.tile fr.elem fr.slot fun y =>
      { y with count := BitVec.ofNat 64 (nextField (2 ^ f.mod.toNat) y.count.toNat) }).seekReord fr.tile fr.elem fr.slot) s

/-- `PREF` (R196). -/
def execPref (f : Form) (s : State) : Answer := onSlot s fun fr s => fr.sendRequest (.pref f) s

end Sys2Proof.Machine
end

