-- ==== Sys2Proof/Machine/Ring.lean ====
section
/-! DEFINITION. Rings, panels and the matrix engine (R216 to R236): `RING` to `XSPLIT`, and `SCALE`. -/

namespace Sys2Proof.Machine

open Sys2Proof

/-! ## Rings (R216 to R219) -/

/-- A slot's state. -/
def Ring.slot (r : Ring) (k : Nat) : RingSlot := mapGet .free r.slots k
/-- Set a slot's state. -/
def Ring.setSlot (r : Ring) (k : Nat) (x : RingSlot) : Ring := { r with slots := mapSet .free r.slots k x }
/-- No slot is left at the tail (R218). `cnt` is the slot count less one. -/
def Ring.noRoom (r : Ring) : Bool := r.used == r.cnt + 1
/-- A slot's scratchpad address (R216). -/
def Ring.addr (r : Ring) (k : Nat) : Nat := r.base + k * r.pb
/-- The bytes of a ring. -/
def Ring.size (r : Ring) : Nat := r.pb * (r.cnt + 1)
/-- Reserve the slot at the tail (R218). -/
def Ring.reserve (r : Ring) : Ring :=
  { r.setSlot r.tail .filling with tail := (r.tail + 1) % (r.cnt + 1), used := r.used + 1 }
/-- A FILLING slot becomes FULL. -/
def Ring.publish (r : Ring) (k : Nat) : Ring := { r.setSlot k .full with full := r.full + 1 }
/-- The head passes free slots (R218). -/
def ringAdvance : Nat → Ring → Ring
  | 0, r => r
  | n + 1, r =>
    if r.used > 0 ∧ r.slot r.head = .free then
      ringAdvance n { r with head := (r.head + 1) % (r.cnt + 1), used := r.used - 1 }
    else r
/-- The producers that wait are served in the order of their first attempt while there is room (R218): each has its slot
from then on. -/
def ringGrant : Nat → Ring → Ring
  | 0, r => r
  | n + 1, r => match r.waiters with
    | [] => r
    | w :: ws =>
      if r.noRoom then r
      else ringGrant n { r.reserve with waiters := ws, granted := mapSet 0 r.granted w (r.tail + 1) }
/-- A slot is FREE: the head advances, and the producers that wait are tried again (R218). -/
def Ring.freeSlot (r : Ring) (k : Nat) : Ring :=
  let q := ringAdvance r.used (r.setSlot k .free)
  ringGrant q.waiters.length q
/-- Retire a slot (R218). -/
def Ring.retire (r : Ring) (k : Nat) : Ring := { r with full := r.full - 1 }.freeSlot k
/-- The slot that a panel token names (R219). -/
def Ring.slotOf (r : Ring) (v : W64) : Option Nat :=
  let a := v.toNat % 2 ^ 16
  if !r.defined || a < r.base || r.pb == 0 || (a - r.base) % r.pb != 0 || (a - r.base) / r.pb > r.cnt then none
  else some ((a - r.base) / r.pb)
/-- The descriptor as `RSTAT.RING` replies it (R216). A ring that `UNDEF` left undefined keeps its other fields (R228). -/
def Ring.word (r : Ring) : W64 :=
  BitVec.ofNat 64 (b2n r.defined * 2 ^ 63 + r.base / 16 * 2 ^ 51 + r.pb / 16 * 2 ^ 43 + r.cnt * 2 ^ 35 + r.head * 2 ^ 27
    + r.tail * 2 ^ 19 + r.used * 2 ^ 10 + r.full * 2)
/-- The value of a panel token (R219). -/
def panelValue (addr row : Nat) : W64 := BitVec.ofNat 64 (addr % 2 ^ 16 + row % 2 ^ 24 * 2 ^ 16)

/-- A ring of a tile. -/
def State.ring (s : State) (t n : Nat) : Ring := (s.tile t).ring n

/-- A producer's turn (R218): it has waited and has its slot, or there is room. -/
def Ring.mayReserve (r : Ring) (key : Nat) : Bool := mapGet 0 r.granted key != 0 || !r.noRoom
/-- A producer's slot, and the ring after: the slot that it was given while it waited, or the one at the tail (R218). -/
def Ring.takeSlot (r : Ring) (key : Nat) : Nat × Ring :=
  match mapGet 0 r.granted key with
  | 0 => (r.tail, r.reserve)
  | k + 1 => (k, { r with granted := mapSet 0 r.granted key 0 })
/-- A producer waits from its first attempt on. -/
def Ring.enqueue (r : Ring) (key : Nat) : Ring :=
  if r.waiters.contains key then r else { r with waiters := r.waiters ++ [key] }
/-- A producer waits no more, and gives up the slot that it was given. -/
def Ring.dequeue (r : Ring) (key : Nat) : Ring :=
  let q := { r with waiters := r.waiters.filter (fun w => w != key), granted := mapSet 0 r.granted key 0 }
  match mapGet 0 r.granted key with
  | 0 => q
  | k + 1 => q.freeSlot k

/-- Some producers wait no more. -/
def Ring.dequeueAll (r : Ring) (p : Nat → Bool) : Ring :=
  ((r.waiters ++ r.granted.map (·.1)).filter p).foldl Ring.dequeue r

/-- The keys of the producers that may wait: an `RCOMMIT.RSVW` slot, the engine, a row of a stream port, and a
circuit. -/
def waitSlot (e k : Nat) : Nat := e * 32 + k
/-- The key of a row of a stream port. -/
def waitPort (p i : Nat) : Nat := 2 ^ 20 + 8 * i + p % 8
/-- The engine's key. -/
def waitEngine : Nat := 528
/-- A circuit's key. -/
def waitCircuit (t c : Nat) : Nat := 1024 + t * 8 + c

/-- A panel has landed in a slot, or is published: the slot is FULL, and the engine will see what elements, streams, gathers
and circuits wrote so far (R215, R217, R221, R426). -/
def State.publish (s : State) (t n k : Nat) : State :=
  let r := s.ring t n
  (s.modRing t n fun r => r.publish k).seeRange (2 ^ pathE + 2 ^ pathS + 2 ^ pathG) pathM t (r.addr k) r.pb s.tick

/-! ## The instructions of the ring port (R228 to R230) -/

/-- The ring of a word's `MOD`. -/
def modRingNo (f : Form) : Nat := f.mod.toNat % 8

/-- Another ring of the tile overlaps a range (R228). -/
def Tile.ringOverlap (x : Tile) (n lo size : Nat) : Bool :=
  (List.range 8).any fun k => k != n && (x.ring k).defined && lo < (x.ring k).base + (x.ring k).size
    && (x.ring k).base < lo + size

/-- The ring that a `RING` word defines (R216, R226). -/
def ringOfImm (imm : Nat) : Ring :=
  { defined := true, base := bitsOf imm 0 12 * 16, pb := bitsOf imm 12 8 * 16, cnt := bitsOf imm 20 8 }

/-- `RING` at its port (R228): the new state, or its fault. `UNDEF` clears `DEF` alone. -/
def ringDefine (f : Form) (t : Nat) (s : State) : Except Nat State :=
  let n := modRingNo f
  let r := s.ring t n
  if r.defined ∧ r.used > 0 then .error fcCfgBusy
  else if f.mod.getLsbD 3 then .ok (s.modRing t n fun r => { r with defined := false })
  else
    let q := ringOfImm f.imm.toNat
    if (s.tile t).ringOverlap n q.base q.size then .error fcIllegal
    else .ok (s.modRing t n fun _ => q)

/-- A firing at the ring port fails: its fault is recorded with its tag and it replies `ERR` (R224). -/
def Firing.portFail (fr : Firing) (f : Form) (code : Nat) (tag : W64) (s : State) : State :=
  fr.emit f [0, 1] .err (BitVec.ofNat 64 code) tag false (s.record
    { code, ukind := 2, unit := unitEngine s fr.tile 0, ctx := s.tileCtx fr.tile, tag := fr.tag } (some (fr.tile, fr.elem)))

/-- What the ring port does for a core's command: `RING` (R228) or `RSTAT.RING` (R230). -/
def portGo (t : Nat) (i : Instr) : Act (W64 × Bool) := fun s => match i with
  | .ring f => (match ringDefine f t s with
    | .ok s => .ok ((0, true), s)
    | .error code => .error (.fault code none none))
  | .rstatRing f => .ok (((s.ring t (modRingNo f)).word, true), s)
  | _ => .ok ((0, true), s)

/-- The ring port serves the commands of its queue, `n` of them. -/
def flushPort (t : Nat) : Nat → State → State
  | 0, s => s
  | n + 1, s => match s.queue (.ringPort t) with
    | [] => s
    | r :: _ => if s.recordWaits (.ringPort t) r.ctx then s else flushPort t n (s.serve (.ringPort t) r (portGo t r.instr))

/-- The ring port works in order of arrival (R218): the commands that reached it have been served before a later request
is. -/
def State.portServed (s : State) (t : Nat) : State := flushPort t (s.queue (.ringPort t)).length s

/-- A firing at the ring port: its reply, or its fault. -/
def Firing.port (fr : Firing) (f : Form) (op : State → Except Nat (W64 × State)) (s : State) : State :=
  fr.run f (fun tag s => let s := s.portServed fr.tile
    match op s with
    | .ok (v, s) => fr.emit f [0, 1] .data v tag false s
    | .error code => fr.portFail f code tag s) s

/-- The matrix engine's queue takes a command of a core: the role is in `xc` (R227). -/
def engineCommand (i : Instr) (n : Nat) (s : State) : State :=
  let f := formOf i
  let c := s.core n
  match s.commandTile n ((c.reg (Form.xc f)).toNat % 1024) with
  | none => s.coreFault n fcIllegal
  | some t => s.command n (engineKey (.matrix t)) (s.commandReq n i (c.reg (Form.xa f)) (c.reg (Form.xb f)) 0 [])

/-- A command whose reply the core waits for (R227). -/
def engineQuery (i : Instr) (n : Nat) (s : State) : State :=
  let f := formOf i
  let c := s.core n
  match s.commandTile n ((c.reg (Form.xc f)).toNat % 1024) with
  | none => s.coreFault n fcIllegal
  | some t => s.query n f (engineKey (.matrix t)) (s.commandReq n i 0 0 0 [])

/-- The matrix engine takes the head of its queue. -/
def matrixTurn (go : Nat → Req → Act (W64 × Bool)) (e : Engine) (r : Req) (s : State) : State :=
  match e with
  | .matrix t => s.serve e r (go t r)
  | _ => s

/-- A command that the ring port serves: `RING` and `RSTAT.RING` (R227, R228, R230). -/
def atRingPort (i : Instr) : Bool :=
  opcodeOf i == 0xA8 || (opcodeOf i == 0xAB && bitsOf (formOf i).mod.toNat 3 2 == 0)

/-- The ring port takes the head of its queue (R218). -/
def ringPortTurn (e : Engine) (r : Req) (s : State) : State :=
  match e with
  | .ringPort t => s.serve e r (portGo t r.instr)
  | _ => s

/-- A fault of a request at its engine (R224). -/
def engineFault {α : Type} (code : Nat) : Act α := Act.stop (.fault code none none)

/-- `RING` (R228). -/
def execRing (f : Form) (s : State) : Answer :=
  onAll s
    (fun fr s => fr.port f (fun s => (ringDefine f fr.tile s).map fun s => (fr.l.value, s)) s)
    (engineCommand (.ring f))
    ringPortTurn

/-- `RCOMMIT.RSV` and `RCOMMIT.RSVW` (R229): the reserved slot's address. A full ring is `RING_OVERFLOW`; `RSVW` is no
candidate while the ring is full. -/
def ringReserve (f : Form) (t key : Nat) (s : State) : Except Nat (W64 × State) :=
  let r := s.ring t (modRingNo f)
  if !r.defined then .error fcIllegal
  else if !r.mayReserve key then .error fcRing
  else .ok (BitVec.ofNat 64 (r.addr (r.takeSlot key).1), s.modRing t (modRingNo f) fun r => (r.takeSlot key).2)

/-- `RCOMMIT.RSV` (R229). -/
def execRcommitRsv (f : Form) (s : State) : Answer :=
  onSlot s fun fr s => fr.port f (ringReserve f fr.tile (waitSlot fr.elem fr.slot)) s

/-- `RCOMMIT.RSVW` (R229): it is a candidate once a slot is there for it. One whose `TAGOP` fails gives up the slot that it
was given while it waited (R224). -/
def execRcommitRsvw (f : Form) (s : State) : Answer :=
  onSlot s fun fr s =>
    let s' := fr.port f (ringReserve f fr.tile (waitSlot fr.elem fr.slot)) s
    if fr.err?.isNone && !fr.suppressed f && !(fr.tagOut s f).toBool then
      s'.modRing fr.tile (modRingNo f) fun r => r.dequeue (waitSlot fr.elem fr.slot)
    else s'

/-- `RCOMMIT.PUB` (R229). -/
def execRcommitPub (f : Form) (s : State) : Answer :=
  onSlot s fun fr s => fr.port f (fun s =>
    let r := s.ring fr.tile (modRingNo f)
    match r.slotOf fr.l.value with
    | none => .error fcIllegal
    | some k =>
      if r.slot k = .filling then .ok (panelValue (r.addr k) 0, s.publish fr.tile (modRingNo f) k) else .error fcIllegal) s

/-- `RCOMMIT.TAIL` (R229): reserve and publish at once. -/
def execRcommitTail (f : Form) (s : State) : Answer :=
  onSlot s fun fr s => fr.port f (fun s =>
    let r := s.ring fr.tile (modRingNo f)
    let k := (r.takeSlot (waitSlot fr.elem fr.slot)).1
    match ringReserve f fr.tile (waitSlot fr.elem fr.slot) s with
    | .error code => .error code
    | .ok (_, s) => .ok (panelValue (r.addr k) 0, s.publish fr.tile (modRingNo f) k)) s

/-- `RPOP` (R230). -/
def execRpop (f : Form) (s : State) : Answer :=
  onSlot s fun fr s => fr.port f (fun s =>
    let r := s.ring fr.tile (modRingNo f)
    match r.slotOf fr.l.value with
    | none => .error fcIllegal
    | some k =>
      if r.slot k = .full then .ok (fr.l.value, s.modRing fr.tile (modRingNo f) fun r => r.retire k) else .error fcIllegal) s

/-- `RSTAT.RING` (R230). -/
def execRstatRing (f : Form) (s : State) : Answer :=
  onAll s
    (fun fr s => fr.port f (fun s => .ok ((s.ring fr.tile (modRingNo f)).word, s)) s)
    (engineQuery (.rstatRing f))
    ringPortTurn

/-- The status word of the matrix engine (R223). The request that executes stands in its queue and counts in `QUEUE`
(DESIGN CHOICE, log 154). -/
def engineStatus (t : Nat) (s : State) : W64 :=
  let own := (List.range 4).foldl (fun v n => v + b2n ((s.tile t).acc n).owner.isSome * 2 ^ n) 0
  BitVec.ofNat 64 (own * 2 ^ 12 + min (s.queue (.matrix t)).length 8 * 2 ^ 8 + (s.tile t).engFlags.toNat)

/-- `RSTAT.ENG` (R230). -/
def execRstatEng (f : Form) (s : State) : Answer :=
  onAll s (fun fr s => fr.sendRequest (.rstatEng f) s) (engineQuery (.rstatEng f))
    (matrixTurn fun t _ => (Act.look (engineStatus t)).andThen fun v => Act.ret (v, true))

/-- `RSTAT.ENGCLR` (R230). -/
def execRstatEngclr (f : Form) (s : State) : Answer :=
  onAll s (fun fr s => fr.sendRequest (.rstatEngclr f) s) (engineQuery (.rstatEngclr f))
    (matrixTurn fun t _ => (Act.look (engineStatus t)).andThen fun v =>
      (Act.change fun s => s.modTile t fun x => { x with engFlags := 0 }).andThen fun _ => Act.ret (v, true))

/-! ## The arithmetic of panels (R93 to R95, R220) -/

/-- Tag O is a prefix of tag T (R223). -/
def tagPrefix (o t : W64) : Bool :=
  tagColour o == tagColour t && tagDepth o ≤ tagDepth t && tagBelow o (tagDepth o) == tagBelow t (tagDepth o)

/-- An accumulator's owner lets a request of a tag use it (R223). -/
def Acc.allows (a : Acc) (tag : W64) : Bool := match a.owner with | some o => tagPrefix o tag | none => false

/-- A 16-bit element of a panel as a number. -/
def panelNum (g : Fmt) (bs : List Byte) (i : Nat) : Num := decodeNum g (natAt bs (2 * i) 2)
/-- A dense panel as rows of 32 numbers: rows of A, or columns of B (R220). -/
def panelRows (g : Fmt) (bs : List Byte) : List (List Num) :=
  (List.range 8).map fun i => (List.range 32).map fun k => panelNum g bs (32 * i + k)

/-- One sum of products, added to an accumulator value (R93). -/
def dotAdd (acc : Nat) (a b : List Num) : Nat × Flags :=
  let ps := List.zipWith mulNum a b
  let (t, f1) := treeSum (ps.map (·.1))
  let (r, f2) := addNum .rne (decodeNum fp32 acc) t
  let (v, f3) := roundNum fp32 .rne r
  (v, ps.foldl (fun f p => f ||| p.2) 0 ||| f1 ||| f2 ||| f3)

/-- A block of a BFP panel (R88, R220): its exponent and mantissas; `n` counts blocks from 0 to 15. -/
def bfpBlock (w : Nat) (bs : List Byte) (n : Nat) : Nat × List Int :=
  (natAt bs n 1, unpackSigned w (natAt bs (16 + 2 * w * n) (2 * w)) 16)
/-- The blocks of a BFP panel. -/
def bfpBlocks (w : Nat) (bs : List Byte) : List (Nat × List Int) := (List.range 16).map (bfpBlock w bs)

/-- The product sum of two blocks (R94). -/
def bfpDot (wa wb : Nat) (a b : Nat × List Int) : Num × Flags :=
  if a.1 = 255 ∨ b.1 = 255 then (.nan false, flagIV)
  else
    let t := (List.zipWith (· * ·) a.2 b.2).sum
    let (v, f) := roundNum fp32 .rne (.fin (t < 0) t.natAbs (bfpGrid a.1 wa + bfpGrid b.1 wb) false)
    (decodeNum fp32 v, f)

/-- One BFP sum, added to an accumulator value (R94): the blocks of row i and column j. -/
def bfpAdd (wa wb acc : Nat) (a b : List (Nat × List Int)) : Nat × Flags :=
  let vs := List.zipWith (bfpDot wa wb) a b
  let (t, f1) := sumF32 ((vs.getD 0 (Num.zero, 0)).1) ((vs.getD 1 (Num.zero, 0)).1)
  let (r, f2) := addNum .rne (decodeNum fp32 acc) t
  let (v, f3) := roundNum fp32 .rne r
  (v, vs.foldl (fun f p => f ||| p.2) 0 ||| f1 ||| f2 ||| f3)

/-- The 64 new values of an accumulator: `cell` gives value (i, j) from the old one. -/
def accCells (a : Acc) (cell : Nat → Nat → Nat → Nat × Flags) : FMap W64 × Flags :=
  (List.range 64).foldl (fun m k =>
    let (v, f) := cell (k / 8) (k % 8) (mapGet 0 a.vals k).toNat
    (mapSet 0 m.1 k (BitVec.ofNat 64 v), m.2 ||| f)) (a.vals, 0)

/-- `mma_float` (R93). -/
def mmaFloat (acc : Acc) (a b : List (List Num)) : FMap W64 × Flags :=
  accCells acc fun i j v => dotAdd v (a.getD i []) (b.getD j [])
/-- `mma_bfp` (R94). -/
def mmaBfp (wa wb : Nat) (acc : Acc) (a b : List (Nat × List Int)) : FMap W64 × Flags :=
  accCells acc fun i j v => bfpAdd wa wb v (slicePair a i) (slicePair b j)
where
  /-- The two blocks of a row or column. -/
  slicePair (l : List (Nat × List Int)) (i : Nat) : List (Nat × List Int) := (l.drop (2 * i)).take 2

/-- The format of `MMA` and `MMAS` words: `BF16` or `F16`. -/
def mmaFmt (f : Form) : Fmt := if f.mod = 0 then bf16 else fp16

/-- The ring and accumulator fields of an `MMA` word (R226). -/
def mmaRingA (f : Form) : Nat := bitsOf f.imm.toNat 0 3
/-- Ring B. -/
def mmaRingB (f : Form) : Nat := bitsOf f.imm.toNat 3 3
/-- The accumulator. -/
def mmaAcc (f : Form) : Nat := bitsOf f.imm.toNat 6 2
/-- The width of the A panel. -/
def mmaWA (f : Form) : Nat := bitsOf f.imm.toNat 8 3 + 2
/-- The width of the B panel. -/
def mmaWB (f : Form) : Nat := bitsOf f.imm.toNat 11 3 + 2

/-- Flags of the engine's arithmetic (R223). -/
def State.engFlags (s : State) (t : Nat) (fl : Flags) : State :=
  s.modTile t fun x => { x with engFlags := x.engFlags ||| fl }

/-- The slots of an `MMA` or `MMAS`, checked (R231). -/
def mmaSlots (f : Form) (needA needB t : Nat) (l r tag : W64) (s : State) : Except Nat (Nat × Nat) :=
  let ra := s.ring t (mmaRingA f)
  let rb := s.ring t (mmaRingB f)
  match ra.slotOf l, rb.slotOf r with
  | some a, some b =>
    if ra.slot a ≠ .full ∨ rb.slot b ≠ .full ∨ (mmaRingA f = mmaRingB f ∧ a = b) then .error fcIllegal
    else if ra.pb ≠ needA ∨ rb.pb ≠ needB then .error fcIllegal
    else if !((s.tile t).acc (mmaAcc f)).allows tag then .error fcAcc
    else .ok (a, b)
  | _, _ => .error fcIllegal

/-- An `MMA` or `MMAS` at the head of its engine's queue has begun its reads. -/
def Req.reading (r : Req) : Bool := (opcodeOf r.instr == 0xAC || opcodeOf r.instr == 0xAD) && !r.blk.isEmpty

/-- The reads of an `MMA` or `MMAS` begin: both slots are READING, which the request notes (R217, R231). -/
def State.readBegins (s : State) (e : Engine) (r : Req) (f : Form) (t a b : Nat) : State :=
  ((s.modRing t (mmaRingA f) fun x => x.setSlot a .reading).modRing t (mmaRingB f) fun x => x.setSlot b .reading).setQueue e
    ({ r with blk := [1] } :: (s.queue e).tail)

/-- `MMA` and `MMAS` take two turns: the checks, from which the slots are READING, and the sums (R217, R231). -/
def productTurn (f : Form) (check : Nat → Req → State → Except Nat (Nat × Nat)) (run : Nat → Req → Nat → Nat → State → State)
    (e : Engine) (r : Req) (s : State) : State :=
  match e with
  | .matrix t =>
    let s := s.portServed t
    if r.kind ≠ .data then (s.endHead e).forward e r
    else if r.reading then
      match (s.ring t (mmaRingA f)).slotOf r.l, (s.ring t (mmaRingB f)).slotOf r.r with
      | some a, some b => ((run t r a b s).endHead e).reply e r .data r.l
      | _, _ => s.failAt e r fcIllegal none none
    else match check t r s with
      | .error code => s.failAt e r code none none
      | .ok (a, b) => s.readBegins e r f t a b
  | _ => s

/-- After a panel is read its slot is kept or retired (R217). -/
def State.readEnds (s : State) (t ring k : Nat) (keep : Bool) : State :=
  s.modRing t ring fun r => if keep then r.setSlot k .full else r.retire k

/-- Read both panels, add into the accumulator, and end the reads; `KA` and `KB` are bits 14 and 15. -/
def mmaRun (f : Form) (t a b : Nat) (keepA keepB : Bool)
    (sum : Acc → List Byte → List Byte → FMap W64 × Flags) (s : State) : State :=
  let ra := s.ring t (mmaRingA f)
  let rb := s.ring t (mmaRingB f)
  let (pa, s) := spRead pathM t (ra.addr a) ra.pb s
  let (pb, s) := spRead pathM t (rb.addr b) rb.pb s
  let (vals, fl) := sum ((s.tile t).acc (mmaAcc f)) pa pb
  (((s.modAcc t (mmaAcc f) fun x => { x with vals := vals }).engFlags t fl).readEnds t (mmaRingA f) a keepA).readEnds
    t (mmaRingB f) b keepB

/-- The sums of an `MMA` by its format. -/
def mmaSum (f : Form) (acc : Acc) (pa pb : List Byte) : FMap W64 × Flags :=
  if f.mod = 2 then mmaBfp (mmaWA f) (mmaWB f) acc (bfpBlocks (mmaWA f) pa) (bfpBlocks (mmaWB f) pb)
  else mmaFloat acc (panelRows (mmaFmt f) pa) (panelRows (mmaFmt f) pb)

/-- The checks of an `MMA` at the engine (R231). -/
def mmaCheck (f : Form) (t : Nat) (r : Req) (s : State) : Except Nat (Nat × Nat) :=
  let needA := if f.mod = 2 then 32 * mmaWA f + 16 else 512
  let needB := if f.mod = 2 then 32 * mmaWB f + 16 else 512
  mmaSlots f needA needB t r.l r.r r.wave s

/-- `MMA` (R231). -/
def execMma (f : Form) (s : State) : Answer :=
  onAll s (fun fr s => fr.sendRequest (.mma f) s) (engineCommand (.mma f))
    (productTurn f (mmaCheck f) fun t _ a b s => mmaRun f t a b (bitOf f.imm.toNat 14) (bitOf f.imm.toNat 15) (mmaSum f) s)

/-! ## `MMAS` and coordinate streams (R225, R232) -/

/-- The eight lanes of a coordinate token. -/
def coordLanes (v : W64) : List Nat := (List.range 8).map fun q => bitsOf v.toNat (8 * q) 8

/-- The lanes of each of the two groups, as the tokens list them. -/
def coordGroups : List Token → List Nat × List Nat
  | [] => ([], [])
  | t :: ts =>
    if t.kind = .stop then ([], secondGroup ts)
    else let (a, b) := coordGroups ts; (coordLanes t.value ++ a, b)
where
  /-- The lanes up to the next `STOP`. -/
  secondGroup : List Token → List Nat
    | [] => []
    | t :: ts => if t.kind = .stop then [] else coordLanes t.value ++ secondGroup ts

/-- The indices of a group, or none where they break R232: more than N, not rising, or a lane of none
before an index. -/
def groupIndices (n : Nat) (ls : List Nat) : Option (List Nat) :=
  let idx := ls.takeWhile fun v => v < 128
  let rest := ls.drop idx.length
  if idx.length > n || rest.any (fun v => v != 255) || !(idx.zip idx.tail).all (fun p => p.1 < p.2) then none
  else some idx

/-- The dense A panel of a compressed one (R95, R232). -/
def expandA (g : Fmt) (n : Nat) (idx : List (List Nat)) (bs : List Byte) : List (List Num) :=
  (List.range 8).map fun i => (List.range 32).map fun k =>
    let e := (i % 4) * 32 + k
    let grp := i / 4
    match (idx.getD grp []).findIdx? fun v => v == e with
    | some q => panelNum g bs (n * grp + q)
    | none => Num.zero

/-- The values of a group that an `MMAS` takes from a compressed panel: N of 128. -/
def mmasN (f : Form) : Nat := 2 ^ (bitsOf f.imm.toNat 8 3 + 2)

/-- The checks of an `MMAS` at the engine (R232). -/
def mmasCheck (f : Form) (t : Nat) (r : Req) (s : State) : Except Nat (Nat × Nat) :=
  match groupIndices (mmasN f) (coordGroups r.coords).1, groupIndices (mmasN f) (coordGroups r.coords).2 with
  | some _, some _ => mmaSlots f (4 * mmasN f) 512 t r.l r.r r.wave s
  | _, _ => .error fcIllegal

/-- The sums of an `MMAS`, with the panel that its coordinates expand (R95, R232). -/
def mmasSum (f : Form) (coords : List Token) (acc : Acc) (pa pb : List Byte) : FMap W64 × Flags :=
  let idx := fun (ls : List Nat) => (groupIndices (mmasN f) ls).getD []
  mmaFloat acc (expandA (mmaFmt f) (mmasN f) [idx (coordGroups coords).1, idx (coordGroups coords).2] pa)
    (panelRows (mmaFmt f) pb)

/-- `MMAS` (R232): a firing that takes only the `STOP` at the end of a vector sends it on; one whose
coordinates are an `ERR` emits it (R41). -/
def execMmas (f : Form) (s : State) : Answer :=
  onRequest s
    (fun fr s =>
      match fr.coords with
      | [c] => if c.kind = .stop ∧ c.value = 1 then ({ fr with l := c.operand }).run f (fun _ s => s) s
          else fr.sendRequest (.mmas f) s
      | _ => fr.sendRequest (.mmas f) s)
    (productTurn f (mmasCheck f) fun t r a b s => mmaRun f t a b false false (mmasSum f r.coords) s)

/-! ## Accumulators (R233) -/

/-- `ACCZ` at the engine. -/
def acczEngine (f : Form) (t : Nat) (r : Req) : Act (W64 × Bool) := fun s =>
  let n := f.imm.toNat % 4
  match ((s.tile t).acc n).owner with
  | some o => if o ≠ r.wave then .error (.fault fcAcc none none)
      else .ok ((r.l, true), s.modAcc t n fun _ => { vals := [], owner := some r.wave })
  | none => .ok ((r.l, true), s.modAcc t n fun _ => { vals := [], owner := some r.wave })

/-- `ACCZ` (R233). -/
def execAccz (f : Form) (s : State) : Answer :=
  onAll s (fun fr s => fr.sendRequest (.accz f) s) (engineCommand (.accz f)) (matrixTurn (acczEngine f))

/-- The bytes of a readout (R220, R233): FP32, or rounded to BF16, and the flags. -/
def accBytes (bf : Bool) (a : Acc) : List Byte × Flags :=
  (List.range 64).foldl (fun p k =>
    let v := (mapGet 0 a.vals k).toNat
    if bf then
      let (x, fl) := convertFloat fp32 bf16 .rne v
      (p.1 ++ toBytes x 2, p.2 ||| fl)
    else (p.1 ++ toBytes v 4, p.2)) ([], 0)

/-- `ACCRD` at the engine: a readout for a ring waits for a slot. -/
def accrdEngine (f : Form) (t : Nat) (r : Req) (s : State) : Except Stop ((W64 × Bool) × State) :=
  let n := f.imm.toNat % 4
  let bf := f.mod.getLsbD 0
  let size := if bf then 128 else 256
  let acc := (s.tile t).acc n
  let (bs, fl) := accBytes bf acc
  let done := fun (s : State) => (s.engFlags t fl).modAcc t n fun x =>
    if f.mod.getLsbD 2 then x else { x with owner := none }
  if !acc.allows r.wave then .error (.fault fcAcc none none)
  else if f.mod.getLsbD 1 then
    let k := bitsOf f.imm.toNat 2 3
    let ring := s.ring t k
    if !ring.defined ∨ ring.pb ≠ size then .error (.fault fcIllegal none none)
    else if !ring.mayReserve waitEngine then .error .wait
    else
      let d := (ring.takeSlot waitEngine).1
      let s := s.modRing t k fun r => (r.takeSlot waitEngine).2
      let s := spWrite pathM t (ring.addr d) bs s
      .ok ((panelValue (ring.addr d) 0, true), (done s).publish t k d)
  else
    let a := bitsOf f.imm.toNat 16 12 * 16
    .ok ((BitVec.ofNat 64 a, true), (done ((spWrite pathM t a bs s).fillBytes t a size)).settle t)

/-- The engine waits for a slot of a ring from its first attempt on (R218). -/
def ringTurn (k : Nat) (go : Nat → Req → State → Except Stop ((W64 × Bool) × State)) (e : Engine) (r : Req)
    (s : State) : State :=
  match e with
  | .matrix t =>
    let s := s.portServed t
    (match r.kind, go t r s with
      | .data, .error .wait => s.modRing t k fun x => x.enqueue waitEngine
      | _, _ => s.serve e r (go t r))
  | _ => s

/-- `ACCRD` (R233). -/
def execAccrd (f : Form) (s : State) : Answer :=
  onAll s (fun fr s => fr.sendRequest (.accrd f) s) (engineCommand (.accrd f))
    (ringTurn (bitsOf f.imm.toNat 2 3) (accrdEngine f))

/-! ## The scan unit (R234) -/

/-- The indices of a group that are not zero (R234). -/
def scanGroup (g : Fmt) (z : Nat) (bs : List Byte) (n base : Nat) : List Nat :=
  (List.range 128).filter fun e => base + e < n && !(decodeNum g (natAt bs (z * (base + e)) z)).isZero

/-- Indices as coordinate lanes, eight a token (R225). -/
def laneWords : Nat → List Nat → List W64
  | 0, _ => []
  | n + 1, l =>
    if l.isEmpty then []
    else BitVec.ofNat 64 (ofBytes (((l.take 8) ++ List.replicate 8 255).take 8 |>.map (BitVec.ofNat 8))) :: laneWords n (l.drop 8)

/-- How many of the `n` bytes from an address lie in full granules, up to the first granule that is not full (R234). -/
def State.fullPrefix (s : State) (t a n : Nat) : Nat :=
  ((List.range n).takeWhile fun k => s.isFull t ((a + k) / 16)).length

/-- `NZSCAN` at the scan unit. With `WAIT` a turn reads the granules that are full, up to the first that is not, and sends
the groups that it has read whole; the request keeps the bytes read so far. -/
def nzscanEngine (f : Form) (e : Engine) (r : Req) (s : State) : State :=
  match e with
  | .scan t =>
    let ty := typeOf f
    let z := if ty = 5 then 4 else 2
    let n := f.imm.toNat % 2 ^ 16
    let a := alignTo z (r.l.toNat % 2 ^ 16)
    if r.kind ≠ .data then (s.endHead e).forward e r
    else if a + n * z > 65536 then s.failAt e r fcIllegal none none
    else
      let k := if lowOf f = 1 then s.fullPrefix t (a + r.blk.length) (n * z - r.blk.length) else n * z - r.blk.length
      let s := if lowOf f = 1 then s.seeRange 0x1FF pathM t (a + r.blk.length) k s.tick else s
      let (bs, s) := spRead pathM t (a + r.blk.length) k s
      let all := r.blk ++ bs
      let tok := fun (kind : Kind) (v : W64) => ({ kind := kind, value := v, tag := r.tag, round := r.round, ctx := r.ctx } : Token)
      let group := fun (g : Nat) => scanGroup (typeFmt ty) z all n (128 * g)
      let send := fun (s : State) (g : Nat) => ((laneWords 16 (group g)).map (tok .data) ++ [tok .stop 0]).foldl
        (fun s t => s.answerTo (Req.source e) r f.tgt0 t) s
      let first := r.blk.length / (128 * z)
      if all.length < n * z then
        ((List.range (all.length / (128 * z))).drop first).foldl send
          (s.setQueue e ({ r with blk := all } :: (s.queue e).tail))
      else
        let groups := List.range ((n + 127) / 128)
        let s := (groups.drop first).foldl send (s.endHead e)
        (s.answerTo (Req.source e) r f.tgt0 (tok .stop 1)).answerTo (Req.source e) r f.tgt1
          (tok .data (BitVec.ofNat 64 (groups.map fun g => (group g).length).sum))
  | _ => s

/-- `NZSCAN` (R234). -/
def execNzscan (f : Form) (s : State) : Answer :=
  onRequest s (fun fr s => fr.sendRequest (.nzscan f) s) (nzscanEngine f)

/-! ## `XSPLIT` (R235) -/

/-- Term `k` of the split of each element (R99), and the flags. -/
def splitBytes (k : Nat) (bs : List Byte) : List Byte × Flags :=
  (List.range 256).foldl (fun p i =>
    let ((a, b, c), fl) := split3 (natAt bs (4 * i) 4)
    (p.1 ++ toBytes (if k = 0 then a else if k = 1 then b else c) 2, p.2 ||| fl)) ([], 0)

/-- The slot of `dst` that an `XSPLIT` has reserved, which its request notes; what it notes is empty until its read begins. -/
def Req.splitSlot (r : Req) : Option Nat := match r.blk with | _ :: d :: _ => some d.toNat | _ => none

/-- The slot that an `XSPLIT` has reserved is still FILLING, so that its panel can land there (R217). -/
def Req.splitOpen (r : Req) (rd : Ring) : Bool := match r.splitSlot with | some d => rd.slot d == .filling | none => true

/-- An `XSPLIT` that has begun its read reserves a slot of `dst`, or waits for one from its first attempt on. -/
def splitReserve (f : Form) (e : Engine) (r : Req) (t : Nat) (s : State) : State :=
  let dst := bitsOf f.imm.toNat 3 3
  let rd := s.ring t dst
  if rd.mayReserve waitEngine then
    (s.modRing t dst fun x => (x.takeSlot waitEngine).2).setQueue e
      ({ r with blk := [1, BitVec.ofNat 8 (rd.takeSlot waitEngine).1] } :: (s.queue e).tail)
  else (s.modRing t dst fun x => x.enqueue waitEngine).setQueue e ({ r with blk := [1] } :: (s.queue e).tail)

/-- The split of the source panel into the reserved slot, and its two tokens. -/
def splitRun (f : Form) (e : Engine) (r : Req) (t k d : Nat) (s : State) : State :=
  let src := bitsOf f.imm.toNat 0 3
  let dst := bitsOf f.imm.toNat 3 3
  let tok := fun (v : W64) => ({ kind := .data, value := v, tag := r.tag, round := r.round, ctx := r.ctx } : Token)
  let (bs, s) := spRead pathM t ((s.ring t src).addr k) 1024 s
  let (out, fl) := splitBytes (f.mod.toNat % 4) bs
  let at_ := (s.ring t dst).addr d
  let s := spWrite pathM t at_ out (s.engFlags t fl)
  let s := ((s.publish t dst d).readEnds t src k (!f.mod.getLsbD 2)).endHead e
  (s.answerTo (Req.source e) r f.tgt0 (tok (panelValue at_ 0))).answerTo (Req.source e) r f.tgt1 (tok r.l)

/-- `XSPLIT` at the engine: a turn in which the source slot becomes READING and a slot of `dst` is reserved, turns in which
it waits for that, and the split (R217, R235). One that fails leaves its source slot FULL (R224). -/
def xsplitEngine (f : Form) (e : Engine) (r : Req) (s : State) : State :=
  match e with
  | .matrix t =>
    let s := s.portServed t
    let src := bitsOf f.imm.toNat 0 3
    let rs := s.ring t src
    let rd := s.ring t (bitsOf f.imm.toNat 3 3)
    if r.kind ≠ .data then (s.endHead e).forward e r
    else match rs.slotOf r.l with
      | none => s.failAt e r fcIllegal none none
      | some k =>
        if rs.pb ≠ 1024 ∨ rd.pb ≠ 512 ∨ !rd.defined ∨ (rs.slot k ≠ .full ∧ r.blk.isEmpty) ∨ !r.splitOpen rd then
          (if r.blk.isEmpty then s else s.modRing t src fun x => x.setSlot k .full).failAt e r fcIllegal none none
        else match r.splitSlot with
          | some d => splitRun f e r t k d s
          | none => splitReserve f e r t (s.modRing t src fun x => x.setSlot k .reading)
  | _ => s

/-- `XSPLIT` (R235). -/
def execXsplit (f : Form) (s : State) : Answer :=
  onRequest s (fun fr s => fr.sendRequest (.xsplit f) s) (xsplitEngine f)

/-! ## `SCALE` (R236) -/

/-- `SCALE` that sends: a token on the scale network with the block tag. -/
def execScaleSend (f : Form) (s : State) : Answer :=
  onSlot s fun fr s => fr.run f (fun _ s =>
    fr.emit f [0, 1] .scale (fr.l.value &&& 0xFFFFFFFF) (blockTag fr.tag) false s) s

/-- Each lane times the scale, rounded once to the lane's format. -/
def scaleValue (f : Form) (l scale : W64) : W64 × Flags :=
  let t := typeOf f
  let g := typeFmt t
  packLanes t ((lanes t l).map fun a =>
    let (x, f1) := mulNum (decodeNum g a) (decodeNum fp32 (scale.toNat % 2 ^ 32))
    let (v, f2) := roundNum g (modeOf f) x
    (v, f1 ||| f2))

/-- A scale has been used once more: at its count the entry is freed. -/
def State.useScale (s : State) (t e : Nat) (f : Form) (tag : W64) : State :=
  let idx := scaleIndex f (blockTag tag)
  let en := (s.elem t e).entry idx
  if f.imm.toNat % 2 ^ 16 = 0 ∨ en.state ≠ .held ∨ en.tag ≠ blockTag tag then s
  else if en.c.value.toNat ≤ 1 then s.modElem t e fun x => x.freeEntry idx
  else s.modElem t e fun x => x.setEntry idx { en with c := { en.c with value := en.c.value - 1 } }

/-- `SCALE` that applies (R236). -/
def execScaleApply (f : Form) (s : State) : Answer :=
  onSlot s fun fr s => (fr.run f (fun tag s =>
    if fr.l.s ≠ bitOf f.imm.toNat 16 then fr.raiseAs f tag fcScale none s
    else fr.value f (!bitOf f.imm.toNat 16) (scaleValue f fr.l.value fr.r.value) tag
      (s.useScale fr.tile fr.elem f fr.tag)) s).seekScale fr.tile fr.elem fr.slot

end Sys2Proof.Machine
end

