-- ==== Sys2Proof/Machine/TagSpace.lean ====
section
/-! DEFINITION. The tag space (R145 to R168): loop shares, colours, and the instructions `ALLOC` to
`COLQ`. -/

namespace Sys2Proof.Machine

open Sys2Proof

/-! ## Loop shares (R148 to R150) -/

/-- A loop instance entry (R149). -/
structure LoopEntry where
  key : W64 := 0
  use : Nat := 0
  gen : Nat := 0
  used : Nat := 0
  v : Bool := false
  next : Nat := 0
  deriving DecidableEq, Repr

/-- A share: the base address, the number of entries and K of its `ALLOC` (R148). -/
structure Share where
  base : Nat
  count : Nat
  k : Nat
  deriving DecidableEq, Repr

/-- The share of an `ALLOC`'s word (R158). -/
def shareOf (f : Form) : Share :=
  { base := bitsOf f.imm.toNat 0 12 * 16, count := bitsOf f.imm.toNat 12 7, k := 2 ^ f.mod.toNat }

/-- The share that a loop reference names: an `ALLOC` of the tile (R158). -/
def State.loopShare (s : State) (t : Nat) (f : Form) : Option Share :=
  let y := s.slot t (bitsOf f.imm.toNat 5 4) (f.imm.toNat % 32)
  if y.op = 0x20 then some (shareOf y.form) else none

/-- Read entry `i` of a share. A share that runs past the scratchpad's 64 KiB, which only the configuration words can
place, reads as zeros there, and a write there goes to the address mod 2^16: DESIGN CHOICE, log 140. -/
def State.loopEntry (s : State) (t : Nat) (h : Share) (i : Nat) : LoopEntry :=
  let v := memNat (s.tile t).mem (h.base + 48 * i) 48
  { key := BitVec.ofNat 64 (bitsOf v 320 64), use := bitsOf v 256 64, gen := bitsOf v 128 128,
    used := bitsOf v 8 7, v := bitOf v 7, next := bitsOf v 0 6 }

/-- Write entry `i` of a share. -/
def State.setLoopEntry (s : State) (t : Nat) (h : Share) (i : Nat) (e : LoopEntry) : State :=
  let v := e.key.toNat * 2 ^ 320 + e.use % 2 ^ 64 * 2 ^ 256 + e.gen % 2 ^ 128 * 2 ^ 128
    + e.used % 128 * 256 + b2n e.v * 128 + e.next % 64
  spWrite pathE t (h.base + 48 * i) (toBytes v 48) s

/-- The entry of a live instance (R149). -/
def State.findLoop (s : State) (t : Nat) (h : Share) (key : W64) : Option Nat :=
  (List.range h.count).find? fun i => let e := s.loopEntry t h i; e.v && e.key == key
/-- An entry that holds no instance. -/
def State.freeLoop (s : State) (t : Nat) (h : Share) : Option Nat :=
  (List.range h.count).find? fun i => !(s.loopEntry t h i).v

/-- Slot `NEXT` of the instance can be handed out (R150). -/
def LoopEntry.canTake (e : LoopEntry) : Bool := !bitOf e.use e.next
/-- The generation of a slot. -/
def LoopEntry.genOf (e : LoopEntry) (s : Nat) : Nat := bitsOf e.gen (2 * s) 2
/-- Hand out slot `NEXT`: the field, and the entry after (R150). -/
def LoopEntry.take (e : LoopEntry) (k : Nat) : Nat × LoopEntry :=
  (e.genOf e.next * 64 + e.next,
   { e with use := e.use ||| 2 ^ e.next, used := e.used + 1, next := (e.next + 1) % k })
/-- Take a slot back (R150); none when the field is not in use. -/
def LoopEntry.release (e : LoopEntry) (field : Nat) : Option LoopEntry :=
  let s := field % 64
  if !e.v || !bitOf e.use s || field / 64 % 4 ≠ e.genOf s then none
  else if e.used = 1 then some {}
  else some { e with
    use := e.use - 2 ^ s
    used := (e.used + 127) % 128
    gen := e.gen - e.genOf s * 4 ^ s + (e.genOf s + 1) % 4 * 4 ^ s }

/-- The instance that an allocation of a buffered token goes to: its share and key; none for a token
whose firing faults. -/
def State.loopRequest (s : State) (t e : Nat) (b : BufTok) : Option (Share × W64) :=
  let y := s.slot t e b.slot
  if y.op = 0x20 then
    if tagDepth b.tok.tag = 6 ∨ b.tok.kind ≠ .data then none else some (shareOf y.form, b.tok.tag)
  else if y.op = 0x21 then
    match s.loopShare t y.form with
    | none => none
    | some h =>
      if tagDepth b.tok.tag = 0 ∨ b.tok.kind ≠ .data then none
      else match s.findLoop t h (tagPop b.tok.tag) with
        | none => none
        | some i =>
          let en := s.loopEntry t h i
          let sl := innerSlot b.tok.tag
          if bitOf en.use sl && en.genOf sl == tagInner b.tok.tag / 64 then some (h, tagPop b.tok.tag) else none
  else none

/-- A slot of the instance can be handed out now (R151). -/
def State.loopRoom (s : State) (t : Nat) (h : Share) (key : W64) : Bool :=
  match s.findLoop t h key with
  | some i => (s.loopEntry t h i).canTake
  | none => match s.freeLoop t h with | some i => (s.loopEntry t h i).canTake | none => false

/-- The buffered tokens of a tile, with their elements. -/
def State.bufTokens (s : State) (t : Nat) : List (Nat × BufTok) :=
  (s.tile t).elems.flatMap fun kv => kv.2.buf.map fun b => (kv.1, b)

/-- An allocation can be served: there is room, and no other allocation of its instance waits that was
attempted earlier (R151, R152). -/
def State.requestFits (s : State) (t e : Nat) (b : BufTok) : Bool :=
  match s.loopRequest t e b with
  | none => true
  | some (h, key) =>
    s.loopRoom t h key && (s.bufTokens t).all fun (e', b') =>
      match b'.attempt, b.attempt with
      | none, _ => true
      | some _, none => s.loopRequest t e' b' != some (h, key)
      | some x, some y => y ≤ x || s.loopRequest t e' b' != some (h, key)

/-- The oldest buffered token of an `ALLOC` or `ITER` slot that R48 does not hold back: the one whose request the slot
makes next. -/
def Element.loopHead (x : Element) (k : Nat) : Option BufTok :=
  x.buf.find? fun b => b.slot == k && !(x.slot k).alignHolds b.tok.round

/-- A token of an `ALLOC` or `ITER` slot can fire: its own request can be served, and none of its slot waits before it
(R151). -/
def State.loopFits (s : State) (t e : Nat) (b : BufTok) : Bool :=
  s.requestFits t e b && (match (s.elem t e).loopHead b.slot with
    | some h => s.requestFits t e h
    | none => true)

/-- An allocation of the instance waits: it has been attempted (R151, R168). -/
def State.loopWaits (s : State) (t : Nat) (h : Share) (key : W64) : Bool :=
  (s.bufTokens t).any fun (e, b) => b.attempt.isSome && s.loopRequest t e b == some (h, key)

/-! ## Colours (R154 to R157) -/

/-- A colour of a context. -/
def Ctx.colour (c : Ctx) (n : Nat) : Colour := mapGet {} c.colours n
/-- Set a colour of a context. -/
def Ctx.setColour (c : Ctx) (n : Nat) (v : Colour) : Ctx := { c with colours := mapSet {} c.colours n v }
/-- The pool size (R154). -/
def Ctx.pool (c : Ctx) : Nat := (c.reg 0x106).toNat

/-- The 16 bytes of a colour table entry (R155). -/
def Colour.bytes (c : Colour) : List Byte :=
  let st := match c.state with | .free => 0 | .held => 1 | .launch => 2
  toBytes (st + c.slot % 32 * 2 ^ 19 + c.elem % 16 * 2 ^ 24 + c.tile % 2 ^ 14 * 2 ^ 28 + c.ret.toNat * 2 ^ 42
    + c.caller.toNat * 2 ^ 64) 16

/-- The address of a colour's entry. -/
def Ctx.colourAddr (c : Ctx) (n : Nat) : Nat := (c.reg 0x105).toNat + 16 * n

/-- The key of what is ordered before the return of a colour (R426, edge 22). -/
def colourKey (c n : Nat) : Nat := 2 ^ 69 + c * 4096 + n

/-- The lowest-numbered FREE colour (R156). -/
def Ctx.freeColour (c : Ctx) : Option Nat := (List.range c.pool).find? fun n => (c.colour n).state == .free

/-- The colours that a slot holds (R166). -/
def Ctx.heldBy (c : Ctx) (t e k : Nat) : Nat :=
  (c.colours.filter fun kv => kv.2.state == .held && kv.2.tile == t && kv.2.elem == e && kv.2.slot == k).length

/-- The cap of a `SPAWN` slot (R158). -/
def spawnCap (f : Form) : Nat := bitsOf f.imm.toNat 22 10
/-- The return target of a `SPAWN` slot. -/
def spawnRet (f : Form) : BitVec 22 := f.imm.setWidth 22

/-- A waiting `SPAWN` is not passed over: it has drawn no colour yet, and its slot holds less than its cap (R156). -/
def State.spawnEligible (s : State) (c : Nat) (w : SpawnWait) : Bool :=
  w.drew.isNone && w.failed.isNone
    && (s.ctx c).heldBy w.tile w.elem w.slot < spawnCap (s.slot w.tile w.elem w.slot).form

/-- The tokens of a served `SPAWN` (R166). -/
def spawnItems (f : Form) (w : SpawnWait) (n : Nat) : List OutItem :=
  let tag := colourTag n
  (if targetValid f.tgt0 then [.token 0 f.tgt0 { w.l with tag := tag, round := w.round } none] else []) ++
  (match w.r with
    | some r => if targetValid f.tgt1 then [.token 1 f.tgt1 { r with tag := tag, round := w.round } none] else []
    | none => [])

/-- `ERR` of a `SPAWN` whose entry cannot be written (R155): the `SPAWN` waits no more, once the record of the fault has been
appended (R324) and its element's output queue has room (R38). -/
def State.spawnErr (s : State) (c : Nat) (w : SpawnWait) (code : Nat) : State :=
  let f := (s.slot w.tile w.elem w.slot).form
  let tok : Token := { w.l with kind := .err, value := BitVec.ofNat 64 code, tag := w.tag, round := w.round, s := false }
  if s.outRoom w.tile w.elem ∧ !s.unitWaits (3, unitDie 0 192) (BitVec.ofNat 8 c) then
    (s.modCtx c fun x => { x with spawns := x.spawns.filter fun v => v != w }).pushOut w.tile w.elem w.slot
      ((if targetValid f.tgt0 then [.token 0 f.tgt0 tok none] else [])
        ++ (if targetValid f.tgt1 then [.token 1 f.tgt1 tok none] else []))
  else s.modCtx c fun x => { x with
    spawns := x.spawns.map fun v => if v = w then { v with drew := none, failed := some code } else v }

/-- The controller writes the entry of a drawn colour on path D and serves the `SPAWN` (R155, R166): it
waits for an absent page, which is recorded once. -/
def State.writeDraw (s : State) (c : Nat) (w : SpawnWait) (n : Nat) (again : Bool) : State :=
  let f := (s.slot w.tile w.elem w.slot).form
  let col : Colour := { state := .held, caller := w.tag, ret := spawnRet f, tile := w.tile, elem := w.elem
                        slot := w.slot, group := s.groupOf w.tile, round := w.round }
  let cb := BitVec.ofNat 8 c
  let addr := (s.ctx c).colourAddr n
  let fault := fun code (val aux : Option W64) (s : State) => s.record
    { code, ukind := 3, unit := unitDie 0 192, ctx := cb, tag := w.tag, val, aux }
  match if s.lateFor cb then .error .wait else vwrite agentSched cb addr col.bytes s with
  | .ok (_, s') =>
    ((((s'.learn (colourKey c n) w.tile).newWave cb (colourTag n)).modCtx c fun x => { (x.setColour n col) with spawns := x.spawns.filter fun v => v != w }).pushOut
      w.tile w.elem w.slot (spawnItems f w n))
  | .error (.absent va) =>
    let s := s.modCtx c fun x => { (x.setColour n col) with
      spawns := x.spawns.map fun v => if v = w then { v with drew := some n } else v }
    if again then s else fault fcPageAbsent (some (BitVec.ofNat 64 va)) none s
  | .error (.fault code val aux) => ((fault code val aux s).modCtx c fun x => x.setColour n {}).spawnErr c w code
  | .error (.error code) => (s.modCtx c fun x => x.setColour n {}).spawnErr c w code
  | .error .wait => s

/-- Serve the waiting `SPAWN`s of a context in their order, `fuel` of them (R156): the first that is not at its cap, once
its element's output queue has room for its tokens (R38). -/
def serveSpawns (c : Nat) : Nat → State → State
  | 0, s => s
  | n + 1, s =>
    match (s.ctx c).spawns.find? (s.spawnEligible c), (s.ctx c).freeColour with
    | some w, some col => if s.outRoom w.tile w.elem then serveSpawns c n (s.writeDraw c w col false) else s
    | _, _ => s

/-- Write the entries that waited for a page again (R155), and send the `ERR`s that waited for room (R38). -/
def State.retryDraws (s : State) (c : Nat) : State :=
  (s.ctx c).spawns.foldl (fun s w => match w.failed, w.drew with
    | some code, _ => s.spawnErr c w code
    | none, some n => if s.outRoom w.tile w.elem then s.writeDraw c w n true else s
    | none, none => s) s

/-- The controller's turn for the `SPAWN`s of a context: those with a colour, then those that wait for one. -/
def State.spawnTurn (s : State) (c : Nat) : State :=
  let s := s.retryDraws c
  serveSpawns c (s.ctx c).spawns.length s

/-- A colour is freed: its table entry's `STATE` becomes 0, and a fault on that write is recorded (R155). The other
fields of the entry stay as they are: DESIGN CHOICE, log 114. The write waits while the page migrates (R386) or is absent. -/
def State.freeColour (s : State) (c n : Nat) : State :=
  let cb := BitVec.ofNat 8 c
  let addr := (s.ctx c).colourAddr n
  let entry := { (s.ctx c).colour n with state := .free }
  let s := s.modCtx c fun x => x.setColour n {}
  let s' := match vwrite agentSched cb addr entry.bytes s with
    | .error (.absent va) =>
      s.record { code := fcPageAbsent, ukind := 3, unit := unitDie 0 192, ctx := cb, val := some (BitVec.ofNat 64 va) }
    | _ => s
  s'.writeLate agentSched cb addr entry.bytes (noted := true)

/-! ## The instructions (R159 to R168) -/

/-- `ALLOC` (R159): push the field of a slot of the instance. -/
def allocFire (f : Form) (fr : Firing) (s : State) : State :=
  fr.run f (fun _ s =>
    if tagDepth fr.tag = 6 then fr.raise f fcTagDepth (some (f.tagop.setWidth 64)) s
    else
      let h := shareOf f
      match s.findLoop fr.tile h fr.tag <|> s.freeLoop fr.tile h with
      | none => s
      | some i =>
        let en := s.loopEntry fr.tile h i
        let en := if en.v then en else { en with key := fr.tag, v := true }
        let (field, en) := en.take h.k
        fr.emit f [0, 1] .data fr.l.value (tagPush fr.tag field) fr.l.s
          ((s.setLoopEntry fr.tile h i en).newWave (s.tileCtx fr.tile) (tagPush fr.tag field))) s
/-- `ALLOC` (R159). -/
def execAlloc (f : Form) (s : State) : Answer := onSlot s (allocFire f)

/-- `ITER` (R160, R181): the next slot of the instance, the wave link and the retire token. -/
def iterFire (f : Form) (linked : Bool) (fr : Firing) (s : State) : State :=
  fr.run f (fun _ s =>
    let bad := fr.raise f fcIllegal (some (f.tagop.setWidth 64)) s
    if tagDepth fr.tag = 0 then bad
    else match s.loopShare fr.tile f with
      | none => bad
      | some h =>
        let key := tagPop fr.tag
        match s.findLoop fr.tile h key with
        | none => bad
        | some i =>
          let en := s.loopEntry fr.tile h i
          let sl := innerSlot fr.tag
          if !bitOf en.use sl || en.genOf sl != tagInner fr.tag / 64 then bad
          else
            let (field, en) := en.take h.k
            let t2 := tagPush key field
            let s := (s.setLoopEntry fr.tile h i en).newWave (s.tileCtx fr.tile) t2
            let s := if linked then { s with iterLinks := s.iterLinks ++
                [{ id := s.tick, ctx := s.tileCtx fr.tile, src := fr.tag, dst := t2 }] } else s
            fr.push (fr.item f 0 (fr.token s .data fr.l.value t2 fr.l.s) (if linked then some s.tick else none)
              ++ fr.item f 1 (fr.token s .data (BitVec.ofNat 64 field) fr.tag fr.sOr)) s) s
/-- `ITER` (R160): without `U` it links the waves. -/
def execIter (f : Form) (s : State) : Answer := onSlot s (iterFire f (f.mod == 0))

/-- `FREE` (R161). -/
def freeFire (f : Form) (fr : Firing) (s : State) : State :=
  fr.run f (fun tag s =>
    let bad := fr.raise f fcIllegal (some (f.tagop.setWidth 64)) s
    match s.loopShare fr.tile f with
    | none => bad
    | some h =>
      match s.findLoop fr.tile h (tagPop fr.tag) with
      | none => bad
      | some i =>
        match (s.loopEntry fr.tile h i).release (tagInner fr.tag) with
        | none => bad
        | some en =>
          if tagDepth fr.tag = 0 then bad
          else fr.emit f [0, 1] .data fr.l.value tag fr.sOr (s.setLoopEntry fr.tile h i en)) s
/-- `FREE` (R161). -/
def execFree (f : Form) (s : State) : Answer := onSlot s (freeFire f)

/-- `POPT` (R162). -/
def execPopt (f : Form) (s : State) : Answer :=
  onSlot s fun fr s => fr.run f (fun _ s =>
    if tagDepth fr.tag = 0 then fr.raise f fcTagDepth (some (f.tagop.setWidth 64)) s
    else fr.push (fr.item f 0 (fr.token s .data fr.l.value (tagPop fr.tag) fr.l.s)
      ++ fr.item f 1 (fr.token s .data 0 fr.tag fr.sOr)) s) s

/-- `PUSHT` (R163): the field from the immediate or from R. -/
def execPusht (f : Form) (s : State) : Answer :=
  onSlot s fun fr s => fr.run f (fun _ s =>
    let field := if f.arity = 0 then f.imm.toNat % 256 else fr.r.value.toNat % 256
    if tagDepth fr.tag = 6 then fr.raise f fcTagDepth (some (f.tagop.setWidth 64)) s
    else fr.emit f [0, 1] .data fr.l.value (tagPush fr.tag field) fr.sOr s) s

/-- `SETIT` (R163). -/
def execSetit (f : Form) (s : State) : Answer :=
  onSlot s fun fr s => fr.run f (fun _ s =>
    if tagDepth fr.tag = 0 then fr.raise f fcTagDepth (some (f.tagop.setWidth 64)) s
    else fr.emit f [0, 1] .data fr.l.value (tagSet fr.tag (fr.r.value.toNat % 256)) fr.sOr s) s

/-- The value of `GETTAG` (R164): `TAG`, `FIELD`, `COLOUR` or `DEPTH`. -/
def gettagValue (m : Nat) (t : W64) : W64 :=
  if m = 0 then t else BitVec.ofNat 64 (if m = 1 then tagInner t else if m = 2 then tagColour t else tagDepth t)
/-- `GETTAG` (R164). -/
def execGettag (f : Form) (s : State) : Answer :=
  onSlot s fun fr s => fr.run f (fun tag s =>
    fr.emit f [0, 1] .data (gettagValue f.mod.toNat fr.tag) tag fr.sOr s) s

/-- The value of `MKTAG`, or the code of its fault (R165). -/
def mktagValue (s : State) (c : BitVec 8) (f : Form) (l r : W64) : Except Nat W64 :=
  let d := f.imm.toNat
  let fields := r.toNat % 2 ^ 48
  if fields / 2 ^ (8 * d) ≠ 0 then .error fcIllegal
  else if !s.ownsColour c (l.toNat % 4096) then .error fcTagForeign
  else .ok (BitVec.ofNat 64 (l.toNat % 4096 * 2 ^ 52 + d * 2 ^ 49 + fields))
/-- `MKTAG` (R165). -/
def execMktag (f : Form) (s : State) : Answer :=
  onBoth s
    (fun fr s => fr.run f (fun tag s => match mktagValue s (s.tileCtx fr.tile) f fr.l.value fr.r.value with
      | .ok v => fr.emit f [0, 1] .data v tag fr.sOr s
      | .error code => fr.raise f code (some (f.tagop.setWidth 64)) s) s)
    (fun n s => let c := s.core n
      match mktagValue s (c.ctxid.setWidth 8) f (c.reg (Form.xa f)) (c.reg (Form.xb f)) with
      | .ok v => s.coreResult n f v
      | .error code => s.coreFault n code)

/-- `SPAWN` (R166): the firing waits at the controller, which serves it in order (R156). -/
def spawnFire (f : Form) (fr : Firing) (s : State) : State :=
  fr.run f (fun _ s =>
    let c := (s.tileCtx fr.tile).toNat
    let w : SpawnWait := { tile := fr.tile, elem := fr.elem, slot := fr.slot, tag := fr.tag, round := fr.round
                           l := fr.token s .data fr.l.value fr.tag fr.l.s
                           r := if f.arity = 1 then some (fr.token s .data fr.r.value fr.tag fr.r.s) else none }
    let s := s.modCtx c fun x => { x with spawns := x.spawns ++ [w] }
    serveSpawns c (s.ctx c).spawns.length s) s
/-- `SPAWN` (R166). -/
def execSpawn (f : Form) (s : State) : Answer := onSlot s (spawnFire f)

/-- `RETURN` (R167): L goes to the caller's return target with the caller's tag. -/
def returnFire (f : Form) (fr : Firing) (s : State) : State :=
  fr.run f (fun _ s =>
    let n := tagColour fr.tag
    let col := (s.ctx (s.tileCtx fr.tile).toNat).colour n
    if col.state ≠ .held then fr.fault fcIllegal none (some (f.tagop.setWidth 64)) s
    else fr.push [.returned n col.ret (fr.token s .data fr.l.value col.caller fr.sOr)] s) s
/-- `RETURN` (R167). -/
def execReturnTok (f : Form) (s : State) : Answer := onSlot s (returnFire f)

/-- The word of `TSIZE` (R168). Without a live instance it holds K only, and no allocation waits in it even where an
`ALLOC` of the tag waits for a free entry: DESIGN CHOICE, log 115. -/
def tsizeWord (s : State) (t : Nat) (h : Share) (key : W64) : W64 :=
  match s.findLoop t h key with
  | none => BitVec.ofNat 64 (h.k * 256)
  | some i =>
    let e := s.loopEntry t h i
    BitVec.ofNat 64 (e.used + h.k * 2 ^ 8 + e.next * 2 ^ 16 + b2n (s.loopWaits t h key) * 2 ^ 24 + 2 ^ 31)
/-- `TSIZE` (R168): `INST` reports the instance of T, `INNER` that of T popped; at depth 0, where T has no field to pop,
`INNER` reports the instance of T; a loop reference to a slot that holds no `ALLOC`, which only the configuration words
can place, raises `ILLEGAL`: DESIGN CHOICE, log 115. -/
def execTsize (f : Form) (s : State) : Answer :=
  onSlot s fun fr s => fr.run f (fun tag s => match s.loopShare fr.tile f with
    | none => fr.raise f fcIllegal (some (f.tagop.setWidth 64)) s
    | some h =>
      fr.emit f [0, 1] .data (tsizeWord s fr.tile h (if f.mod = 0 then fr.tag else tagPop fr.tag)) tag fr.sOr s) s

/-- The word of `COLQ` (R168). -/
def colqWord (c : Ctx) : W64 :=
  let cs := (List.range c.pool).map fun n => (c.colour n).state
  BitVec.ofNat 64 ((cs.filter (· == .free)).length + (cs.filter (· == .held)).length * 2 ^ 16
    + min (c.spawns.filter fun w => w.failed.isNone).length 8191 * 2 ^ 32 + c.pool * 2 ^ 48)
/-- `COLQ` (R168). -/
def execColq (f : Form) (s : State) : Answer :=
  onBoth s
    (fun fr s => fr.run f (fun tag s =>
      fr.emit f [0, 1] .data (colqWord (s.ctx (s.tileCtx fr.tile).toNat)) tag fr.sOr s) s)
    (fun n s => s.coreResult n f (colqWord (s.ctx ((s.core n).ctxid.toNat % 256))))

end Sys2Proof.Machine
end

