-- ==== Sys2Proof/Machine/Steering.lean ====
section
/-! DEFINITION. The element instructions of steering, punctuation and reports (R105 to R115): `PASS` to
`ASSERT`, `RECONF` and `PROBE`. -/

namespace Sys2Proof.Machine

open Sys2Proof

/-- `PASS` (R108). -/
def execPass (f : Form) (s : State) : Answer :=
  onSlot s fun fr s => fr.run f (fun tag s => fr.emit f (fr.fields f) .data fr.l.value tag fr.l.s s) s

/-- `CONST` (R108): its widened immediate, once at kernel start or once per trigger. -/
def execConst (f : Form) (s : State) : Answer :=
  onSlot s fun fr s => fr.run f (fun tag s =>
    fr.emit f [0, 1] .data (widenType (typeOf f) f.imm) tag false s) s

/-- `STEER` (R109). -/
def execSteer (f : Form) (s : State) : Answer :=
  onSlot s fun fr s => fr.run f (fun tag s =>
    fr.emit f (if fr.r.value ≠ 0 then [0] else [1]) .data fr.l.value tag fr.sOr s) s

/-- The one token of a firing that never pairs (R106). -/
def Firing.single (fr : Firing) : Operand :=
  if fr.l.kind.isSome then fr.l else if fr.r.kind.isSome then fr.r else fr.c

/-- `MERGE` (R109): each token alone. -/
def execMerge (f : Form) (s : State) : Answer :=
  onSlot s fun fr s => fr.run f (fun tag s => fr.emit f [0, 1] .data fr.single.value tag fr.single.s s) s

/-- `SELECT` (R109). -/
def execSelect (f : Form) (s : State) : Answer :=
  onSlot s fun fr s => fr.run f (fun tag s =>
    let o := if fr.c.value ≠ 0 then fr.l else fr.r
    fr.emit f [0, 1] .data o.value tag o.s s) s

/-- `GATE` (R109). -/
def execGate (f : Form) (s : State) : Answer :=
  onSlot s fun fr s => fr.run f (fun tag s => fr.emit f [0, 1] .data fr.l.value tag fr.sOr s) s

/-- `SINK` (R110): every token is discarded (R41, R107). -/
def execSink (_f : Form) (s : State) : Answer :=
  onSlot s fun _ s => s

/-- A marker's tag: the colour of the slot's kernel at depth 0 (R24). -/
def State.launchTag (s : State) (t : Nat) : W64 := colourTag (s.group (s.groupOf t)).kernel.lcol

/-- A `MARK` of a round to each valid target, as one output entry (R48). -/
def Firing.mark (fr : Firing) (f : Form) (round : BitVec 8) (s : State) : State :=
  let tok : Token := { kind := .mark, tag := s.launchTag fr.tile, round := round, ctx := s.tileCtx fr.tile }
  fr.push (fr.item f 0 tok ++ fr.item f 1 tok) s

/-- `MARK` (R111). -/
def execMark (f : Form) (s : State) : Answer :=
  onSlot s fun fr s => fr.run f (fun _ s => fr.mark f fr.round (s.beginRound fr.tile fr.round)) s

/-- `RNDQ` (R111): stamp with the round register and close the round after a quota. The `MARK` takes an output-queue
entry as a firing does; where the token has taken the last one, the slot owes it. -/
def rndqFire (f : Form) (fr : Firing) (s : State) : State :=
  fr.run f (fun tag s =>
    let y := s.slot fr.tile fr.elem fr.slot
    let s := ({ fr with round := y.rr }).emit f [0, 1] .data fr.l.value tag fr.sOr (s.beginRound fr.tile y.rr)
    if y.count + 1 = f.imm.setWidth 64 then
      (if s.outRoom fr.tile fr.elem then fr.mark f y.rr s
       else s.modSlot fr.tile fr.elem fr.slot fun z => { z with releasing := some y.rr }).modSlot fr.tile fr.elem fr.slot
        fun y => { y with count := 0, rr := y.rr + 1 }
    else s.modSlot fr.tile fr.elem fr.slot fun y => { y with count := y.count + 1 }) s
/-- `RNDQ` (R111). -/
def execRndq (f : Form) (s : State) : Answer := onSlot s (rndqFire f)

/-- A token that `ALIGN` or `COUNT` takes: the first tag is kept, and the total grows (R112). `STOP` and
`ERR` are forwarded without counting (R107). -/
def countFire (f : Form) (add : W64 → W64) (fr : Firing) (s : State) : State :=
  if fr.single.kind = some .data then
    s.modSlot fr.tile fr.elem fr.slot fun y =>
      { y with count := y.count + add fr.single.value, key := some (y.key.getD fr.tag) }
  else fr.run f (fun _ s => s) s
/-- `ALIGN` (R112). -/
def execAlign (f : Form) (s : State) : Answer := onSlot s (countFire f fun _ => 1)
/-- `COUNT` (R112). -/
def execCount (f : Form) (s : State) : Answer := onSlot s (countFire f id)

/-- The element halts (R101, R113). -/
def Firing.halt (fr : Firing) (s : State) : State :=
  s.modElem fr.tile fr.elem fun x => if x.state = .running then { x with state := .halted } else x

/-- `TRAP` (R113). -/
def execTrap (f : Form) (s : State) : Answer :=
  onSlot s fun fr s => fr.run f (fun tag s =>
    let s := fr.fault fcTrap (some fr.l.value) (some (f.imm.setWidth 64)) s
    if f.mod = 0 then fr.emit f [0, 1] .data fr.l.value tag fr.sOr s else fr.halt s) s

/-- `ASSERT` (R113). -/
def execAssert (f : Form) (s : State) : Answer :=
  onSlot s fun fr s => fr.run f (fun tag s =>
    if fr.l.value ≠ 0 then fr.emit f [0, 1] .data fr.l.value tag fr.sOr s
    else fr.halt (fr.fault fcAssert (some 0) (some (f.imm.setWidth 64)) s)) s

/-- `RECONF` (R114). -/
def execReconf (f : Form) (s : State) : Answer :=
  onSlot s fun fr s => fr.run f (fun tag s => fr.emit f [0, 1] .reconf (f.imm.setWidth 64) tag fr.sOr s) s

/-- The occupancy word (R115). -/
def Element.occupancy (x : Element) : W64 :=
  BitVec.ofNat 64 ((x.entries.filter fun kv => kv.2.state != .free).length + x.buf.length * 2 ^ 8
    + x.out.length * 2 ^ 12 + (x.buckets.map fun kv => kv.2.all.length).sum * 2 ^ 32)

/-- The value of `PROBE` (R115): the flags, the arrival counter or the occupancy. -/
def Element.probe (x : Element) (m : Nat) : W64 :=
  if m ≤ 1 then x.flags.setWidth 64 else if m = 2 then BitVec.ofNat 64 x.arrival else x.occupancy
/-- `PROBE` (R115). -/
def execProbe (f : Form) (s : State) : Answer :=
  onSlot s fun fr s => fr.run f (fun tag s =>
    let v := (s.elem fr.tile fr.elem).probe f.mod.toNat
    let s := if f.mod = 1 then s.modElem fr.tile fr.elem fun x => { x with flags := 0 } else s
    fr.emit f [0, 1] .data v tag fr.sOr s) s

end Sys2Proof.Machine
end

