-- ==== Sys2Proof/Machine/Turns.lean ====
section
/-! DEFINITION. Whose turn it is and what the unit does with it: a drover core fetches a word (R63, R124,
R126), an element chooses by R36, a serving unit takes the head of its queue (R174), or an event comes
about. The step asks `nextWork` only. -/

namespace Sys2Proof.Machine

open Sys2Proof

/-! ## What an element may fire (R36, R111, R151, R229) -/

/-- A slot holds an `RCOMMIT.RSVW` on a ring that has no slot for it now (R218, R229). -/
def State.rsvwHeld (s : State) (t e k : Nat) : Bool :=
  let y := s.slot t e k
  let r := s.ring t (modRingNo y.form)
  y.op == 0xA9 && bitsOf y.form.mod.toNat 3 2 == 1 && r.defined && !r.mayReserve (waitSlot e k)

/-- A slot of the ring port waits while a record of the port's is still to be appended (R218, R324). -/
def State.portHeld (s : State) (t e k : Nat) : Bool :=
  (match (s.slot t e k).word with | some i => slotVn i | none => false) && s.recordWaits (.ringPort t) (s.tileCtx t)

/-- The slot of a buffered token can fire: an allocation has room (R151), `RCOMMIT.RSVW` a slot for it
(R229), and `RNDQ` a round to stamp, with no `MARK` owed (R111, R326). -/
def State.fits (s : State) (t e : Nat) (b : BufTok) : Bool :=
  let y := s.slot t e b.slot
  if y.op = 0x20 ∨ y.op = 0x21 then s.loopFits t e b
  else if b.tok.kind ≠ .data then true
  else match y.op with
  | 0x0A =>
    y.releasing.isNone && (s.group (s.groupOf t)).kernel.lead y.rr != 127
      && !(y.count == 0 && ((s.ctx (s.tileCtx t).toNat).state == .draining || (s.ctx (s.tileCtx t).toNat).state == .faulted))
  | _ => !s.rsvwHeld t e b.slot && !s.portHeld t e b.slot

/-- A firing of a slot may go: a waiting `RCOMMIT.RSVW` is no candidate (R229), but for one that its predicate suppresses, or
that has an `ERR` or `STOP` operand and reserves nothing. -/
def State.firingFits (s : State) (fr : Firing) : Bool :=
  (!s.rsvwHeld fr.tile fr.elem fr.slot && !s.portHeld fr.tile fr.elem fr.slot) || fr.err?.isSome || fr.hasStop
    || fr.suppressed (s.slot fr.tile fr.elem fr.slot).form

/-- A ready pair may fire. -/
def State.pairFits (s : State) (t e : Nat) (c : Cand) : Bool := s.firingFits (c.firing t e (s.slot t e c.slot))

/-- The operands that a word's immediate supplies, in an otherwise empty firing (R48, R51). -/
def immFiring (i : Instr) (t e k : Nat) (tag : W64) (round : BitVec 8) (rest : Operand) : Firing :=
  let get := fun p => (immOperand (opcodeOf i) (formOf i) p).getD (if portIsInput i p then rest else {})
  { tile := t, elem := e, slot := k, l := get 0, r := get 1
    c := if predToken (formOf i) then rest else get 2, tag := tag, round := round }

/-- The firing of a `PUNCT` 11 slot on its marker (R48). -/
def State.onMarker (s : State) (t e k : Nat) (i : Instr) : Firing :=
  { immFiring i t e k (s.launchTag t) (s.slot t e k).markRound (dataOperand 0) with marker := true }

/-- A `PUNCT` 11 slot that has not yet evaluated on its marker can do so: an `RCOMMIT.RSVW` waits for a slot of its ring
(R229). -/
def State.markFits (s : State) (t e k : Nat) : Bool :=
  match (s.slot t e k).word with
  | none => true
  | some i => (s.slot t e k).releasing.isSome || s.firingFits (s.onMarker t e k i)

/-- What waits has made its first attempt: an allocation in its order (R152), and `RCOMMIT.RSVW` among the
ring's producers (R218). -/
def State.noteAttempts (s : State) (t e : Nat) : State :=
  let x := s.elem t e
  let waits := x.buf.filter fun b => !s.fits t e b
    && (((x.slot b.slot).op != 0x20 && (x.slot b.slot).op != 0x21) || x.loopHead b.slot == some b)
  let starts := (List.range 32).filter fun k => (x.slot k).start && s.rsvwHeld t e k
  let pairs := (x.cands (fun _ => false)).filter fun c => !s.pairFits t e c
  let marks := (List.range 32).filter fun k =>
    (x.slot k).form.punct == 3 && !s.markFits t e k && x.markerReady k (x.cands fun _ => true)
  let slots := (waits.map (·.slot) ++ pairs.map (·.slot) ++ marks).filter (s.rsvwHeld t e) ++ starts
  let s := slots.foldl (fun s k => s.modRing t (modRingNo (s.slot t e k).form) fun r => r.enqueue (waitSlot e k)) s
  if waits.isEmpty then s
  else
    let tried := fun (b : BufTok) => if waits.contains b && b.attempt.isNone then { b with attempt := some s.tick } else b
    s.modElem t e fun x => { x with buf := x.buf.map tried }

/-- The edge that a `RECONF` value names (R114): producer element, slot and target field. -/
def reconfEdge (v : W64) : Nat × Nat × Nat := (bitsOf v.toNat 14 4, bitsOf v.toNat 9 5, bitsOf v.toNat 18 1)

/-- The share of an `ALLOC` slot holds no instance, and no allocation of it waits (R159). -/
def State.shareIdle (s : State) (t e k : Nat) : Bool :=
  let h := shareOf (s.slot t e k).form
  (List.range h.count).all (fun i => !(s.loopEntry t h i).v)
    && (s.bufTokens t).all fun (e', b) => b.attempt.isNone || (match s.loopRequest t e' b with
      | some (h', _) => h'.base != h.base
      | none => true)

/-- Every colour that a `SPAWN` drew up to a round has been returned, and none is waited for (R166). -/
def State.spawnsIdle (s : State) (t e k : Nat) (n : BitVec 8) : Bool :=
  let c := s.ctx (s.tileCtx t).toNat
  c.spawns.all (fun w => !(w.tile == t && w.elem == e && w.slot == k && !roundLater w.round n))
    && c.colours.all fun kv => !(kv.2.state == .held && kv.2.tile == t && kv.2.elem == e && kv.2.slot == k
      && !roundLater kv.2.round n)

/-- A slot has an arrival at a barrier that is not yet released (R368). -/
def State.arrivalOut (s : State) (t e k : Nat) : Bool :=
  let mine := fun (a : Arrival) => a.core.isNone && a.tile == t && a.elem == e && a.slot == k
  s.arrivals.any mine || s.barriers.any fun kv => kv.2.records.any mine

/-- The marker of a slot need not wait: its round-end release is not held (R159, R166, R368), and what evaluates on it can
go (R229). -/
def State.controlFree (s : State) (t e k : Nat) : Bool :=
  let y := s.slot t e k
  if y.form.punct = 3 then s.markFits t e k
  else if y.form.punct ≠ 1 then true
  else match y.op with
  | 0x20 => s.shareIdle t e k
  | 0x28 => s.spawnsIdle t e k y.markRound
  | 0xF2 => !(y.releasing.isSome && s.arrivalOut t e k)
  | _ => true

/-- What the element does in its turn (R36). -/
def State.elemChoice (s : State) (t e : Nat) : Choice :=
  (s.elem t e).choose (s.fits t e) (s.pairFits t e) (s.controlFree t e)

/-- The element is RUNNING and has a free output-queue entry (R36). -/
def Element.mayFire (x : Element) : Bool := x.state == .running && !x.stopping && x.out.length < 4

/-- A pair matches its slot's breakpoint (R348). -/
def SlotState.breaks (y : SlotState) (tag : W64) : Bool :=
  y.bmask.getLsbD 48 && (tag ^^^ y.bval) &&& (y.bmask &&& ~~~(0x1000000000000#64)) == 0

/-! ## Turns -/

/-- What a turn does: the instruction executed, and the state in which it is. -/
abbrev Work := Option (Instr × State)

/-- A firing of a slot. -/
def State.fireWork (s : State) (fr : Firing) : Work :=
  match (s.slot fr.tile fr.elem fr.slot).word with
  | some i => some (i, { s with unit := .slot fr })
  | none => none

/-- An `ARITY` 11 slot fires once at kernel start, in round 0 with the launch colour (R24, R51), and closes
the round with `PUNCT` 01 and 11 (R45, R63). -/
def State.startWork (s : State) (t e k : Nat) : Work :=
  match (s.slot t e k).word with
  | none => none
  | some i =>
    let s := (s.beginRound t 0).modSlot t e k fun y =>
      { y with start := false, releasing := if y.form.punct = 1 ∨ y.form.punct = 3 then some 0 else none, done := 255 }
    s.fireWork { immFiring i t e k (s.launchTag t) 0 {} with start := true }

/-- A `PUNCT` 11 slot evaluates on its marker, and owes the `MARK` then (R48). -/
def State.markWork (s : State) (t e k : Nat) (cs : List Cand) : Work :=
  match (s.slot t e k).word with
  | none => none
  | some i =>
    ((s.modElem t e fun x => x.passOver cs none).modSlot t e k fun y => { y with releasing := some y.markRound }).fireWork
      (s.onMarker t e k i)

/-- A round source among the `ARITY` 11 slots starts no round while its context drains (R43, R45, R326), and an
`RCOMMIT.RSVW` waits for a slot of its ring (R229). -/
def State.startHeld (s : State) (t e k : Nat) : Bool :=
  (s.draining (s.tileCtx t) && ((s.slot t e k).form.punct == 1 || (s.slot t e k).form.punct == 3)) || s.rsvwHeld t e k
    || s.portHeld t e k

/-- The candidates of an element (R36). -/
def State.candsOf (s : State) (t e : Nat) : List Cand := (s.elem t e).cands (s.fits t e) (s.pairFits t e)

/-- The pair that a breakpoint held fires first after the resume (R352), once it is a candidate. -/
def State.heldPair (s : State) (t e : Nat) : Option Cand :=
  let x := s.elem t e
  if x.skipBreak then (s.candsOf t e).find? fun c => c.slot == x.heldSlot && c.ent.age == x.heldAge else none

/-- A pair that a breakpoint held, or a start, comes before the element's choice (R51, R352). -/
def State.firesFirst (s : State) (t e : Nat) : Bool :=
  (s.heldPair t e).isSome || (List.range 32).any fun k => (s.slot t e k).start && !s.startHeld t e k

/-- A candidate fires (R36, R39); what its leaving does to the scratchpad's bits lets requests go on that wait there. -/
def State.fireCand (s : State) (t e : Nat) (c : Cand) : Work :=
  ((s.takePair t e (s.candsOf t e) c).settle t).fireWork (c.firing t e (s.slot t e c.slot))

/-- The turn of an element (R36): the pair that a breakpoint held, then a start, then the choice. -/
def State.elemWork (s : State) (t e : Nat) : Work :=
  if !(s.elem t e).mayFire then none
  else match s.heldPair t e with
  | some c => (s.modElem t e fun x => { x with skipBreak := false }).fireCand t e c
  | none => match (List.range 32).find? fun k => (s.slot t e k).start && !s.startHeld t e k with
  | some k => s.startWork t e k
  | none =>
    let s := s.noteAttempts t e
    let x := s.elem t e
    match s.elemChoice t e with
    | .nothing => none
    | .control k c =>
      if (x.slot k).form.punct = 3 ∧ c = .marker ∧ (x.slot k).releasing.isNone then s.markWork t e k (s.candsOf t e)
      else some (.markerAction t e, { s with unit := .idle })
    | .pair c =>
      if (x.slot c.slot).breaks c.ent.tag then some (.slotBreakpointMatch t e, { s with unit := .idle })
      else s.fireCand t e c

/-- A waiting word that a fault's handler may interrupt (R122, R127, R129, R339); the words that the spec does not name
here (SBAR, XFENCE, a full scoreboard) are the model's choice (DESIGN CHOICE, log 67). -/
def Core.interruptible (c : Core) : Bool :=
  match c.wait with
  | .none | .fetched | .timed _ => true
  | _ => bitsOf (mapGet 0 c.code c.pc.toNat).toNat 120 8 == 0xE8

/-- A drover core fetches its word (R63, R126), or enters its handler for a queued fault (R127). While its
context drains, a program's next word is not fetched (R326). -/
def State.coreWork (s : State) (n : Nat) : Work :=
  let c := s.core n
  let idle := { s with unit := .idle }
  if !c.running then none
  else if s.queuedFault n && c.interruptible then some (.handlerEntry n, idle)
  else if s.draining c.context && c.active && !c.hnd && c.wait == .none then none
  else if c.wait == .none && c.atBreakpoint && !c.bkctl.getLsbD 4 then some (.addressBreakpoint n, idle)
  else match s.fetchCheck n with
  | .error _ => some (.illegalWord n, idle)
  | .ok i =>
    let c := if c.wait = .none then { c.skipped with wait := .fetched } else c
    some (i, { s.setCore n c with unit := .core n })

/-- A marker, `STOP` or `ERR` at a boundary unit waits for the slot's earlier requests, which other units of
the die may hold (R49, R289). -/
def State.markerWaits (s : State) (e : Engine) (r : Req) : Bool :=
  match e with
  | .grammar _ _ | .sampler _ _ | .accept _ _ =>
    r.kind != .data && s.unserved.any fun q => q.origin == r.origin && q.seq < r.seq
  | _ => false

/-- A serving unit takes the head of its queue (R174), unless a record of its own waits for the fault queue (R324). -/
def State.engineWork (s : State) (e : Engine) : Work :=
  match s.queue e with
  | r :: _ => if s.markerWaits e r || s.recordWaits e r.ctx then none else some (r.instr, { s with unit := .engine e r })
  | [] => none

/-- What may come about while the device does not serve (R403): its start, the end of its power, and requests at
the management port. -/
def Turn.outside : Turn → Bool
  | .event .powerUp => true
  | .event .powerLoss => true
  | .event (.managementPortRequest _) => true
  | _ => false

/-- The work of the unit whose turn it is. -/
def State.nextWork (s : State) : Work :=
  if s.mgmt.start ≠ .serving ∧ !s.turn.outside then none
  else match s.turn with
  | .core n => s.coreWork n
  | .elem t e => s.elemWork t e
  | .engine e => s.engineWork e
  | .event i => if i.parts.isNone then some (i, { s with unit := .idle }) else none

/-- A turn in which its unit has nothing to do: what waits at an element has made its attempt (R152, R218), and a die's
memory interface tries the writes again that were kept (R386). -/
def State.passTurn (s : State) : State :=
  match s.turn with
  | .elem t e => if s.mgmt.start = .serving ∧ (s.elem t e).mayFire then s.noteAttempts t e else s
  | .engine (.memory _) => if s.mgmt.start = .serving then s.retryLate else s
  | _ => s

/-- The step is over: no unit executes, and the next turn is open (R426). -/
def State.advance (s : State) : State :=
  { s with unit := .idle, tick := s.tick + 1, turn := Config.nextTurn s.tick }

/-- The outcome of a step. -/
def finish : Answer → Answer
  | .next s => .next s.advance
  | .fault r => .fault r
  | .refused r => .refused r

end Sys2Proof.Machine
end

