-- ==== Sys2Proof/Machine/Events.lean ====
section
/-! DEFINITION. The events of the elements, the networks and the mailboxes (R25 to R49, R102, R103): a token
leaves an element, arrives and is placed, a marker is acted on, a command is issued, a round is counted. -/

namespace Sys2Proof.Machine

open Sys2Proof

/-! ## Requests leave the element (R25, R38, R174) -/

/-- The boundary unit's number for an address, in units of 128 bytes (R289). -/
def unitOf (a : W64) : Nat := a.toNat / 128

/-- The unit that takes a request of a slot (R174, R197, R227, R268, R289); none for an access to virtual
memory, which goes to the die's interface. -/
def engineFor (t : Nat) (r : Req) : Option Engine :=
  let o := opcodeOf r.instr
  let f := formOf r.instr
  let d := dieOf t
  if o = 0x82 ∨ o = 0x83 ∨ o = 0x87 ∨ o = 0x88 then some (.scratch t)
  else if o = 0x89 ∧ f.mod.getLsbD 6 then some (.scratch t)
  else if 0x84 ≤ o ∧ o ≤ 0x86 then some (.tagTable t)
  else if 0xA0 ≤ o ∧ o ≤ 0xA4 then some (.stream t (f.mod.toNat % 8))
  else if o = 0xA6 ∨ o = 0xA7 then some (.circuit t)
  else if 0xAB ≤ o ∧ o ≤ 0xAF ∨ o = 0xB1 then some (.matrix t)
  else if o = 0xB0 then some (.scan t)
  else if 0xC0 ≤ o ∧ o ≤ 0xCA then some (.summary t)
  else if (o = 0xD0 ∨ o = 0xD1) ∧ f.mod = 1 then some (.grammar d (r.c.toNat / 64 % 16))
  else if o = 0xD4 ∨ o = 0xD5 then some (.grammar d (r.l.toNat % 2 ^ 32 % 16))
  else if 0xD0 ≤ o ∧ o ≤ 0xD3 then some (.grammar d (unitOf r.l % 16))
  else if 0xD6 ≤ o ∧ o ≤ 0xD8 then
    some (.sampler d (if natAt r.blk 0 8 = 0 then tileX t % 16 else natAt r.blk 0 8 / 128 % 16))
  else if o = 0xDB then some (.sampler d (tileX t % 16))
  else if o = 0xD9 ∨ o = 0xDA then some (.accept d (unitOf r.l % 4))
  else none

/-- A request instruction sends its markers to its unit (R49, R174). -/
def isRequest (i : Instr) : Bool :=
  let o := opcodeOf i
  o == 0x80 || o == 0x81 || o == 0x89 || o == 0x8B || o == 0x8C || o == 0x8E
    || (o == 0xAB && bitsOf (formOf i).mod.toNat 3 2 != 0)
    || (o != 0xAB && (engineFor 0 { instr := i, origin := .core 0 }).isSome)

/-- The places of a unit's queue (R197, R222, R268, R289). -/
def queueSize : Engine → Nat
  | .stream _ _ => 4
  | _ => 8

/-- The block that travels with a request, copied from the scratchpad: a waybill (R198), a descent block with
its query (R279), or a sample block (R289). A waybill that runs past scratchpad address 0xFFFF goes on at 0 (DESIGN CHOICE,
log 153). -/
def copyBlock (t : Nat) (r : Req) (s : State) : List Byte × State :=
  let o := opcodeOf r.instr
  let imm := (formOf r.instr).imm.toNat % 2 ^ 16
  if r.kind ≠ .data then (r.blk, s)
  else if 0xA0 ≤ o ∧ o ≤ 0xA2 then spRead pathS t imm 64 s
  else if o = 0xC6 then
    let (b, s) := spRead pathT t (r.l.toNat % 2 ^ 16) 64 s
    let (q, s) := spRead pathT t (natAt b 6 2) 512 s
    (b ++ q, s)
  else if 0xD6 ≤ o ∧ o ≤ 0xD8 then spRead pathE t imm 64 s
  else (r.blk, s)

/-- A unit accepts a request: its queue has room. While its waiting list is full the scratchpad port accepts no request
that would wait, nor one behind such a request of its element; what it then holds back takes no room (R172). -/
def State.accepts (s : State) (e : Engine) (r : Req) : Bool :=
  let q := s.queue e
  match e with
  | .scratch t =>
    if (s.tile t).waiting.length < 64 then q.length < queueSize e
    else
      let goes := fun (x : Req) => x.kind == .err || s.waiterReady t (s.tile t).waiting x
      goes r && q.all (fun x => x.element != r.element || goes x) && (q.filter goes).length < queueSize e
  | _ => q.length < queueSize e

/-- A request leaves its element: into the queue of its unit while that has room, or to the die's memory
interface while fewer than 1,024 requests of the context are parked there (R25, R175). -/
def State.sendOut (s : State) (t : Nat) (r : Req) : Option State :=
  let (blk, s') := copyBlock t r s
  let r := { r with blk := blk }
  match engineFor t r with
  | some e => if s.accepts e r then some ((s'.setQueue e (s.queue e ++ [r])).learn t e.unit) else none
  | none =>
    if r.kind = .data ∧ 1024 ≤ s.parkedOn r.ctx (dieOf t) then none else some (s.toInterface r)

/-! ## `OUTPUT_QUEUE_DRAIN` (R25, R38) -/

/-- A target names an unbound role: the slot records `ILLEGAL` with the target (R356). -/
def State.unbound (s : State) (t e k : Nat) (tok : Token) (target : BitVec 22) : State :=
  s.record { code := fcIllegal, ukind := 0, unit := unitSlot s t e k, ctx := s.tileCtx t, tag := tok.tag
             aux := some (target.setWidth 64) } (some (t, e))

/-- The network of a slot's token (R13, R23): a `SCALE` token's is the scale network, and every other one's that of its
channel. A reply channel, the ring port's or one to a mailbox, is on `VN` 1 (R19). -/
def State.slotChannel (s : State) (t e k : Nat) (d : Dest) (tok : Token) : Net :=
  if tok.kind = .scale then .scale
  else if tok.kind = .reconf then .vn0
  else if (match (s.slot t e k).word with | some i => slotVn i | none => false) then .vn1
  else d.injNet

/-- Send the first item of an output-queue entry; none while it must wait. The network takes every token of a slot whose
edge is open: the spec gives it no capacity (DESIGN CHOICE, log 139). -/
def State.sendItem (s : State) (t e k : Nat) : OutItem → Option State
  | .token field target tok link =>
    if (match link with | some id => s.iterLinks.any fun m => m.id == id | none => false) then none
    else match s.resolve t target with
    | none => some (s.unbound t e k tok target)
    | some d =>
      if field < 2 ∧ !s.edgeOpen t e k field d then none
      else some (s.send (.slot t e k field) d (s.slotChannel t e k d tok) tok)
  | .physical field d tok => some (s.send (.slot t e k field) d (s.slotChannel t e k d tok) tok)
  | .returned n target tok =>
    match s.resolve t target with
    | none => some (s.unbound t e k tok target)
    | some d =>
      let c := (s.tileCtx t).toNat
      let s := ((s.send (.slot t e k 3) d (s.slotChannel t e k d tok) tok).learn t (colourKey c n)).freeColour c n
      some (s.spawnTurn c)
  | .request r => s.sendOut t r

/-- A quiescing element has drained once its output queue is empty (R101). -/
def Element.drained (x : Element) : Element :=
  if x.stopping ∧ x.out.isEmpty then x.freeze else x

/-- The head entry without its first item. -/
def Element.sentItem (x : Element) : Element :=
  match x.out with
  | [] => x
  | o :: rest =>
    match o.items with
    | _ :: b :: items => { x with out := { o with items := b :: items } :: rest }
    | _ => { x with out := rest }.drained

/-- `OUTPUT_QUEUE_DRAIN` (R38): one token of the head entry leaves, after the fault records of its element
(R324); the place that it frees may let a `SPAWN` be served (R156). -/
def execOutputQueueDrain (tile elem : Nat) (s : State) : Answer :=
  .next (match (s.elem tile elem).out with
    | [] => s
    | o :: _ =>
      if s.pend.any fun p => p.elem == some (tile, elem) && p.rcd.ctx == s.tileCtx tile then s
      else match o.items with
      | [] => s.modElem tile elem Element.sentItem
      | it :: _ => match s.sendItem tile elem o.slot it with
        | none => s
        | some s =>
          let c := (s.tileCtx tile).toNat
          (s.modElem tile elem Element.sentItem).spawnTurn c)

/-! ## `TOKEN_ARRIVAL` (R27, R28) -/

/-- The flights that come next on their channels, with their places (R27). -/
def headsGo : List (Source × Dest) → Nat → List Flight → List (Nat × Flight)
  | _, _, [] => []
  | seen, i, f :: fs =>
    if seen.contains (f.src, f.dst) then headsGo seen (i + 1) fs
    else (i, f) :: headsGo ((f.src, f.dst) :: seen) (i + 1) fs

/-- A token can cross the die edges on its way (R10, R13): while one of them is not UP it waits (R388). -/
def State.crosses (s : State) (fl : Flight) : Bool := s.edgesUp (unitDieOf fl.src.who) (unitDieOf fl.dst.who)

/-- A flight has arrived: what its sender knew, its receiver knows (R426). -/
def State.arrived (s : State) (i : Nat) (fl : Flight) : State :=
  { s.learn (arrivalKey fl.step) fl.dst.who with net := dropNth s.net i }

/-- The tokens that may arrive at an element. -/
def State.arriving (s : State) (t e : Nat) : List (Nat × Flight) :=
  (headsGo [] 0 s.net).filter fun q => match q.2.dst with
    | .slot t' e' _ _ => t' == t && e' == e && s.crosses q.2
    | _ => false

/-- A scale token is placed from its network as soon as the stage is free (R13, R28), behind the queued tokens of its
slot and port, which left before it on its channel (R27): DESIGN CHOICE, log 116. -/
def State.placeFromScale (s : State) (t e k p i : Nat) (fl : Flight) : State :=
  let x := s.elem t e
  let tok := fl.tok
  if !x.stageFree || (x.in0 ++ x.in1).any (fun q => q.1 == k && q.2.1 == p) then s
  else match s.place t e k p tok with
    | .ok s => (s.arrived i fl).modElem t e fun x => x.taken .scale
    | .error w => s.noteHeld t e k .scale tok w

/-- A token enters the input queue of its virtual network, which holds 8 (R28), and the placement stage takes one. -/
def State.enterQueue (s : State) (t e : Nat) (q : Nat × Flight) : State :=
  match q.2.dst with
  | .slot _ _ k p =>
    if q.2.net = .scale then s.placeFromScale t e k p q.1 q.2
    else
      (if ((s.elem t e).input q.2.net).length < 8 then
        (s.arrived q.1 q.2).modElem t e fun x =>
          x.setInput q.2.net (x.input q.2.net ++ [(k, p, q.2.tok)])
      else s).placeOne t e
  | _ => s

/-- `TOKEN_ARRIVAL` (R28): a token reaches an input queue, and the placement stage takes one. -/
def execTokenArrival (tile elem pick : Nat) (s : State) : Answer :=
  .next (match (s.arriving tile elem)[pick]? with
    | some q => (s.enterQueue tile elem q).settle tile
    | none => (s.placeOne tile elem).settle tile)

/-- `PULL_BACK` (R33): a reserved entry is filled from its bucket. -/
def execPullBack (tile elem : Nat) (s : State) : Answer :=
  .next (match (s.elem tile elem).entries.find? fun kv => kv.2.state == .reserved with
    | some kv => (s.pullInto tile elem kv.1).settle tile
    | none => s)

/-- `OVERFLOW_REFILL` (R31): the oldest overflow record of a bucket moves into a free tile record. -/
def execOverflowRefill (tile elem bucket : Nat) (s : State) : Answer :=
  .next (let x := s.elem tile elem
    let b := x.bucket bucket
    match b.overflow with
    | [] => s
    | r :: rest =>
      if b.tile.length < x.depth then
        (((s.modElem tile elem fun x => x.modBucket bucket fun b =>
          { b with tile := b.tile ++ [{ r with addr := 0 }], overflow := rest, regs := none }).clearOverflow tile r).mirrorBucket
            tile elem bucket).settle tile
      else s)

/-! ## `MARKER_ACTION` (R47, R48) -/

/-- A firing in name only: the slot, the launch colour and a round. -/
def State.markFiring (s : State) (t e k : Nat) (n : BitVec 8) : Firing :=
  { tile := t, elem := e, slot := k, tag := s.launchTag t, round := n, marker := true }

/-- The marker of a round leaves the slot: to its unit, to its valid targets, or to a sink (R45, R48,
R49). -/
def State.forwardMark (s : State) (t e k : Nat) (i : Instr) (n : BitVec 8) : State :=
  let fr := s.markFiring t e k n
  let f := formOf i
  let s := s.modSlot t e k fun y => y.closeRound n
  if isRequest i then fr.push [.request (fr.request i .mark fr.tag s)] s
  else if !targetValid f.tgt0 ∧ !targetValid f.tgt1 then s.notify (s.groupOf t) n
  else fr.mark f n s

/-- The `MARK` that `RNDQ` owes leaves (R111): it ends the slot's own round, not one that came to it. -/
def State.oweMark (s : State) (t e k : Nat) (i : Instr) (n : BitVec 8) : State :=
  (s.markFiring t e k n).mark (formOf i) n (s.modSlot t e k fun y => { y with releasing := none })

/-- The round-end release of `ALIGN` and `COUNT` (R112): the total leaves, and the marker is owed. -/
def State.releaseTotal (s : State) (t e k : Nat) (i : Instr) (n : BitVec 8) : State :=
  let f := formOf i
  let y := s.slot t e k
  let fr := s.markFiring t e k n
  let s := s.modSlot t e k fun y => { y with releasing := some n, key := none }
  let tag : Except Nat W64 := match y.key with
    | none => .ok (s.launchTag t)
    | some T => tagOut s (s.tileCtx t) f.tagop.toNat T 0
  match tag with
  | .error code => { fr with tag := y.key.getD 0 }.raise f code (some (f.tagop.setWidth 64)) s
  | .ok tag =>
    let s := if opcodeOf i = 0x09 ∧ f.imm ≠ 0 ∧ y.count ≠ f.imm.setWidth 64 then
      { fr with tag := tag }.fault fcAssert none (some y.count) s else s
    let s := if opcodeOf i = 0x09 ∨ f.mod = 0 then s.modSlot t e k fun y => { y with count := 0 } else s
    fr.emit f [0, 1] .data y.count tag false s

/-- The next held token that a release of `REORD` passes: of an entry in ascending index, then of its bucket, oldest
first (R195). -/
def State.nextPassed (s : State) (t e k : Nat) (f : Form) : Option (Nat × Token × Option SeraiRec) :=
  let x := s.elem t e
  (List.range (2 ^ f.mslog.toNat)).findSome? fun j =>
    let idx := f.msbase.toNat + j
    let en := x.entry idx
    if en.state = .held ∧ en.slot = k then
      some (idx, { kind := (en.l.kind).getD .data, value := en.l.value, s := en.l.s, tag := en.tag, round := en.round
                   ctx := s.tileCtx t }, none)
    else ((x.bucket idx).all.find? fun r => r.slot == k).map fun r => (idx, r.tok, some r)

/-- The round-end release of `REORD` (R195): one held token leaves in each turn, then the marker. -/
def State.releaseReord (s : State) (t e k : Nat) (i : Instr) (n : BitVec 8) : State :=
  let f := formOf i
  match s.nextPassed t e k f with
  | none => (s.modSlot t e k fun y => { y with key := none }).forwardMark t e k i n
  | some (idx, tok, held) =>
    let fr := { s.markFiring t e k tok.round with tag := tok.tag }
    let s := match held with
      | none => s.modElem t e fun x => x.freeEntry idx
      | some r => (s.dropRecords t e idx (· == r)).unlatchRecord t e r
    fr.emit f [0, 1] tok.kind tok.value tok.tag tok.s s

/-- The round-end release of `SCALE` with count 0 (R236): every scale of the round is freed. -/
def State.releaseScales (s : State) (t e k : Nat) (n : BitVec 8) : State :=
  s.modElem t e fun x => (x.entries.filter fun kv =>
    kv.2.state == .held && kv.2.slot == k && kv.2.r.kind == some .scale && !roundLater kv.2.round n).foldl
      (fun x kv => x.freeEntry kv.1) x

/-- The round-end release of `BARARR.RND` (R368): it arrives for the round, and the marker is owed. A release has no
operands, and the spec gives it neither a T nor an S for its `TAGOP`: T is the kernel's launch colour at depth 0 and S is
0 (DESIGN CHOICE, log 136). -/
def State.releaseArrive (s : State) (t e k : Nat) (i : Instr) (n : BitVec 8) : State :=
  let f := formOf i
  let fr := s.markFiring t e k n
  let s := s.modSlot t e k fun y => { y with releasing := some n }
  match tagOut s (s.tileCtx t) f.tagop.toNat fr.tag 0 with
  | .error code => fr.raise f code (some (f.tagop.setWidth 64)) s
  | .ok tag =>
    let a : Arrival :=
      { handle := f.imm.toNat % 1024, group := s.groupOf t, tile := t, elem := e, slot := k, target := f.tgt0, tag := tag
        round := n, ctx := s.tileCtx t, at_ := n, step := s.tick }
    { s.learn t (arrivalKey s.tick) with arrivals := s.arrivals ++ [a] }

/-- The marker of `SPAWN` goes to its return target only (R166). -/
def State.releaseSpawn (s : State) (t e k : Nat) (i : Instr) (n : BitVec 8) : State :=
  let fr := s.markFiring t e k n
  let ret := spawnRet (formOf i)
  let s := s.modSlot t e k fun y => y.closeRound n
  if targetValid ret then fr.push [.token 2 ret (fr.token s .mark 0 fr.tag false) none] s
  else s.notify (s.groupOf t) n

/-- An actionable marker with `PUNCT` 01 (R48): the slot's round-end release, then the marker. -/
def State.alignMark (s : State) (t e k : Nat) (i : Instr) (n : BitVec 8) : State :=
  match opcodeOf i with
  | 0x09 => s.releaseTotal t e k i n
  | 0x0B => s.releaseTotal t e k i n
  | 0x8D => s.releaseReord t e k i n
  | 0x76 => if (formOf i).arity = 1 ∧ (formOf i).imm.toNat % 2 ^ 16 = 0 then
      (s.releaseScales t e k n).forwardMark t e k i n else s.forwardMark t e k i n
  | 0xF2 => s.releaseArrive t e k i n
  | 0x28 => s.releaseSpawn t e k i n
  | _ => s.forwardMark t e k i n

/-- A `RECONF` at its consumer (R103): the edge closes until it is empty; several for one edge take effect in their
order. -/
def State.reconf (s : State) (t e k port : Nat) (tok : Token) : State :=
  let (pe, ps, pf) := reconfEdge tok.value
  let here : Dest := .slot t e k port
  let names := fun (p : Nat) => match (s.slot p pe ps).word with
    | some i => targetValid (targetOf (formOf i) pf) && s.resolve p (targetOf (formOf i) pf) == some here
    | none => false
  let d := bitsOf tok.value.toNat 0 9
  let ed := mapGet {} (s.tile t).edges (edgeKey pe ps pf)
  let bad := s.record { code := fcIllegal, ukind := 0, unit := unitSlot s t e k, ctx := s.tileCtx t, tag := tok.tag }
  if names t then
    (if d = 0 ∨ d > ed.max then bad
     else s.modTile t fun x =>
      { x with edges := mapSet {} x.edges (edgeKey pe ps pf) { ed with closing := ed.closing ++ [d] } })
  else if (s.group (s.groupOf t)).manifest.any fun kv => kv.1 != 0x3FF && kv.2 ≥ 2 ^ 15 && names (kv.2 % 2 ^ 14) then s
  else bad

/-- The control stage of a slot acts on its oldest `RECONF` or `RELATCH` token (R47). -/
def State.controlToken (s : State) (t e k : Nat) : State :=
  match (s.slot t e k).control with
  | [] => s
  | c :: rest =>
    let s := s.modSlot t e k fun y => { y with control := rest }
    if c.tok.kind = .reconf then s.reconf t e k c.port c.tok else s

/-- The control stage of a slot acts on its marker, or sends the `MARK` that it owes (R47, R48). -/
def State.controlMark (s : State) (t e k : Nat) : State :=
  let y := s.slot t e k
  let n := y.markRound
  match y.word with
  | none => s
  | some i =>
    if y.releasing.isSome then (if opcodeOf i = 0x0A then s.oweMark t e k i n else s.forwardMark t e k i n)
    else if y.form.punct = 0 then s.forwardMark t e k i n
    else if y.form.punct = 1 then s.alignMark t e k i n
    else if y.form.punct = 2 then (s.modSlot t e k fun y => y.closeRound n).notify (s.groupOf t) n
    else s

/-- The control stage of a slot acts. -/
def State.controlAct (s : State) (t e k : Nat) : ControlItem → State
  | .token => s.controlToken t e k
  | .marker => s.controlMark t e k

/-- `MARKER_ACTION` (R47, R48): the chosen control stage acts, and every ready pair is passed over. -/
def execMarkerAction (tile elem : Nat) (s : State) : Answer :=
  .next (if !(s.elem tile elem).mayFire || s.firesFirst tile elem then s
    else match s.elemChoice tile elem with
    | .control k c =>
      ((s.modElem tile elem fun x => x.passOver (x.cands (s.fits tile elem) (s.pairFits tile elem)) none).controlAct tile elem k c).settle tile
    | _ => s)

/-- `SLOT_BREAKPOINT_MATCH` (R101, R348): the chosen pair stays ready, to fire first after the resume, and the element
goes to BREAK. -/
def execSlotBreakpointMatch (tile elem : Nat) (s : State) : Answer :=
  .next (if !(s.elem tile elem).mayFire || s.firesFirst tile elem then s
    else match s.elemChoice tile elem with
    | .pair c =>
      if (s.slot tile elem c.slot).breaks c.ent.tag then
        (s.modElem tile elem fun x => { x with state := .broken, heldSlot := c.slot, heldAge := c.ent.age, skipBreak := true }).record
          { code := fcBkpt, ukind := 0, unit := unitSlot s tile elem c.slot, ctx := s.tileCtx tile, tag := c.ent.tag }
      else s
    | _ => s)

/-- `EDGE_RESIZE_DONE` (R103): a closed edge that is empty takes its new depth. -/
def execEdgeResizeDone (tile edge : Nat) (s : State) : Answer :=
  .next (let ed := mapGet {} (s.tile tile).edges edge
    match ed.closing with
    | [] => s
    | d :: rest =>
      if s.edgeLoad tile (edge / 64) (edge / 2 % 32) (edge % 2) = 0 then
        s.modTile tile fun x => { x with edges := mapSet {} x.edges edge { ed with depth := d, closing := rest } }
      else s)

/-! ## Mailboxes, notices and commands (R45, R120, R123) -/

/-- A token that a mailbox refuses (R26): its fault code. -/
def refusedMail (c : Core) (tok : Token) : Option Nat :=
  if tok.ctx ≠ c.context then some fcPriv
  else if tok.kind = .reserved ∨ tok.kind = .reconf then some fcIllegal
  else if tok.kind = .scale then some fcScale
  else none

/-- A mailbox slot stores a marker (R45): it is one sink, which sends one notice for a round. -/
def State.noteMail (s : State) (n k : Nat) (round : BitVec 8) : State :=
  let g := (s.core n).group.getD 0
  let old := (s.group g).kernel.oldest
  let rs := (mapGet [] (s.core n).marked k).filter fun r => (r - old).toNat < 128
  if rs.contains round ∨ 128 ≤ (round - old).toNat then s
  else (s.modCore n fun c => { c with marked := mapSet [] c.marked k (rs ++ [round]) }).notify g round

/-- `MAILBOX_DELIVER` (R120): a token enters a mailbox slot of 4; a marker there is a sink's (R45). -/
def execMailboxDeliver (core pick : Nat) (s : State) : Answer :=
  .next (match ((headsGo [] 0 s.net).filter fun q => match q.2.dst with
      | .mailbox n _ => n == core && s.crosses q.2
      | _ => false)[pick]? with
    | none => s
    | some (i, fl) =>
      match fl.dst with
      | .slot _ _ _ _ => s
      | .mailbox _ k =>
        let c := s.core core
        let gone := s.arrived i fl
        match refusedMail c fl.tok with
        | some code => gone.record { code, ukind := 1, unit := unitCore 0 core, ctx := c.context, tag := fl.tok.tag
                                     aux := some (BitVec.ofNat 64 (kindCode fl.tok.kind)) }
        | none =>
          if (c.mail k).length < 4 then
            let s := gone.modCore core fun c => { c with mbox := mapSet [] c.mbox k (c.mail k ++ [fl.tok]) }
            if fl.tok.kind = .mark then s.noteMail core k fl.tok.round else s
          else s)

/-- A round counted in full drains, and the next one is the oldest (R45). -/
def drainRounds : Nat → Kernel → Kernel
  | 0, k => k
  | n + 1, k =>
    if k.sinks ≠ 0 ∧ k.sinks ≤ mapGet 0 k.notices k.oldest.toNat then
      drainRounds n { k with notices := mapSet 0 k.notices k.oldest.toNat 0, oldest := k.oldest + 1 }
    else k

/-- `ROUND_NOTICE` (R45): the controller counts a sink's notice. -/
def execRoundNotice (pick : Nat) (s : State) : Answer :=
  .next (match s.notices[pick]? with
    | none => s
    | some m =>
      { s with notices := dropNth s.notices pick }.modGroup m.group fun g =>
        { g with kernel := drainRounds 128 { g.kernel with
            notices := mapModify 0 g.kernel.notices m.round.toNat (· + 1) } })

/-- The unit that a key names. -/
def engineOfKey (k : Nat) : Engine :=
  let u := k / 64
  let j := k % 64
  if u < 16384 then
    (if j = 0 then .scratch u else if j = 1 then .tagTable u else if j = 2 then .circuit u
     else if j = 3 then .matrix u else if j = 4 then .scan u else if j = 5 then .summary u
     else if j = 6 then .ringPort u else .stream u (j - 8))
  else
    (let d := u - 16384
     if j = 0 then .memory d else if j < 17 then .grammar d (j - 1) else if j < 33 then .sampler d (j - 17)
     else .accept d (j - 33))

/-- The commands of a core that come next at their ports (R123), with their places. -/
def nextCommands : List Nat → Nat → List Cmd → List (Nat × Cmd)
  | _, _, [] => []
  | seen, i, c :: cs =>
    if c.issued then nextCommands seen (i + 1) cs
    else if seen.contains c.port then nextCommands seen (i + 1) cs
    else (i, c) :: nextCommands (c.port :: seen) (i + 1) cs

/-- The engine that takes a command from its scoreboard port. The ring port and the matrix engine of a tile form one
scoreboard port; `RING` and `RSTAT.RING` are served at the ring port (R218, R227). -/
def Cmd.engine (c : Cmd) : Engine :=
  match engineOfKey c.port with
  | .matrix t => if atRingPort c.req.instr then .ringPort t else .matrix t
  | e => e

/-- `COMMAND_ISSUE` (R123): a command moves to its engine port, which accepts it. -/
def execCommandIssue (core pick : Nat) (s : State) : Answer :=
  .next (match (nextCommands [] 0 (s.core core).cmds)[pick]? with
    | none => s
    | some (i, c) =>
      if (s.queue c.engine).length < queueSize c.engine then
        ((s.setQueue c.engine (s.queue c.engine ++ [c.req])).learn (16384 + core) c.engine.unit).modCore core fun x =>
          { x with cmds := setNth x.cmds i { c with issued := true } }
      else s)

end Sys2Proof.Machine
end

