-- ==== Sys2Proof/Machine/Stream.lean ====
section
/-! DEFINITION. Streams, gathers and scatters, and circuits (R197 to R215). -/

namespace Sys2Proof.Machine

open Sys2Proof

/-! ## The waybill (R198, R199) -/

/-- A waybill's fields (R198). -/
structure Waybill where
  raw : Nat
  deriving DecidableEq, Repr

/-- A waybill from its 64 bytes. -/
def waybillOf (bs : List Byte) : Waybill := ⟨ofBytes bs⟩
/-- The memory address of row 0, or of index 0. -/
def Waybill.base (w : Waybill) : Nat := bitsOf w.raw 0 64
/-- The index array. -/
def Waybill.ibase (w : Waybill) : Nat := bitsOf w.raw 64 64
/-- Bytes per row. -/
def Waybill.rlen (w : Waybill) : Nat := bitsOf w.raw 128 32
/-- Rows or indices. -/
def Waybill.rows (w : Waybill) : Nat := bitsOf w.raw 160 32
/-- The signed distance between rows. -/
def Waybill.stride (w : Waybill) : Int := toSigned 64 (bitsOf w.raw 192 64)
/-- The scratchpad address of row 0. -/
def Waybill.spa (w : Waybill) : Nat := bitsOf w.raw 256 16
/-- Tile to memory. -/
def Waybill.out (w : Waybill) : Bool := bitOf w.raw 272
/-- The tile side is a ring. -/
def Waybill.toRing (w : Waybill) : Bool := bitOf w.raw 273
/-- The ring. -/
def Waybill.ring (w : Waybill) : Nat := bitsOf w.raw 274 3
/-- Full/empty bits are used. -/
def Waybill.fe (w : Waybill) : Bool := bitOf w.raw 277
/-- A prefetch stream. -/
def Waybill.pf (w : Waybill) : Bool := bitOf w.raw 278
/-- A speculative stream. -/
def Waybill.spec (w : Waybill) : Bool := bitOf w.raw 279
/-- The bytes of an index. -/
def Waybill.iwBytes (w : Waybill) : Nat := 2 * 2 ^ bitsOf w.raw 280 2
/-- A row token carries its row's field. -/
def Waybill.rtag (w : Waybill) : Bool := bitOf w.raw 282
/-- One token a row. -/
def Waybill.rtok (w : Waybill) : Bool := bitOf w.raw 283
/-- The row tokens' target. -/
def Waybill.tgt (w : Waybill) : BitVec 22 := BitVec.ofNat 22 (bitsOf w.raw 288 22)
/-- The window's length. -/
def Waybill.wlen (w : Waybill) : Nat := bitsOf w.raw 384 64

/-- Checks 1 to 6 and 8 of a waybill (R199): the number of the first that fails, or 0. -/
def Waybill.check (w : Waybill) (opc : Nat) (x : Tile) (tag : W64) : Nat :=
  let m16 := fun (v : Nat) => v % 16 != 0
  if bitsOf w.raw 448 64 ≠ 0 ∨ bitsOf w.raw 310 74 ≠ 0 ∨ bitsOf w.raw 284 4 ≠ 0 ∨ bitsOf w.raw 280 2 = 3 then 1
  else if m16 w.base || m16 w.ibase || m16 (bitsOf w.raw 192 64) || m16 w.spa || m16 w.rlen
      || w.base ≥ 2 ^ 56 || w.ibase ≥ 2 ^ 56 then 2
  else if w.rlen < 16 ∨ w.rlen > 65536 ∨ w.rows < 1 ∨ w.rows > 2 ^ 24 then 3
  else if (opc = 0xA1 ∧ w.out) ∨ (opc = 0xA2 ∧ !w.out) ∨ (w.toRing ∧ w.out) ∨ ((w.pf ∨ w.spec) ∧ w.out)
      ∨ (w.pf ∧ w.spec) then 4
  else if !w.toRing ∧ w.spa + w.rows * w.rlen > 65536 then 5
  else if w.toRing ∧ (!(x.ring w.ring).defined ∨ w.rlen ≠ (x.ring w.ring).pb ∨ !w.rtok ∨ !targetValid w.tgt) then 6
  else if (w.rtag ∧ tagDepth tag = 0) ∨ (!targetValid w.tgt ∧ w.tgt ≠ 0) then 8
  else 0

/-- Check 7 where it needs no walk (R199). -/
def Waybill.check7 (w : Waybill) (opc : Nat) : Bool :=
  if opc = 0xA0 then w.wlen != 0 else w.wlen == 0 || w.base + w.wlen > 2 ^ 56 || w.ibase == 0

/-! ## A port's stream -/

/-- A port. -/
def State.port (s : State) (t p : Nat) : Port := (s.tile t).port p
/-- The opening request. -/
def Port.req (x : Port) : Req := x.opener.getD default
/-- The waybill copy. -/
def Port.wb (x : Port) : Waybill := waybillOf x.req.blk
/-- The offset of the opening command: L of a firing, `xb` of a core (R212). -/
def openOffset (r : Req) : Nat := match r.origin with | .core _ => r.r.toNat | .slot _ _ _ => r.l.toNat
/-- The command tag: the output tag, or `xc` (R202). -/
def openTag (r : Req) : W64 := match r.origin with | .core _ => r.c | .slot _ _ _ => r.tag
/-- `BASE` with the offset, mod 2^56 (R212). -/
def Port.base (x : Port) : Nat := (x.wb.base + openOffset x.req) % 2 ^ 56
/-- The path of a port's accesses (R197). -/
def Port.path (x : Port) : Nat := if opcodeOf x.req.instr = 0xA0 then pathS else pathG
/-- A row's memory address, as a 64-bit address. -/
def Port.rowAddr (x : Port) (i : Nat) : Nat := wrapInt 64 ((x.base : Int) + i * x.wb.stride)
/-- A row's scratchpad address. -/
def Port.rowSp (x : Port) (i : Nat) : Nat := x.wb.spa + i * x.wb.rlen
/-- A row token's tag (R202). -/
def Port.rowTag (x : Port) (i : Nat) : W64 :=
  if x.wb.rtag then tagSet (openTag x.req) (i / 64 % 4 * 64 + i % 64) else openTag x.req
/-- The window of a `STRM` (R201): its lowest and highest byte. -/
def Port.window (x : Port) : Int × Int :=
  let a : Int := x.base
  let b := a + (x.wb.rows - 1 : Nat) * x.wb.stride
  (min a b, max a b + x.wb.rlen - 1)

/-- Send a token from a unit of a tile to a target of its group's manifest (R356). -/
def State.tokenFrom (s : State) (e : Engine) (t : Nat) (target : BitVec 22) (tok : Token) : State :=
  match s.resolve t target with
  | some d => s.send (Req.source e) d .vn1 tok
  | none =>
    let u := engineUnit s e
    s.record { code := fcIllegal, ukind := u.1, unit := u.2, ctx := tok.ctx, tag := tok.tag, aux := some (target.setWidth 64) }

/-- The stack that holds an address of a context's memory; stack 0 where its page is absent, malformed or not main memory:
DESIGN CHOICE, log 141. -/
def State.stackOf (s : State) (c : BitVec 8) (va : Nat) : Nat :=
  match s.walk c va with
  | .leaf e lvl epa => if (Page.mk e lvl epa).tgt = 0 then (Page.mk e lvl epa).pa va / 2 ^ 36 % 8 else 0
  | _ => 0

/-- The unit that a port's faults name (R322): the port of a `STRM`, the base die's engine of a gather or scatter. -/
def State.portUnit (s : State) (t p : Nat) : Nat × Nat :=
  let x := s.port t p
  if opcodeOf x.req.instr = 0xA0 then (2, unitEngine s t (8 + p % 8)) else (3, unitDie (x.stack / 2) (128 + x.stack))

/-- Record a fault of a port, or of the base die that runs its gather: that of the stack that held `IBASE` + offset when
it was opened (R208, R322, R415). A row of a gather into a ring that is not defined is one of these faults: DESIGN CHOICE,
log 141. -/
def State.portFault (s : State) (t p code : Nat) (tag : W64) (val aux : Option W64) : State :=
  s.record { code, ukind := (s.portUnit t p).1, unit := (s.portUnit t p).2, ctx := (s.port t p).req.ctx, tag, val, aux }

/-- The opening reply, and the markers that waited for it (R49, R212). -/
def State.openReply (s : State) (t p : Nat) (v : W64) : State :=
  let x := s.port t p
  if x.replied then s
  else
    let e := Engine.stream t p
    let s := match x.req.origin with | .core n => s.markCommand n fun e => e.known.contains (portKey t p) | _ => s
    let s := (s.modPort t p fun x => { x with replied := true, held := [] }).commandDone x.req
    x.held.foldl (fun s r => s.forward e r) (match x.req.origin with
      | .core _ => s
      | .slot _ _ _ => s.reply e x.req .data v)

/-- The port's stream has ended: DONE, with its opening reply (R200, R212). -/
def State.portDone (s : State) (t p : Nat) : State :=
  let x := s.port t p
  (s.modPort t p fun x => { x with state := .done, parkVa := none, rowWait := [] }).openReply t p
    (if x.rows = x.wb.rows then 0 else BitVec.ofNat 64 (2 ^ 63 + x.rows))

/-! ## Dirty ranges (R205, R322) -/

/-- A dirty range goes into the context's log (R322): a record, or the newest one widened. -/
def deposit (c : BitVec 8) (lo hi : Nat) : Act Unit := fun s =>
  let x := s.ctx c.toNat
  let len := max (x.reg 0x10F).toNat 1
  let tail := (x.reg 0x111).toNat % 2 ^ 32
  let used := ((x.reg 0x111) - (x.reg 0x110)).toNat % 2 ^ 32
  let agent : Agent := ⟨pathS, 32768⟩
  let at_ := fun (k : Nat) => (x.reg 0x10E).toNat + 16 * (k % len)
  if used = len then
    let a := at_ ((tail + 2 ^ 32 - 1) % 2 ^ 32)
    (((vread agent c a 16).andThen fun bs =>
      vwrite agent c a (toBytes (min lo (natAt bs 0 8)) 8 ++ toBytes (max hi (natAt bs 8 8)) 8)).andThen fun _ =>
        Act.change fun s => s.modCtx c.toNat fun x => { x with drovf := true }) s
  else
    ((vwrite agent c (at_ tail) (toBytes lo 8 ++ toBytes hi 8)).andThen fun _ =>
      Act.change fun s => s.modCtx c.toNat fun x => x.setReg 0x111 (BitVec.ofNat 64 ((tail + 1) % 2 ^ 32))) s

/-- The deposit of a port: done, dropped on a fault with `DROVF`, or waiting: for an absent page, or for a migration. -/
def State.depositPort (s : State) (t p : Nat) : Except (Option Nat) State :=
  let x := s.port t p
  match x.dirty with
  | none => .ok s
  | some (lo, hi) =>
    let clear := fun (s : State) => s.modPort t p fun x => { x with dirty := none, depositing := false }
    match deposit x.req.ctx lo hi s with
    | .ok (_, s) => .ok (clear s)
    | .error (.absent va) => .error (some va)
    | .error .wait => .error none
    | .error (.fault code val aux) =>
      .ok (((clear s).portFault t p code 0 val aux).modCtx x.req.ctx.toNat fun c => { c with drovf := true })
    | .error (.error _) => .ok ((clear s).modCtx x.req.ctx.toNat fun c => { c with drovf := true })

/-- A port forwards a `RELATCH` to its opening instruction's targets (R203). -/
def State.forwardRelatch (s : State) (t p : Nat) (tok : Token) : State :=
  let r := (s.port t p).req
  match r.origin with
  | .core _ => s
  | .slot _ _ _ =>
    let f := formOf r.instr
    (s.answerTo (Req.source (.stream t p)) r f.tgt0 tok).answerTo (Req.source (.stream t p)) r f.tgt1 tok

/-- No row that the port has issued is still to complete: a row that waits for its page is not yet translated, and so not
issued (R208). -/
def Port.settled (x : Port) : Bool := x.failing.isNone

/-- The `RELATCH`es that a port still had to handle are forwarded, for it has no latches any more (R200, R203). -/
def State.flushRelatch (s : State) (t p : Nat) : State :=
  ((s.port t p).relatch.foldl (fun s tok => s.forwardRelatch t p tok) s).modPort t p fun x => { x with relatch := [] }

/-- Close a port (R200): the deposit, then IDLE without latches, and the `RELATCH`es that it still had to handle are
forwarded (R203); it may wait for a page. -/
def State.closePort (s : State) (t p : Nat) : Except (Option Nat) State :=
  (s.depositPort t p).map fun s =>
    (s.flushRelatch t p).modPort t p fun x =>
      { x with state := .idle, latches := [], noted := [], badIndex := [], rowWait := [], parkVa := none
               wasRunning := false, unlatched := false }

/-- Close a port where no command waits: an absent page of the log is recorded once, and the close is
tried again (R207, R322). -/
def State.closeOrWait (s : State) (t p : Nat) : State × Bool :=
  match s.closePort t p with
  | .ok s => ({ s with parked := s.parked.filter fun q => q.1 != Engine.stream t p }, true)
  | .error none => (s, false)
  | .error (some va) =>
    if (s.port t p).depositing then (s, false)
    else (({ s with parked := s.parked ++ [(Engine.stream t p, va)] }.modPort t p fun x => { x with depositing := true }).portFault
      t p fcPageAbsent 0 (some (BitVec.ofNat 64 va)) none, false)

/-- A stream is cut (R200): rows issue no more, those that wait for a page among them, and it is DONE once those that it had
issued are complete. -/
def State.cutPort (s : State) (t p : Nat) : State :=
  let s := s.modPort t p fun x => { x with cut := true }
  let x := s.port t p
  let s := s.modRing t x.wb.ring fun r => r.dequeueAll fun k => 2 ^ 20 ≤ k && k % 8 == p % 8
  if x.settled then s.portDone t p else s

/-! ## Commands at a port (R197, R212, R213) -/

/-- A refused command (R199): the port stays IDLE. -/
def State.refuseOpen (s : State) (e : Engine) (r : Req) (check : Nat) : State :=
  s.failAt e r fcIllegal none (some (BitVec.ofNat 64 check))

/-- Remove the head of a port's queue; its command stays in the scoreboard. -/
def State.takeHead (s : State) (e : Engine) : State :=
  { s.popQueue e with parked := s.parked.filter fun q => q.1 != e }

/-- An open command at the head of a port's queue: it waits until the port is IDLE (R197, R212). A core has made the checks
other than check 7 itself (R199). -/
def portOpen (e : Engine) (t p : Nat) (r : Req) (s : State) : State :=
  if (s.port t p).state ≠ .idle then s
  else
    let w := waybillOf r.blk
    let opc := opcodeOf r.instr
    let k := match r.origin with | .core _ => 0 | .slot _ _ _ => w.check opc (s.tile t) (openTag r)
    let k := if k = 8 ∧ w.check7 opc then 7 else if k = 0 ∧ w.check7 opc then 7 else k
    if k ≠ 0 then s.refuseOpen e r k
    else (((s.flushRelatch t p).forgetRows t p).takeHead e).modPort t p fun _ =>
      { state := if opc = 0xA0 then .latching else .running, opener := some r
        stack := s.stackOf r.ctx ((w.ibase + openOffset r) % 2 ^ 56) }

/-- The value that `SWAIT` replies (R213). A count of 2^24 does not fit its 24 bits and reads 0 (DESIGN CHOICE, log 152). -/
def Port.waitWord (x : Port) : W64 :=
  BitVec.ofNat 64 (x.rows % 2 ^ 24 + b2n x.errs * 2 ^ 62 + b2n (x.state == .idle) * 2 ^ 63)

/-- `SWAIT` at the head (R213). -/
def portWait (e : Engine) (t p : Nat) (r : Req) (s : State) : State :=
  let x := s.port t p
  let n := match r.origin with | .core _ => r.l.toNat | .slot _ _ _ => (formOf r.instr).imm.toNat
  if x.state = .idle ∨ x.state = .done ∨ (if n = 0 then x.wb.rows else n) ≤ x.rows then
    ((s.showCounted t p).endHead e).reply e r .data x.waitWord
  else s

/-- The bytes of a leaf's page. -/
def Latch.page (l : Latch) : Page :=
  ⟨l.leaf.toNat, if l.size = regionSize 1 then 1 else if l.size = regionSize 2 then 2 else 3, 0⟩
/-- The latch that holds an address. -/
def Port.latchAt (x : Port) (va : Nat) : Option Latch := x.latches.find? fun l => l.va ≤ va && va < l.va + l.size

/-- Latch the window from an address on (R201): every leaf found is kept; with `PF` and `SPEC` an absent
region is passed (R204); otherwise the walk stops at it. A walk of a page that migrates waits (R378, R386). -/
def latchGo (s : State) (c : BitVec 8) (skip : Bool) (hi : Int) : Nat → Nat → List Latch → List Latch × Option Stop
  | 0, _, ls => (ls, none)
  | n + 1, a, ls =>
    if (a : Int) > hi ∨ a ≥ 2 ^ 56 then (ls, none)
    else match ls.find? fun l => l.va ≤ a && a < l.va + l.size with
      | some l => latchGo s c skip hi n (l.va + l.size) ls
      | none => match s.walk c a with
        | .leaf e lvl _ =>
          let size := regionSize lvl
          if bitOf e 7 then (ls, some .wait)
          else latchGo s c skip hi n (a / size * size + size)
            (ls ++ [{ va := a / size * size, size := size, leaf := BitVec.ofNat 64 e }])
        | .absent lvl _ =>
          if skip then latchGo s c skip hi n (a / regionSize lvl * regionSize lvl + regionSize lvl) ls else (ls, some (.absent a))
        | .bad => latchGo s c skip hi n (a / 65536 * 65536 + 65536) ls

/-- The latches of a port's window as they can be taken now, and what stops it. -/
def State.latchWindow (s : State) (t p : Nat) : List Latch × Option Stop :=
  let x := s.port t p
  let (lo, hi) := x.window
  latchGo s x.req.ctx (x.wb.pf || x.wb.spec) hi ((hi - lo).toNat / 65536 + 2) lo.toNat x.latches

/-- A restored DONE port latches its window again before its `SCLOSE` completes (R206). -/
def State.relatchDone (s : State) (e : Engine) (t p : Nat) (r : Req) : State :=
  let (ls, stop) := s.latchWindow t p
  let s := s.modPort t p fun x => { x with latches := ls }
  match stop with
  | some (.absent va) => s.notePark e r va
  | some _ => s
  | none => s.modPort t p fun x => { x with unlatched := false }

/-- `SCLOSE` at the head (R200, R213). -/
def portClose (cut : Bool) (e : Engine) (t p : Nat) (r : Req) (s : State) : State :=
  let x := s.port t p
  let answer := fun (s : State) => ((s.showCounted t p).endHead e).reply e r .data (BitVec.ofNat 64 x.rows)
  match x.state with
  | .idle => answer s
  | .done =>
    if x.unlatched then s.relatchDone e t p r
    else (match s.closePort t p with
      | .ok s => answer s
      | .error (some va) => s.notePark e r va
      | .error none => s)
  | .running => if cut && !x.cut then s.cutPort t p else s
  | _ => if cut then s.cutPort t p else s

/-- A marker, `STOP` or `ERR` at the head: it is forwarded after the opening reply of its slot (R49). -/
def portMarker (e : Engine) (t p : Nat) (r : Req) (s : State) : State :=
  let x := s.port t p
  if r.kind ≠ .err ∧ x.state ≠ .idle ∧ !x.replied ∧ x.req.origin = r.origin then
    (s.takeHead e).modPort t p fun x => { x with held := x.held ++ [r] }
  else (s.endHead e).forward e r

/-- A port takes the head of its queue. -/
def portCommand (go : Engine → Nat → Nat → Req → State → State) (e : Engine) (r : Req) (s : State) : State :=
  match e with
  | .stream t p => if r.kind ≠ .data then portMarker e t p r s else go e t p r s
  | _ => s

/-! ## Latching and rows (R201 to R204) -/

/-- A port parks on an absent page, which is recorded (R200). -/
def State.parkPort (s : State) (t p va : Nat) (running : Bool) : State :=
  (s.modPort t p fun x => { x with state := .parked, parkVa := some va, wasRunning := running || x.wasRunning }).portFault
    t p fcPageAbsent (openTag (s.port t p).req) (some (BitVec.ofNat 64 va)) none

/-- A window of more than 64 pages (R201): the latches are dropped, the port is IDLE again, and the refused command, with
the markers behind it, is answered from the head of the queue. -/
def State.refuseWindow (s : State) (t p : Nat) : State :=
  let x := s.port t p
  let e := Engine.stream t p
  let s := (s.modPort t p fun x => { x with state := .idle, latches := [], replied := true, held := [] }).flushRelatch t p
  let s := s.faultAt e x.req fcIllegal none (some 7)
  s.setQueue e ({ x.req with kind := .err, l := BitVec.ofNat 64 fcIllegal } :: x.held ++ s.queue e)

/-- `STREAM_LATCH_DONE` (R201): the port latches its window, counts its pages, and runs or parks. -/
def execStreamLatchDone (tile port : Nat) (s : State) : Answer :=
  .next (
    let x := s.port tile port
    if x.state ≠ .latching then s
    else
      let (ls, stop) := s.latchWindow tile port
      if (ls.filter fun l => !l.failed).length > 64 then s.refuseWindow tile port
      else
        let s := s.modPort tile port fun x => { x with latches := ls }
        match stop with
        | some (.absent va) => s.parkPort tile port va false
        | some _ => s
        | none => s.modPort tile port fun x => { x with state := .running, wasRunning := true })

/-- The page that a stream's row uses at an address: its latch, or what a walk finds (R201, R204). A write waits while
the page migrates (R386). -/
def State.rowPage (s : State) (t p va : Nat) (out : Bool) : Except Stop Page :=
  let x := s.port t p
  match (if opcodeOf x.req.instr = 0xA0 then x.latchAt va else none) with
  | some l => if l.failed then .error (.error fcPageAbsent) else s.checkLeaf x.req.ctx l.page va (!out) out
  | none => match translate s x.req.ctx va (!out) out with
    | .ok p => if out && bitOf p.e 7 then .error .wait else .ok p
    | .error e => .error e

/-- The pages of a row: those of its first and of its last byte. -/
def State.rowPages (s : State) (t p va n : Nat) (out : Bool) : Except Stop (Page × Page) :=
  match s.rowPage t p va out, s.rowPage t p (va + n - 1) out with
  | .ok a, .ok b => .ok (a, b)
  | .error e, _ => .error e
  | _, .error e => .error e

/-- The part of a row below the end of its first page. -/
def firstPart (p : Page) (va n : Nat) : Nat := min n (regionSize p.lvl - va % regionSize p.lvl)

/-- Read a row of memory through its pages. -/
def readRow (a : Agent) (c : BitVec 8) (ps : Page × Page) (va n : Nat) (s : State) : List Byte × State :=
  let k := firstPart ps.1 va n
  let (x, s) := pageRead a c ps.1 va k s
  let (y, s) := pageRead a c ps.2 (va + k) (n - k) s
  (x ++ y, s)
/-- Write a row of memory through its pages. -/
def writeRow (a : Agent) (c : BitVec 8) (ps : Page × Page) (va : Nat) (bs : List Byte) (s : State) : State :=
  let k := firstPart ps.1 va bs.length
  pageWrites a c ps.2 (va + k) (bs.drop k) (pageWrites a c ps.1 va (bs.take k) s)

/-- A row ends: its token or its `ERR`, the counts, and after the last row the stream (R202, R204).
`code` is none for a row that is complete, 0 for a dropped row without a token; a row that ends so waits for no panel any
more (R218). -/
def State.rowEnds (s : State) (t p i addr : Nat) (code : Option Nat) : State :=
  let x := s.port t p
  let w := x.wb
  let e := Engine.stream t p
  let tok : Token := { kind := if code.isSome then .err else .data
                       value := match code with | some k => BitVec.ofNat 64 k | none => panelValue addr i
                       tag := x.rowTag i, round := x.req.round, ctx := x.req.ctx }
  let s := if w.rtok && code != some 0 && targetValid w.tgt then s.tokenFrom e t w.tgt tok else s
  let s := if w.toRing && code.isSome then s.modRing t w.ring fun r => r.dequeue (waitPort p i) else s
  let s := (s.countRow t p).modPort t p fun x =>
    { x with rows := x.rows + 1, errs := x.errs || (code.isSome && code != some 0)
             doneRows := mapSet false x.doneRows i true, rowWait := mapDel i x.rowWait
             failing := if x.failing.map (·.1) = some i then none else x.failing }
  let y := s.port t p
  if y.rows = w.rows ∨ (y.cut ∧ y.settled) then s.portDone t p else s

/-- A row ends with a fault (R204, R208): it is recorded, and the row completes once the record has been appended
(R324). -/
def State.rowFails (s : State) (t p i code : Nat) (tag : W64) (val aux : Option W64) : State :=
  (s.portFault t p code tag val aux).modPort t p fun x => { x with failing := some (i, code) }

/-- A row into the tile lands (R202): in the scratchpad, or in the tail panel of its ring, where the slot that the row was
given while it waited must still be FILLING (R217). The row is on the port's path (R197). -/
def State.landRow (s : State) (t p i : Nat) (get : State → List Byte × State) : State :=
  let x := s.port t p
  let w := x.wb
  let put := fun (a : Nat) (bs : List Byte) (s : State) =>
    let s := spWrite x.path t a bs s
    if w.fe then s.fillBytes t a w.rlen else s
  if w.toRing then
    let s := s.portServed t
    let r := s.ring t w.ring
    let key := waitPort p i
    if s.recordWaits (.ringPort t) x.req.ctx then s
    else if !r.defined then s.rowFails t p i fcIllegal (x.rowTag i) none none
    else if !r.mayReserve key then s.modRing t w.ring fun r => r.enqueue key
    else
      let k := (r.takeSlot key).1
      let a := r.addr k
      let q := (r.takeSlot key).2
      if q.slot k ≠ .filling then (s.modRing t w.ring fun _ => q).rowFails t p i fcIllegal (x.rowTag i) none none
      else
      let (bs, s) := get s
      let s := put a bs (s.modRing t w.ring fun _ => q)
      ((s.publish t w.ring k).settle t).rowEnds t p i a none
  else
    let (bs, s) := get s
    ((put (x.rowSp i) bs s).settle t).rowEnds t p i (x.rowSp i) none

/-- A row's bytes of main memory can be accessed now (R388, R395), and a read meets no line that is uncorrectable (R410). -/
def State.rowServed (s : State) (a : Agent) (ps : Page × Page) (va n : Nat) (out : Bool) : Except Stop Unit :=
  let k := firstPart ps.1 va n
  let pageOf := fun (i : Nat) => if i < k then ps.1 else ps.2
  if !(List.range (n / 16)).all fun i =>
      (pageOf (16 * i)).tgt != 0 || s.reaches a ((pageOf (16 * i)).pa (va + 16 * i)) then .error .wait
  else if !out && (s.pageBad ps.1 va k || s.pageBad ps.2 (va + k) (n - k)) then
    .error (.fault fcMem (some (BitVec.ofNat 64 va)) none)
  else .ok ()

/-- The pages of a row, once it can be served. -/
def State.rowGo (s : State) (t p va : Nat) : Except Stop (Page × Page) :=
  let x := s.port t p
  match s.rowPages t p va x.wb.rlen x.wb.out with
  | .error e => .error e
  | .ok ps => match s.rowServed ⟨x.path, t⟩ ps va x.wb.rlen x.wb.out with
    | .error e => .error e
    | .ok () => .ok ps

/-- A row of a port runs (R202 to R204, R208): `va` is its address in memory, and `absent` says what
waits for an absent page. -/
def State.runRow (s : State) (t p i va : Nat) (absent : Nat → State → State) : State :=
  let x := s.port t p
  let w := x.wb
  let ends := fun (code : Nat) (s : State) => s.rowEnds t p i 0 (some code)
  if w.out ∧ w.fe ∧ !s.granules t (x.rowSp i / 16) (w.rlen / 16) true then s
  else match s.rowGo t p va with
    | .error (.absent a) =>
      if w.pf then ends 0 (s.countDrop x.req.ctx)
      else if w.spec then ends fcPageAbsent (s.countDrop x.req.ctx)
      else absent a s
    | .error (.fault code val aux) => s.rowFails t p i code (x.rowTag i) val aux
    | .error (.error code) => ends code s
    | .error .wait => s
    | .ok ps =>
      if Config.spoiled s.tick then s.rowFails t p i fcMem (x.rowTag i) (some (BitVec.ofNat 64 va)) none
      else if w.out then
        let s := if w.fe then s.seeRange 0x1FF x.path t (x.rowSp i) w.rlen s.tick else s
        let (bs, s) := spRead x.path t (x.rowSp i) w.rlen s
        let s := writeRow ⟨x.path, t⟩ x.req.ctx ps va bs s
        let s := if w.fe then (s.setFull t (x.rowSp i / 16) (w.rlen / 16) false).settle t else s
        let s := s.modPort t p fun x => { x with dirty := match x.dirty with
          | some (lo, hi) => some (min lo va, max hi (va + w.rlen - 1))
          | none => some (va, va + w.rlen - 1) }
        s.rowEnds t p i (x.rowSp i) none
      else s.landRow t p i fun s => readRow ⟨x.path, t⟩ x.req.ctx ps va w.rlen s

/-- A row touches a page that waits to be latched anew (R203). -/
def Port.relatching (x : Port) (va : Nat) : Bool :=
  x.relatch.any fun tok =>
    let lo := bitsOf tok.value.toNat 16 40 * 65536
    let size := regionSize (3 - bitsOf tok.value.toNat 61 2)
    lo < va + x.wb.rlen && va < lo + size

/-- A row touches the page that the port is parked on (R200, R203). -/
def State.rowParked (s : State) (t p va : Nat) : Bool :=
  let x := s.port t p
  match x.parkVa with
  | none => false
  | some a =>
    let (lo, size) := s.pageRange x.req.ctx a
    lo < va + x.wb.rlen && va < lo + size

/-- A hard save of a context is under way: its ports issue no row (R206). -/
def State.saving (s : State) (c : BitVec 8) : Bool := (s.ctx c.toNat).saving.isSome

/-- A row whose record waits completes once it has been appended (R324); the port waits with it. -/
def State.rowRetry (s : State) (t p : Nat) (go : State) : State :=
  match (s.port t p).failing with
  | some (i, code) => if s.unitWaits (s.portUnit t p) (s.port t p).req.ctx then s else s.rowEnds t p i 0 (some code)
  | none => go

/-- `STREAM_ROW_COMPLETE` (R202): the next row of a `STRM` completes, in row order. -/
def execStreamRowComplete (tile port row : Nat) (s : State) : Answer :=
  .next (s.rowRetry tile port <|
    let x := s.port tile port
    let va := x.rowAddr row
    if opcodeOf x.req.instr ≠ 0xA0 ∨ row ≠ x.rows ∨ x.cut ∨ s.saving x.req.ctx then s
    else if !(x.state == .running || (x.state == .parked && x.wasRunning)) then s
    else if x.relatching va || s.rowParked tile port va then s
    else s.runRow tile port row va fun a s => s.parkPort tile port a true)

/-- A gather or scatter row waits for an absent page (R208). -/
def State.rowWaits (s : State) (t p i va : Nat) : State :=
  s.modPort t p fun x => { x with rowWait := mapSet 0 x.rowWait i (va + 1) }

/-- The index of a gather row is read on path G (R208). -/
def State.readIndex (s : State) (t p j : Nat) : Except Stop (Nat × State) :=
  let x := s.port t p
  let n := x.wb.iwBytes
  match vnat ⟨pathG, t⟩ x.req.ctx (x.wb.ibase + j * n) n s with
  | .ok (v, s) => .ok (v, s)
  | .error e => .error e

/-- A fault of a page of the index array is recorded once (R208). -/
def State.noteIndex (s : State) (t p code : Nat) (val aux : Option W64) : State :=
  let x := s.port t p
  let base := (s.pageRange x.req.ctx (val.getD 0).toNat).1
  if (x.noted ++ x.badIndex).contains base then s
  else (s.modPort t p fun x =>
    if code = fcPageAbsent then { x with noted := x.noted ++ [base] } else { x with badIndex := x.badIndex ++ [base] }).portFault
      t p code (openTag x.req) val aux

/-- A row whose index lies on a page with a fault completes with its code (R208). -/
def State.indexFails (s : State) (t p row code : Nat) (val aux : Option W64) : State :=
  (s.noteIndex t p code val aux).modPort t p fun x => { x with failing := some (row, code) }

/-- The port issues a row of a gather or scatter: one that has not completed and does not wait for a page, until it
is cut (R200). -/
def Port.issues (x : Port) (row : Nat) : Bool :=
  x.state == .running && opcodeOf x.req.instr != 0xA0 && row < x.wb.rows && !mapGet false x.doneRows row
    && mapGet 0 x.rowWait row == 0 && !x.cut

/-- `GATHER_ROW_COMPLETE` (R208): a row of a gather or scatter completes, or waits for its page. -/
def execGatherRowComplete (tile port row : Nat) (s : State) : Answer :=
  .next (s.rowRetry tile port <|
    let x := s.port tile port
    let w := x.wb
    if !x.issues row ∨ s.saving x.req.ctx then s
    else match s.readIndex tile port row with
      | .error (.absent va) =>
        if w.pf then (s.countDrop x.req.ctx).rowEnds tile port row 0 (some 0)
        else if w.spec then (s.countDrop x.req.ctx).rowEnds tile port row 0 (some fcPageAbsent)
        else (s.noteIndex tile port fcPageAbsent (some (BitVec.ofNat 64 va)) none).rowWaits tile port row va
      | .error (.fault code val aux) => s.indexFails tile port row code val aux
      | .error (.error code) => s.rowEnds tile port row 0 (some code)
      | .error .wait => s
      | .ok (idx, s) =>
        let off : Int := idx * w.stride
        let va := wrapInt 64 ((x.base : Int) + off)
        if off < 0 ∨ off + w.rlen > w.wlen then
          s.rowFails tile port row fcPageProt (x.rowTag row) (some (BitVec.ofNat 64 va)) (some 3)
        else s.runRow tile port row va fun a s =>
          (s.portFault tile port fcPageAbsent (x.rowTag row) (some (BitVec.ofNat 64 va)) (some (BitVec.ofNat 64 row))).rowWaits tile port row a)

/-! ## Re-latching and mapped pages (R200, R203, R325, R379) -/

/-- `PORT_RELATCH` (R203): the port drops its latch of the page, translates it anew, and forwards. While
the page migrates it waits for the new entry (R386), but for a port whose stream has ended (R200, R379). -/
def execPortRelatch (tile port : Nat) (s : State) : Answer :=
  .next (
    let x := s.port tile port
    match x.relatch with
    | [] => s
    | tok :: rest =>
      let base := bitsOf tok.value.toNat 16 40 * 65536
      let size := regionSize (3 - bitsOf tok.value.toNat 61 2)
      let live := x.state == .latching || x.state == .parked || x.state == .running
      let migrating := match s.walk x.req.ctx base with | .leaf e _ _ => bitOf e 7 | _ => false
      if live && migrating then s
      else
        let s := s.modPort tile port fun x => { x with relatch := rest, latches := x.latches.filter fun l =>
          !(l.va < base + size && base < l.va + l.size) }
        let s := if x.state = .running ∨ x.state = .parked then
            let (ls, stop) := s.latchWindow tile port
            let s := s.modPort tile port fun x => { x with latches := ls }
            match stop with
            | some (.absent va) => if x.state = .parked then s else s.parkPort tile port va true
            | _ => s
          else s
        s.forwardRelatch tile port tok)

/-- A mapped page lets a parked port and parked rows go on (R200, R208). -/
def Port.mapped (x : Port) (c : BitVec 8) (lo size : Nat) : Port :=
  if x.req.ctx ≠ c then x
  else
    let hit := fun (va : Nat) => lo ≤ va && va < lo + size
    let x : Port := { x with
      rowWait := x.rowWait.filter fun kv => !hit (kv.2 - 1)
      noted := x.noted.filter fun a => !hit a
      badIndex := x.badIndex.filter fun a => !hit a }
    if x.state = .parked ∧ (x.parkVa.map hit).getD false then { x with state := .latching, parkVa := none } else x

/-- Change every port of every tile. -/
def State.mapPorts (s : State) (f : Port → Port) : State :=
  { s with tiles := s.tiles.filterMap fun kv =>
      let y : Tile := { kv.2 with ports := kv.2.ports.filterMap fun q => let z := f q.2; if z = {} then none else some (q.1, z) }
      if y = {} then none else some (kv.1, y) }

/-- The index of a row lies on a range whose absence has been recorded: the row is parked on it (R208). -/
def Port.indexOn (x : Port) (lo size row : Nat) : Bool :=
  x.noted.contains lo && !mapGet false x.doneRows row && lo ≤ x.wb.ibase + row * x.wb.iwBytes
    && x.wb.ibase + row * x.wb.iwBytes < lo + size

/-- The rows of a port that wait for a page end with `ERR` and a code (R208): those that met it, and on an index page
every row whose index lies there. -/
def State.failRows (s : State) (t p lo size code : Nat) : State :=
  let x := s.port t p
  let rows := (List.range x.wb.rows).filter fun i =>
    let w := mapGet 0 x.rowWait i
    x.failing.map (·.1) != some i && ((w != 0 && lo ≤ w - 1 && w - 1 < lo + size) || (!x.cut && x.indexOn lo size i))
  let s := s.modPort t p fun x => { x with noted := x.noted.filter fun a => a != lo }
  rows.foldl (fun s i => s.rowEnds t p i 0 (some code)) s

/-- A page on which a port is parked has failed (R200): it counts as a latch whose rows end with `ERR`. -/
def State.failPort (s : State) (t p lo size : Nat) : State :=
  let x := s.port t p
  let s := s.failRows t p lo size fcPageAbsent
  match x.state, x.parkVa with
  | .parked, some va =>
    if lo ≤ va ∧ va < lo + size then
      s.modPort t p fun x => { x with
        latches := x.latches ++ [{ va := lo, size := size, leaf := 0, failed := true }]
        parkVa := none
        state := if x.wasRunning then .running else .latching }
    else s
  | _, _ => s

/-! ## The instructions (R212 to R213) -/

/-- Data memory bytes, the address taken mod 2^16 (R169). -/
def dmemRead (c : Core) (a n : Nat) : List Byte := (List.range n).map fun i => mapGet 0 c.dmem ((a + i) % 2 ^ 16)

/-- A core opens a stream (R212): it makes checks 1 to 6 and 8 itself (R199). -/
def coreOpen (i : Instr) (n : Nat) (s : State) : State :=
  let f := formOf i
  let c := s.core n
  let blk := dmemRead c ((c.reg (Form.xa f)).toNat % 2 ^ 16) 64
  match s.commandTile n (f.imm.toNat % 1024) with
  | none => s.coreFault n fcIllegal
  | some t =>
    let k := (waybillOf blk).check (opcodeOf i) (s.tile t) (c.reg (Form.xc f))
    if k ≠ 0 then s.coreFault n fcIllegal (some (BitVec.ofNat 64 k))
    else s.command n (engineKey (.stream t (f.mod.toNat % 8)))
      (s.commandReq n i (c.reg (Form.xa f)) (c.reg (Form.xb f)) (c.reg (Form.xc f)) blk)

/-- `STRM` (R212). -/
def execStrm (f : Form) (s : State) : Answer :=
  onAll s (fun fr s => fr.sendRequest (.strm f) s) (coreOpen (.strm f)) (portCommand portOpen)
/-- `GTHR` (R208, R212). -/
def execGthr (f : Form) (s : State) : Answer :=
  onAll s (fun fr s => fr.sendRequest (.gthr f) s) (coreOpen (.gthr f)) (portCommand portOpen)
/-- `SCAT` (R208, R212). -/
def execScat (f : Form) (s : State) : Answer :=
  onAll s (fun fr s => fr.sendRequest (.scat f) s) (coreOpen (.scat f)) (portCommand portOpen)

/-- A core's command to a port that needs no waybill. -/
def corePort (i : Instr) (n : Nat) (s : State) : State :=
  let f := formOf i
  match s.commandTile n (f.imm.toNat % 1024) with
  | none => s.coreFault n fcIllegal
  | some t => s.command n (engineKey (.stream t (f.mod.toNat % 8))) (s.commandReq n i 0 0 0 [])

/-- `SCLOSE` (R213). -/
def execSclose (f : Form) (s : State) : Answer :=
  onAll s (fun fr s => fr.sendRequest (.sclose f) s) (corePort (.sclose f)) (portCommand (portClose false))
/-- `SCLOSE.CUT` (R200). -/
def execScloseCut (f : Form) (s : State) : Answer :=
  onAll s (fun fr s => fr.sendRequest (.scloseCut f) s) (corePort (.scloseCut f)) (portCommand (portClose true))

/-- `SWAIT` on a core (R213): the count is in `xa`. -/
def coreSwait (f : Form) (n : Nat) (s : State) : State :=
  match s.commandTile n (f.imm.toNat % 1024) with
  | none => s.coreFault n fcIllegal
  | some t => s.query n f (engineKey (.stream t (f.mod.toNat % 8)))
      (s.commandReq n (.swait f) ((s.core n).reg (Form.xa f)) 0 0 [])

/-- `SWAIT` (R213). -/
def execSwait (f : Form) (s : State) : Answer :=
  onAll s (fun fr s => fr.sendRequest (.swait f) s) (coreSwait f) (portCommand portWait)

/-! ## Circuits (R209, R210) -/

/-- The circuit of a `CIRC` or `CIRCX` word. -/
def circuitNo (i : Instr) : Nat := (formOf i).imm.toNat % 8
/-- A circuit's destination role (R209). -/
def Circuit.drole (c : Circuit) : Nat := bitsOf c.route 22 10
/-- A tile's destination on a circuit. -/
def State.circuitEnd (s : State) (t : Nat) (c : Circuit) : Nat := (s.group (s.groupOf t)).entry c.drole % 2 ^ 14

/-- The unit of a slot's record. -/
def Req.slotUnit (s : State) (r : Req) : Nat × Nat := match r.origin with | .slot t e k => (0, unitSlot s t e k) | .core _ => (0, 0)

/-- A transfer's firing is refused (R210): recorded at the slot with the firing's tag (R224). The transfer stays at the head
of its circuit until the record has been appended, to reply `ERR` then (R324). -/
def State.circuitFail (s : State) (t : Nat) (r : Req) : State :=
  (s.record { code := fcIllegal, ukind := 0, unit := (r.slotUnit s).2, ctx := r.ctx, tag := r.wave }).modCircuit t
    (circuitNo r.instr) fun c => { c with queue := { r with kind := .err, l := BitVec.ofNat 64 fcIllegal } :: c.queue }

/-- The panel target of a `CIRCX` (R210). -/
def circxTarget (f : Form) : BitVec 22 := BitVec.ofNat 22 (bitsOf f.imm.toNat 6 22)

/-- A transfer breaks the conditions of R210. -/
def State.circuitBad (s : State) (t : Nat) (r : Req) : Bool :=
  let c := (s.tile t).circuit (circuitNo r.instr)
  let f := formOf r.instr
  if opcodeOf r.instr = 0xA6 then
    let n := bitsOf f.imm.toNat 3 14
    !c.bound || r.l.toNat % 2 ^ 16 + 16 * n > 65536 || r.r.toNat % 2 ^ 16 + 16 * n > 65536
  else
    !c.bound || targetRole (circxTarget f) != c.drole || !(s.ring (s.circuitEnd t c) (bitsOf f.imm.toNat 3 3)).defined

/-- A request joins its circuit's transfers (R210). -/
def circuitTurn (e : Engine) (r : Req) (s : State) : State :=
  match e with
  | .circuit t =>
    if r.kind = .err then (s.endHead e).forward e r
    else (s.endHead e).modCircuit t (circuitNo r.instr) fun c => { c with queue := c.queue ++ [r] }
  | _ => s

/-- `CIRC` (R210). -/
def execCirc (f : Form) (s : State) : Answer :=
  onRequest s (fun fr s => fr.sendRequest (.circ f) s) circuitTurn
/-- `CIRCX` (R210). -/
def execCircx (f : Form) (s : State) : Answer :=
  onRequest s (fun fr s => fr.sendRequest (.circx f) s) circuitTurn

/-- The granules of a transfer, and its first destination address. -/
def State.circuitSize (s : State) (t : Nat) (r : Req) : Nat × Nat :=
  let c := (s.tile t).circuit (circuitNo r.instr)
  let f := formOf r.instr
  if opcodeOf r.instr = 0xA6 then (bitsOf f.imm.toNat 3 14, r.r.toNat % 2 ^ 16)
  else
    let ring := s.ring (s.circuitEnd t c) (bitsOf f.imm.toNat 3 3)
    (ring.pb / 16, ring.addr (c.slot.getD 0))

/-- The head transfer ends: its reply, and the next one starts. -/
def State.circuitEnds (s : State) (t : Nat) (r : Req) : State :=
  s.modCircuit t (circuitNo r.instr) fun c => { c with queue := c.queue.tail, sent := 0, landed := 0, slot := none, held := none, flight := [] }

/-- The ring port at the end of a `CIRCX` that has yet to reserve its panel has served what reached it before (R218). -/
def State.circuitServed (s : State) (t k : Nat) (r : Req) : State :=
  let c := (s.tile t).circuit k
  if opcodeOf r.instr = 0xA7 ∧ c.bound ∧ c.slot.isNone then s.portServed (s.circuitEnd t c) else s

/-- A `CIRCX` needs its panel slot first (R210), once the ring port has no record to append (R324). -/
def State.circuitReserve (s : State) (t k : Nat) (r : Req) : State :=
  let c := (s.tile t).circuit k
  let d := s.circuitEnd t c
  let n := bitsOf (formOf r.instr).imm.toNat 3 3
  if s.recordWaits (.ringPort d) r.ctx then s
  else
  let ring := s.ring d n
  if ring.mayReserve (waitCircuit t k) then
    (s.modRing d n fun x => (x.takeSlot (waitCircuit t k)).2).modCircuit t k fun c =>
      { c with slot := some (ring.takeSlot (waitCircuit t k)).1 }
  else s.modRing d n fun x => x.enqueue (waitCircuit t k)

/-- A granule of a transfer goes on its way, which takes a credit (R210). -/
def State.circuitGo (s : State) (t k : Nat) (dst v : Nat) : State :=
  s.modCircuit t k fun c => { c with sent := c.sent + 1, held := none, flight := c.flight ++ [(dst + 16 * c.sent, v)] }

/-- The source sends the next granule (R210): with `FE` it waits until the granule is full, takes it and empties it; then it
waits for a credit. At an address that is no multiple of 16 the granule waited for and emptied is that of the first byte
(DESIGN CHOICE, log 151). -/
def State.circuitSend (s : State) (t k : Nat) (r : Req) : State :=
  let c := (s.tile t).circuit k
  let (n, dst) := s.circuitSize t r
  let src := (r.l.toNat + 16 * c.sent) % 2 ^ 16
  let fe := (formOf r.instr).mod.getLsbD 0
  let credit := c.flight.length < 8
  match c.held with
  | some v => if credit then s.circuitGo t k dst v else s
  | none =>
    if c.sent ≥ n ∨ (if fe then !s.isFull t (src / 16) else !credit) then s
    else
      let s := if fe then s.seeRange 0x1FF pathS t (src / 16 * 16) 16 s.tick else s
      let (bs, s) := spRead pathS t src 16 s
      let s := if fe then (s.setFull t (src / 16) 1 false).settle t else s
      if credit then s.circuitGo t k dst (ofBytes bs)
      else s.modCircuit t k fun c => { c with held := some (ofBytes bs) }

/-- A granule lands (R210): with `PUT` once the granule of its first byte is empty. It sets full every granule it writes
(DESIGN CHOICE, log 151), that of a `CIRCX` too (DESIGN CHOICE, log 150). After the last one the transfer ends; the panel token of a `CIRCX`
carries the request's output tag, as its reply does (R24: DEDUCED, log 155). -/
def State.circuitLand (s : State) (t k : Nat) (r : Req) : State :=
  let c := (s.tile t).circuit k
  let d := s.circuitEnd t c
  let f := formOf r.instr
  let (n, _) := s.circuitSize t r
  match c.flight with
  | [] => s
  | (dst, v) :: rest =>
    if opcodeOf r.instr = 0xA6 ∧ f.mod.getLsbD 1 ∧ s.isFull d (dst % 2 ^ 16 / 16) then s
    else
      let s := (((spWrite pathS d dst (toBytes v 16) s).fillBytes d (dst % 2 ^ 16) 16).settle d).modCircuit t k fun c =>
        { c with landed := c.landed + 1, flight := rest }
      if c.landed + 1 < n then s
      else if opcodeOf r.instr = 0xA6 then (s.circuitEnds t r).reply (.circuit t) r .data (BitVec.ofNat 64 n)
      else
        let rn := bitsOf f.imm.toNat 3 3
        let slot := c.slot.getD 0
        let tok : Token := { kind := .data, value := panelValue ((s.ring d rn).addr slot) 0, tag := r.tag, round := r.round, ctx := r.ctx }
        if (s.ring d rn).slot slot ≠ .filling then (s.circuitEnds t r).circuitFail t r
        else
          let s := (s.publish d rn slot).circuitEnds t r
          (if targetValid (circxTarget f) then s.tokenFrom (.circuit t) t (circxTarget f) tok else s).reply (.circuit t) r .data
            (BitVec.ofNat 64 slot)

/-- `CIRCUIT_GRANULE` (R210): the head transfer of a circuit starts, sends a granule or lands one; which
of the two is left open. -/
def execCircuitGranule (tile circuit : Nat) (s : State) : Answer :=
  .next (
    let c := (s.tile tile).circuit circuit
    match c.queue with
    | [] => s
    | r :: _ =>
      let s := s.circuitServed tile circuit r
      if r.kind = .err ∧ s.unitWaits (r.slotUnit s) r.ctx then s
      else if r.kind ≠ .data then (s.circuitEnds tile r).forward (.circuit tile) r
      else if c.sent = 0 ∧ c.slot.isNone ∧ s.circuitBad tile r then (s.circuitEnds tile r).circuitFail tile r
      else if opcodeOf r.instr = 0xA7 ∧ c.slot.isNone then s.circuitReserve tile circuit r
      else if Config.circuitSends s.tick then s.circuitSend tile circuit r
      else s.circuitLand tile circuit r)

end Sys2Proof.Machine
end

