-- ==== Sys2Proof/Machine/Barrier.lean ====
section
/-! DEFINITION. The barrier (R360 to R368): the table, arrival and release, and the barrier instructions. -/

namespace Sys2Proof.Machine

open Sys2Proof

/-! ## The table (R360, R361) -/

/-- A barrier by handle. -/
def State.barrier (s : State) (h : Nat) : Barrier := mapGet {} s.barriers h
/-- Replace a barrier. -/
def State.setBarrier (s : State) (h : Nat) (b : Barrier) : State := { s with barriers := mapSet {} s.barriers h b }

/-- `BSTATE` (R360): 0 FREE, 1 IDLE, 2 WAITING. -/
def Barrier.bstate (b : Barrier) : Nat := if b.n = 0 then 0 else if b.records.isEmpty then 1 else 2

/-- An entry as `BARINIT.QUERY` reports it (R360). -/
def Barrier.word (b : Barrier) : W64 :=
  BitVec.ofNat 64 (b.bstate + b.held * 2 ^ 15 + b.cnt * 2 ^ 26 + b.n * 2 ^ 37 + b.cur.toNat * 2 ^ 48
    + b.ctx.toNat * 2 ^ 56)

/-- The waiting list of a die holds 4,096 records (R360). -/
def State.listFull (s : State) (die : Nat) : Bool :=
  4096 ≤ (s.barriers.map fun kv => if kv.1 / 256 = die then kv.2.records.length else 0).sum

/-- A killed context loses its entries and records (R361). -/
def State.dropBarriers (s : State) (c : BitVec 8) : State :=
  { s with
    barriers := s.barriers.filter fun kv => kv.2.ctx != c || kv.2.n == 0
    arrivals := s.arrivals.filter fun a => a.ctx != c }

/-! ## Arrival and release (R362 to R365) -/

/-- The unit of an arrival: its tile or its core. -/
def Arrival.unit (a : Arrival) : Nat := match a.core with | some n => 16384 + n | none => a.tile

/-- What was performed before the arrivals of a round goes with its releases, which this step sends (R365): who consumes one
sees it. -/
def State.showArrivals (s : State) (now : List Arrival) : State :=
  now.foldl (fun s b => s.showKnown (arrivalKey b.step) (arrivalKey s.tick)) s

/-- The core of an arrival still waits in the `BARARR` that made it (R362). -/
def State.arrivalWaits (s : State) (a : Arrival) : Bool :=
  match a.core with | some n => (s.core n).wait == .sent a.step | none => true

/-- The arrival at a place fails (R363): a core enters its handler; of a slot's the fault is recorded, and it waits for the
append (R324). -/
def State.failArrival (s : State) (pick : Nat) (a : Arrival) (code : Nat) : State :=
  match a.core with
  | some n =>
    let s := { s with arrivals := dropNth s.arrivals pick }
    if s.arrivalWaits a then s.enterHandler n code none none else s
  | none =>
    { s with arrivals := setNth s.arrivals pick { a with failed := some code } }.record
      { code, ukind := 3, unit := unitDie (a.handle / 256) 64, ctx := a.ctx, tag := a.tag }

/-- A slot's failed arrival ends: its reply is `ERR` (R363). -/
def State.failedReply (s : State) (a : Arrival) (code : Nat) : State :=
  if targetValid a.target then
    s.tokenFrom (.memory (a.handle / 256)) a.tile a.target
      { kind := .err, value := BitVec.ofNat 64 code, tag := a.tag, round := a.round, ctx := a.ctx }
  else s

/-- One release (R362): a token to the record's target through its group's manifest, or one that travels to a core
(R364). -/
def State.releaseOne (s : State) (a : Arrival) (round : BitVec 8) : State :=
  match a.core with
  | some n =>
    if s.arrivalWaits a then s.modCore n fun c => { c with wait := .released (round.setWidth 64) (a.handle / 256) s.tick } else s
  | none =>
    if !targetValid a.target then s
    else
      let tok : Token := { kind := .data, value := round.setWidth 64, tag := a.tag, round := a.round, ctx := a.ctx }
      match (s.group a.group).resolve a.target with
      | some d => s.send (Req.source (.memory (a.handle / 256))) d .vn1 tok
      | none => s.record { code := fcIllegal, ukind := 0, unit := unitSlot s a.tile a.elem a.slot, ctx := a.ctx
                           tag := a.tag, aux := some (a.target.setWidth 64) }

/-- Release the rounds that are complete, one after another (R362). -/
def releaseRounds (h : Nat) : Nat → State → State
  | 0, s => s
  | n + 1, s =>
    let b := s.barrier h
    if b.n = 0 ∨ b.cnt ≠ b.n then s
    else
      let now := b.records.filter fun a => a.at_ == b.cur
      let rest := b.records.filter fun a => a.at_ != b.cur
      let cnt := (rest.filter fun a => a.at_ == b.cur + 1).length
      let s := now.foldl (fun s a => s.releaseOne a b.cur) (s.showArrivals now)
      releaseRounds h n (s.setBarrier h { b with cur := b.cur + 1, cnt := cnt, held := b.held - cnt, records := rest })

/-- What an arrival does at its entry: the code of its failure (R363), or the entry with its record (R362). -/
def Barrier.arrive (b : Barrier) (a : Arrival) : Except Nat Barrier :=
  if b.n = 0 then .error fcIllegal
  else if a.ctx ≠ b.ctx then .error fcPriv
  else if a.at_ = b.cur then
    (if b.cnt ≥ 1024 then .error fcIllegal else .ok { b with cnt := b.cnt + 1, records := b.records ++ [a] })
  else if roundLater a.at_ b.cur then
    (if b.held ≥ 1024 then .error fcIllegal else .ok { b with held := b.held + 1, records := b.records ++ [a] })
  else .error fcIllegal

/-- A context's entries do not change while it is SAVED or FAULTED (R366). -/
def State.barriersHeld (s : State) (c : BitVec 8) : Bool :=
  (s.ctx c.toNat).state == .saved || (s.ctx c.toNat).state == .faulted

/-- A record's group is UNPLACED: its release waits until the group is placed again (R364). -/
def State.releaseHeld (s : State) (b : Barrier) : Bool :=
  b.cnt == b.n && b.records.any fun r => r.core.isNone && (s.group r.group).state == .unplaced

/-- The place of the first arrival of the same slot or core. -/
def firstArrival (l : List Arrival) (a : Arrival) : Nat :=
  l.findIdx fun b => b.core == a.core && b.tile == a.tile && b.elem == a.elem && b.slot == a.slot

/-- A failing arrival waits: its context is SAVED, and so are its slot and core, or its record waits for the fault queue
(R324, R366). -/
def State.failureWaits (s : State) (a : Arrival) : Bool :=
  (s.ctx a.ctx.toNat).state == .saved || (a.failed.isSome && s.unitWaits (3, unitDie (a.handle / 256) 64) a.ctx)

/-- An arrival can cross the die edges to the die of its barrier (R364, R388). -/
def State.arrivalCrosses (s : State) (a : Arrival) : Bool := s.edgesUp (unitDieOf a.unit) (a.handle / 256)

/-- `BARRIER_ARRIVAL` (R362): the first arrival of its slot or core (R368) is served while the list has room (R360). It
fails at once (R363), and what would change an entry of a SAVED or FAULTED context, or release to an UNPLACED group,
waits (R364, R366). -/
def execBarrierArrival (pick : Nat) (s : State) : Answer :=
  .next (match s.arrivals[pick]? with
    | none => s
    | some a =>
      let taken := { s with arrivals := dropNth s.arrivals pick }
      if firstArrival s.arrivals a ≠ pick ∨ s.listFull (a.handle / 256) ∨ !s.arrivalCrosses a then s
      else match a.failed with
      | some code => if s.failureWaits a then s else taken.failedReply a code
      | none => match (s.barrier a.handle).arrive a with
      | .error code => if s.failureWaits a then s else s.failArrival pick a code
      | .ok b =>
        if s.barriersHeld b.ctx ∨ s.releaseHeld b then s
        else releaseRounds a.handle (b.records.length + 1) (taken.setBarrier a.handle b))

/-! ## The instructions (R367, R368) -/

/-- The bits that an answer of a refused command carries (R359, R368). -/
def refusal (k : Nat) : W64 := BitVec.ofNat 64 (2 ^ 63 + k)

/-- `BARINIT.ALLOC` (R368). In a FAULTED context it waits (R366; DESIGN CHOICE, log 94). -/
def barinitAllocWord (f : Form) (n : Nat) (s : State) : State :=
  let c := s.core n
  let xa := (c.reg (Form.xa f)).toNat
  let xb := (c.reg (Form.xb f)).toNat
  if xa < 1 ∨ 1024 < xa ∨ (xb ≠ 0 ∧ (!bitOf xb 63 ∨ bitsOf xb 2 61 ≠ 0)) then s.coreFault n fcIllegal
  else if s.barriersHeld c.context then s
  else
    let die := if xb = 0 then n / 64 else xb % 4
    match (List.range 256).find? fun k => (s.barrier (die * 256 + k)).n == 0 with
    | none => s.coreResult n f (refusal 1)
    | some k => (s.setBarrier (die * 256 + k) { ctx := c.context, n := xa }).coreResult n f (BitVec.ofNat 64 (die * 256 + k))
/-- `BARINIT.ALLOC` (R368). -/
def execBarinitAlloc (f : Form) (s : State) : Answer := onCore s (barinitAllocWord f)

/-- The checks of `BARINIT.FREE` and `QUERY` (R368), then their act on the entry. -/
def barinitEntry (f : Form) (n : Nat) (go : Nat → Barrier → State → State) (s : State) : State :=
  let c := s.core n
  let xa := (c.reg (Form.xa f)).toNat
  if 1024 ≤ xa then s.coreFault n fcIllegal
  else if (s.barrier xa).n = 0 then s.coreResult n f (refusal fcIllegal)
  else if (s.barrier xa).ctx ≠ c.context then s.coreFault n fcPriv
  else go xa (s.barrier xa) s

/-- `BARINIT.FREE` (R368). In a FAULTED context it waits (R366; DESIGN CHOICE, log 94). -/
def execBarinitFree (f : Form) (s : State) : Answer :=
  onCore s fun n s => barinitEntry f n (fun h b s =>
    if b.bstate = 2 then s.coreResult n f (refusal 0x12) else if s.barriersHeld b.ctx then s else (s.setBarrier h {}).coreResult n f 0) s

/-- `BARINIT.QUERY` (R368). -/
def execBarinitQuery (f : Form) (s : State) : Answer :=
  onCore s fun n s => barinitEntry f n (fun _ b s => s.coreResult n f b.word) s

/-- `BARARR.TOK` (R368): each `DATA` token arrives for its own round; what a chain leads from to its tile is before the
arrival (R365, R426). -/
def execBararrTok (f : Form) (s : State) : Answer :=
  onSlot s fun fr s => fr.run f (fun tag s =>
    { s.learn fr.tile (arrivalKey s.tick) with
      arrivals := s.arrivals ++ [{ handle := f.imm.toNat % 1024, group := s.groupOf fr.tile, tile := fr.tile
                                   elem := fr.elem, slot := fr.slot, target := f.tgt0, tag := tag
                                   round := fr.round, ctx := s.tileCtx fr.tile, at_ := fr.round, step := s.tick }] }) s

/-- `BARARR.RND` (R368): its tokens have no effect; it arrives at the round-end release. -/
def execBararrRnd (f : Form) (s : State) : Answer :=
  onSlot s fun fr s => fr.run f (fun _ s => s) s

/-- `BARARR` of a drover core (R365, R368): its earlier writes are performed, as for `EVSIG` (R339), so it arrives; then it
waits for the release, which ends the word once it has crossed to the core's die (R364, R388). -/
def bararrWord (f : Form) (n : Nat) (s : State) : State :=
  let c := s.core n
  let xa := (c.reg (Form.xa f)).toNat
  let xb := (c.reg (Form.xb f)).toNat
  if 1024 ≤ xa ∨ 256 ≤ xb then s.coreFault n fcIllegal
  else match c.wait with
  | .released v d k => if s.edgesUp d (n / 64) then (s.learn (arrivalKey k) (16384 + n)).coreResult n f v else s
  | .sent _ => s
  | _ => { (s.learn (16384 + n) (arrivalKey s.tick)).setCore n { c with wait := .sent s.tick } with
           arrivals := s.arrivals ++ [{ handle := xa, core := some n, tag := s.coreTag n, ctx := c.context
                                        at_ := BitVec.ofNat 8 xb, step := s.tick }] }
/-- `BARARR` (R368). -/
def execBararr (f : Form) (s : State) : Answer := onCore s (bararrWord f)

end Sys2Proof.Machine
end

