-- ==== Sys2Proof/Machine/Group.lean ====
section
/-! DEFINITION. The group (R354 to R359): placement, release and zeroing, and when a group is idle
(R347) or a context drained (R326). -/

namespace Sys2Proof.Machine

open Sys2Proof

/-! ## The table (R354) -/

/-- The tiles of a group in role order. -/
def Group.tiles (g : Group) : List Nat :=
  (g.manifest.filter fun kv => kv.1 != 0x3FF && kv.2 ≥ 2 ^ 15).map fun kv => kv.2 % 2 ^ 14

/-- The groups of a context, by number. -/
def State.groupsOf (s : State) (c : BitVec 8) : List Nat :=
  (s.groups.filter fun kv => kv.2.ctx == c && kv.2.state != .free).map (·.1)

/-- `GSTATE` (R354). -/
def GroupState.code : GroupState → Nat
  | .free => 0
  | .bound => 1
  | .running => 2
  | .unplaced => 3
  | .zeroing => 4

/-- The header of a group's entry (R354). -/
def Group.header (g : Group) : Nat :=
  g.state.code + g.roles * 2 ^ 8 + g.gw * 2 ^ 18 + g.gh * 2 ^ 26 + g.ctx.toNat * 2 ^ 34 + g.core * 2 ^ 42 + g.origin * 2 ^ 50

/-- A byte of the group table: entries of 2,112 bytes, each a header of 64 bytes and the manifest, role n at byte
64 + 2n (R354). -/
def State.groupByte (s : State) (k : Nat) : Byte :=
  let g := s.group (k / 2112)
  let o := k % 2112
  BitVec.ofNat 8 (if o < 64 then g.header / 256 ^ o else g.entry ((o - 64) / 2) / 256 ^ (o % 2))

/-- A byte of main memory as an access from outside finds it: the group table is what the scheduler keeps (R354, R391). -/
def State.outsideByte (s : State) (a : Nat) : Byte :=
  if s.gtab ≤ a ∧ a < s.gtab + 4096 * 2112 then s.groupByte (a - s.gtab)
  else if s.stackFailed a then Config.windowByte s.tick a else mapGet 0 s.mem a

/-- A group's handle (R354). -/
def handleOf (g : Nat) (c : BitVec 8) : W64 := BitVec.ofNat 64 (g % 4096 + c.toNat * 4096)

/-! ## Placement (R355) -/

/-- The fuse map names every element of a tile: the tile is fused off (R101, R355). -/
def State.tileFused (s : State) (t : Nat) : Bool :=
  (List.range 16).all fun e => mapGet false s.mgmt.fused (t * 16 + e)

/-- A tile is held by a group, or until its zeroing is done (R355, R358). -/
def State.tileHeld (s : State) (t : Nat) : Bool := (s.tile t).group.isSome || (s.tile t).zeroing

/-- A shape (R355). -/
structure Shape where
  roles : Nat
  gw : Nat
  gh : Nat
  deriving DecidableEq, Repr

/-- The tiles of a rectangle in row order. -/
def Shape.rect (h : Shape) (d x0 y0 : Nat) : List Nat :=
  (List.range h.gh).flatMap fun j => (List.range h.gw).map fun i => d * 4096 + (y0 + j) * 64 + (x0 + i)

/-- The drover cores whose regions meet a rectangle. -/
def Shape.cores (h : Shape) (d x0 y0 : Nat) : List Nat :=
  ((List.range 64).filter fun k => x0 / 8 ≤ k % 8 && k % 8 ≤ (x0 + h.gw - 1) / 8 && y0 / 8 ≤ k / 8
    && k / 8 ≤ (y0 + h.gh - 1) / 8).map fun k => d * 64 + k

/-- Where a group stands: its origin, its tiles by role, and its drover core. -/
structure Place2 where
  origin : Nat
  tiles : List Nat
  core : Nat
  deriving DecidableEq, Repr

/-- Try one rectangle (R355). -/
def State.placeAt (s : State) (h : Shape) (d x0 y0 : Nat) : Option Place2 :=
  let u := (h.rect d x0 y0).filter fun t => !s.tileFused t
  if u.length < h.roles ∨ (u.take h.roles).any s.tileHeld then none
  else ((h.cores d x0 y0).find? fun c => (s.core c).group.isNone).map fun c =>
    ⟨d * 4096 + y0 * 64 + x0, u.take h.roles, c⟩

/-- Search from a die on (R355). -/
def State.place? (s : State) (h : Shape) (die : Nat) : Option Place2 :=
  (List.range 4).findSome? fun k => (List.range (65 - h.gh)).findSome? fun y0 =>
    (List.range (65 - h.gw)).findSome? fun x0 => s.placeAt h ((die + k) % 4) x0 y0

/-- Write a group's entry and its manifest (R354), and give its tiles and core to it. -/
def State.bindAt (s : State) (g : Nat) (c : BitVec 8) (h : Shape) (p : Place2) : State :=
  let man := (p.tiles.zip (List.range p.tiles.length)).foldl (fun m q => mapSet 0 m q.2 (2 ^ 15 + q.1)) []
  let s := s.modGroup g fun x => { x with
    origin := p.origin, core := p.core, ctx := c, gw := h.gw, gh := h.gh, roles := h.roles
    manifest := mapSet 0 man 0x3FF (2 ^ 15 + p.core) }
  let s := (p.tiles.zip (List.range p.tiles.length)).foldl (fun s q =>
    s.modTile q.1 fun x => { x with group := some g, role := q.2 }) s
  s.modCore p.core fun x => { x with group := some g, ctxid := c.setWidth 64 }

/-! ## Clearing (R101, R351) -/

/-- The state of an element after a clear. -/
def Element.afterClear (x : Element) : ElemState := if x.state = .fused then .fused else .idle

/-- The overflow records that an element's serai holds go back to the context (R31). -/
def State.returnRecords (s : State) (t e : Nat) : State :=
  (((s.elem t e).buckets.flatMap fun kv => kv.2.overflow).foldl fun s r => s.freeOverflow (s.tileCtx t) r.addr) s

/-- A clear of one element (R351): slots `VOID` with the operands that they hold, breakpoints clear, edges
2 and 2, B 0. -/
def State.clearElem (s : State) (t e : Nat) : State :=
  ((s.returnRecords t e).modElem t e fun x => { x with
    state := x.afterClear, slots := [], entries := [], buf := [], latch := none, buckets := [], depth := 0
    noted := [], stopping := false, skipBreak := false }).modTile t fun x => { x with edges := x.edges.filter fun kv => kv.1 / 64 != e }

/-- `CFGCLR.TILE` of a tile whose elements may be cleared (R351). -/
def State.clearTile (s : State) (t : Nat) : State :=
  ((List.range 16).foldl (fun s e => s.clearElem t e) s).modTile t fun x => { x with
    rings := x.rings.filterMap fun kv =>
      if kv.2.waiters.isEmpty then none else some (kv.1, { ({} : Ring) with waiters := kv.2.waiters })
    circuits := x.circuits.filterMap fun kv =>
      if kv.2.queue.isEmpty then none else some (kv.1, { kv.2 with bound := false, route := 0 }) }

/-! ## Release (R358) -/

/-- The bytes of a colour's table entry, once its page takes them: a fault on them is not recorded. -/
def State.colourBytes (s : State) (c n : Nat) (col : Colour) : State :=
  s.writeLate agentSched (BitVec.ofNat 8 c) ((s.ctx c).colourAddr n) col.bytes

/-- A colour without a record of a fault on its table entry: the entry of a launch colour (R156). -/
def State.noteColour (s : State) (c n : Nat) (col : Colour) : State :=
  (s.modCtx c fun x => x.setColour n col).colourBytes c n col

/-- A launch colour is FREE (R156): its entry's `STATE` becomes 0, and the other fields stay (log 114). -/
def State.freeLaunch (s : State) (c n : Nat) : State :=
  let entry := { (s.ctx c).colour n with state := .free }
  (s.modCtx c fun x => x.setColour n {}).colourBytes c n entry

/-- A request belongs to a group: a slot of its tiles, or its core, made it. -/
def ownsReq (tiles : List Nat) (core : Nat) (r : Req) : Bool :=
  match r.origin with
  | .slot t _ _ => tiles.contains t
  | .core n => n == core

/-- A token goes to, or comes from, a group's tiles or its core. -/
def ownsFlight (tiles : List Nat) (core : Nat) (fl : Flight) : Bool :=
  (match fl.dst with | .slot t _ _ _ => tiles.contains t | .mailbox n _ => n == core)
    || (match fl.src with | .slot t _ _ _ => tiles.contains t | .core n => n == core | .unit _ => false)

/-- The engines of a tile. -/
def tileEngines (t : Nat) : List Engine :=
  [.scratch t, .tagTable t, .circuit t, .matrix t, .scan t, .summary t, .ringPort t] ++ (List.range 8).map (Engine.stream t)

/-- A stream port whose stream is cut: what it waited for is gone (R207, R358). -/
def Port.givenUp (p : Port) : Port :=
  { p with
    state := .done, held := [], replied := true
    relatch := [], failing := none, rowWait := [], parkVa := none, depositing := false
    unlatched := false, noted := [], badIndex := [] }

/-- A tile that a group gives up (R207, R358): cleared, its streams cut, its queues empty, and held until its
zeroing is done. -/
def State.freeTile (s : State) (t : Nat) : State :=
  let s := (List.range 16).foldl (fun s e => s.returnRecords t e) s
  let s := (tileEngines t).foldl (fun s e => s.setQueue e []) s
  let s := { s with parked := s.parked.filter fun p => !(tileEngines t).contains p.1 }
  s.modTile t fun x => { x with
    group := none, zeroing := true
    elems := x.elems.filterMap fun kv => if kv.2.state = .fused then some (kv.1, { state := .fused }) else none
    ports := x.ports.filterMap fun kv =>
      if kv.2.state = .idle then none else some (kv.1, kv.2.givenUp)
    edges := [], rings := [], accs := [], engFlags := 0, circuits := [], waiting := [], part := 0 }

/-- What a group's tiles and core hold leaves the machine: tokens, requests and waiting `SPAWN`s. -/
def State.dropWork (s : State) (c : BitVec 8) (tiles : List Nat) (core : Nat) : State :=
  { s with
    parked := s.parked.filter fun p => !((s.queue p.1).head?.any (ownsReq tiles core))
    net := s.net.filter fun fl => !ownsFlight tiles core fl
    reqs := s.reqs.filter fun m => !ownsReq tiles core m.req
    queues := s.queues.filterMap fun (kv : Nat × List Req) =>
      let q := kv.2.filter fun r => !ownsReq tiles core r
      if q = [] then none else some (kv.1, q) }.modCtx c.toNat fun x =>
    { x with spawns := x.spawns.filter fun w => !tiles.contains w.tile }

/-- The drover core serves no group any longer, and its program ends without `EXITW` (R358). -/
def State.freeCore (s : State) (n : Nat) : State :=
  s.modCore n fun c => { c with group := none, running := false, active := false, wait := .none, mbox := [], cmds := [] }

/-- The colours of a group's kernel are FREE (R156, R358). -/
def State.freeColours (s : State) (g : Nat) : State :=
  let x := s.group g
  let c := x.ctx.toNat
  let held := (s.ctx c).colours.filter fun kv => kv.2.state == .held && kv.2.group == g
  let s := held.foldl (fun s kv => s.freeColour c kv.1) s
  if ((s.ctx c).colour x.kernel.lcol).state = .launch ∧ (x.kernel.state = .running ∨ x.kernel.state = .suspended)
  then s.freeLaunch c x.kernel.lcol else s

/-- A group gives up its tiles and its core: they go to zeroing (R357, R358). -/
def State.giveUp (s : State) (g : Nat) : State :=
  let x := s.group g
  let s := s.dropWork x.ctx x.tiles x.core
  (x.tiles.foldl (fun s t => s.freeTile t) s).freeCore x.core

/-- A RELEASE of a group (R358): → ZEROING. The colours that it frees go to the `SPAWN`s that still wait (R156). -/
def State.release (s : State) (g : Nat) : State :=
  let s := ((s.freeColours g).giveUp g).spawnTurn (s.group g).ctx.toNat
  { s with notices := s.notices.filter fun m => m.group != g }.modGroup g fun x => { x with
    state := .zeroing, ran := false
    kernel := if x.kernel.state = KernelState.none then x.kernel else { x.kernel with state := .ended } }

/-- Close the ports of a tile: their dirty ranges are deposited (R207, R322). -/
def State.closePorts (s : State) (t : Nat) : State :=
  (List.range 8).foldl (fun s p => if (s.port t p).state = .idle then s else (s.closeOrWait t p).1) s

/-- A group whose tiles are all zero is FREE (R357). -/
def State.freeGroups (s : State) : State :=
  { s with groups := s.groups.filter fun kv =>
      !(kv.2.state == .zeroing && kv.2.tiles.all fun t => !(s.tile t).zeroing) }

/-- `ZEROING_DONE` (R358): the ports are closed, and the scratchpad, its bits and the tag table are zero. -/
def execZeroingDone (tile : Nat) (s : State) : Answer :=
  .next (if !(s.tile tile).zeroing then s
    else
      let s := s.closePorts tile
      if (List.range 8).all fun p => (s.port tile p).state == .idle then
        ({ s.modTile tile fun x => { elems := x.elems } with
            stale := s.stale.filter fun e => e.loc < spLoc tile 0 || spLoc (tile + 1) 0 ≤ e.loc }).freeGroups
      else s)

/-! ## Idle groups and drained contexts (R326, R347) -/

/-- An element without a token to fire or send; what a HALTED one holds does not count (R101, R347). -/
def Element.still (x : Element) : Bool :=
  x.state == .halted || (x.in0.isEmpty && x.in1.isEmpty && x.out.isEmpty && x.buf.isEmpty && x.latch.isNone
    && x.slots.all (fun kv => !kv.2.start && kv.2.coords.isEmpty)
    && x.entries.all (fun kv => !entryReady (x.slot kv.2.slot) kv.2)
    && (x.controlSlot fun _ => true).isNone)

/-- A port whose stream goes on (R207). -/
def Port.open (x : Port) : Bool := x.state == .latching || x.state == .parked || x.state == .running

/-- A tile without work: elements, ports, circuits and waiting requests. -/
def Tile.still (x : Tile) : Bool :=
  x.elems.all (fun kv => kv.2.still) && x.ports.all (fun kv => !kv.2.open && kv.2.held.isEmpty)
    && x.circuits.all (fun kv => kv.2.queue.isEmpty && kv.2.flight.isEmpty) && x.waiting.isEmpty

/-- A request of a group is in an engine, at an interface, at a barrier or at the context controller. -/
def State.requested (s : State) (c : BitVec 8) (tiles : List Nat) (core : Nat) : Bool :=
  s.reqs.any (fun m => ownsReq tiles core m.req) || s.queues.any (fun kv => kv.2.any (ownsReq tiles core))
    || s.arrivals.any (fun a => a.core.isNone && tiles.contains a.tile)
    || s.barriers.any (fun kv => kv.2.records.any fun a => a.core.isNone && tiles.contains a.tile)
    || (s.ctx c.toNat).spawns.any fun w => tiles.contains w.tile

/-- A group is idle (R347). -/
def State.groupIdle (s : State) (g : Nat) : Bool :=
  let x := s.group g
  let tiles := x.tiles
  tiles.all (fun t => (s.tile t).still) && s.net.all (fun fl => !ownsFlight tiles x.core fl)
    && !s.requested x.ctx tiles x.core

/-- The reply or the release that a core's word waits for has come, or is on its way: the word will end. The second part of
an `UNMAP` or a `MIGR` is no such wait (R385, R386). -/
def State.answered (s : State) (n : Nat) (x : Core) : Bool :=
  x.running && match x.wait with
    | .reply _ => wordOpcode (mapGet 0 x.code x.pc.toNat) != 0xF7 && wordOpcode (mapGet 0 x.code x.pc.toNat) != 0xF8
    | .released _ d _ => s.edgesKept d (n / 64)
    | _ => false

/-- A word of a context has been answered and has yet to end. -/
def State.wordEnds (s : State) (c : BitVec 8) : Bool := s.cores.any fun kv => kv.2.context == c && s.answered kv.1 kv.2

/-- A request of a context is in flight: with it a recorded arrival (R366). -/
def State.inFlight (s : State) (c : BitVec 8) : Bool :=
  s.reqs.any (fun m => m.req.ctx == c) || s.queues.any (fun kv => kv.2.any fun r => r.ctx == c)
    || s.arrivals.any (fun a => a.ctx == c) || s.barriers.any (fun kv => kv.2.ctx == c && !kv.2.records.isEmpty)
    || !(s.ctx c.toNat).spawns.isEmpty || s.iterLinks.any (fun m => m.ctx == c)
    || s.adders.any (fun kv => kv.2.running && kv.2.ctx == c)
    || s.groups.any (fun kv => kv.2.ctx == c && kv.2.kernel.state == .loading)
    || s.tiles.any fun kv => s.ownsTile c.toNat kv.2 && (kv.2.ports.any (fun p => p.2.open || !p.2.held.isEmpty)
        || kv.2.circuits.any (fun k => !k.2.queue.isEmpty || !k.2.flight.isEmpty) || !kv.2.waiting.isEmpty)

/-- A token in a delay line's buffer, which a soft save keeps (R102, R104). -/
def State.inDelayLine (s : State) (fl : Flight) : Bool :=
  match fl.src, fl.dst with
  | .slot t e k f, .slot t' _ _ _ =>
    let ed := mapGet {} (s.tile t).edges (edgeKey e k f)
    t == t' && ed.initial < ed.depth
  | _, _ => false

/-- An entry in which a `SCALE` node holds a scale, which pre-emption saves (R223). -/
def Entry.holdsScale (en : Entry) (x : Element) : Bool :=
  (x.slot en.slot).op == 0x76 && (x.slot en.slot).form.arity == 1

/-- An element holds a token (R326). A scale held at a `SCALE` node is none of them (R223). -/
def Element.residue (x : Element) : Bool :=
  !(x.in0.isEmpty && x.in1.isEmpty && x.out.isEmpty && x.buf.isEmpty && x.latch.isNone && x.entries.all (fun kv => kv.2.holdsScale x)
    && x.buckets.all (fun kv => kv.2.all.isEmpty) && x.slots.all fun kv => kv.2.coords.isEmpty)

/-- A token of a context remains in a store, a queue or on a network. -/
def State.residue (s : State) (c : BitVec 8) : Bool :=
  s.net.any (fun fl => fl.tok.ctx == c && !s.inDelayLine fl)
    || s.tiles.any fun kv => s.ownsTile c.toNat kv.2 && kv.2.elems.any fun e => e.2.residue

/-- Every started round of a context has reached every sink (R326). -/
def State.roundsDone (s : State) (c : BitVec 8) : Bool :=
  (s.groupsOf c).all fun g => (s.group g).kernel.drained

/-- A soft drain is complete (R326). -/
def State.drainDone (s : State) (c : BitVec 8) : Bool := s.roundsDone c && !s.inFlight c && !s.residue c

/-- A context has drained (R357). -/
def State.hasDrained (s : State) (c : BitVec 8) : Bool :=
  match (s.ctx c.toNat).state with
  | .saved | .faulted | .dead => true
  | .draining => s.drainDone c
  | _ => false

/-! ## The instructions (R359) -/

/-- The shape that `GBIND` names, if the operands are legal (R359). -/
def gbindShape (xa xb : Nat) : Option Shape :=
  let h : Shape := ⟨xa % 2 ^ 16, bitsOf xa 16 8, bitsOf xa 24 8⟩
  if xa ≥ 2 ^ 32 ∨ h.roles < 1 ∨ 1023 < h.roles ∨ h.gw < 1 ∨ 64 < h.gw ∨ h.gh < 1 ∨ 64 < h.gh ∨ h.gw * h.gh < h.roles
    ∨ (xb ≠ 0 ∧ (!bitOf xb 63 ∨ bitsOf xb 14 49 ≠ 0 ∨ 64 < tileX (xb % 2 ^ 14) + h.gw ∨ 64 < tileY (xb % 2 ^ 14) + h.gh))
  then none else some h

/-- The lowest FREE group number (R359). -/
def State.freeGroup? (s : State) : Option Nat := (List.range 4096).find? fun g => (s.group g).state == .free

/-- `GBIND` (R359). -/
def gbindWord (f : Form) (n : Nat) (s : State) : State :=
  let c := s.core n
  let xb := (c.reg (Form.xb f)).toNat
  match gbindShape (c.reg (Form.xa f)).toNat xb with
  | none => s.coreFault n fcIllegal
  | some h =>
    let st := (s.ctx c.context.toNat).state
    if st ≠ .ready ∧ st ≠ .running then s.coreResult n f (refusal 2)
    else match s.freeGroup? with
    | none => s.coreResult n f (refusal 3)
    | some g =>
      let t := xb % 2 ^ 14
      match if xb = 0 then s.place? h (n / 64) else s.placeAt h (dieOf t) (tileX t) (tileY t) with
      | none => s.coreResult n f (refusal 1)
      | some p => ((s.bindAt g c.context h p).modGroup g fun x => { x with state := .bound }).coreResult n f (handleOf g c.context)
/-- `GBIND` (R359). -/
def execGbind (f : Form) (s : State) : Answer := onCore s (gbindWord f)

/-- The entry of an UNPLACED group is freed (R357), with what the save holds of it. -/
def State.freeUnplaced (s : State) (g : Nat) : State :=
  let x := s.group g
  (s.modGroup g fun _ => {}).modCtx x.ctx.toNat fun y => { y with save := y.save.map fun m => { m with
    groups := m.groups.filter fun t => t.group != g
    reqs := m.reqs.filter fun q => !ownsReq x.tiles x.core q.req
    queues := m.queues.map fun q => (q.1, q.2.filter fun r => !ownsReq x.tiles x.core r) } }

/-- `GREL` on a group, by its state (R357); none where it is refused. -/
def State.grel (s : State) (g : Nat) (force : Bool) : Option State :=
  match (s.group g).state with
  | .bound => some (s.release g)
  | .running => if force && s.hasDrained (s.group g).ctx then some (s.release g) else none
  | .unplaced => some (s.freeUnplaced g)
  | _ => none

/-- `GREL` and `GREL.FORCE` (R359). -/
def grelWord (f : Form) (force : Bool) (n : Nat) (s : State) : State :=
  let c := s.core n
  let xa := (c.reg (Form.xa f)).toNat
  let g := xa % 4096
  if xa ≥ 2 ^ 20 ∨ (s.group g).state = .free then s.coreFault n fcIllegal
  else if !force ∧ (s.group g).ctx ≠ c.context then s.coreFault n fcPriv
  else if force ∧ !c.priv then s.coreFault n fcPriv
  else match s.grel g force with
  | some s => s.coreResult n f 0
  | none => s.coreResult n f (refusal 0x12)
/-- `GREL` (R359). -/
def execGrel (f : Form) (s : State) : Answer := onCore s (grelWord f false)
/-- `GREL.FORCE` (R359). -/
def execGrelForce (f : Form) (s : State) : Answer := onCore s (grelWord f true)

end Sys2Proof.Machine
end

