-- ==== Sys2Proof/Machine/Configure.lean ====
section
/-! DEFINITION. Configuration (R348 to R353, R431): the configuration spaces, `CFGW`, `CFGR`, `CFGCLR`,
`BKPT`, and the digest, signature and CRC instructions. -/

namespace Sys2Proof.Machine

open Sys2Proof

/-! ## Addresses (R349, R350) -/

/-- A configuration address. -/
structure CfgAddr where
  space : Nat
  tile : Nat
  elem : Nat
  slot : Nat
  index : Nat
  deriving DecidableEq, Repr

/-- The fields of an address. -/
def cfgFields (a : Nat) : CfgAddr :=
  { space := bitsOf a 60 4, tile := bitsOf a 46 14, elem := bitsOf a 42 4, slot := bitsOf a 37 5, index := a % 2 ^ 37 }

/-- A space uses `ELEM`, uses `SLOT`, and has so many `INDEX` values; none for a space that does not exist. -/
def cfgSpace : Nat → Option (Bool × Bool × Nat)
  | 0 => some (true, true, 1)
  | 2 => some (true, true, 2)
  | 3 => some (true, false, 1)
  | 4 => some (true, false, 256)
  | 5 => some (false, false, 2 ^ 20)
  | 6 => some (false, false, 8)
  | 7 => some (false, false, 16)
  | 8 => some (true, true, 1)
  | _ => none

/-- An address is one of its space's: the fields that the space does not use are zero (R350). -/
def CfgAddr.ok (a : CfgAddr) : Bool :=
  match cfgSpace a.space with
  | none => false
  | some (e, k, n) => (e || a.elem == 0) && (k || a.slot == 0) && a.index < n && (a.space != 5 || a.tile == 0)

/-- A core may reach a tile: in control mode any, in user mode one of its context's groups (R349). -/
def State.mayConfigure (s : State) (n : Nat) (g : Option Nat) : Bool :=
  let c := s.core n
  c.priv || (match g with | some g => (s.group g).state != .free && (s.group g).ctx == c.context | none => false)

/-- The group that an address belongs to: its tile's, or that of the core whose code it names. -/
def State.cfgGroup (s : State) (a : CfgAddr) : Option Nat :=
  if a.space = 5 then (s.core (a.index / 4096)).group else (s.tile a.tile).group

/-! ## Slot words, edges and serais (R101, R351) -/

/-- A refusal: its code and, for `CFG_BADOP`, the check. -/
structure Refused where
  code : Nat
  check : Nat := 0
  deriving DecidableEq, Repr

/-- What a refused instruction answers (R351). -/
def Refused.word (r : Refused) : W64 := refusal (r.check * 256 + r.code)

/-- A configuration write to an element, by its state (R101). -/
def Element.cfgState (x : Element) : Except Refused Unit :=
  match x.state with
  | .fused => .error ⟨fcCfgNack, 0⟩
  | .running => .error ⟨fcCfgBusy, 0⟩
  | _ => .ok ()

/-- An IDLE element that is written is CONFIGURED (R101). -/
def Element.configured (x : Element) : Element := if x.state = .idle then { x with state := .configured } else x

/-- A slot's window holds a present operand. -/
def Element.windowHeld (x : Element) (k : Nat) : Bool := x.entries.any fun kv => kv.2.state != .free && kv.2.slot == k

/-- The word of a slot, zero for `VOID` (R60). -/
def SlotState.bits (y : SlotState) : W128 := match y.word with | some i => encode i | none => 0

/-- Write a slot's word (R60, R61, R351): the refusal, or the new state. -/
def State.cfgSlot (s : State) (t e k : Nat) (w : W128) : Except Refused State :=
  let x := s.elem t e
  match x.cfgState with
  | .error r => .error r
  | .ok () =>
    if mapGet false s.mgmt.badSlots ((t * 16 + e) * 32 + k) then .error ⟨fcCfgNack, 0⟩
    else
      let put := fun (i : Option Instr) (f : Form) =>
        let old := (x.slot k).form
        if (x.state = .broken ∨ x.state = .halted ∨ x.state = .quiesced) ∧ x.windowHeld k
            ∧ (old.arity ≠ f.arity ∨ old.msbase ≠ f.msbase ∨ old.mslog ≠ f.mslog) then .error ⟨fcCfgBusy, 0⟩
        else .ok (s.modElem t e fun x => x.configured.modSlot k fun y => { y with word := i })
      match decode .fabric w with
      | .ok i => put (some i) (formOf i)
      | .error b => if b = BadWord.void then put none default else .error ⟨fcCfgBadOp, b.number⟩

/-- A write of an element's edge or serai: allowed by its state. -/
def State.cfgElem (s : State) (t e : Nat) (f : State → State) : Except Refused State :=
  match (s.elem t e).cfgState with
  | .error r => .error r
  | .ok () => .ok ((f s).modElem t e Element.configured)

/-- The depths of an edge: its initial depth is its depth. -/
def State.setEdge (s : State) (t e k field ini mx : Nat) : State :=
  s.modTile t fun x => { x with edges := mapSet {} x.edges (edgeKey e k field) { depth := ini, initial := ini, max := mx } }

/-- The serai of an element: base and B (R31). -/
def State.setSerai (s : State) (t e v : Nat) : State :=
  s.modElem t e fun x => { x with base := v % 2 ^ 16, depth := bitsOf v 16 4 }

/-- A ring by configuration (R350): as `RING`, refused by the checks stated there. -/
def State.cfgRing (s : State) (t n v : Nat) : Except Refused State :=
  let r := s.ring t n
  let q := ringOfImm v
  if r.defined ∧ r.used > 0 then .error ⟨fcCfgBusy, 0⟩
  else if q.pb = 0 then (if v = 0 then .ok (s.modRing t n fun r => { r with defined := false }) else .error ⟨fcCfgBadOp, 8⟩)
  else if v ≥ 2 ^ 28 ∨ q.base + q.size > 65536 ∨ (s.tile t).ringOverlap n q.base q.size then .error ⟨fcCfgBadOp, 8⟩
  else .ok (s.modRing t n fun _ => q)

/-- A route record as it is held: bits 8:7 are RES, so that what is written to them is ignored (R6, R209). -/
def routeOf (v : Nat) : Nat := v / 2 ^ 9 * 2 ^ 9 + v % 2 ^ 7

/-- Half of a circuit's route record (R209, R350). -/
def State.cfgCircuit (s : State) (t n half v : Nat) : State :=
  s.modCircuit t n fun c =>
    let old := bitsOf c.route (128 * (1 - half)) 128
    let r := routeOf (if half = 0 then v + old * 2 ^ 128 else old + v * 2 ^ 128)
    { c with route := r, bound := r % 128 != 0 }

/-! ## Element registers (R350, R431) -/

/-- The status of an element (R350). -/
def Element.status (x : Element) : Nat :=
  (match x.state with
    | .fused => 0 | .idle => 1 | .configured => 2 | .running => 3 | .broken => 4 | .halted => 5 | .quiesced => 6)
    + x.flags.toNat * 16 + (if x.state = .broken then x.heldSlot % 32 * 256 else 0)

/-- The round register of a slot, which `MARK` and `RNDQ` hold; zero for a slot without one (R111, R431). -/
def SlotState.round (y : SlotState) : Nat := if y.op = 0x08 ∨ y.op = 0x0A then y.rr.toNat else 0
/-- A slot's count, and its first tag or key with bit 112; zero for a slot without them (R431). -/
def SlotState.register (y : SlotState) : Nat :=
  let key := match y.key with | some t => (t.toNat ||| 2 ^ 48) * 2 ^ 64 | none => 0
  if y.op = 0x09 ∨ y.op = 0x0B then y.count.toNat + key
  else if y.op = 0x0A then y.count.toNat
  else if y.op = 0x8D then y.count.toNat % 256 + key
  else 0

/-- A bucket's register word with its overflow list: head and tail address (R431). -/
def Bucket.ends (b : Bucket) : Nat :=
  match b.regs with
  | some (v, _) => v
  | none =>
    let addr := fun (r : Option SeraiRec) => match r with | some r => r.addr % 2 ^ 56 | none => 0
    addr b.overflow.head? + addr b.overflow.getLast? * 2 ^ 64

/-- A bucket's register word with its counts: tile head, tile count and overflow count (R431). -/
def Bucket.counts (b : Bucket) : Nat :=
  match b.regs with
  | some (_, v) => v
  | none => b.head % 8 + b.tile.length % 16 * 16 + b.overflow.length % 2 ^ 32 * 2 ^ 32

/-- A word of the element registers (R431). -/
def Element.word (x : Element) (i : Nat) : Nat :=
  if i = 0 then x.status
  else if i = 1 then x.arrival % 2 ^ 64 + x.flags.toNat * 2 ^ 64
  else if i < 4 then ((List.range 16).map fun k => (x.slot (16 * (i - 2) + k)).round * 256 ^ k).sum
  else if i < 36 then (x.slot (i - 4)).register
  else if i < 164 then
    let b := x.bucket ((i - 36) / 2)
    if i % 2 = 0 then b.ends else b.counts
  else 0

/-- The slot whose window holds an entry (R29). -/
def Element.slotOfEntry (x : Element) (idx : Nat) : Nat :=
  ((List.range 32).find? fun k => match (x.slot k).word with
    | some i => 2 ≤ inputCount (opcodeOf i) (formOf i) && (formOf i).msbase.toNat ≤ idx
        && idx < (formOf i).msbase.toNat + 2 ^ (formOf i).mslog.toNat
    | none => false).getD 0

/-- A serai record from its bytes (R32). -/
def recOfBytes (slot addr : Nat) (bs : List Byte) : SeraiRec :=
  let c := natAt bs 0 8
  { slot := slot, port := bitsOf c 12 2, addr := addr
    tok := { kind := if c % 8 = 2 then .stop else if c % 8 = 6 then .err else if c % 8 = 3 then .scale else .data
             s := bitOf c 3, round := BitVec.ofNat 8 (bitsOf c 4 8), ctx := BitVec.ofNat 8 (bitsOf c 16 8)
             value := BitVec.ofNat 64 (natAt bs 16 8), tag := BitVec.ofNat 64 (natAt bs 24 8) } }

/-- The overflow records of a list in memory, `n` of them from an address on. -/
def readOverflow (s : State) (c : BitVec 8) (slot : Nat) : Nat → Nat → List SeraiRec
  | 0, _ => []
  | n + 1, addr =>
    match vread agentSched c addr 32 s with
    | .ok (bs, _) => recOfBytes slot addr bs :: readOverflow s c slot n (bitsOf (natAt bs 8 8) 0 56)
    | .error _ => []

/-- The bucket that two register words name (R431): its tile records stand in the tile part, the overflow list in
memory from the head address on. The words are held as they were written. -/
def State.bucketOf (s : State) (t e b ends counts : Nat) : Bucket :=
  let x := s.elem t e
  let slot := x.slotOfEntry b
  { head := counts % 8
    tile := (List.range (min (bitsOf counts 4 4) x.depth)).map fun j =>
      recOfBytes slot 0 (memRead (s.tile t).mem (x.tileRecord b (counts % 8 + j)) 32)
    overflow := readOverflow s (s.tileCtx t) slot (bitsOf counts 32 32) (ends % 2 ^ 56)
    regs := some (ends % 2 ^ 56 + bitsOf ends 64 56 * 2 ^ 64, counts % 8 + bitsOf counts 4 4 * 16 + bitsOf counts 32 32 * 2 ^ 32) }

/-- The buckets of an element that still hold their words as written name their records anew: what the words mean turns on
the slot words and the serai word too, which may be written after them (R31, R431). -/
def State.rederive (s : State) (t e : Nat) : State :=
  (s.elem t e).buckets.foldl (fun s b => match b.2.regs with
    | some (ends, counts) => s.modElem t e fun x => x.modBucket b.1 fun _ => s.bucketOf t e b.1 ends counts
    | none => s) s

/-- Write a word of the element registers (R431). -/
def State.setWord (s : State) (t e i v : Nat) : State :=
  if i = 1 then
    s.modElem t e fun x => { x with arrival := v % 2 ^ 64, flags := BitVec.ofNat 4 (bitsOf v 64 4) }
  else if i < 4 then
    (List.range 16).foldl (fun s k => s.modSlot t e (16 * (i - 2) + k) fun y => { y with rr := BitVec.ofNat 8 (v / 256 ^ k) }) s
  else if i < 36 then
    s.modSlot t e (i - 4) fun y => { y with
      count := BitVec.ofNat 64 v
      key := if bitOf v 112 then some (BitVec.ofNat 64 (v / 2 ^ 64 - 2 ^ 48)) else none }
  else if i < 164 then
    let b := (i - 36) / 2
    let k := (s.elem t e).bucket b
    let k := if i % 2 = 0 then s.bucketOf t e b v k.counts else s.bucketOf t e b k.ends v
    s.modElem t e fun x => x.modBucket b fun _ => k
  else s

/-- A restore write (R101, R431): in IDLE and QUIESCED only. -/
def State.restoreWord (s : State) (t e i v : Nat) : Except Refused State :=
  match (s.elem t e).state with
  | .fused => .error ⟨fcCfgNack, 0⟩
  | .idle | .quiesced => .ok ((s.setWord t e i v).modElem t e fun x => { x with state := .quiesced })
  | _ => .error ⟨fcCfgBusy, 0⟩

/-! ## Items -/

/-- Write an item of configuration (R350, R351). -/
def State.cfgWrite (s : State) (a : CfgAddr) (v : Nat) : Except Refused State :=
  match a.space with
  | 0 => (s.cfgSlot a.tile a.elem a.slot (BitVec.ofNat 128 v)).map fun s => s.rederive a.tile a.elem
  | 2 => s.cfgElem a.tile a.elem fun s => s.setEdge a.tile a.elem a.slot a.index (v % 2 ^ 9) (bitsOf v 16 9)
  | 3 => s.cfgElem a.tile a.elem fun s => (s.setSerai a.tile a.elem (v % 2 ^ 64)).rederive a.tile a.elem
  | 4 => if a.index = 0 then .ok s else s.restoreWord a.tile a.elem a.index v
  | 5 =>
    let n := a.index / 4096
    if (s.core n).active then .error ⟨fcCfgBusy, 0⟩
    else .ok (s.modCore n fun c => { c with code := mapSet 0 c.code (a.index % 4096) (BitVec.ofNat 128 v) })
  | 6 => s.cfgRing a.tile a.index (v % 2 ^ 64)
  | 7 => .ok (s.cfgCircuit a.tile (a.index % 8) (a.index / 8) v)
  | _ => .ok s

/-- Read an item of configuration (R351); a FUSED element reads as all ones. -/
def State.cfgRead (s : State) (a : CfgAddr) : Nat :=
  let x := s.elem a.tile a.elem
  let y := x.slot a.slot
  let elem := fun (v : Nat) => if x.state = .fused then 2 ^ 128 - 1 else v
  match a.space with
  | 0 => elem y.bits.toNat
  | 2 => let ed := mapGet {} (s.tile a.tile).edges (edgeKey a.elem a.slot a.index)
    elem (ed.initial % 2 ^ 9 + ed.max % 2 ^ 9 * 2 ^ 16)
  | 3 => elem (x.base % 2 ^ 16 + x.depth % 16 * 2 ^ 16)
  | 4 => elem (x.word a.index)
  | 5 => (mapGet 0 (s.core (a.index / 4096)).code (a.index % 4096)).toNat
  | 6 => let r := s.ring a.tile a.index
    if r.defined then r.base / 16 + r.pb / 16 * 2 ^ 12 + r.cnt * 2 ^ 20 else 0
  | 7 => bitsOf ((s.tile a.tile).circuit (a.index % 8)).route (128 * (a.index / 8)) 128
  | _ => elem (y.bval.toNat * 2 ^ 64 + y.bmask.toNat)

/-- An address in `xa`, checked (R349, R350), and then the instruction. -/
def withAddr (f : Form) (n : Nat) (ok : CfgAddr → Bool) (go : CfgAddr → State → State) (s : State) : State :=
  let a := cfgFields ((s.core n).reg (Form.xa f)).toNat
  if !a.ok || !ok a then s.coreFault n fcIllegal
  else if !s.mayConfigure n (s.cfgGroup a) then s.coreFault n fcPriv
  else go a s

/-! ## The instructions (R349, R351, R352) -/

/-- `CFGW` (R351). -/
def execCfgw (f : Form) (s : State) : Answer :=
  onCore s fun n s => withAddr f n (fun _ => true) (fun a s =>
    let c := s.core n
    match s.cfgWrite a ((c.reg (Form.xb f)).toNat * 2 ^ 64 + (c.reg (Form.xc f)).toNat) with
    | .ok s => s.coreResult n f 0
    | .error r => s.coreResult n f r.word) s

/-- `CFGR` (R351). -/
def execCfgr (f : Form) (s : State) : Answer :=
  onCore s fun n s => withAddr f n (fun _ => true) (fun a s =>
    s.coreResult n f (BitVec.ofNat 64 (s.cfgRead a / 2 ^ (64 * f.mod.toNat)))) s

/-- An element that may not be cleared (R101, R351). -/
def Element.clearBusy (x : Element) : Bool := x.state == .running || x.state == .broken

/-- `CFGCLR.TILE` (R351). -/
def execCfgclrTile (f : Form) (s : State) : Answer :=
  onCore s fun n s => withAddr f n (fun a => a.space == 0 && a.elem == 0 && a.slot == 0) (fun a s =>
    if (List.range 16).any fun e => (s.elem a.tile e).clearBusy then s.coreResult n f (refusal 0x12)
    else (s.clearTile a.tile).coreResult n f 0) s

/-- `CFGCLR.ELEM` (R351). -/
def execCfgclrElem (f : Form) (s : State) : Answer :=
  onCore s fun n s => withAddr f n (fun a => a.space == 0 && a.slot == 0) (fun a s =>
    if (s.elem a.tile a.elem).clearBusy then s.coreResult n f (refusal 0x12)
    else (s.clearElem a.tile a.elem).coreResult n f 0) s

/-- Write a slot's breakpoint register (R348, R352). -/
def bkptWrite (f : Form) (value : Core → W64 × W64) (s : State) : Answer :=
  onCore s fun n s => withAddr f n (fun a => a.space == 0) (fun a s =>
    if (s.elem a.tile a.elem).state = .fused then s.coreResult n f (refusal 0x11)
    else
      let v := value (s.core n)
      (s.modSlot a.tile a.elem a.slot fun y => { y with bval := v.1, bmask := v.2 }).coreResult n f 0) s
/-- `BKPT.SET` (R352). -/
def execBkptSet (f : Form) (s : State) : Answer := bkptWrite f (fun c => (c.reg (Form.xb f), c.reg (Form.xc f))) s
/-- `BKPT.CLR` (R352). -/
def execBkptClr (f : Form) (s : State) : Answer := bkptWrite f (fun _ => (0, 0)) s

/-- `BKPT.RES` (R352): from BREAK the held pair fires first, without a test. -/
def execBkptRes (f : Form) (s : State) : Answer :=
  onCore s fun n s => withAddr f n (fun a => a.space == 0 && a.slot == 0) (fun a s =>
    match (s.elem a.tile a.elem).state with
    | .fused => s.coreResult n f (refusal 0x11)
    | .broken => (s.modElem a.tile a.elem fun x => { x with state := .running, skipBreak := true }).coreResult n f 0
    | .halted => (s.modElem a.tile a.elem fun x => { x with state := .running }).coreResult n f 0
    | _ => s.coreResult n f (refusal fcIllegal)) s

/-! ## Digests, signatures and CRCs (R353) -/

/-- `SIGCHK`'s answer: 0 valid, 1 invalid, 2 for an empty slot (R353). -/
def sigResult (key : Nat × Nat) (digest sig : List Byte) : Nat :=
  if key = (0, 0) then 2
  else
    let big := fun (bs : List Byte) => ofBigEndian (bs.map fun b => b.toNat)
    if ecdsaOk key (big digest) (big (slice sig 0 66)) (big (slice sig 66 66)) then 0 else 1

/-- `SIGCHK` (R353). -/
def execSigchk (f : Form) (s : State) : Answer :=
  onCore s fun n s =>
    let c := s.core n
    let xa := (c.reg (Form.xa f)).toNat
    let xb := (c.reg (Form.xb f)).toNat
    if xa + 64 > 65536 ∨ xb + 144 > 65536 ∨ xb % 16 ≠ 0 then s.coreFault n fcIllegal
    else s.coreResult n f (BitVec.ofNat 64 (sigResult (mapGet (0, 0) s.mgmt.sigKeys (f.imm.toNat % 16))
      (memRead c.dmem xa 64) (memRead c.dmem xb 144)))

/-- `DGST` (R353): it reads on path D, and a page fault enters the handler. -/
def execDgst (f : Form) (s : State) : Answer :=
  onCore s fun n s =>
    let c := s.core n
    let xb := c.reg (Form.xb f)
    let xc := (c.reg (Form.xc f)).toNat
    if xb.toNat ≥ 2 ^ 32 ∨ xc + 64 > 65536 ∨ xc % 16 ≠ 0 then s.coreFault n fcIllegal
    else s.coreAct n (vread (agentD n) c.context (c.reg (Form.xa f)).toNat xb.toNat) fun bs s =>
      (s.modCore n fun c => { c with dmem := memWrite c.dmem xc ((sha512 bs).map (BitVec.ofNat 8)) }).coreResult n f xb

/-- `CRC.MEM` (R353). -/
def execCrcMem (f : Form) (s : State) : Answer :=
  onCore s fun n s =>
    let c := s.core n
    let xa := (c.reg (Form.xa f)).toNat
    let xb := (c.reg (Form.xb f)).toNat
    if xa + xb > 65536 then s.coreFault n fcIllegal
    else s.coreResult n f (BitVec.ofNat 64 (crc32c ((c.reg (Form.xc f)).toNat % 2 ^ 32) (memRead c.dmem xa xb)))

/-- The 8,192 bytes of a tile's slot words (R342); a FUSED element gives all ones. -/
def State.tileWords (s : State) (t : Nat) : List Byte :=
  (List.range 16).flatMap fun e =>
    let x := s.elem t e
    if x.state = .fused then List.replicate 512 255
    else (List.range 32).flatMap fun k => toBytes (x.slot k).bits.toNat 16

/-- `CRC.TILE` (R353). -/
def execCrcTile (f : Form) (s : State) : Answer :=
  onCore s fun n s =>
    s.coreResult n f (BitVec.ofNat 64 (crc32c 0 (s.tileWords (bitsOf ((s.core n).reg (Form.xa f)).toNat 46 14))))

end Sys2Proof.Machine
end

