-- ==== Sys2Proof/Machine/Records.lean ====
section
/-! DEFINITION. Summary trees (R237 to R256): the records, the node pool, the leaf grid, and the
operations that write trees. Each operation is performed whole (R266). -/

namespace Sys2Proof.Machine

open Sys2Proof

/-! ## Rounded arithmetic in FP32 -/

/-- A value with the flags of the roundings that gave it, then another. -/
def andRound {α β : Type} (p : α × Flags) (k : α → β × Flags) : β × Flags :=
  let q := k p.1
  (q.1, p.2 ||| q.2)

/-- A number rounded to FP32. -/
def rnd (mode : RMode) (p : Num × Flags) : Num × Flags :=
  let q := roundNum fp32 mode p.1
  (decodeNum fp32 q.1, p.2 ||| q.2)
/-- A sum, a difference, a product, a quotient, a root and a power of two, each rounded once. -/
def fAdd (mode : RMode) (a b : Num) : Num × Flags := rnd mode (addNum mode a b)
/-- A difference. -/
def fSub (mode : RMode) (a b : Num) : Num × Flags := fAdd mode a b.negate
/-- A product. -/
def fMul (mode : RMode) (a b : Num) : Num × Flags := rnd mode (mulNum a b)
/-- A quotient. -/
def fDiv (mode : RMode) (a b : Num) : Num × Flags := rnd mode (divNum a b)
/-- A square root. -/
def fSqrt (mode : RMode) (a : Num) : Num × Flags := rnd mode (sqrtNum a)
/-- A power of two, as `FEXP2` rounds (R143, R261). -/
def fPow (mode : RMode) (a : Num) : Num × Flags := rnd mode (exp2Num a)
/-- A power of two whose exponent above 0 is taken as 0 (R261). -/
def fPowMin (mode : RMode) (a : Num) : Num × Flags := fPow mode (if Num.zero.lt a then Num.zero else a)
/-- A count as a number. -/
def fCount (mode : RMode) (n : Nat) : Num × Flags := rnd mode (.fin false n 0 false, 0)
/-- The encoding of a number of FP32. -/
def encF (a : Num) : Nat := (roundNum fp32 .rne a).1
/-- The magnitude of a number. -/
def Num.abs : Num → Num
  | .nan q => .nan q
  | .inf _ => .inf false
  | .fin _ m x st => .fin false m x st

/-- `distRU` of R247. -/
def distRU (a b : List Num) : Num × Flags :=
  let step := fun (acc : Num × Flags) (ab : Num × Num) =>
    let d := addNum .ru ab.1 ab.2.negate
    andRound (rnd .ru (d.1.abs, d.2)) fun e => andRound (fMul .ru e e) fun q => andRound acc fun x => fAdd .ru x q
  andRound ((List.zip a b).foldl step (Num.zero, 0)) (fSqrt .ru)

/-- `normRU` of R247. -/
def normRU (a : List Num) : Num × Flags := distRU a (a.map fun _ => Num.zero)

/-! ## Operations on trees -/

/-- What a tree operation gathers: the flags of its roundings (R271), and the records that go back to
the pool with their classes, in order. They go back at its end: an operation takes every record before it
writes any (R244). -/
structure Gathered where
  fl : Flags := 0
  frees : List (Nat × Nat) := []
  deriving DecidableEq, Repr, Inhabited

/-- An operation on trees. -/
abbrev TreeOp (α : Type) := Gathered → Act (α × Gathered)

/-- An operation that changes nothing. -/
def TreeOp.ret {α : Type} (a : α) : TreeOp α := fun g => Act.ret (a, g)
/-- One operation, then the next. -/
def TreeOp.bind {α β : Type} (m : TreeOp α) (k : α → TreeOp β) : TreeOp β :=
  fun g => (m g).andThen fun r => k r.1 r.2
/-- An operation on memory. -/
def TreeOp.of {α : Type} (m : Act α) : TreeOp α := fun g => m.andThen fun a => Act.ret (a, g)
/-- A rounded value, its flags gathered. -/
def TreeOp.round {α : Type} (p : α × Flags) : TreeOp α := fun g => Act.ret (p.1, { g with fl := g.fl ||| p.2 })
/-- Return a record to the pool at the operation's end. -/
def TreeOp.free (va cls : Nat) : TreeOp Unit := fun g => Act.ret ((), { g with frees := g.frees ++ [(va, cls)] })
/-- An operation for every item, in order. -/
def TreeOp.each {α β : Type} (f : α → TreeOp β) : List α → TreeOp (List β)
  | [] => TreeOp.ret []
  | a :: as => (f a).bind fun b => (TreeOp.each f as).bind fun bs => TreeOp.ret (b :: bs)
/-- An operation only when a condition holds. -/
def TreeOp.when (c : Bool) (m : TreeOp Unit) : TreeOp Unit := if c then m else TreeOp.ret ()

/-- A breach of R242. -/
def badHandle : Stop := .fault fcTreeHandle none none
/-- `TREE_BADHANDLE` unless a condition holds. -/
def needTree (c : Bool) : Act Unit := Act.need c badHandle

/-- A record's address is valid (R242). -/
def recAligned (va : Nat) : Bool := va % 16 == 0 && va < 2 ^ 56

/-- A tree set as an operation sees it (R238): who reads it, its header and its pool's descriptor. -/
structure TreeEnv where
  who : Agent
  c : BitVec 8
  set : Nat
  layers : Nat
  heads : Nat
  dcode : Nat
  pool : Nat
  mask : Nat
  deriving DecidableEq, Repr

/-- Channel groups and channels. -/
def TreeEnv.g (v : TreeEnv) : Nat := 2 ^ v.dcode
/-- The head dimension. -/
def TreeEnv.d (v : TreeEnv) : Nat := 16 * v.g
/-- Read, write and read numbers as the operation's agent. -/
def TreeEnv.nat (v : TreeEnv) (va n : Nat) : Act Nat := vnat v.who v.c va n
/-- Write a number. -/
def TreeEnv.put (v : TreeEnv) (va n x : Nat) : Act Unit := vput v.who v.c va n x
/-- The root slot of a layer and head (R238). -/
def TreeEnv.slot (v : TreeEnv) (layer head : Nat) : Nat := v.set + 64 + 8 * (layer * v.heads + head)
/-- Every root slot, in order. -/
def TreeEnv.slots (v : TreeEnv) : List Nat := (List.range (v.layers * v.heads)).map fun i => v.set + 64 + 8 * i
/-- The bytes of the record (R238). -/
def TreeEnv.size (v : TreeEnv) : Nat := 64 + 8 * (v.layers * v.heads)

/-- Read a set's or checkpoint's header (R238, R272). A header outside the ranges of R238 is refused as
one with a nonzero reserved field is. -/
def readSet (who : Agent) (c : BitVec 8) (set : Nat) : Act TreeEnv :=
  (needTree (recAligned set)).andThen fun _ => (vread who c set 64).andThen fun bs =>
    let w := natAt bs 0 8
    let v : TreeEnv :=
      { who, c, set, layers := bitsOf w 0 16, heads := bitsOf w 16 8, dcode := bitsOf w 24 3, pool := bitsOf w 32 3
        mask := natAt bs 8 8 }
    (needTree (natAt bs 16 48 == 0 && bitsOf w 27 5 == 0 && bitsOf w 35 29 == 0 && v.layers ≥ 1 && v.layers ≤ 1024
      && v.heads ≥ 1 && v.heads ≤ 64 && v.dcode ≤ 4)).andThen fun _ => Act.ret v

/-- The address of the set's pool descriptor (R243). -/
def TreeEnv.pd (v : TreeEnv) (s : State) : Nat := ((s.ctx v.c.toNat).reg 0x116).toNat + 64 * v.pool

/-- The pool's `DCODE` is the set's (R242). -/
def TreeEnv.checkPool (v : TreeEnv) : Act Unit :=
  (Act.look v.pd).andThen fun pd => (v.nat pd 1).andThen fun x => needTree (x % 8 == v.dcode)

/-- Open a set for an operation. -/
def openSet (who : Agent) (c : BitVec 8) (set : Nat) : Act TreeEnv :=
  (readSet who c set).andThen fun v => v.checkPool.andThen fun _ => Act.ret v

/-! ## The node pool (R243, R244) -/

/-- The classes of records. -/
def clsI : Nat := 0
/-- A leaf. -/
def clsL : Nat := 1
/-- A payload. -/
def clsP : Nat := 2

/-- The bytes of a record of a class (R240). -/
def recSize (d cls : Nat) : Nat := if cls = 0 then 128 + 8 * d else if cls = 1 then 64 + 2 * d else 48 * d
/-- The place of a class's list head in the descriptor (R243). -/
def headOff (cls : Nat) : Nat := 56 - 8 * cls
/-- The place of a class's count. -/
def countOff (cls : Nat) : Nat := 36 - 4 * cls

/-- Take a record of a class from its list (R244), whose head must be the address of a record (R242). -/
def TreeEnv.alloc (v : TreeEnv) (cls : Nat) : Act Nat :=
  (Act.look v.pd).andThen fun pd => (v.nat (pd + headOff cls) 8).andThen fun head =>
    (Act.need (head != 0) (.fault fcTreePool none none)).andThen fun _ => (needTree (recAligned head)).andThen fun _ =>
      (v.nat head 8).andThen fun next => (v.put (pd + headOff cls) 8 next).andThen fun _ =>
        (v.nat (pd + countOff cls) 4).andThen fun n =>
          (v.put (pd + countOff cls) 4 ((n + 2 ^ 32 - 1) % 2 ^ 32)).andThen fun _ => Act.ret head

/-- Put a record back at the head of its list (R244). -/
def TreeEnv.giveBack (v : TreeEnv) (r : Nat × Nat) : Act Unit :=
  (Act.look v.pd).andThen fun pd => (v.nat (pd + headOff r.2) 8).andThen fun head =>
    (v.put r.1 8 head).andThen fun _ => (v.put (pd + headOff r.2) 8 r.1).andThen fun _ =>
      (v.nat (pd + countOff r.2) 4).andThen fun n => v.put (pd + countOff r.2) 4 ((n + 1) % 2 ^ 32)

/-- Run an operation on a set, its returned records going back at its end: its answer, its flags, and
how many records went back. -/
def TreeEnv.run {α : Type} (v : TreeEnv) (m : TreeOp α) : Act (α × Flags × Nat) :=
  (m {}).andThen fun r => (Act.each v.giveBack r.2.frees).andThen fun _ =>
    Act.ret (r.1, r.2.fl, r.2.frees.length)

/-! ## Nodes (R240 to R242) -/

/-- A node record as it was read. -/
structure Node where
  va : Nat
  first : Nat
  last : Nat
  n : Nat
  rho : Nat
  rc : Nat
  flags : Nat
  pay : Nat
  children : List Nat := []
  /-- Leaf exponents of the key groups, then of the value groups. -/
  xs : List Nat := []
  /-- Leaf centroid mantissas of the keys, then of the values. -/
  cs : List Int := []
  /-- The centroids as numbers. -/
  kc : List Num := []
  vc : List Num := []
  /-- The flags that the centroids' conversion raises (R89). -/
  kf : Flags := 0
  vf : Flags := 0
  deriving DecidableEq, Repr, Inhabited

/-- The fields of `FLAGS` (R240). -/
def Node.leaf (x : Node) : Bool := bitOf x.flags 0
/-- Tentative. -/
def Node.tent (x : Node) : Bool := bitOf x.flags 2
/-- Payload dropped. -/
def Node.evicted (x : Node) : Bool := bitOf x.flags 3
/-- Not resident. -/
def Node.nres (x : Node) : Bool := bitOf x.flags 4
/-- Children. -/
def Node.nch (x : Node) : Nat := bitsOf x.flags 8 8
/-- Pin count. -/
def Node.pin (x : Node) : Nat := bitsOf x.flags 16 8
/-- Speculation id. -/
def Node.spec (x : Node) : Nat := bitsOf x.flags 24 8

/-- FP32 numbers in bytes. -/
def numsAt (bs : List Byte) (a n : Nat) : List Num := (List.range n).map fun i => decodeNum fp32 (natAt bs (a + 4 * i) 4)

/-- The leaf centroids as numbers (R241), with the flags of their conversion (R89). -/
def leafNums (d : Nat) (xs : List Nat) (cs : List Int) : List Num × Flags :=
  let l := (List.range d).map fun ch => bfpToF32 (xs.getD (ch / 16) 0) 8 (cs.getD ch 0)
  (l.map (·.1), l.foldl (fun f p => f ||| p.2) 0)

/-- Read a node record and check it by R242. -/
def readNode (who : Agent) (c : BitVec 8) (d va : Nat) : Act Node :=
  (needTree (recAligned va)).andThen fun _ => (vread who c va 32).andThen fun h =>
    let x : Node :=
      { va, first := natAt h 0 4, last := natAt h 4 4, n := natAt h 8 4, rho := natAt h 12 4, rc := natAt h 16 4
        flags := natAt h 20 4, pay := natAt h 24 8 }
    let ok := bitsOf x.flags 5 3 == 0 && !bitOf x.flags 1 && x.first ≤ x.last && x.rc != 0
    let g := d / 16
    if x.leaf then
      (vread who c (va + 32) (32 + 2 * d)).andThen fun b =>
        let xk := (slice b 0 g).map BitVec.toNat
        let xv := (slice b 16 g).map BitVec.toNat
        let cs := (slice b 32 (2 * d)).map fun m => toSigned 8 m.toNat
        (needTree (ok && x.nch == 0 && x.n == x.last - x.first + 1 && x.n ≤ 16 && (x.pay == 0) == x.evicted
          && recAligned x.pay && natAt b g (16 - g) == 0 && natAt b (16 + g) (16 - g) == 0)).andThen fun _ =>
            let k := leafNums d xk (cs.take d)
            let v := leafNums d xv (cs.drop d)
            Act.ret { x with xs := xk ++ xv, cs, kc := k.1, vc := v.1, kf := k.2, vf := v.2 }
    else
      (vread who c (va + 32) (96 + 8 * d)).andThen fun b =>
        (needTree (ok && x.nch ≥ 1 && x.nch ≤ 8 && x.pay == 0 && natAt b (8 * x.nch) (96 - 8 * x.nch) == 0)).andThen fun _ =>
          Act.ret { x with
            children := (List.range x.nch).map fun j => natAt b (8 * j) 8
            kc := numsAt b 96 d
            vc := numsAt b (96 + 4 * d) d }

/-- The key centroid and the value centroid, as an operation that converts them takes them (R89, R251). -/
def Node.key (x : Node) : List Num × Flags := (x.kc, x.kf)
/-- The value centroid. -/
def Node.val (x : Node) : List Num × Flags := (x.vc, x.vf)

/-- Read a node of a set. -/
def TreeEnv.node (v : TreeEnv) (va : Nat) : Act Node := readNode v.who v.c v.d va

/-- The common header (R240). -/
def nodeHeader (first last n rho rc flags pay : Nat) : List Byte :=
  toBytes first 4 ++ toBytes last 4 ++ toBytes n 4 ++ toBytes rho 4 ++ toBytes rc 4 ++ toBytes flags 4 ++ toBytes pay 8

/-- One more reference on a record (R245); one past 0xFFFF_FFFF is refused (R242). -/
def TreeEnv.addRef (v : TreeEnv) (va : Nat) : Act Unit :=
  (v.node va).andThen fun x => (needTree (x.rc < 2 ^ 32 - 1)).andThen fun _ => v.put (va + 16) 4 (x.rc + 1)

/-- `release` of R245, over at most the levels that remain. -/
def TreeEnv.release (v : TreeEnv) : Nat → Nat → TreeOp Unit
  | 0, _ => TreeOp.of (Act.stop badHandle)
  | n + 1, va =>
    (TreeOp.of (v.node va)).bind fun x => (TreeOp.of (v.put (va + 16) 4 (x.rc - 1))).bind fun _ =>
      TreeOp.when (x.rc == 1) ((TreeOp.each (v.release n) x.children).bind fun _ =>
        (TreeOp.when (x.pay != 0) (TreeOp.free x.pay clsP)).bind fun _ => TreeOp.free va (if x.leaf then clsL else clsI))

/-- A tree never exceeds 12 levels (R250). -/
def treeDepth : Nat := 13

/-! ## The leaf grid (R247, R248) -/

/-- A member of a leaf: its position, and for each key group and then each value group the exponent of
its grid and its 16 integers on `2^(X − 137)`. -/
structure Member where
  pos : Nat
  groups : List (Nat × List Int)
  deriving DecidableEq, Repr, Inhabited

/-- The exponent of a member in a group: 0 for a zero group, else the largest exponent field of its values (R247). It is one
less where the values do not all lie on that BFP8 grid: then only a mantissa -128 reaches that exponent field, and the
BFP8 exponent is meant, with which a single member has residual zero (DESIGN CHOICE, log 146). -/
def groupExp (g : Nat × List Int) : Nat :=
  let big := (g.2.map Int.natAbs).foldl max 0
  let e := max 1 (bitLen big + g.1 - 11)
  if big = 0 then 0 else if g.2.all fun u => u % 2 ^ (e + 4 - g.1) == 0 then e else e - 1

/-- A quotient rounded to an integer, ties to even. -/
def divRne (a : Int) (b : Nat) : Int :=
  let q := a / b
  let r := a % b
  if 2 * r > b ∨ (2 * r = b ∧ q % 2 = 1) then q + 1 else q

/-- A group's integers moved to another grid; none when one is not an integer there. -/
def regrid (xl : Nat) (g : Nat × List Int) : Option (List Int) :=
  if xl ≤ g.1 then some (g.2.map fun u => u * 2 ^ (g.1 - xl))
  else if g.2.all fun u => u % 2 ^ (xl - g.1) == 0 then some (g.2.map fun u => u / 2 ^ (xl - g.1))
  else none

/-- One group of a set of members on its leaf grid (R247): the exponent, the centroid and the residuals
of each member; none when the group fails the test. -/
def groupForm (rows : List (Nat × List Int)) : Option (Nat × List Int × List (List Int)) :=
  let xl := (rows.map groupExp).foldl max 0
  if rows.any fun g => groupExp g != 0 && xl - groupExp g > 4 then none
  else match rows.mapM (regrid xl) with
    | none => none
    | some us =>
      let c := (List.range 16).map fun k =>
        max (-128) (min 127 (divRne ((us.map fun u => u.getD k 0).sum) (16 * rows.length)))
      let rs := us.map fun u => List.zipWith (fun a b => a - 16 * b) u c
      if rs.all fun r => r.all fun q => decide (-2048 ≤ q) && decide (q ≤ 2047) then some (xl, c, rs) else none

/-- `valid` of R247, with the leaf's form: per group the exponent, the centroid and the residuals. -/
def leafForm (ng : Nat) (p : List Member) : Option (List (Nat × List Int × List (List Int))) :=
  (List.range ng).mapM fun gi => groupForm (p.map fun m => m.groups.getD gi (0, []))

/-- `parts` of R248. -/
def leafParts (ng : Nat) : Nat → List Member → List (List Member)
  | 0, _ => []
  | n + 1, p =>
    if p.isEmpty then []
    else if (leafForm ng p).isSome then [p]
    else
      let h := (p.length + 1) / 2
      leafParts ng n (p.take h) ++ leafParts ng n (p.drop h)

/-- `place` of R248: the members of the leaves that replace the rightmost leaf. -/
def placeMember (ng : Nat) (tok : Member) : Nat → Bool → List Member → List (List Member)
  | 0, _, t => [t, [tok]]
  | n + 1, evicted, t =>
    if evicted ∨ t.length = 16 then [t, [tok]]
    else if (leafForm ng (t ++ [tok])).isSome then [t ++ [tok]]
    else
      let h := (t.length + 1) / 2
      leafParts ng 6 (t.take h)
        ++ (if (t.drop h).isEmpty then [[tok]] else placeMember ng tok n false (t.drop h))

/-- A token's value encoded (R90, R237): per group the BFP8 exponent and the integers on the leaf grid. -/
def encodeGroups (vals : List Nat) (groups : Nat) : List (Nat × List Int) × Flags :=
  let es := (List.range groups).map fun g => bfpEncode 8 (((vals.drop (16 * g)).take 16).map fun b => b * 65536)
  (es.map fun e => (e.1, e.2.1.map fun m => 16 * m), es.foldl (fun f e => f ||| e.2.2) 0)

/-- The members of a leaf with its payload (R241). -/
def TreeEnv.members (v : TreeEnv) (x : Node) : Act (List Member) :=
  (vread v.who v.c x.pay (48 * v.d)).andThen fun pay =>
    Act.ret ((List.range x.n).map fun t =>
      { pos := x.first + t
        groups := (List.range (2 * v.g)).map fun gi =>
          (x.xs.getD gi 0, List.zipWith (fun c r => 16 * c + r) ((x.cs.drop (16 * gi)).take 16)
            (unpackSigned 12 (natAt pay (384 * gi + 24 * t) 24) 16)) })

/-- A member's numbers: its key, then its value (R241). -/
def Member.nums (m : Member) : List Num :=
  m.groups.flatMap fun g => g.2.map fun u => .fin (u < 0) u.natAbs ((g.1 : Int) - 137) false

/-- The residuals of the members as numbers on the key groups, one list a member (R247). -/
def keyResiduals (g : Nat) (form : List (Nat × List Int × List (List Int))) (t : Nat) : List Num :=
  (form.take g).flatMap fun f => (f.2.2.getD t []).map fun r => .fin (r < 0) r.natAbs ((f.1 : Int) - 137) false

/-- `rho_leaf` of R247. -/
def rhoLeaf (g n : Nat) (form : List (Nat × List Int × List (List Int))) : Num × Flags :=
  (List.range n).foldl (fun acc t => andRound acc fun r => andRound (normRU (keyResiduals g form t)) fun q => maxNum r q)
    (Num.zero, 0)

/-- The bytes of a leaf from 32 on, and of its payload (R241). -/
def leafBody (g : Nat) (form : List (Nat × List Int × List (List Int))) : List Byte :=
  let xs := form.map fun f => BitVec.ofNat 8 f.1
  let pad := List.replicate (16 - g) (0 : Byte)
  xs.take g ++ pad ++ (xs.drop g ++ pad) ++ form.flatMap fun f => f.2.1.map fun c => BitVec.ofNat 8 (wrapInt 8 c)
/-- The payload's bytes. -/
def payBody (form : List (Nat × List Int × List (List Int))) : List Byte :=
  form.flatMap fun f => (List.range 16).flatMap fun t => toBytes (packSigned 12 (f.2.2.getD t [])) 24

/-- Write a leaf from a valid set of members (R247). `flags` are the record's flags. -/
def TreeEnv.putLeaf (v : TreeEnv) (va pay rc flags : Nat) (p : List Member) : TreeOp Unit :=
  match leafForm (2 * v.g) p with
  | none => TreeOp.ret ()
  | some form =>
    let first := (p.map Member.pos).headD 0
    (TreeOp.round (rhoLeaf v.g p.length form)).bind fun rho =>
      (TreeOp.of (vwrite v.who v.c va (nodeHeader first (first + p.length - 1) p.length (encF rho) rc flags pay
        ++ leafBody v.g form))).bind fun _ => TreeOp.of (vwrite v.who v.c pay (payBody form))

/-! ## Writing a path (R249) -/

/-- `FLAGS` of a copy, or of a new record, under a speculation id (R249). -/
def specFlags (k : Option Nat) : Nat := match k with | some k => 4 + k * 2 ^ 24 | none => 0

/-- The pointer to a record moves: in the root slot, or in the parent. -/
def TreeEnv.relink (v : TreeEnv) (slot : Nat) (parent : Option Nat) (old new : Nat) : Act Unit :=
  match parent with
  | none => v.put slot 8 new
  | some p => (v.node p).andThen fun x => match x.children.findIdx? (· == old) with
    | some j => v.put (p + 32 + 8 * j) 8 new
    | none => Act.stop badHandle

/-- A copy of a node (R249): `RC` 1, `PIN` 0; without its payload for an eviction (R255). -/
def TreeEnv.copyNode (v : TreeEnv) (x : Node) (k : Option Nat) (noPay : Bool) : Act Nat :=
  let cls := if x.leaf then clsL else clsI
  let keep := x.flags - x.flags / 2 ^ 16 * 2 ^ 16 - b2n x.tent * 4
  (v.alloc cls).andThen fun y => (vread v.who v.c x.va (recSize v.d cls)).andThen fun raw =>
    (if x.leaf && x.pay != 0 && !noPay then
      (v.alloc clsP).andThen fun p => (vread v.who v.c x.pay (48 * v.d)).andThen fun bs =>
        (vwrite v.who v.c p bs).andThen fun _ => Act.ret p
     else Act.ret 0).andThen fun p =>
      let flags := keep + specFlags k + (if x.leaf && x.pay != 0 && noPay then 8 else 0)
      (vwrite v.who v.c y (raw.take 16 ++ toBytes 1 4 ++ toBytes flags 4 ++ toBytes p 8 ++ raw.drop 32)).andThen fun _ =>
        (Act.each v.addRef x.children).andThen fun _ => Act.ret y

/-- `write_path` below a node that is done: the new addresses of the path. -/
def TreeEnv.writeGo (v : TreeEnv) (slot : Nat) (k : Option Nat) (noPay : Bool) : Option Nat → List Nat → TreeOp (List Nat)
  | _, [] => TreeOp.ret []
  | parent, va :: path =>
    (TreeOp.of (v.node va)).bind fun x =>
      let same := x.rc ≤ 1 && (match k with | none => true | some k => x.tent && x.spec == k)
      (if same then TreeOp.ret va
       else (TreeOp.of (v.copyNode x k noPay)).bind fun y => (TreeOp.of (v.relink slot parent va y)).bind fun _ =>
         (v.release treeDepth va).bind fun _ => TreeOp.ret y).bind fun y =>
        (v.writeGo slot k noPay (some y) path).bind fun ys => TreeOp.ret (y :: ys)

/-- `write_path` of R249; none when a plain write meets a tentative node. -/
def TreeEnv.writePath (v : TreeEnv) (slot : Nat) (path : List Nat) (k : Option Nat) (noPay : Bool) :
    TreeOp (Option (List Nat)) :=
  (TreeOp.of (Act.each v.node path)).bind fun xs =>
    if k.isNone && xs.any Node.tent then TreeOp.ret none
    else (v.writeGo slot k noPay none path).bind fun ys => TreeOp.ret (some ys)

/-- The rightmost path from a node down, over the levels that remain. -/
def TreeEnv.rightmost (v : TreeEnv) : Nat → Nat → Act (List Nat)
  | 0, _ => Act.stop badHandle
  | n + 1, va => (v.node va).andThen fun x =>
    if x.leaf then Act.ret [va]
    else (v.rightmost n (x.children.getLastD 0)).andThen fun p => Act.ret (va :: p)

/-! ## Appending (R250, R251) -/

/-- The new centroid of a channel (R251): counts and children's values. -/
def centroid (total : Num) (ws : List Num) (cs : List Num) : Num × Flags :=
  andRound ((List.zip ws cs).foldl (fun acc wc => andRound acc fun a => andRound (fMul .rne wc.1 wc.2) fun p => fAdd .rne a p)
    (Num.zero, 0)) fun a => fDiv .rne a total

/-- Every channel of a centroid. -/
def centroids (d : Nat) (total : Num) (ws : List Num) (cs : List (List Num)) : List Num × Flags :=
  (List.range d).foldl (fun acc ch => andRound acc fun l =>
    andRound (centroid total ws (cs.map fun c => c.getD ch Num.zero)) fun x => (l ++ [x], 0)) ([], 0)

/-- `RHO` of an internal node (R251). -/
def rhoInternal (kids : List Node) (kc : List Num) : Num × Flags :=
  let one := fun (x : Node) => andRound (distRU x.kc kc) fun q => fAdd .ru (decodeNum fp32 x.rho) q
  match kids with
  | [] => (Num.zero, 0)
  | x :: xs => xs.foldl (fun acc y => andRound acc fun r => andRound (one y) fun q => maxNum r q) (one x)

/-- The counts of children as numbers. -/
def childCounts (kids : List Node) : List Num × Flags :=
  kids.foldl (fun acc x => andRound acc fun l => andRound (fCount .rne x.n) fun w => (l ++ [w], 0)) ([], 0)

/-- The body of a recomputed node: `RHO`, the key centroid and the value centroid. -/
def internalBody (d : Nat) (kids : List Node) : (Num × List Num × List Num) × Flags :=
  andRound (childCounts kids) fun ws => andRound (fCount .rne ((kids.map Node.n).sum)) fun total =>
    andRound (kids.map Node.kc, kids.foldl (fun f x => f ||| x.kf ||| x.vf) 0) fun ks =>
      andRound (centroids d total ws ks) fun kc => andRound (centroids d total ws (kids.map Node.vc)) fun vc =>
        andRound (rhoInternal kids kc) fun rho => ((rho, kc, vc), 0)

/-- Recompute an internal node from its stored children (R251). -/
def TreeEnv.recompute (v : TreeEnv) (va : Nat) : TreeOp Unit :=
  (TreeOp.of (vread v.who v.c va 96)).bind fun h =>
    let flags := natAt h 20 4
    let addrs := (List.range (bitsOf flags 8 8)).map fun j => natAt h (32 + 8 * j) 8
    (TreeOp.of (Act.each v.node addrs)).bind fun kids => (TreeOp.round (internalBody v.d kids)).bind fun b =>
      TreeOp.of (vwrite v.who v.c va
        (nodeHeader ((kids.map Node.first).headD 0) ((kids.map Node.last).getLastD 0) ((kids.map Node.n).sum % 2 ^ 32)
          (encF b.1) (natAt h 16 4) flags 0
         ++ h.drop 32 ++ List.replicate 32 (0 : Byte) ++ (b.2.1 ++ b.2.2).flatMap fun x => toBytes (encF x) 4))

/-- A new internal node with its first children; its values are recomputed later in the operation. -/
def TreeEnv.newInternal (v : TreeEnv) (k : Option Nat) (kids : List Nat) : Act Nat :=
  (v.alloc clsI).andThen fun r =>
    (vwrite v.who v.c r (nodeHeader 0 0 1 0 1 (specFlags k + kids.length * 2 ^ 8) 0
      ++ (kids.flatMap fun a => toBytes a 8) ++ List.replicate (recSize v.d clsI - 32 - 8 * kids.length) (0 : Byte))).andThen
      fun _ => Act.ret r

/-- `insert_right` of R250. `rp` is the rightmost path by level, the leaf first; the answer is the new one
and the new internal nodes with their levels, in order. -/
def TreeEnv.insertRight (v : TreeEnv) (slot : Nat) (k : Option Nat) : Nat → List Nat → Nat → Nat →
    Act (List Nat × List (Nat × Nat))
  | 0, _, _, _ => Act.stop badHandle
  | n + 1, rp, y, l =>
    if rp.length = l + 1 then
      (v.newInternal k [rp.getD l 0, y]).andThen fun r => (v.put slot 8 r).andThen fun _ =>
        Act.ret (setNth rp l y ++ [r], [(l + 1, r)])
    else
      let p := rp.getD (l + 1) 0
      (v.nat (p + 20) 4).andThen fun flags =>
        let nch := bitsOf flags 8 8
        if nch < 8 then
          (v.put (p + 32 + 8 * nch) 8 y).andThen fun _ => (v.put (p + 20) 4 (flags + 2 ^ 8)).andThen fun _ =>
            Act.ret (setNth rp l y, [])
        else
          (v.newInternal k [y]).andThen fun r => (v.insertRight slot k n rp r (l + 1)).andThen fun q =>
            Act.ret (setNth q.1 l y, (l + 1, r) :: q.2)

/-- New leaves are inserted from left to right (R250). -/
def TreeEnv.insertLeaves (v : TreeEnv) (slot : Nat) (k : Option Nat) :
    List (List Member) → List Nat → TreeOp (List (Nat × Nat))
  | [], _ => TreeOp.ret []
  | p :: ps, rp =>
    (TreeOp.of (v.alloc clsL)).bind fun y => (TreeOp.of (v.alloc clsP)).bind fun pay =>
      (v.putLeaf y pay 1 (1 + specFlags k) p).bind fun _ =>
        (TreeOp.of (v.insertRight slot k treeDepth rp y 0)).bind fun q =>
          (v.insertLeaves slot k ps q.1).bind fun more => TreeOp.ret (q.2 ++ more)

/-- The outcome of an operation: `AUX` and the status bits of R271. -/
abbrev Outcome := Nat × Nat

/-- A refusal (R271, R273). -/
def treeRefused : Outcome := (0xFFFFFFFF, 0x40)

/-- `append` of R250 to the tree of a root slot, with the refusals of R273. -/
def TreeEnv.append (v : TreeEnv) (slot : Nat) (groups : List (Nat × List Int)) (k : Option Nat) : TreeOp Outcome :=
  (TreeOp.of (v.nat slot 8)).bind fun root =>
    if root = 0 then
      (TreeOp.of (v.alloc clsL)).bind fun y => (TreeOp.of (v.alloc clsP)).bind fun pay =>
        (v.putLeaf y pay 1 (1 + specFlags k) [⟨0, groups⟩]).bind fun _ =>
          (TreeOp.of (v.put slot 8 y)).bind fun _ => TreeOp.ret (0, 0)
    else
      (TreeOp.of (v.node root)).bind fun rn => (TreeOp.of (v.rightmost treeDepth root)).bind fun path =>
        if rn.last + 1 > 0xFFFFFFFE then TreeOp.ret treeRefused
        else (v.writePath slot path k false).bind fun written =>
          match written with
          | none => TreeOp.ret treeRefused
          | some path =>
            (TreeOp.of (v.node (path.getLastD 0))).bind fun lf =>
              (if lf.evicted then TreeOp.ret [] else TreeOp.of (v.members lf)).bind fun t =>
                let leaves := placeMember (2 * v.g) ⟨rn.last + 1, groups⟩ 20 lf.evicted t
                (TreeOp.when (!lf.evicted) (v.putLeaf lf.va lf.pay lf.rc lf.flags (leaves.headD []))).bind fun _ =>
                  (v.insertLeaves slot k leaves.tail path.reverse).bind fun news =>
                    let olds := (List.zip (List.range path.length) path.reverse).tail
                    let todo := (List.range (treeDepth + 2)).flatMap fun l => (olds ++ news).filter fun a => a.1 == l
                    (TreeOp.each (fun a => v.recompute a.2) todo).bind fun _ =>
                      TreeOp.ret (rn.last + 1, if leaves.length > 1 then 0x10 else 0)

/-- A whole append (R273): the token's encoding, then `append`. -/
def TreeEnv.appendToken (v : TreeEnv) (slot : Nat) (key val : List Nat) (k : Option Nat) : TreeOp Outcome :=
  (TreeOp.round (encodeGroups key v.g)).bind fun ks => (TreeOp.round (encodeGroups val v.g)).bind fun vs =>
    if (ks ++ vs).any fun g => g.1 == 255 then TreeOp.ret (0xFFFFFFFF, 0x20) else v.append slot (ks ++ vs) k

/-! ## Sets and checkpoints (R252 to R254) -/

/-- The roots of a record's slots. -/
def TreeEnv.roots (v : TreeEnv) : Act (List Nat) := Act.each (fun a => v.nat a 8) v.slots

/-- One reference on every root of a set: how many there are. -/
def TreeEnv.refRoots (v : TreeEnv) : Act Nat :=
  v.roots.andThen fun rs => (Act.each v.addRef (rs.filter (· != 0))).andThen fun l => Act.ret l.length

/-- Two records of a set's size overlap (check 6 of R272). -/
def TreeEnv.needApart (v : TreeEnv) (dst : Nat) : Act Unit :=
  (needTree (recAligned dst)).andThen fun _ =>
    Act.need (v.set + v.size ≤ dst || dst + v.size ≤ v.set) (.fault fcIllegal none (some 6))

/-- A fork (R252, R274). -/
def TreeEnv.fork (v : TreeEnv) (dst : Nat) : Act Outcome :=
  (v.needApart dst).andThen fun _ => v.refRoots.andThen fun n => (vread v.who v.c v.set v.size).andThen fun bs =>
    (vwrite v.who v.c dst bs).andThen fun _ => Act.ret (n, 0)

/-- A checkpoint of the set (R239, R272): its header is the set's. -/
def TreeEnv.openCkpt (v : TreeEnv) (ck : Nat) : Act TreeEnv :=
  (readSet v.who v.c ck).andThen fun w =>
    (needTree (w.layers == v.layers && w.heads == v.heads && w.dcode == v.dcode && w.pool == v.pool)).andThen fun _ =>
      Act.ret w

/-- A checkpoint (R253, R275). -/
def TreeEnv.checkpoint (v : TreeEnv) (ck : Nat) : Act Outcome :=
  (v.needApart ck).andThen fun _ => (v.openCkpt ck).andThen fun w => w.roots.andThen fun old =>
    if old.any (· != 0) then Act.ret treeRefused
    else v.refRoots.andThen fun n => v.roots.andThen fun rs =>
      (Act.each (fun p => w.put p.1 8 p.2) (List.zip w.slots rs)).andThen fun _ => Act.ret (n, 0)

/-- The commit of a node and of its tentative descendants (R254): how many. -/
def TreeEnv.untent (v : TreeEnv) : Nat → Nat → Act Nat
  | 0, _ => Act.stop badHandle
  | n + 1, va => (v.node va).andThen fun x =>
    if !x.tent then Act.ret 0
    else (v.put (va + 20) 4 (x.flags % 2 ^ 24 - 4)).andThen fun _ => (Act.each (v.untent n) x.children).andThen fun ks =>
      Act.ret (1 + ks.sum)

/-- A root slot gives its reference up and takes another root. -/
def TreeEnv.swapRoot (v : TreeEnv) (slot new : Nat) : TreeOp Unit :=
  (TreeOp.of (v.nat slot 8)).bind fun root => (TreeOp.when (root != 0) (v.release treeDepth root)).bind fun _ =>
    TreeOp.of (v.put slot 8 new)

/-- A commit (R254, R276): the nodes whose `TENT` was cleared. -/
def TreeEnv.commit (v : TreeEnv) (ck : Nat) : TreeOp Outcome :=
  (TreeOp.of (v.openCkpt ck)).bind fun w => (TreeOp.of v.roots).bind fun rs =>
    (TreeOp.of (Act.each (v.untent treeDepth) (rs.filter (· != 0)))).bind fun ks =>
      (TreeOp.each (fun a => w.swapRoot a 0) w.slots).bind fun _ => TreeOp.ret (ks.sum, 0)

/-- A truncation (R254, R276); `AUX` is the number of records returned. -/
def TreeEnv.truncate (v : TreeEnv) (ck : Nat) : TreeOp Unit :=
  (TreeOp.of (v.openCkpt ck)).bind fun w => (TreeOp.of w.roots).bind fun rs =>
    (TreeOp.each (fun p => v.swapRoot p.1 p.2) (List.zip v.slots rs)).bind fun _ =>
      (TreeOp.each (fun a => TreeOp.of (w.put a 8 0)) w.slots).bind fun _ => TreeOp.ret ()

/-- A free (R277). -/
def TreeEnv.freeRoots (v : TreeEnv) : TreeOp Unit :=
  (TreeOp.each (fun a => v.swapRoot a 0) v.slots).bind fun _ => TreeOp.ret ()

/-! ## Eviction (R255) -/

/-- The leaves of a subtree that meet a range of positions, in order, with their paths. -/
def TreeEnv.leavesIn (v : TreeEnv) (p0 p1 : Nat) : Nat → Nat → Act (List Nat)
  | 0, _ => Act.stop badHandle
  | n + 1, va => (v.node va).andThen fun x =>
    if x.last < p0 ∨ p1 < x.first then Act.ret []
    else if x.leaf then Act.ret (if p0 ≤ x.first ∧ x.last ≤ p1 ∧ !x.evicted then [x.first] else [])
    else (Act.each (v.leavesIn p0 p1 n) x.children).andThen fun ls => Act.ret ls.flatten

/-- The path to the leaf that covers a position. -/
def TreeEnv.pathTo (v : TreeEnv) (pos : Nat) : Nat → Nat → Act (List Nat)
  | 0, _ => Act.stop badHandle
  | n + 1, va => (v.node va).andThen fun x =>
    if x.leaf then Act.ret [va]
    else (Act.each v.node x.children).andThen fun kids =>
      match kids.find? fun k => pos ≤ k.last with
      | some k => (v.pathTo pos n k.va).andThen fun p => Act.ret (va :: p)
      | none => Act.stop badHandle

/-- Evict the leaf at a position, unless it is pinned: true when it was evicted. -/
def TreeEnv.evictLeaf (v : TreeEnv) (slot pos : Nat) : TreeOp Bool :=
  (TreeOp.of (v.nat slot 8)).bind fun root => (TreeOp.of (v.pathTo pos treeDepth root)).bind fun path =>
    (TreeOp.of (Act.each v.node path)).bind fun xs =>
      let x := xs.getLastD default
      if x.pin ≠ 0 ∨ xs.any Node.tent then TreeOp.ret false
      else (v.writePath slot path none true).bind fun written =>
        let y := (written.getD []).getLastD 0
        (TreeOp.when (y == x.va) (TreeOp.free x.pay clsP)).bind fun _ =>
          (TreeOp.of (v.nat (y + 20) 4)).bind fun flags =>
            (TreeOp.of (v.put (y + 20) 4 (if bitOf flags 3 then flags else flags + 8))).bind fun _ =>
              (TreeOp.of (v.put (y + 24) 8 0)).bind fun _ => TreeOp.ret true

/-- An eviction over the trees of a set (R255, R278). -/
def TreeEnv.evict (v : TreeEnv) (p0 p1 : Nat) : TreeOp Outcome :=
  (TreeOp.each (fun slot => (TreeOp.of (v.nat slot 8)).bind fun root =>
      if root = 0 ∨ p1 < p0 then TreeOp.ret []
      else (TreeOp.of (v.leavesIn p0 p1 treeDepth root)).bind fun ps => TreeOp.each (v.evictLeaf slot) ps) v.slots).bind
    fun rs =>
      let done := (rs.flatten.filter id).length
      let kept := (rs.flatten.filter fun b => !b).length
      TreeOp.ret (min done 65535 + min kept 65535 * 2 ^ 16, if kept > 0 ∧ done = 0 then 0x80 else 0)

/-- The length of a tree (R284). -/
def TreeEnv.length (v : TreeEnv) (slot : Nat) : Act Nat :=
  (v.nat slot 8).andThen fun root =>
    if root = 0 then Act.ret 0
    else (v.node root).andThen fun x => (v.rightmost treeDepth root).andThen fun p =>
      Act.ret ((x.last + 1) % 2 ^ 32 + p.length * 2 ^ 32 + b2n x.tent * 2 ^ 36)

end Sys2Proof.Machine
end

