-- ==== Sys2Proof/Machine/Tree.lean ====
section
/-! DEFINITION. The summary unit (R256 to R284): the order of operations on a root slot or a record, the
descent, rotation, and the instructions `TAPP` to `TFREE`. -/

namespace Sys2Proof.Machine

open Sys2Proof

/-! ## What waits behind a parked operation (R256, R266, R288) -/

/-- What the base die serves one at a time: the root slots of a set (one, or all), and a sequence record. -/
inductive OrderKey where
  | root (set : Nat) (slot : Option (Nat × Nat))
  | sequence (va : Nat)
  deriving DecidableEq, Repr

/-- Two requests are served in order. -/
def OrderKey.meets : OrderKey → OrderKey → Bool
  | .root s a, .root t b => s == t && (match a, b with | some x, some y => x == y | _, _ => true)
  | .sequence a, .sequence b => a == b
  | _, _ => false

/-- A number of memory as it was last written. -/
def State.peek (s : State) (c : BitVec 8) (va n : Nat) : Nat :=
  ofBytes ((List.range n).map fun i => match s.walk c (va + i) with
    | .leaf e lvl epa =>
      let p : Page := ⟨e, lvl, epa⟩
      mapGet 0 s.mem (p.pa (va + i)) ^^^ (s.keyByte agentSched c p (va + i)).1
    | _ => 0)

/-- Layer and head of a tree selector (R270). -/
def selLayer (r : W64) : Nat := bitsOf r.toNat 16 10
/-- Head. -/
def selHead (r : W64) : Nat := bitsOf r.toNat 26 6

/-- Bytes of a `TDESC` request before its root reference is taken: the block and the query (R279). -/
def descBytes : Nat := 576
/-- Bytes once it is taken. -/
def descBegun : Nat := 595
/-- The bytes of a descent whose output is written. -/
def descReady : Nat := descBegun + 8
/-- A descent has taken its root reference and has not yet ended (R268). -/
def Req.descends (r : Req) : Bool := opcodeOf r.instr == 0xC6 && r.kind == .data && descBegun ≤ r.blk.length

/-- The fields of a descent block (R279). -/
def descSet (blk : List Byte) : Nat := natAt blk 16 8
/-- `SEQ`. -/
def descSeq (blk : List Byte) : Nat := natAt blk 24 8
/-- `LAYER`. -/
def descLayer (blk : List Byte) : Nat := bitsOf (natAt blk 0 2) 0 10
/-- `HEAD`. -/
def descHead (blk : List Byte) : Nat := bitsOf (natAt blk 0 2) 10 6
/-- `BUDGET`. -/
def descBudget (blk : List Byte) : Nat := natAt blk 2 2
/-- `OA`. -/
def descOa (blk : List Byte) : Nat := natAt blk 4 2
/-- `QA`. -/
def descQa (blk : List Byte) : Nat := natAt blk 6 2
/-- `SCL`. -/
def descScl (blk : List Byte) : Num := decodeNum fp32 (natAt blk 8 4)
/-- `TAU`. -/
def descTau (blk : List Byte) : Num := decodeNum fp32 (natAt blk 12 4)
/-- `PQ`. -/
def descPq (blk : List Byte) : Nat := natAt blk 32 4

/-- What a request is served in order with. -/
def Req.orderKeys (s : State) (r : Req) : List OrderKey :=
  let o := opcodeOf r.instr
  let m := (formOf r.instr).mod
  let set := r.l.toNat
  if o = 0xC0 ∨ (o = 0xC8 ∧ m = 0) then [.root set (some (selLayer r.r, selHead r.r))]
  else if o = 0xC6 then
    (if r.blk.length > descReady then [.sequence (descSeq r.blk)]
     else if r.blk.length ≥ descBegun then []
     else [.root (descSet r.blk) (some (descLayer r.blk, descHead r.blk))])
  else if (0xC1 ≤ o ∧ o ≤ 0xC5) ∨ o = 0xC7 ∨ o = 0xCA then [.root set none]
  else if (o = 0xD0 ∧ m = 0) ∨ (o = 0xD1 ∧ m = 0) ∨ o = 0xD2 ∨ o = 0xD3 then [.sequence set]
  else if 0xD6 ≤ o ∧ o ≤ 0xD8 then (if natAt r.blk 0 8 = 0 then [] else [.sequence (natAt r.blk 0 8)])
  else if o = 0xD9 ∨ o = 0xDA then [.sequence set, .root (s.peek r.ctx (set + 120) 8) none]
  else []

/-- A request waits behind a parked one of another unit. -/
def State.behindParked (s : State) (e : Engine) (r : Req) : Bool :=
  s.parked.any fun p => p.1 != e && (match s.queue p.1 with
    | h :: _ => h.ctx == r.ctx && (h.orderKeys s).any fun a => (r.orderKeys s).any a.meets
    | [] => false)

/-- A unit executes a request unless it waits behind a parked one. -/
def State.serveOrdered (s : State) (e : Engine) (r : Req) (m : Act W64) : State :=
  if r.kind = .data ∧ s.behindParked e r then s
  else s.serve e r (m.andThen fun v => Act.ret (v, true))

/-- A summary unit as a reader of memory (R267). -/
def agentT (t : Nat) : Agent := ⟨pathT, t⟩

/-- A summary request sees the writes of boundary requests that replied before it was issued (R288). -/
def State.seeBoundary (s : State) (t : Nat) (r : Req) : State :=
  s.freshen (agentT t) fun e => e.src == pathB && e.tick < r.seq

/-- A summary unit takes the head of its queue (R268). -/
def treeTurn (go : Nat → Req → Act W64) (e : Engine) (r : Req) (s : State) : State :=
  match e with
  | .summary t => (s.seeBoundary t r).serveOrdered e r (go t r)
  | _ => s

/-- A tree status word (R271): its flags are those of every rounding, `UF` of a tiny bound too (DEDUCED, log 142). -/
def treeStatus (aux hits : Nat) (fl : Flags) (st : Nat) : W64 :=
  BitVec.ofNat 64 (aux % 2 ^ 32 * 2 ^ 32 + min hits 255 * 2 ^ 24 + fl.toNat * 2 ^ 8 + st)

/-- An operand check fails (R272). -/
def needCheck (n : Nat) (c : Bool) : Act Unit := Act.need c (.fault fcIllegal none (some (BitVec.ofNat 64 n)))

/-- An operation on the set L with its outcome as a status word. -/
def onSet (t : Nat) (r : Req) (go : TreeEnv → TreeOp Outcome) : Act W64 :=
  (openSet (agentT t) r.ctx r.l.toNat).andThen fun v => (v.run (go v)).andThen fun x =>
    Act.ret (treeStatus x.1.1 0 x.2.1 x.1.2)

/-- The root slot that a selector names in a set (R272). -/
def TreeEnv.selected (v : TreeEnv) (layer head : Nat) : Act Nat :=
  (needTree (layer < v.layers && head < v.heads)).andThen fun _ => Act.ret (v.slot layer head)

/-- The BF16 encodings of `n` channels in a byte list. -/
def halves (bs : List Byte) (n : Nat) : List Nat := (List.range n).map fun i => natAt bs (2 * i) 2

/-- `TAPP` at its unit (R273). -/
def tappUnit (f : Form) (t : Nat) (r : Req) : Act W64 :=
  let sid := bitsOf r.r.toNat 32 8
  let spa := bitsOf r.r.toNat 0 16
  (needCheck 1 (r.r.toNat < 2 ^ 40 && spa % 16 == 0)).andThen fun _ => (needCheck 2 ((sid == 0) == (f.mod == 0))).andThen fun _ =>
    (openSet (agentT t) r.ctx r.l.toNat).andThen fun v => (needCheck 1 (spa + 4 * v.d ≤ 65536)).andThen fun _ =>
      (v.selected (selLayer r.r) (selHead r.r)).andThen fun slot => (spGet pathT t spa (4 * v.d)).andThen fun bs =>
        (v.run (v.appendToken slot (halves bs v.d) (halves (bs.drop (2 * v.d)) v.d) (if sid = 0 then none else some sid))).andThen
          fun x => Act.ret (treeStatus x.1.1 0 x.2.1 x.1.2)

/-! ## Block tables (R259, R260) -/

/-- The ranges of key blocks of a query's row; none when the set has no table. -/
abbrev Ranges := Option (List (Nat × Nat))

/-- A block table's header is checked (R272). -/
def checkTable (who : Agent) (c : BitVec 8) (mask : Nat) : Act Unit :=
  if mask = 0 then Act.ret ()
  else (vread who c mask 16).andThen fun h => needTree (natAt h 4 4 != 0 && natAt h 8 8 == 0)

/-- The row of a query position (R259). -/
def readRanges (who : Agent) (c : BitVec 8) (mask pq : Nat) : Act Ranges :=
  if mask = 0 then Act.ret none
  else (vread who c mask 16).andThen fun h =>
    let row := pq / 64
    if row < natAt h 0 4 ∨ natAt h 0 4 + natAt h 4 4 ≤ row then Act.ret (some [])
    else (vread who c (mask + 16 + 128 * (row - natAt h 0 4)) 128).andThen fun b =>
      Act.ret (some (((List.range 16).map fun j => (natAt b (8 * j) 4, natAt b (8 * j + 4) 4)).filter fun r => r.1 ≤ r.2))

/-- The first block from `cur` on that the ranges leave out, over as many ranges as remain. -/
def coverFrom (rs : List (Nat × Nat)) : Nat → Nat → Nat
  | 0, cur => cur
  | n + 1, cur => coverFrom rs n (rs.foldl (fun m r => if r.1 ≤ cur then max m (r.2 + 1) else m) cur)

/-- A node's positions are all allowed (R260). -/
def Ranges.whole (rs : Ranges) (first last : Nat) : Bool :=
  match rs with
  | none => true
  | some rs => last / 64 < coverFrom rs 16 (first / 64)
/-- A node's positions are all masked (R260). -/
def Ranges.masked (rs : Ranges) (first last : Nat) : Bool :=
  match rs with
  | none => false
  | some rs => rs.all fun r => last / 64 < r.1 || r.2 < first / 64

/-! ## The descent (R261 to R264) -/

/-- An entry of the frontier: a summary of a node, or an exact leaf with the score and the value of each
allowed member. -/
structure Ent where
  node : Node
  partly : Bool := false
  res : Bool := true
  s : Num := .nan false
  beta : Num := .nan false
  exact : Option (List (Num × List Num)) := none
  m : Num := .fin false 0 0 false
  lo : Num := .fin false 0 0 false
  deriving DecidableEq, Repr

/-- The inputs of a descent. -/
structure Desc where
  q : List Num
  nq : Num
  scl : Num
  tau : Num
  budget : Nat
  ranges : Ranges
  deriving DecidableEq, Repr

/-- `dotm` of R261 over chunks of 32 channels, by fuel. -/
def dotGo : Nat → Num → List Num → List Num → Num × Flags
  | 0, acc, _, _ => (acc, 0)
  | n + 1, acc, q, c =>
    if q.isEmpty then (acc, 0)
    else
      let ps := List.zipWith mulNum (q.take 32) (c.take 32)
      let t := treeSum (ps.map (·.1))
      andRound (acc, ps.foldl (fun f p => f ||| p.2) t.2) fun acc =>
        andRound (fAdd .rne acc t.1) fun a => dotGo n a (q.drop 32) (c.drop 32)

/-- A score (R261). -/
def Desc.score (x : Desc) (c : List Num) : Num × Flags := andRound (dotGo 8 Num.zero x.q c) fun d => fMul .rne d x.scl

/-- `summarise` of R261. -/
def Desc.summarise (x : Desc) (n : Node) (res : Bool) : Ent × Flags :=
  andRound (andRound n.key x.score) fun s => andRound (fMul .ru x.nq (decodeNum fp32 n.rho)) fun b =>
    andRound (fMul .ru b x.scl) fun beta =>
      ({ node := n, partly := !x.ranges.whole n.first n.last, res := res && !n.nres, s, beta }, 0)

/-- The bounds of an entry against M (R261). -/
def Ent.bounds (e : Ent) (top : Num) : Ent × Flags :=
  match e.exact with
  | some ms =>
    andRound (ms.foldl (fun acc m => andRound acc fun a => andRound (fSub .rd m.1 top) fun x =>
      andRound (fPowMin .rd x) fun p => fAdd .rd a p) (Num.zero, 0)) fun lo => ({ e with m := Num.zero, lo := lo }, 0)
  | none =>
    andRound (fPow .ru e.beta) fun up => andRound (fPow .rd e.beta.negate) fun down => andRound (fSub .ru up down) fun gap =>
      andRound (fCount .ru e.node.n) fun nu => andRound (fSub .ru e.s top) fun x => andRound (fPowMin .ru x) fun p =>
        andRound (fMul .ru nu p) fun w => andRound (fMul .ru w gap) fun m =>
          andRound (fCount .rd e.node.n) fun nd => andRound (fSub .rd e.s e.beta) fun y => andRound (fSub .rd y top) fun z =>
            andRound (fPowMin .rd z) fun pl => andRound (fMul .rd nd pl) fun lo => ({ e with m := m, lo := lo }, 0)

/-- Bounds of every entry, and `thr` (R262). -/
def boundAll (x : Desc) (top : Num) (fr : List Ent) : (List Ent × Num) × Flags :=
  andRound (fr.foldl (fun acc e => andRound acc fun l => andRound (e.bounds top) fun e => (l ++ [e], 0)) ([], 0)) fun fr =>
    andRound (fr.foldl (fun acc e => andRound acc fun z => fAdd .rd z e.lo) (Num.zero, 0)) fun z =>
      andRound (fMul .rd x.tau z) fun thr => ((fr, thr), 0)

/-- The entry may be opened (R262). -/
def Ent.open? (e : Ent) : Bool := e.exact.isNone && !e.node.evicted && e.res

/-- The index of the entry that a descent opens next (R262): the first partly masked one, else the one of
largest m, the earlier of equals. -/
def pickEnt (fr : List Ent) : Option Nat :=
  match fr.findIdx? fun e => e.open? && e.partly with
  | some i => some i
  | none =>
    ((List.zip (List.range fr.length) fr).foldl (fun best p =>
      if !p.2.open? then best
      else match best with
        | some (_, m) => if m.lt p.2.m then some (p.1, p.2.m) else best
        | none => some (p.1, p.2.m)) (none : Option (Nat × Num))).map (·.1)

/-- An operation on trees whose absent page is an answer of its own. -/
def TreeOp.tryOf {α : Type} (m : Act α) : TreeOp (Option α) := fun g s =>
  match m s with
  | .ok (a, s') => .ok ((some a, g), s')
  | .error (.absent _) => .ok ((none, g), s)
  | .error e => .error e

/-- Replace an entry. -/
def replaceEnt (fr : List Ent) (i : Nat) (es : List Ent) : List Ent := fr.take i ++ es ++ fr.drop (i + 1)

/-- The exact leaf of a node's allowed members (R260, R262). -/
def Desc.exactLeaf (x : Desc) (d : Nat) (e : Ent) (ms : List Member) : Ent × Flags :=
  andRound ((ms.filter fun m => x.ranges.whole m.pos m.pos).foldl (fun acc m => andRound acc fun l =>
    andRound (x.score (m.nums.take d)) fun s => (l ++ [(s, m.nums.drop d)], 0)) ([], 0)) fun l => ({ e with exact := some l }, 0)

/-- Every summary of some nodes. -/
def Desc.summariseAll (x : Desc) (ns : List Node) (res : Bool) : List Ent × Flags :=
  ns.foldl (fun acc n => andRound acc fun l => andRound (x.summarise n res) fun e => (l ++ [e], 0)) ([], 0)

/-- What an opened entry becomes; none when its page is absent (R262). -/
def TreeEnv.openEnt (v : TreeEnv) (x : Desc) (e : Ent) : TreeOp (Option (List Node × List Member)) :=
  if e.node.leaf then (TreeOp.tryOf (v.members e.node)).bind fun ms => TreeOp.ret (ms.map fun ms => ([], ms))
  else (TreeOp.tryOf (Act.each v.node e.node.children)).bind fun ns =>
    TreeOp.ret (ns.map fun ns => (ns.filter fun n => !x.ranges.masked n.first n.last, []))

/-- The loop of R262, over the iterations that remain: the frontier with its bounds, `thr`, the expansions
and whether a limit was reached. -/
def TreeEnv.descend (v : TreeEnv) (x : Desc) (top : Num) : Nat → Nat → List Ent → TreeOp (List Ent × Num × Nat × Bool)
  | 0, used, fr => TreeOp.ret (fr, Num.zero, used, true)
  | n + 1, used, fr =>
    (TreeOp.round (boundAll x top fr)).bind fun b =>
      let fr := b.1
      match pickEnt fr with
      | none => TreeOp.ret (fr, b.2, used, false)
      | some i =>
        match fr[i]? with
        | none => TreeOp.ret (fr, b.2, used, false)
        | some e =>
          if !e.partly && (e.m.lt b.2 || e.m.eq b.2) then TreeOp.ret (fr, b.2, used, false)
          else if used = x.budget then TreeOp.ret (fr, b.2, used, true)
          else (v.openEnt x e).bind fun r =>
            match r with
            | none => v.descend x top n used (replaceEnt fr i [{ e with res := false }])
            | some (ns, ms) =>
              if fr.length - 1 + (if e.node.leaf then 1 else ns.length) > 256 then TreeOp.ret (fr, b.2, used, true)
              else if e.node.leaf then
                (TreeOp.round (x.exactLeaf v.d e ms)).bind fun y => v.descend x top n (used + 1) (replaceEnt fr i [y])
              else (TreeOp.round (x.summariseAll ns true)).bind fun ys => v.descend x top n (used + 1) (replaceEnt fr i ys)

/-- What a descent answers (R264). -/
structure Found where
  o : List Num
  top : Num
  z : Num
  used : Nat
  size : Nat
  hits : Nat
  st : Nat
  deriving DecidableEq, Repr

/-- An empty descent (R264, R280). -/
def emptyFound (d hits st : Nat) : Found :=
  { o := List.replicate d Num.zero, top := .inf true, z := Num.zero, used := 0, size := 0, hits, st := st + 4 }

/-- The weighted values of an entry (R264). -/
def Ent.items (e : Ent) (top : Num) : List (Num × List Num) × Flags :=
  match e.exact with
  | none => andRound (fCount .rne e.node.n) fun n => andRound (fSub .rne e.s top) fun x => andRound (fPowMin .rne x) fun p =>
      andRound (fMul .rne n p) fun w => andRound e.node.val fun vc => ([(w, vc)], 0)
  | some ms => ms.foldl (fun acc m => andRound acc fun l => andRound (fSub .rne m.1 top) fun x => andRound (fPowMin .rne x) fun w =>
      (l ++ [(w, m.2)], 0)) ([], 0)

/-- A summary entry that stays hidden (R263). -/
def Ent.hidden (e : Ent) (thr : Num) : Bool := e.exact.isNone && (e.node.evicted || !e.res) && (e.partly || thr.lt e.m)

/-- The output of a descent from its final frontier (R263, R264). -/
def settleDescent (d : Nat) (top thr : Num) (used : Nat) (limit : Bool) (fr : List Ent) : Found × Flags :=
  let hits := (fr.filter fun e => e.hidden thr).length
  let kept := fr.filter fun e => !(e.exact.isNone && e.partly)
  andRound (kept.foldl (fun acc e => andRound acc fun l => andRound (e.items top) fun is => (l ++ is, 0)) ([], 0)) fun items =>
    andRound (treeSum (items.map (·.1))) fun z =>
      andRound ((List.range d).foldl (fun acc ch => andRound acc fun l =>
        if Num.zero.lt z then
          andRound (items.foldl (fun acc i => andRound acc fun l => andRound (fMul .rne i.1 (i.2.getD ch Num.zero)) fun p => (l ++ [p], 0)) ([], 0))
            fun ps => andRound (treeSum ps) fun s => andRound (fDiv .rne s z) fun o => (l ++ [o], 0)
        else (l ++ [Num.zero], 0)) ([], 0)) fun o =>
          ({ o, top, z, used, size := kept.length, hits, st := b2n z.isZero * 4 + b2n limit * 2 + b2n (hits != 0) }, 0)

/-- A descent on a root that is held (R262); the root's page may be absent (R280). -/
def TreeEnv.search (v : TreeEnv) (x : Desc) (root : Nat) : TreeOp Found :=
  if root = 0 then TreeOp.ret (emptyFound v.d 0 0)
  else (TreeOp.tryOf (v.node root)).bind fun rn? =>
    match rn? with
    | none => TreeOp.ret (emptyFound v.d 1 1)
    | some rn =>
      (if rn.leaf || rn.nres then TreeOp.ret none else TreeOp.tryOf (Act.each v.node rn.children)).bind fun kids =>
        let ns := (kids.getD [rn]).filter fun n => !x.ranges.masked n.first n.last
        if ns.isEmpty then TreeOp.ret (emptyFound v.d 0 0)
        else (TreeOp.round (x.summariseAll ns (rn.leaf || kids.isSome))).bind fun fr =>
          (TreeOp.round (fr.foldl (fun acc e => andRound acc fun m => andRound (fAdd .ru e.s e.beta) fun y =>
            (some (match m with | none => y | some m => (maxNum m y).1), 0)) ((none : Option Num), 0))).bind fun top =>
              (v.descend x (top.getD Num.zero) 65536 0 fr).bind fun r =>
                TreeOp.round (settleDescent v.d (top.getD Num.zero) r.2.1 r.2.2.1 r.2.2.2 r.1)

/-! ## `TDESC` (R279 to R281) -/

/-- The checks of a descent block that need no d (R279). -/
def descOk (blk : List Byte) : Bool :=
  natAt blk 36 28 == 0 && 1 ≤ descBudget blk && descBudget blk ≤ 4096 && descQa blk % 16 == 0 && descOa blk % 16 == 0
    && (match descScl blk with | .fin false m _ _ => m != 0 | _ => false)
    && (match descTau blk with | .fin _ _ _ _ => !bitOf (natAt blk 12 4) 31 | _ => false)

/-- What a descent notes when it takes its root reference: the root, the block table, whether a page was
absent, `DCODE` + 1 when the set was read, and the pool. -/
def descNote (root mask absent dcode pool : Nat) : List Byte :=
  toBytes root 8 ++ toBytes mask 8 ++ toBytes absent 1 ++ toBytes dcode 1 ++ toBytes pool 1

/-- An absent page is an answer of its own. -/
def tryAct {α : Type} (m : Act α) : Act (Option α) := fun s =>
  match m s with
  | .ok (a, s') => .ok (some a, s')
  | .error (.absent _) => .ok (none, s)
  | .error e => .error e

/-- A descent begins (R268, R280): its block is checked and its root reference taken. -/
def descBegin (t : Nat) (r : Req) : Act (List Byte) :=
  let blk := r.blk
  let who := agentT t
  (needCheck 3 (descOk blk)).andThen fun _ => (tryAct (readSet who r.ctx (descSet blk))).andThen fun v? =>
    match v? with
    | none => Act.ret (descNote 0 0 1 0 0)
    | some v =>
      let absent := descNote 0 0 1 (v.dcode + 1) v.pool
      (needCheck 3 (descQa blk + 2 * v.d ≤ 65536 && descOa blk + 4 * v.d + 16 ≤ 65536)).andThen fun _ =>
        (v.selected (descLayer blk) (descHead blk)).andThen fun slot => (tryAct v.checkPool).andThen fun _ =>
          (tryAct (checkTable who r.ctx v.mask)).andThen fun table => (tryAct (v.nat slot 8)).andThen fun root =>
            match table, root with
            | some _, some 0 => Act.ret (descNote 0 v.mask 0 (v.dcode + 1) v.pool)
            | some _, some root => (tryAct (v.addRef root)).andThen fun x => match x with
              | some _ => Act.ret (descNote root v.mask 0 (v.dcode + 1) v.pool)
              | none => Act.ret absent
            | _, _ => Act.ret absent

/-- The set as a descent that has begun knows it. -/
def descEnv (t : Nat) (r : Req) : TreeEnv :=
  { who := agentT t, c := r.ctx, set := descSet r.blk, layers := 0, heads := 0, dcode := natAt r.blk 593 1 - 1
    pool := natAt r.blk 594 1, mask := natAt r.blk 584 8 }
/-- Its root. -/
def descRoot (r : Req) : Nat := natAt r.blk 576 8
/-- The channels that it knows. -/
def descDim (t : Nat) (r : Req) : Nat := if natAt r.blk 593 1 = 0 then 0 else (descEnv t r).d

/-- A descent's result (R280). -/
def descFind (t : Nat) (r : Req) : TreeOp Found :=
  let v := descEnv t r
  let d := descDim t r
  if natAt r.blk 592 1 = 1 then TreeOp.ret (emptyFound d 1 1)
  else (TreeOp.tryOf (readRanges v.who v.c v.mask (descPq r.blk))).bind fun rs =>
    match rs with
    | none => TreeOp.ret (emptyFound d 1 1)
    | some ranges =>
      let q := (halves (r.blk.drop 64) d).map (decodeNum bf16)
      (TreeOp.round (normRU q)).bind fun nq =>
        v.search { q, nq, scl := descScl r.blk, tau := descTau r.blk, budget := descBudget r.blk, ranges } (descRoot r)

/-- The root reference is given up. -/
def descRelease (t : Nat) (r : Req) : TreeOp Unit :=
  TreeOp.when (descRoot r != 0) ((descEnv t r).release treeDepth (descRoot r))

/-- The bytes that a descent writes at `OA` (R280). -/
def Found.bytes (x : Found) : List Byte :=
  (x.o.flatMap fun v => toBytes (encF v) 4) ++ toBytes (encF x.top) 4 ++ toBytes (encF x.z) 4 ++ toBytes x.used 4
    ++ toBytes x.size 4

/-- A descent runs and writes its output (R280): its status word, and what the sequence record gets. -/
def descRun (t : Nat) (r : Req) : Act W64 :=
  ((descEnv t r).run (descFind t r)).andThen fun y =>
    let x := y.1
    let bs := x.bytes
    (spPut pathT t (descOa r.blk) bs).andThen fun _ =>
      (Act.change fun s => (s.fillBytes t (descOa r.blk) bs.length).settle t).andThen fun _ =>
        Act.ret (treeStatus (x.size * 2 ^ 16 + x.used) x.hits y.2.1 x.st)

/-- The requests on a sequence record are performed one at a time (R288): the update sees what boundary
units wrote, and they see what it writes. -/
def State.inSequence (s : State) (t : Nat) : State := s.freshen (agentT t) fun e => e.src == pathB
/-- What path T writes in this step is visible to path B. -/
def State.showUpdate (s : State) : State :=
  s.clear (fun e => e.src == pathT && e.tick == s.tick) fun e => e.without (BitVec.ofNat 32 (2 ^ pathB))

/-- The update of the sequence record (R281). -/
def descUpdate (t : Nat) (r : Req) (w : W64) : Act W64 :=
  let seq := descSeq r.blk
  if seq = 0 then Act.ret w
  else (Act.change fun s => s.inSequence t).andThen fun _ =>
    (vnat (agentT t) r.ctx (seq + 1) 1).andThen fun st => (vnat (agentT t) r.ctx (seq + 60) 4).andThen fun hits =>
      (vput (agentT t) r.ctx (seq + 1) 1 (st ||| (w.toNat % 4))).andThen fun _ =>
        (vput (agentT t) r.ctx (seq + 60) 4 (min (hits + bitsOf w.toNat 24 8) (2 ^ 32 - 1))).andThen fun _ =>
          (Act.change State.showUpdate).andThen fun _ => Act.ret w

/-- The head of a queue with more bytes noted. -/
def State.noteHead (s : State) (e : Engine) (bs : List Byte) : State :=
  match s.queue e with
  | r :: q => { s with parked := s.parked.filter fun p => p.1 != e }.setQueue e ({ r with blk := r.blk ++ bs } :: q)
  | [] => s

/-- The head request of a unit waits for a page without a record (R256): a descent that gives its reference up. -/
def State.parkQuiet (s : State) (e : Engine) (va : Nat) : State :=
  if s.parked.contains (e, va) then s else { s with parked := s.parked ++ [(e, va)] }

/-- `TDESC` at its unit: it takes its root reference, then it runs and writes its output, then it gives its reference up,
then it updates the sequence record and replies. Between these steps other units go on: DEDUCED, log 52. One that fails
gives its reference up before its `ERR` leaves, and so waits where the root's page cannot be written yet (R272). -/
def tdescTurn (e : Engine) (r : Req) (s : State) : State :=
  match e with
  | .summary t =>
    let s := s.seeBoundary t r
    if r.kind ≠ .data then s.serve e r (Act.ret (0, false))
    else if s.behindParked e r then s
    else if r.blk.length = descBytes then
      (match descBegin t r s with
        | .ok (bs, s') => s'.noteHead e bs
        | .error _ => s.serve e r ((descBegin t r).andThen fun _ => Act.ret (0, false)))
    else if r.blk.length = descBegun then
      (match descRun t r s with
        | .ok (w, s') => s'.noteHead e (toBytes w.toNat 8)
        | .error .wait => s
        | .error x =>
          match (descEnv t r).run (descRelease t r) s with
          | .ok (_, s') => s'.serve e r (Act.stop x)
          | .error .wait => s
          | .error (.absent va) => s.parkQuiet e va
          | .error _ => s.serve e r (Act.stop x))
    else if r.blk.length = descReady then
      (match (descEnv t r).run (descRelease t r) s with
        | .ok (_, s') => s'.noteHead e [0]
        | .error (.absent va) => s.parkQuiet e va
        | .error x => s.serve e r (Act.stop x))
    else s.serveOrdered e r (descUpdate t r (BitVec.ofNat 64 (natAt r.blk descBegun 8)))
  | _ => s

/-! ## Rotation (R257, R258, R283) -/

/-- The fields of `PART` (R257). -/
def partA (p : Nat) : Nat := bitsOf p 0 8
/-- Start of the w band. -/
def partB (p : Nat) : Nat := bitsOf p 16 8
/-- Channel pairs. -/
def partPairs (p : Nat) : Nat := bitsOf p 32 8
/-- Row length of the table. -/
def partMax (p : Nat) : Nat := bitsOf p 48 16
/-- The cos/sin table. -/
def partBase (p : Nat) : Nat := bitsOf p 64 64

/-- A `PART` image that `ROPE3.SET` accepts (R283). -/
def partOk (p : Nat) : Bool :=
  bitsOf p 8 8 == 0 && bitsOf p 24 8 == 0 && bitsOf p 40 8 == 0 && partBase p % 8 == 0 && partBase p < 2 ^ 56
    && partMax p != 0 && 8 ≤ partPairs p && partPairs p ≤ 128 && partA p ≤ partB p && partB p ≤ partPairs p

/-- One pair rotated (R258). -/
def rotatePair (co si x0 x1 : Num) : List Nat × Flags :=
  andRound (fMul .rne x1 si) fun a => andRound (rnd .rne (fmaNum .rne x0 co a.negate)) fun y0 =>
    andRound (fMul .rne x0 si) fun b => andRound (rnd .rne (fmaNum .rne x1 co b)) fun y1 =>
      andRound (roundNum bf16 .rne y0) fun o0 => andRound (roundNum bf16 .rne y1) fun o1 => ([o0, o1], 0)

/-- The coordinate of a pair's band (R258). -/
def partCoord (p k : Nat) (r : W64) : Nat :=
  bitsOf r.toNat (if k < partA p then 0 else if k < partB p then 16 else 32) 16

/-- The pairs of a vector rotated, from pair `k` on. -/
def rotateGo (who : Agent) (c : BitVec 8) (p : Nat) (r : W64) : Nat → List Nat → TreeOp (List Nat)
  | k, x0 :: x1 :: xs =>
    (TreeOp.of (vread who c (partBase p + 8 * (k * partMax p + partCoord p k r)) 8)).bind fun b =>
      (TreeOp.round (rotatePair (decodeNum fp32 (natAt b 0 4)) (decodeNum fp32 (natAt b 4 4)) (decodeNum bf16 x0)
        (decodeNum bf16 x1))).bind fun ys => (rotateGo who c p r (k + 1) xs).bind fun zs => TreeOp.ret (ys ++ zs)
  | _, _ => TreeOp.ret []

/-- `ROPE3.ROT` refuses its operands (R283). -/
def ropeOk (p : Nat) (l r : W64) : Bool :=
  let src := bitsOf l.toNat 0 16
  let dst := bitsOf l.toNat 16 16
  l.toNat < 2 ^ 32 && r.toNat < 2 ^ 48 && src % 16 == 0 && dst % 16 == 0 && src + 4 * partPairs p ≤ 65536
    && dst + 4 * partPairs p ≤ 65536 && 8 ≤ partPairs p && partPairs p ≤ 128
    && bitsOf r.toNat 0 16 < partMax p && bitsOf r.toNat 16 16 < partMax p && bitsOf r.toNat 32 16 < partMax p

/-- `ROPE3` at its unit (R283). -/
def ropeRot (t : Nat) (r : Req) : Act W64 :=
  (Act.look fun s => (s.tile t).part.toNat).andThen fun p => (needCheck 5 (ropeOk p r.l r.r)).andThen fun _ =>
    let n := 2 * partPairs p
    let dst := bitsOf r.l.toNat 16 16
    (spGet pathT t (bitsOf r.l.toNat 0 16) (2 * n)).andThen fun bs =>
      (rotateGo (agentT t) r.ctx p r.r 0 (halves bs n) {}).andThen fun x =>
        (spPut pathT t dst (x.1.flatMap fun v => toBytes v 2)).andThen fun _ =>
          (Act.change fun s => (s.fillBytes t dst (2 * n)).settle t).andThen fun _ => Act.ret (treeStatus 0 0 x.2.fl 0)

/-- `ROPE3.SET` at its unit. -/
def ropeSet (t : Nat) (r : Req) : Act W64 :=
  let a := bitsOf r.l.toNat 0 16
  (needCheck 5 (a % 16 == 0)).andThen fun _ => (spGet pathT t a 16).andThen fun bs =>
    (needCheck 5 (partOk (ofBytes bs))).andThen fun _ =>
      (Act.change fun s => s.modTile t fun x => { x with part := BitVec.ofNat 128 (ofBytes bs) }).andThen fun _ => Act.ret 0

/-- `TSTAT` of a count (R284). -/
def tstatPool (cls t : Nat) (r : Req) : Act W64 :=
  (openSet (agentT t) r.ctx r.l.toNat).andThen fun v => (Act.look v.pd).andThen fun pd =>
    (v.nat (pd + countOff cls) 4).andThen fun n => Act.ret (BitVec.ofNat 64 n)

/-! ## The instructions (R268 to R284) -/

/-- `TAPP` (R273). -/
def execTapp (f : Form) (s : State) : Answer :=
  onRequest s (fun fr s => fr.sendRequest (.tapp f) s) (treeTurn (tappUnit f))

/-- `TFORK` (R274). -/
def execTfork (f : Form) (s : State) : Answer :=
  onRequest s (fun fr s => fr.sendRequest (.tfork f) s)
    (treeTurn fun t r => onSet t r fun v => TreeOp.of (v.fork r.r.toNat))

/-- `TCKPT` (R275). -/
def execTckpt (f : Form) (s : State) : Answer :=
  onRequest s (fun fr s => fr.sendRequest (.tckpt f) s)
    (treeTurn fun t r => onSet t r fun v => TreeOp.of (v.checkpoint r.r.toNat))

/-- `TCOMMIT` (R276). -/
def execTcommit (f : Form) (s : State) : Answer :=
  onRequest s (fun fr s => fr.sendRequest (.tcommit f) s)
    (treeTurn fun t r => onSet t r fun v => v.commit r.r.toNat)

/-- An operation whose `AUX` is the number of records that went back to the pool (R276, R277). -/
def onSetFreed (t : Nat) (r : Req) (go : TreeEnv → TreeOp Unit) : Act W64 :=
  (openSet (agentT t) r.ctx r.l.toNat).andThen fun v => (v.run (go v)).andThen fun x =>
    Act.ret (treeStatus x.2.2 0 x.2.1 0)

/-- `TTRUNC` (R276). -/
def execTtrunc (f : Form) (s : State) : Answer :=
  onRequest s (fun fr s => fr.sendRequest (.ttrunc f) s)
    (treeTurn fun t r => onSetFreed t r fun v => v.truncate r.r.toNat)

/-- `TEVICT` (R278). -/
def execTevict (f : Form) (s : State) : Answer :=
  onRequest s (fun fr s => fr.sendRequest (.tevict f) s)
    (treeTurn fun t r => onSet t r fun v => v.evict (bitsOf r.r.toNat 0 32) (bitsOf r.r.toNat 32 32))

/-- `TDESC` (R279, R280). -/
def execTdesc (f : Form) (s : State) : Answer := onRequest s (fun fr s => fr.sendRequest (.tdesc f) s) tdescTurn

/-- `TMASK` (R282). -/
def execTmask (f : Form) (s : State) : Answer :=
  onRequest s (fun fr s => fr.sendRequest (.tmask f) s)
    (treeTurn fun t r => (needCheck 4 (recAligned r.r.toNat)).andThen fun _ =>
      onSet t r fun v => TreeOp.of ((v.put (v.set + 8) 8 r.r.toNat).andThen fun _ => Act.ret (0, 0)))

/-- `TSTAT.LEN` (R284). -/
def execTstatLen (f : Form) (s : State) : Answer :=
  onRequest s (fun fr s => fr.sendRequest (.tstatLen f) s)
    (treeTurn fun t r => (needCheck 1 (r.r.toNat < 2 ^ 40)).andThen fun _ =>
      (openSet (agentT t) r.ctx r.l.toNat).andThen fun v => (v.selected (selLayer r.r) (selHead r.r)).andThen fun slot =>
        (v.length slot).andThen fun n => Act.ret (BitVec.ofNat 64 n))

/-- `TSTAT.ICNT`, `TSTAT.LCNT` and `TSTAT.PCNT` (R284). -/
def execTstatPool (f : Form) (s : State) : Answer :=
  onRequest s (fun fr s => fr.sendRequest (.tstatPool f) s) (treeTurn (tstatPool (f.mod.toNat - 1)))

/-- `ROPE3.ROT` (R283). -/
def execRope3Rot (f : Form) (s : State) : Answer :=
  onRequest s (fun fr s => fr.sendRequest (.rope3Rot f) s) (treeTurn ropeRot)

/-- `ROPE3.SET` (R283). -/
def execRope3Set (f : Form) (s : State) : Answer :=
  onRequest s (fun fr s => fr.sendRequest (.rope3Set f) s) (treeTurn ropeSet)

/-- `ROPE3.GETLO` (R283). -/
def execRope3Getlo (f : Form) (s : State) : Answer :=
  onRequest s (fun fr s => fr.sendRequest (.rope3Getlo f) s)
    (treeTurn fun t _ => Act.look fun s => BitVec.ofNat 64 (s.tile t).part.toNat)

/-- `ROPE3.GETHI` (R283). -/
def execRope3Gethi (f : Form) (s : State) : Answer :=
  onRequest s (fun fr s => fr.sendRequest (.rope3Gethi f) s)
    (treeTurn fun t _ => Act.look fun s => BitVec.ofNat 64 ((s.tile t).part.toNat / 2 ^ 64))

/-- `TFREE` (R277). -/
def execTfree (f : Form) (s : State) : Answer :=
  onRequest s (fun fr s => fr.sendRequest (.tfree f) s) (treeTurn fun t r => onSetFreed t r fun v => v.freeRoots)

end Sys2Proof.Machine
end

