-- ==== Sys2Proof/Machine/Sequence.lean ====
section
/-! DEFINITION. The boundary units (R286 to R313): the sequence record, the grammar image and stack, the
sampler, drafts, and the instructions `GMASK` to `RNG`. -/

namespace Sys2Proof.Machine

open Sys2Proof

/-- A boundary unit as a reader of memory (R288). -/
def agentB (d : Nat) : Agent := ⟨pathB, 32768 + d⟩

/-- A boundary unit takes the head of its queue (R289): its die and the request. -/
def boundaryTurn (go : Nat → Req → Act W64) (e : Engine) (r : Req) (s : State) : State :=
  match e with
  | .grammar d _ => s.serveOrdered e r (go d r)
  | .sampler d _ => s.serveOrdered e r (go d r)
  | .accept d _ => s.serveOrdered e r (go d r)
  | _ => s

/-- A refused request replies with only bit 63 set (R307 to R312). -/
def refusedWord : W64 := BitVec.ofNat 64 (2 ^ 63)

/-! ## The sequence record (R286, R287) -/

/-- A sequence record. -/
structure Seqn where
  state : Nat
  status : Nat
  evictHit : Nat
  last : Nat
  voc : Nat
  depth : Nat
  pstate : Nat
  top : Nat
  step : Nat
  row : Nat
  seed : Nat
  draft : Nat
  pen : Nat
  gram : Nat
  set : Nat
  deriving DecidableEq, Repr

/-- The states of a record (R287). -/
def seqActive : Nat := 0
/-- DRAFTING. -/
def seqDrafting : Nat := 1
/-- DONE. -/
def seqDone : Nat := 2
/-- FREED. -/
def seqFreed : Nat := 3

/-- The record that 128 bytes hold. -/
def Seqn.ofBytes (b : List Byte) : Seqn :=
  { state := natAt b 0 1 % 4, status := bitsOf (natAt b 0 2) 8 3, evictHit := natAt b 60 4, last := natAt b 64 4
    voc := natAt b 68 4, depth := bitsOf (natAt b 72 2) 5 11, pstate := natAt b 74 2, top := natAt b 76 4, step := natAt b 80 4
    row := natAt b 84 4, seed := natAt b 88 8, draft := natAt b 96 8, pen := natAt b 104 8, gram := natAt b 112 8
    set := natAt b 120 8 }

/-- The 128 bytes of a record. -/
def Seqn.bytes (q : Seqn) : List Byte :=
  toBytes (q.state + q.status * 2 ^ 8) 60 ++ toBytes q.evictHit 4 ++ toBytes q.last 4 ++ toBytes q.voc 4
    ++ toBytes (q.depth * 2 ^ 5) 2 ++ toBytes q.pstate 2 ++ toBytes q.top 4 ++ toBytes q.step 4 ++ toBytes q.row 4
    ++ toBytes q.seed 8 ++ toBytes q.draft 8 ++ toBytes q.pen 8 ++ toBytes q.gram 8 ++ toBytes q.set 8

/-- The RES fields of a record are zero. -/
def seqResOk (b : List Byte) : Bool :=
  bitsOf (natAt b 0 1) 2 6 == 0 && bitsOf (natAt b 0 60) 11 469 == 0 && bitsOf (natAt b 72 1) 0 5 == 0

/-- Read a record and check it (check 1 of R290). -/
def readSeq (d : Nat) (c : BitVec 8) (va : Nat) : Act Seqn :=
  (needCheck 1 (va % 128 == 0 && va < 2 ^ 56)).andThen fun _ => (vread (agentB d) c va 128).andThen fun b =>
    (needCheck 1 (seqResOk b)).andThen fun _ => Act.ret (Seqn.ofBytes b)

/-- Write a record. -/
def writeSeq (d : Nat) (c : BitVec 8) (va : Nat) (q : Seqn) : Act Unit := vwrite (agentB d) c va q.bytes

/-! ## The persistent stack (R295, R296) -/

/-- A breach of R295, with an auxiliary word where R290 states one. -/
def stackFault (aux : Option W64 := none) : Stop := .fault fcGrammarStack none aux

/-- A cell pool descriptor (R295). -/
structure CellPool where
  at_ : Nat
  base : Nat
  count : Nat
  fhead : Nat
  fcnt : Nat
  deriving DecidableEq, Repr

/-- Read the cell pool's descriptor. -/
def readPool (d : Nat) (c : BitVec 8) : Act CellPool :=
  (Act.look fun s => ((s.ctx c.toNat).reg 0x117).toNat).andThen fun a => (vread (agentB d) c a 32).andThen fun b =>
    (Act.need (natAt b 0 12 == 0) (stackFault (some 2))).andThen fun _ =>
      Act.ret { at_ := a, base := natAt b 24 8, count := natAt b 20 4, fhead := natAt b 16 4, fcnt := natAt b 12 4 }

/-- Write the free list's head and count. -/
def CellPool.putFree (p : CellPool) (d : Nat) (c : BitVec 8) (fhead fcnt : Nat) : Act Unit :=
  vwrite (agentB d) c (p.at_ + 12) (toBytes fcnt 4 ++ toBytes fhead 4)

/-- A stack cell: its symbol, references and the cell below. -/
structure Cell where
  sym : Nat
  rc : Nat
  next : Nat
  deriving DecidableEq, Repr

/-- Read a cell; its RES bits are ignored (R6). -/
def CellPool.cell (p : CellPool) (d : Nat) (c : BitVec 8) (i : Nat) : Act Cell :=
  (Act.need (i ≠ 0 && i ≤ p.count) stackFault).andThen fun _ => (vread (agentB d) c (p.base + 16 * (i - 1)) 16).andThen fun b =>
    Act.ret { sym := natAt b 8 2, rc := natAt b 4 4, next := natAt b 0 4 }
/-- Write a cell. -/
def CellPool.put (p : CellPool) (d : Nat) (c : BitVec 8) (i : Nat) (x : Cell) : Act Unit :=
  vwrite (agentB d) c (p.base + 16 * (i - 1)) (toBytes x.next 4 ++ toBytes x.rc 4 ++ toBytes x.sym 8)
/-- Read a live cell (R295). -/
def CellPool.live (p : CellPool) (d : Nat) (c : BitVec 8) (i : Nat) : Act Cell :=
  (p.cell d c i).andThen fun x => (Act.need (x.rc != 0) stackFault).andThen fun _ => Act.ret x

/-- One more reference on a cell; the empty stack holds none. -/
def cellRef (d : Nat) (c : BitVec 8) (i : Nat) : Act Unit :=
  if i = 0 then Act.ret ()
  else (readPool d c).andThen fun p => (p.live d c i).andThen fun x =>
    (Act.need (x.rc < 2 ^ 32 - 1) stackFault).andThen fun _ => p.put d c i { x with rc := x.rc + 1 }

/-- Release cells from one on, over as many as the pool holds (R295). -/
def cellReleaseGo (d : Nat) (c : BitVec 8) : Nat → Nat → Act Unit
  | 0, _ => Act.stop stackFault
  | n + 1, i =>
    if i = 0 then Act.ret ()
    else (readPool d c).andThen fun p => (p.live d c i).andThen fun x =>
      if x.rc > 1 then p.put d c i { x with rc := x.rc - 1 }
      else (p.put d c i { x with rc := 0, next := p.fhead }).andThen fun _ =>
        (p.putFree d c i ((p.fcnt + 1) % 2 ^ 32)).andThen fun _ => cellReleaseGo d c n x.next

/-- Release a cell; the empty stack holds none. -/
def cellRelease (d : Nat) (c : BitVec 8) (i : Nat) : Act Unit :=
  if i = 0 then Act.ret () else (readPool d c).andThen fun p => cellReleaseGo d c (p.count + 1) i

/-- A new cell with one reference, above a cell that gets one more (R295, R297). -/
def cellNew (d : Nat) (c : BitVec 8) (sym next : Nat) : Act Nat :=
  (readPool d c).andThen fun p => (Act.need (p.fhead != 0) (stackFault (some 1))).andThen fun _ =>
    (p.cell d c p.fhead).andThen fun x => (p.putFree d c x.next ((p.fcnt + 2 ^ 32 - 1) % 2 ^ 32)).andThen fun _ =>
      (cellRef d c next).andThen fun _ => (p.put d c p.fhead { sym, rc := 1, next }).andThen fun _ => Act.ret p.fhead

/-- A handle (R296): state, depth and top cell. -/
structure Handle where
  st : Nat
  depth : Nat
  top : Nat
  deriving DecidableEq, Repr

/-- The handle that a value holds; a nonzero bit of 47:43 breaks it (R296). -/
def splitHandle (h : W64) : Act Handle :=
  (Act.need (bitsOf h.toNat 43 5 == 0) stackFault).andThen fun _ =>
    Act.ret { st := bitsOf h.toNat 48 16, depth := bitsOf h.toNat 32 11, top := bitsOf h.toNat 0 32 }
/-- A handle as a value. -/
def Handle.word (h : Handle) : W64 := BitVec.ofNat 64 (h.st % 2 ^ 16 * 2 ^ 48 + h.depth % 2 ^ 11 * 2 ^ 32 + h.top % 2 ^ 32)

/-! ## The grammar image (R291 to R294) -/

/-- A breach of R293. -/
def imageFault : Stop := .fault fcGrammarImage none none
/-- `GRAMMAR_BADIMAGE` unless a condition holds. -/
def needImage (c : Bool) : Act Unit := Act.need c imageFault

/-- A grammar image's header, where it lies and who reads it. -/
structure Gram where
  d : Nat
  c : BitVec 8
  va : Nat
  symOff : Nat
  dicOff : Nat
  midOff : Nat
  trOff : Nat
  stOff : Nat
  len : Nat
  nmask : Nat
  endTok : Nat
  vocab : Nat
  maxd : Nat
  nsym : Nat
  nst : Nat
  deriving DecidableEq, Repr

/-- The header that 64 bytes hold (R291). -/
def gramOfBytes (d : Nat) (c : BitVec 8) (va : Nat) (b : List Byte) : Gram :=
  { d, c, va, symOff := natAt b 44 4, dicOff := natAt b 40 4, midOff := natAt b 36 4, trOff := natAt b 32 4
    stOff := natAt b 28 4, len := natAt b 24 4, nmask := natAt b 16 2, endTok := natAt b 12 4
    vocab := natAt b 8 4, maxd := natAt b 4 2, nsym := natAt b 2 2, nst := natAt b 0 2 }
/-- A header's RES fields are zero. -/
def gramHeaderOk (b : List Byte) : Bool := natAt b 48 16 == 0 && natAt b 18 2 == 0

/-- Read an image's header (check 4 of R290, R293). -/
def readGram (d : Nat) (c : BitVec 8) (va : Nat) : Act Gram :=
  (needCheck 4 (va % 64 == 0 && va < 2 ^ 56)).andThen fun _ => (vread (agentB d) c va 64).andThen fun b =>
    (needImage (gramHeaderOk b)).andThen fun _ => Act.ret (gramOfBytes d c va b)

/-- An entry of the image; one past `LEN` breaks it. -/
def Gram.entry (g : Gram) (off n : Nat) : Act (List Byte) :=
  (needImage (off + n ≤ g.len)).andThen fun _ => vread (agentB g.d) g.c (g.va + off) n

/-- A state lies in the image (R293). -/
def Gram.stateOk (g : Gram) (st : Nat) : Bool := st ≤ g.nst || st == 0xFFFF

/-- A state's entry has no nonzero unused bit. -/
def stateEntryOk (b : List Byte) : Bool := natAt b 6 2 < 2

/-- A state's entry: its first transition, their count, and `ACC`. -/
def Gram.state (g : Gram) (st : Nat) : Act (Nat × Nat × Bool) :=
  (needImage (g.stateOk st)).andThen fun _ => (g.entry (g.stOff + 8 * st) 8).andThen fun b =>
    (needImage (stateEntryOk b)).andThen fun _ => Act.ret (natAt b 0 4, natAt b 4 2, natAt b 6 1 == 1)

/-- A transition that a search visited: its index and its range of tokens. -/
abbrev Visited := Nat × Nat × Nat

/-- A transition: next state, symbol and action. -/
structure Trans where
  lo : Nat
  hi : Nat
  next : Nat
  sym : Nat
  act : Nat
  deriving DecidableEq, Repr

/-- The transition that 16 bytes hold (R292). -/
def Trans.ofBytes (b : List Byte) : Trans :=
  { lo := natAt b 0 4, hi := natAt b 4 4, next := natAt b 8 2, sym := natAt b 10 2, act := natAt b 12 1 }

/-- A transition keeps R293: on its own, and against those visited before. -/
def Gram.transOk (g : Gram) (b : List Byte) (i : Nat) (seen : List Visited) : Bool :=
  let t := Trans.ofBytes b
  natAt b 13 3 == 0 && t.act ≤ 3 && t.lo ≤ t.hi && g.stateOk t.next && (t.act ≥ 2 || t.next != 0xFFFF)
    && t.sym ≤ g.nsym && seen.all fun v => (v.1 > i || v.2.2 < t.lo) && (v.1 < i || t.hi < v.2.1)

/-- Read a transition and check it against those visited before (R293). -/
def Gram.trans (g : Gram) (i : Nat) (seen : List Visited) : Act Trans :=
  (g.entry (g.trOff + 16 * i) 16).andThen fun b => (needImage (g.transOk b i seen)).andThen fun _ => Act.ret (Trans.ofBytes b)

/-- The binary search of R297 over transitions `first + lo` to `first + hi − 1`, by fuel. -/
def Gram.findGo (g : Gram) (first x : Nat) : Nat → Nat → Nat → List Visited → Act (Option Trans)
  | 0, _, _, _ => Act.ret none
  | n + 1, lo, hi, seen =>
    if hi ≤ lo then Act.ret none
    else
      let mid := (lo + (hi - 1)) / 2
      (g.trans (first + mid) seen).andThen fun t =>
        let seen := (first + mid, t.lo, t.hi) :: seen
        if x < t.lo then g.findGo first x n lo mid seen
        else if t.hi < x then g.findGo first x n (mid + 1) hi seen
        else Act.ret (some t)

/-- The transition of a state on a token. -/
def Gram.find (g : Gram) (st x : Nat) : Act (Option Trans) :=
  (g.state st).andThen fun e => g.findGo e.1 x 17 0 e.2.1 []

/-- A symbol's entry keeps R293. -/
def Gram.symbolOk (g : Gram) (b : List Byte) : Bool := natAt b 3 1 == 0 && natAt b 2 1 < 15 && g.stateOk (natAt b 0 2)

/-- A symbol's return state and class. -/
def Gram.symbol (g : Gram) (y : Nat) : Act (Nat × Nat) :=
  (needImage (y ≤ g.nsym)).andThen fun _ => (g.entry (g.symOff + 4 * y) 4).andThen fun b =>
    (needImage (g.symbolOk b)).andThen fun _ =>
      Act.ret (natAt b 0 2, natAt b 2 1)

/-- A mask id of the image. -/
def Gram.maskOk (g : Gram) (id : Nat) : Bool := id < g.nmask || id == 0xFFFF

/-- The mask id of a state and a symbol class, from the state's mask index entry (R292). -/
def Gram.maskId (g : Gram) (st cls : Nat) : Act Nat :=
  (needImage (g.stateOk st)).andThen fun _ => (g.entry (g.midOff + 32 * st) 32).andThen fun b =>
    (needImage (g.maskOk (natAt b (2 * cls) 2))).andThen fun _ => Act.ret (natAt b (2 * cls) 2)

/-- A run keeps R293 after the one that ends at `prev`. -/
def Gram.runOk (g : Gram) (b : List Byte) (prev : Option Nat) : Bool :=
  natAt b 0 4 ≤ natAt b 4 4 && natAt b 0 4 < g.vocab && (match prev with | some p => p < natAt b 0 4 | none => true)
/-- A dictionary entry keeps R293. -/
def dictOk (b : List Byte) : Bool := natAt b 6 2 == 0 && natAt b 4 2 ≤ 256

/-- The runs of a mask from one on, rising. -/
def Gram.runsGo (g : Gram) (off : Nat) : Nat → Nat → Option Nat → Act (List (Nat × Nat))
  | 0, _, _ => Act.ret []
  | n + 1, k, prev =>
    (g.entry (off + 8 * k) 8).andThen fun b =>
      let f := natAt b 0 4
      let l := natAt b 4 4
      (needImage (g.runOk b prev)).andThen fun _ =>
        (g.runsGo off n (k + 1) (some l)).andThen fun rs => Act.ret ((f, l) :: rs)

/-- The runs of a mask (R292); mask 0xFFFF has none. -/
def Gram.runs (g : Gram) (id : Nat) : Act (List (Nat × Nat)) :=
  if id = 0xFFFF then Act.ret []
  else (g.entry (g.dicOff + 8 * id) 8).andThen fun b =>
    (needImage (dictOk b)).andThen fun _ => g.runsGo (natAt b 0 4) (natAt b 4 2) 0 none

/-- The class of a stack top (R292, R294). -/
def Gram.topClass (g : Gram) (top : Nat) : Act Nat :=
  if top = 0 then Act.ret 15
  else (readPool g.d g.c).andThen fun p => (p.live g.d g.c top).andThen fun x => (g.symbol x.sym).andThen fun y => Act.ret y.2

/-- A run's bits below `VOCAB`. -/
def runBits (vocab : Nat) (r : Nat × Nat) : Nat := (2 ^ (min r.2 (vocab - 1) + 1 - r.1) - 1) * 2 ^ r.1

/-- The mask of a state is written to a bitmap (R294, R307): the reply. -/
def Gram.mask (g : Gram) (st top bm : Nat) : Act W64 :=
  (needCheck 4 (recAligned bm)).andThen fun _ => (g.topClass top).andThen fun cls => (g.maskId st cls).andThen fun id =>
    (g.runs id).andThen fun rs => (g.state st).andThen fun e =>
      let runs := (rs.map (runBits g.vocab)).foldl (· ||| ·) 0
      let bits := if e.2.2 && g.endTok < g.vocab then runs ||| 2 ^ g.endTok else runs
      let last := (e.2.2 : Bool) || (id != 0xFFFF && rs.any fun r => r.1 ≤ g.endTok && g.endTok ≤ r.2)
      (vwrite (agentB g.d) g.c bm (toBytes bits (8 * ((g.vocab + 63) / 64)))).andThen fun _ =>
        Act.ret (BitVec.ofNat 64 (popCount g.vocab bits % 2 ^ 32 + id * 2 ^ 32 + b2n last * 2 ^ 48))

/-- The outcome of a grammar step (R297): `made` when the new top is a new cell. -/
inductive Stepped where
  | reject
  | stack
  | to (h : Handle) (final made : Bool)
  deriving DecidableEq, Repr

/-- `step` of R297. -/
def Gram.step (g : Gram) (h : Handle) (x : Nat) : Act Stepped :=
  if x = g.endTok then (g.state h.st).andThen fun e => Act.ret (if e.2.2 then .to h true false else .reject)
  else if g.vocab ≤ x then Act.ret .reject
  else (g.find h.st x).andThen fun t? =>
    match t? with
    | none => Act.ret .reject
    | some t =>
      if t.act = 0 then Act.ret (.to { h with st := t.next } false false)
      else if t.act = 1 then
        (if h.depth = g.maxd then Act.ret .stack
         else (cellNew g.d g.c t.sym h.top).andThen fun i => Act.ret (.to ⟨t.next, h.depth + 1, i⟩ false true))
      else if h.depth = 0 then Act.ret .stack
      else (readPool g.d g.c).andThen fun p => (p.live g.d g.c h.top).andThen fun y =>
        (if t.next = 0xFFFF then (g.symbol y.sym).andThen fun r => Act.ret r.1 else Act.ret t.next).andThen fun nt =>
          if t.act = 2 then Act.ret (.to ⟨nt, h.depth - 1, y.next⟩ false false)
          else (cellNew g.d g.c t.sym y.next).andThen fun i => Act.ret (.to ⟨nt, h.depth, i⟩ false true)

/-! ## Drafts (R302 to R305) -/

/-- A node of a draft record. -/
structure DraftNode where
  tok : Nat
  parent : Nat
  snap : W64
  ckpt : Nat
  deriving DecidableEq, Repr, Inhabited

/-- Read a draft record (R302, R303). -/
def readDraft (d : Nat) (c : BitVec 8) (va : Nat) : Act (List DraftNode) :=
  (needCheck 3 (recAligned va)).andThen fun _ => (vread (agentB d) c va 16).andThen fun h =>
    let n := natAt h 0 1
    (needCheck 3 (1 ≤ n && n ≤ 64 && natAt h 1 15 == 0)).andThen fun _ => (vread (agentB d) c (va + 16) (32 * n)).andThen fun b =>
      let ok := fun j => natAt b (32 * j + 5) 3 == 0 && natAt b (32 * j + 24) 8 == 0
        && (if j = 0 then natAt b 4 1 == 0xFF else natAt b (32 * j + 4) 1 < j)
      (needCheck 3 ((List.range n).all ok)).andThen fun _ =>
        Act.ret ((List.range n).map fun j =>
          { tok := natAt b (32 * j) 4, parent := natAt b (32 * j + 4) 1
            snap := BitVec.ofNat 64 (natAt b (32 * j + 8) 8), ckpt := natAt b (32 * j + 16) 8 })

/-- The nodes that a request reads have checkpoints (R303). -/
def needCkpts (ns : List DraftNode) (read : List Nat) : Act Unit :=
  needCheck 3 (read.all fun n => (ns.getD n default).ckpt != 0)

/-- The nodes from node 0, excluded, to a node, by fuel. -/
def draftNodes (ns : List DraftNode) : Nat → Nat → List Nat
  | 0, _ => []
  | _, 0 => []
  | k + 1, n => draftNodes ns k (ns.getD n default).parent ++ [n]

/-- The tokens of the nodes from node 0, excluded, to a node, by fuel. -/
def draftPath (ns : List DraftNode) : Nat → Nat → List Nat
  | 0, _ => []
  | _, 0 => []
  | k + 1, n => draftPath ns k (ns.getD n default).parent ++ [(ns.getD n default).tok]

/-- Settle a draft on a node (R305): the record as it leaves the draft. The tree operations take the place of a
summary unit's in the set's order (R266). -/
def settleDraft (d : Nat) (c : BitVec 8) (q : Seqn) (ns : List DraftNode) (n : Nat) : Act Seqn :=
  let who := Agent.mk pathT (32768 + d)
  let x := ns.getD n default
  let others := (List.zip (List.range ns.length) ns).filter fun p => p.1 != n
  (needCkpts ns (List.range ns.length)).andThen fun _ => (Act.each (fun y => splitHandle y.snap) ns).andThen fun hs =>
    (openSet who c q.set).andThen fun v => (v.run (v.truncate x.ckpt)).andThen fun _ => (v.run (v.commit x.ckpt)).andThen fun _ =>
      (Act.each (fun p => (v.openCkpt p.2.ckpt).andThen fun w => w.run w.freeRoots) others).andThen fun _ =>
        let h := hs.getD n ⟨0, 0, 0⟩
        (cellRef d c h.top).andThen fun _ => (cellRelease d c q.top).andThen fun _ =>
          (Act.each (fun y => cellRelease d c y.top) hs).andThen fun _ =>
            Act.ret { q with top := h.top, depth := h.depth, pstate := h.st, draft := 0, state := seqActive }

/-- `ACCEPT.WALK` from a node (R304): the sample, the node, the depth and `EMPTY`. It reads the nodes in order up to the one
that it goes on to. -/
def walkDraft (d : Nat) (c : BitVec 8) (ns : List DraftNode) (samples : Nat) : Nat → Nat → Nat → Act (Nat × Nat × Nat × Bool)
  | 0, n, k => Act.ret (0, n, k, false)
  | fuel + 1, n, k =>
    (vnat (agentB d) c (samples + 4 * n) 4).andThen fun x =>
      if x = 0xFFFFFFFF then Act.ret (x, n, k, true)
      else match (List.zip (List.range ns.length) ns).find? fun p => p.2.parent == n && p.1 != 0 && p.2.tok == x with
        | some p => (needCkpts ns ((List.range (p.1 + 1)).drop 1)).andThen fun _ => walkDraft d c ns samples fuel p.1 (k + 1)
        | none => (needCkpts ns ((List.range ns.length).drop 1)).andThen fun _ => Act.ret (x, n, k, false)

/-! ## Sampling (R298 to R301, R313) -/

/-- A sample block (R298). -/
structure SampleBlock where
  node : Nat
  beta : Nat
  alpha : Nat
  temp : Nat
  v : Nat
  dst : Nat
  msk : Nat
  log : Nat
  seq : Nat
  deriving DecidableEq, Repr

/-- The block that 64 bytes hold. -/
def SampleBlock.of (b : List Byte) : SampleBlock :=
  { node := natAt b 48 1, beta := natAt b 44 4, alpha := natAt b 40 4, temp := natAt b 36 4, v := natAt b 32 4
    dst := natAt b 24 8, msk := natAt b 16 8, log := natAt b 8 8, seq := natAt b 0 8 }

/-- A finite number. -/
def Num.finite : Num → Bool
  | .fin _ _ _ _ => true
  | _ => false

/-- A block passes R298; `SEQ` may be 0 only for `LSTAT`. -/
def sampleOk (b : List Byte) (lstat : Bool) : Bool :=
  let x := SampleBlock.of b
  natAt b 49 15 == 0 && 1 ≤ x.v && x.v ≤ 2 ^ 24 && (decodeNum fp32 x.temp).finite
    && (!bitOf x.temp 31 || (decodeNum fp32 x.temp).isZero) && (decodeNum fp32 x.alpha).finite && (decodeNum fp32 x.beta).finite
    && (x.node < 64 || x.node == 255) && recAligned x.seq && recAligned x.log && recAligned x.msk && recAligned x.dst
    && (lstat || x.seq != 0)

/-- `draw` of R300. -/
def drawNum (q : Seqn) (step i : Nat) : Num :=
  let y := philox q.seed (i / 4) step q.row 0
  let w := if i % 4 = 0 then y.1 else if i % 4 = 1 then y.2.1 else if i % 4 = 2 then y.2.2.1 else y.2.2.2
  .fin false (w / 2 ^ 8) (-24) false

/-- The logits that count (R299): what is masked or not a number is −∞. -/
def sampleLogits (ls : List Nat) (mask : Option Nat) : List Num × Flags :=
  let xs := (List.zip (List.range ls.length) ls).map fun p =>
    let x := decodeNum fp32 p.2
    if (match mask with | some m => bitOf m p.1 | none => true) then
      (if x.isNan then (Num.inf true, flagIV) else (x, 0))
    else (Num.inf true, 0)
  (xs.map (·.1), xs.foldl (fun f x => f ||| x.2) 0)

/-- A weight (R299). -/
def sampleWeight (temp inv top a : Num) : Num × Flags :=
  if a = .inf true then (Num.zero, 0)
  else if temp.isZero then ((if a.eq top then .fin false 1 0 false else Num.zero), 0)
  else
    andRound (if a = .inf false ∧ top = .inf false then (Num.zero, 0) else fSub .rne a top) fun x =>
      andRound (fMul .rne x inv) fun y => andRound (fMul .rne y (decodeNum fp32 0x3FB8AA3B)) fun z => fPow .rne z

/-- The weights of R299, the maximum and the flags; none for EMPTY. -/
def sampleWeights (temp : Num) (as : List Num) : (Num × List Num) × Flags :=
  let top := (treeReduce maxNum (.inf true) as).1
  if top = .inf true then ((top, []), 0)
  else
    andRound (if temp.isZero then (Num.zero, 0) else fDiv .rne (.fin false 1 0 false) temp) fun inv =>
      andRound (as.foldl (fun acc a => andRound acc fun l => andRound (sampleWeight temp inv top a) fun w => (l ++ [w], 0)) ([], 0))
        fun ws => ((top, ws), 0)

/-- The lowest index whose logit is the maximum. -/
def argMax (as : List Num) (top : Num) : Nat := (as.findIdx? fun a => a.eq top).getD 0

/-- The token that `SAMP` chooses (R300). -/
def sampleToken (temp : Num) (as ws : List Num) (top : Num) (q : Seqn) (step : Nat) : Nat × Flags :=
  if temp.isZero then (argMax as top, 0)
  else
    let ms := prefixMasses (ws.map encF)
    let cands := (List.range ws.length).filter fun i =>
      let w := ws.getD i Num.zero
      Num.zero.lt w && (mulNum (drawNum q step i) (decodeNum fp32 (ms.getD i (0, 0)).1)).1.lt w
    (match cands.getLast? with | some i => i | none => argMax as top, ms.foldl (fun f m => f ||| m.2) 0)

/-- Read the logits and the bitmap of a block (R298). -/
def readLogits (d : Nat) (c : BitVec 8) (x : SampleBlock) : Act (List Nat × Option Nat) :=
  (vread (agentB d) c x.log (4 * x.v)).andThen fun b =>
    (if x.msk = 0 then Act.ret none
     else (vnat (agentB d) c x.msk (8 * ((x.v + 63) / 64))).andThen fun m => Act.ret (some m)).andThen fun mask =>
      Act.ret ((List.range x.v).map fun i => natAt b (4 * i) 4, mask)

/-- The path of the block's draft node (R300, R301): none when the request is refused. -/
def samplePath (d : Nat) (c : BitVec 8) (x : SampleBlock) (q : Seqn) : Act (Option (List Nat)) :=
  if x.node = 255 then Act.ret (some [])
  else if q.state ≠ seqDrafting then Act.ret none
  else (readDraft d c q.draft).andThen fun ns => (needCheck 3 (x.node < ns.length)).andThen fun _ =>
    (needCkpts ns (draftNodes ns 64 x.node)).andThen fun _ => Act.ret (some (draftPath ns 64 x.node))

/-- `SAMP` at its unit (R310). -/
def sampUnit (d : Nat) (r : Req) : Act W64 :=
  let x := SampleBlock.of r.blk
  let temp := decodeNum fp32 x.temp
  (needCheck 2 (sampleOk r.blk false)).andThen fun _ => (readSeq d r.ctx x.seq).andThen fun q => (samplePath d r.ctx x q).andThen fun path =>
    match path with
    | none => Act.ret refusedWord
    | some path => (readLogits d r.ctx x).andThen fun l =>
      let as := sampleLogits l.1 l.2
      let ws := sampleWeights temp as.1
      if ws.1.2.isEmpty then Act.ret (BitVec.ofNat 64 (0xFFFFFFFF + 2 ^ 48 + as.2.toNat * 2 ^ 52))
      else
        let z := treeSum ws.1.2
        let t := sampleToken temp as.1 ws.1.2 ws.1.1 q ((q.step + path.length) % 2 ^ 32)
        Act.ret (BitVec.ofNat 64 (t.1 + (as.2 ||| ws.2 ||| z.2 ||| t.2).toNat * 2 ^ 52))

/-- `LSTAT` at its unit (R310). -/
def lstatUnit (d : Nat) (r : Req) : Act W64 :=
  let x := SampleBlock.of r.blk
  (needCheck 2 (sampleOk r.blk true)).andThen fun _ =>
    (if x.seq = 0 then Act.ret () else (readSeq d r.ctx x.seq).andThen fun _ => Act.ret ()).andThen fun _ =>
      (readLogits d r.ctx x).andThen fun l =>
        let as := sampleLogits l.1 l.2
        let ws := sampleWeights (decodeNum fp32 x.temp) as.1
        let ninf := fp32.inf true
        if ws.1.2.isEmpty then Act.ret (BitVec.ofNat 64 (ninf + ninf * 2 ^ 32))
        else
          let z := treeSum ws.1.2
          Act.ret (BitVec.ofNat 64 (encF ws.1.1 + (roundNum fp32 .rne (log2Num z.1).1).1 * 2 ^ 32))

/-- A penalised logit (R301). -/
def penalise (alpha beta : Num) (l count : Nat) : Nat × Flags :=
  andRound (fCount .rne count) fun c => andRound (fMul .rne alpha c) fun a => andRound (fSub .rne (decodeNum fp32 l) a) fun y =>
    andRound (fSub .rne y (if count > 0 then beta else Num.zero)) fun z => (encF z, 0)

/-- `PENAL` at its unit (R301, R310). -/
def penalUnit (d : Nat) (r : Req) : Act W64 :=
  let x := SampleBlock.of r.blk
  (needCheck 2 (sampleOk r.blk false)).andThen fun _ => (readSeq d r.ctx x.seq).andThen fun q =>
    (needCheck 2 (x.v ≤ q.voc)).andThen fun _ => (samplePath d r.ctx x q).andThen fun path =>
      match path with
      | none => Act.ret refusedWord
      | some path => (vread (agentB d) r.ctx x.log (4 * x.v)).andThen fun lb => (vread (agentB d) r.ctx q.pen (2 * x.v)).andThen fun pb =>
        let out := (List.range x.v).map fun i =>
          penalise (decodeNum fp32 x.alpha) (decodeNum fp32 x.beta) (natAt lb (4 * i) 4)
            (min (natAt pb (2 * i) 2 + path.count i) 65535)
        (vwrite (agentB d) r.ctx x.dst (out.flatMap fun (o : Nat × Flags) => toBytes o.1 4)).andThen fun _ =>
          Act.ret (BitVec.ofNat 64 ((out.foldl (fun f (o : Nat × Flags) => f ||| o.2) 0).toNat * 2 ^ 52))

/-- `RNG` at its unit (R313). -/
def rngUnit (f : Form) (_ : Nat) (r : Req) : Act W64 :=
  let y := philox r.l.toNat (bitsOf r.r.toNat 0 32) (bitsOf r.r.toNat 32 32) (bitsOf r.c.toNat 0 32) (bitsOf r.c.toNat 32 32)
  Act.ret (BitVec.ofNat 64 (if f.mod = 0 then y.2.1 * 2 ^ 32 + y.1 else y.2.2.2 * 2 ^ 32 + y.2.2.1))

/-! ## Grammar requests (R307 to R309) -/

/-- The reply of a `GSTEP` on a record (R308). -/
def stepWord (st depth : Nat) (reject stack last : Bool) : W64 :=
  BitVec.ofNat 64 (st + depth * 2 ^ 16 + b2n reject * 2 ^ 32 + b2n stack * 2 ^ 33 + b2n last * 2 ^ 34)

/-- `GMASK` at its unit (R307). -/
def gmaskUnit (d : Nat) (r : Req) : Act W64 :=
  (readSeq d r.ctx r.l.toNat).andThen fun q =>
    if q.gram = 0 then Act.ret refusedWord
    else (readGram d r.ctx q.gram).andThen fun g => g.mask q.pstate q.top r.r.toNat

/-- `GMASK.H` at its unit (R307). -/
def gmaskHUnit (d : Nat) (r : Req) : Act W64 :=
  (readGram d r.ctx r.c.toNat).andThen fun g => (splitHandle r.l).andThen fun h => g.mask h.st h.top r.r.toNat

/-- `GSTEP` at its unit (R308). -/
def gstepUnit (d : Nat) (r : Req) : Act W64 :=
  (readSeq d r.ctx r.l.toNat).andThen fun q =>
    if q.gram = 0 ∨ q.state ≠ seqActive ∨ bitOf r.r.toNat 63 then Act.ret refusedWord
    else (readGram d r.ctx q.gram).andThen fun g => (g.step ⟨q.pstate, q.depth, q.top⟩ (bitsOf r.r.toNat 0 32)).andThen fun o =>
      match o with
      | .reject => Act.ret (stepWord q.pstate q.depth true false false)
      | .stack => (writeSeq d r.ctx r.l.toNat { q with status := q.status % 4 + 4 }).andThen fun _ =>
          Act.ret (stepWord q.pstate q.depth false true false)
      | .to h final made =>
        (if h.top = q.top then Act.ret ()
         else (if made then Act.ret () else cellRef d r.ctx h.top).andThen fun _ => cellRelease d r.ctx q.top).andThen fun _ =>
          (writeSeq d r.ctx r.l.toNat { q with
            pstate := h.st
            depth := h.depth
            top := h.top
            state := if final then seqDone else q.state }).andThen fun _ => Act.ret (stepWord h.st h.depth false false final)

/-- `GSTEP.H` at its unit (R308). -/
def gstepHUnit (d : Nat) (r : Req) : Act W64 :=
  (readGram d r.ctx r.c.toNat).andThen fun g => (splitHandle r.l).andThen fun h => (g.step h (bitsOf r.r.toNat 0 32)).andThen fun o =>
    match o with
    | .reject => Act.ret (r.l + BitVec.ofNat 64 (2 ^ 43))
    | .stack => Act.ret (r.l + BitVec.ofNat 64 (2 ^ 44))
    | .to h' _ made => (if made then Act.ret () else cellRef d r.ctx h'.top).andThen fun _ => Act.ret h'.word

/-- `GSNAP` at its unit (R309). -/
def gsnapUnit (d : Nat) (r : Req) : Act W64 :=
  (readSeq d r.ctx r.l.toNat).andThen fun q => (cellRef d r.ctx q.top).andThen fun _ =>
    Act.ret (Handle.word ⟨q.pstate, q.depth, q.top⟩)

/-- `GREST` at its unit (R309). -/
def grestUnit (d : Nat) (r : Req) : Act W64 :=
  (readSeq d r.ctx r.l.toNat).andThen fun q =>
    if q.state ≠ seqActive then Act.ret refusedWord
    else (splitHandle r.r).andThen fun h => (cellRef d r.ctx h.top).andThen fun _ => (cellRelease d r.ctx q.top).andThen fun _ =>
      (writeSeq d r.ctx r.l.toNat { q with pstate := h.st, depth := h.depth, top := h.top }).andThen fun _ => Act.ret r.r

/-! ## Drafts and commits (R311, R312) -/

/-- `ACCEPT.OPEN` at its unit (R311). -/
def acceptOpenUnit (d : Nat) (r : Req) : Act W64 :=
  (readSeq d r.ctx r.l.toNat).andThen fun q =>
    if q.state ≠ seqActive then Act.ret refusedWord
    else (writeSeq d r.ctx r.l.toNat { q with draft := r.r.toNat, state := seqDrafting }).andThen fun _ => Act.ret r.r

/-- `ACCEPT.WALK` at its unit (R304, R311). -/
def acceptWalkUnit (d : Nat) (r : Req) : Act W64 :=
  (readSeq d r.ctx r.l.toNat).andThen fun q =>
    if q.state ≠ seqDrafting then Act.ret refusedWord
    else (readDraft d r.ctx q.draft).andThen fun ns => (walkDraft d r.ctx ns r.r.toNat 65 0 0).andThen fun x =>
      Act.ret (BitVec.ofNat 64 (x.1 + x.2.1 * 2 ^ 32 + x.2.2.1 * 2 ^ 38 + b2n x.2.2.2 * 2 ^ 48 + 2 ^ 62))

/-- `ACCEPT.ABORT` at its unit (R305, R311). -/
def acceptAbortUnit (d : Nat) (r : Req) : Act W64 :=
  (readSeq d r.ctx r.l.toNat).andThen fun q =>
    if q.state ≠ seqDrafting then Act.ret refusedWord
    else (readDraft d r.ctx q.draft).andThen fun ns => (settleDraft d r.ctx q ns 0).andThen fun q =>
      (writeSeq d r.ctx r.l.toNat q).andThen fun _ => Act.ret 0

/-- One more committed count of a token, saturating (R312). -/
def countToken (d : Nat) (c : BitVec 8) (pen y : Nat) : Act Unit :=
  (vnat (agentB d) c (pen + 2 * y) 2).andThen fun n => vput (agentB d) c (pen + 2 * y) 2 (min (n + 1) 65535)

/-- The tokens that a commit counts after its path, and the record's new step and last token (R312). -/
def commitCounts (d : Nat) (r : Req) (q : Seqn) (path : List Nat) : Act W64 :=
  let tok := bitsOf r.r.toNat 0 32
  (Act.each (countToken d r.ctx q.pen) (path ++ [tok])).andThen fun _ =>
    (writeSeq d r.ctx r.l.toNat { q with step := (q.step + path.length + 1) % 2 ^ 32, last := tok }).andThen fun _ =>
      Act.ret (BitVec.ofNat 64 (tok + path.length * 2 ^ 32))

/-- `COMMIT` at its unit (R312). -/
def commitUnit (d : Nat) (r : Req) : Act W64 :=
  (readSeq d r.ctx r.l.toNat).andThen fun q =>
    let draft := bitOf r.r.toNat 62
    if bitOf r.r.toNat 63 ∨ q.voc ≤ bitsOf r.r.toNat 0 32 ∨ q.state ≠ (if draft then seqDrafting else seqActive) then
      Act.ret refusedWord
    else if !draft then commitCounts d r q []
    else (readDraft d r.ctx q.draft).andThen fun ns =>
      let n := bitsOf r.r.toNat 32 6
      let path := draftPath ns 64 n
      (needCheck 3 (n < ns.length)).andThen fun _ =>
        if path.any fun y => q.voc ≤ y then Act.ret refusedWord
        else (settleDraft d r.ctx q ns n).andThen fun q => commitCounts d r q path

/-- `COMMIT.FREE` at its unit (R312). -/
def commitFreeUnit (d : Nat) (r : Req) : Act W64 :=
  (readSeq d r.ctx r.l.toNat).andThen fun q =>
    if q.state = seqFreed then Act.ret refusedWord
    else (if q.state = seqDrafting then (readDraft d r.ctx q.draft).andThen fun ns => settleDraft d r.ctx q ns 0
          else Act.ret q).andThen fun q =>
      (cellRelease d r.ctx q.top).andThen fun _ =>
        (writeSeq d r.ctx r.l.toNat { q with top := 0, depth := 0, state := seqFreed }).andThen fun _ => Act.ret 0

/-! ## The instructions (R306 to R313) -/

/-- A request instruction of the boundary. -/
def boundary (i : Instr) (go : Nat → Req → Act W64) (s : State) : Answer :=
  onRequest s (fun fr s => fr.sendRequest i s) (boundaryTurn go)

/-- `GMASK` (R307). -/
def execGmask (f : Form) (s : State) : Answer := boundary (.gmask f) gmaskUnit s
/-- `GMASK.H` (R307). -/
def execGmaskH (f : Form) (s : State) : Answer := boundary (.gmaskH f) gmaskHUnit s
/-- `GSTEP` (R308). -/
def execGstep (f : Form) (s : State) : Answer := boundary (.gstep f) gstepUnit s
/-- `GSTEP.H` (R308). -/
def execGstepH (f : Form) (s : State) : Answer := boundary (.gstepH f) gstepHUnit s
/-- `GSNAP` (R309). -/
def execGsnap (f : Form) (s : State) : Answer := boundary (.gsnap f) gsnapUnit s
/-- `GREST` (R309). -/
def execGrest (f : Form) (s : State) : Answer := boundary (.grest f) grestUnit s
/-- `GFORK` (R309). -/
def execGfork (f : Form) (s : State) : Answer :=
  boundary (.gfork f) (fun d r => (splitHandle r.l).andThen fun h => (cellRef d r.ctx h.top).andThen fun _ => Act.ret r.l) s
/-- `GDROP` (R309). -/
def execGdrop (f : Form) (s : State) : Answer :=
  boundary (.gdrop f) (fun d r => (splitHandle r.l).andThen fun h => (cellRelease d r.ctx h.top).andThen fun _ => Act.ret 0) s
/-- `SAMP` (R310). -/
def execSamp (f : Form) (s : State) : Answer := boundary (.samp f) sampUnit s
/-- `LSTAT` (R310). -/
def execLstat (f : Form) (s : State) : Answer := boundary (.lstat f) lstatUnit s
/-- `PENAL` (R310). -/
def execPenal (f : Form) (s : State) : Answer := boundary (.penal f) penalUnit s
/-- `ACCEPT.OPEN` (R311). -/
def execAcceptOpen (f : Form) (s : State) : Answer := boundary (.acceptOpen f) acceptOpenUnit s
/-- `ACCEPT.WALK` (R311). -/
def execAcceptWalk (f : Form) (s : State) : Answer := boundary (.acceptWalk f) acceptWalkUnit s
/-- `ACCEPT.ABORT` (R311). -/
def execAcceptAbort (f : Form) (s : State) : Answer := boundary (.acceptAbort f) acceptAbortUnit s
/-- `COMMIT` (R312). -/
def execCommit (f : Form) (s : State) : Answer := boundary (.commit f) commitUnit s
/-- `COMMIT.FREE` (R312). -/
def execCommitFree (f : Form) (s : State) : Answer := boundary (.commitFree f) commitFreeUnit s
/-- `RNG` (R313). -/
def execRng (f : Form) (s : State) : Answer := boundary (.rng f) (rngUnit f) s

end Sys2Proof.Machine
end

