-- ==== Sys2Proof/Machine/Verify.lean ====
section
/-! DEFINITION. The kernel image (R340, R341) and the loader's verifier: the load checks 3 to 13 of R344,
with the loop rules of R153 and the wave rules of R183. -/

namespace Sys2Proof.Machine

open Sys2Proof

/-! ## The image (R340, R341) -/

/-- A record of an image; it has no body where it cannot be read or runs past `LEN`. -/
structure ImgRec where
  idx : Nat
  typ : Nat := 0
  role : Nat := 0
  elem : Nat := 0
  slot : Nat := 0
  high : Nat := 0
  addr : Nat := 0
  body : Option (List Byte) := none
  deriving DecidableEq, Repr

/-- The body's bytes. -/
def ImgRec.bytes (r : ImgRec) : List Byte := r.body.getD []
/-- The body's length. -/
def ImgRec.len (r : ImgRec) : Nat := r.bytes.length
/-- The body's 16-byte items, as numbers. -/
def ImgRec.items (r : ImgRec) : List Nat := (List.range (r.len / 16)).map fun k => natAt r.bytes (16 * k) 16

/-- An image as the loader reads it: its header, and its bytes, of which some may be unreadable. -/
structure Image where
  hdr : Nat
  raw : List (Option Byte)
  deriving DecidableEq, Repr

/-- Bytes of an image, if all can be read. -/
def Image.slice (m : Image) (a n : Nat) : Option (List Byte) :=
  let bs := (m.raw.drop a).take n
  if bs.length = n ∧ bs.all Option.isSome then some (bs.map fun b => b.getD 0) else none
/-- Header fields. -/
def Image.mdata (m : Image) : Nat := bitsOf m.hdr 448 64
/-- `SIGOFF`. -/
def Image.sigoff (m : Image) : Nat := bitsOf m.hdr 384 32
/-- `KEY`. -/
def Image.key (m : Image) : Nat := bitsOf m.hdr 376 4
/-- `ENTRY`. -/
def Image.entry (m : Image) : Nat := bitsOf m.hdr 352 16
/-- `ROLES`. -/
def Image.roles (m : Image) : Nat := bitsOf m.hdr 320 16
/-- `CRCOFF`. -/
def Image.crcoff (m : Image) : Nat := bitsOf m.hdr 288 32
/-- `NREC`. -/
def Image.nrec (m : Image) : Nat := bitsOf m.hdr 256 32
/-- `LEN`. -/
def Image.len (m : Image) : Nat := bitsOf m.hdr 224 32
/-- `SIGNED`. -/
def Image.signed (m : Image) : Bool := bitOf m.hdr 192

/-- The records from a place on, `n` of them; the last is the first one that cannot be read. -/
def Image.recsFrom (m : Image) : Nat → Nat → Nat → List ImgRec
  | 0, _, _ => []
  | n + 1, i, pos =>
    match m.slice pos 16 with
    | none => [{ idx := i }]
    | some h =>
      let w := natAt h 0 4
      let blen := natAt h 4 4
      let r : ImgRec := { idx := i, typ := w % 256, role := bitsOf w 8 10, elem := bitsOf w 18 4
                          slot := bitsOf w 22 5, high := bitsOf w 27 5, addr := natAt h 8 8 }
      match m.slice (pos + 16) blen with
      | none => [r]
      | some b => { r with body := some b } :: m.recsFrom n (i + 1) (pos + 16 + blen)
/-- The records of an image. -/
def Image.recs (m : Image) : List ImgRec := m.recsFrom m.nrec 0 64

/-- The record index of a check on the whole image (R344). -/
def wholeImage : Nat := 0xFFFFFF
/-- `VERD` of a failed check. -/
def verdict (check rec : Nat) : Nat := check + rec % 2 ^ 24 * 256

/-- The first item of a list that a test picks, as the record it stands in. -/
def firstBad {α : Type} (l : List α) (bad : α → Bool) (rec : α → Nat) : Option Nat := (l.find? bad).map rec

/-! ## Check 3 -/

/-- A route record is well formed (R209): 1 to 112 hops, the rest zero. That its `RES` bits 8:7 must be zero in an image is
DESIGN CHOICE, log 147. -/
def routeOk (v : Nat) : Bool :=
  let n := v % 128
  1 ≤ n && n ≤ 112 && bitsOf v 7 2 == 0 && v / 2 ^ (32 + 2 * n) == 0

/-- The checkpoint words of a `TREE` body, up to the first zero word. -/
def treeCkpts (b : List Byte) : List Nat :=
  ((List.range ((b.length - 48) / 8)).map fun k => natAt b (48 + 8 * k) 8).takeWhile fun a => a != 0

/-- A `TREE` body is within the ranges of its fields (R238, R341). -/
def treeOk (b : List Byte) : Bool :=
  let x := natAt b 8 8
  let ck := (List.range ((b.length - 48) / 8)).map fun k => natAt b (48 + 8 * k) 8
  48 ≤ b.length && bitsOf x 27 5 == 0 && x / 2 ^ 35 == 0 && 1 ≤ x % 2 ^ 16 && x % 2 ^ 16 ≤ 1024 && 1 ≤ bitsOf x 16 8
    && bitsOf x 16 8 ≤ 64 && bitsOf x 24 3 ≤ 4 && (ck.dropWhile fun a => a != 0).all fun a => a == 0

/-- A record fails check 3 (R341, R344). -/
def ImgRec.bad3 (r : ImgRec) (roles : Nat) : Bool :=
  match r.body with
  | none => true
  | some b =>
    let n := b.length
    r.typ == 0 || r.typ > 12 || r.high != 0 || n % 16 != 0 || r.role ≥ roles ||
    (match r.typ with
    | 1 => r.addr != 0 || n == 0 || r.slot + n / 16 > 32
    | 2 => r.addr != 0
    | 3 => n != 0 || r.addr ≥ 2 ^ 20 || !([0, 1, 2, 4, 8].contains (bitsOf r.addr 16 4))
    | 4 => n != 0 || r.addr ≥ 2 ^ 31 || bitsOf r.addr 12 8 == 0
    | 5 => r.addr != 0 || n != 32 || !routeOk (natAt b 0 32) || bitsOf (natAt b 0 32) 12 10 != r.role
    | 6 => n != 0 || r.addr ≥ 2 ^ 33 || r.addr % 2 ^ 16 % 16 != 0 || bitsOf r.addr 16 17 % 16 != 0
        || r.addr % 2 ^ 16 + bitsOf r.addr 16 17 > 65536
    | 7 => r.addr % 16 != 0 || r.addr + n > 65536
    | 8 => !bitOf r.addr 63 && r.addr ≥ 2 ^ 56
    | 9 => r.addr != 0 || !treeOk b
    | 10 => n != 16 || r.addr ≥ 2 ^ 56
    | 12 => r.addr % 16 != 0 || r.addr + n > 65536
    | _ => false)

/-! ## The words of an image -/

/-- A word of an image at its slot: role × 512 + element × 32 + slot. -/
structure ImgWord where
  node : Nat
  src : Nat
  word : W128
  /-- Where a stream's row tokens go by the waybill that the image holds, and whether they carry their row's field (R198,
  R202). -/
  rows : Option (BitVec 22 × Bool) := none
  deriving DecidableEq, Repr

/-- The opcode of a word. -/
def ImgWord.opc (w : ImgWord) : Nat := wordOpcode w.word
/-- Its fields. -/
def ImgWord.form (w : ImgWord) : Form := wordForm w.word
/-- The tile's role. -/
def ImgWord.role (w : ImgWord) : Nat := w.node / 512

/-- The scratchpad of a role as the image's `SPDATA` records leave it. -/
def imageScratch (rs : List ImgRec) (role : Nat) : FMap Byte :=
  (rs.filter fun r => r.typ == 7 && r.role == role).foldl (fun m r => memWrite m r.addr r.bytes) []

/-- The row tokens of a stream that a word opens, by the waybill in the image's scratchpad (R198, R202). -/
def rowTokens (rs : List ImgRec) (role : Nat) (w : W128) : Option (BitVec 22 × Bool) :=
  if wordOpcode w = 0xA0 ∨ wordOpcode w = 0xA1 ∨ wordOpcode w = 0xA2 then
    let b := waybillOf (memRead (imageScratch rs role) ((wordForm w).imm.toNat % 2 ^ 16) 64)
    if b.rtok then some (b.tgt, b.rtag) else none
  else none

/-- Every word written, in image order. -/
def imageWords (rs : List ImgRec) : List ImgWord :=
  (rs.filter fun r => r.typ == 1).flatMap fun r => (r.items.zip (List.range r.items.length)).map fun q =>
    { node := r.role * 512 + r.elem * 32 + r.slot + q.2, src := r.idx, word := BitVec.ofNat 128 q.1
      rows := rowTokens rs r.role (BitVec.ofNat 128 q.1) }

/-- The word that stands at each slot in the end: the later one, and none for `VOID`. -/
def finalWords (ws : List ImgWord) : List ImgWord :=
  (ws.foldl (fun m w => (m.filter fun v => v.node != w.node) ++ [w]) []).filter fun w => w.opc != 0

/-- The word at a node. -/
def wordAt (ws : List ImgWord) (n : Nat) : Option ImgWord := ws.find? fun w => w.node == n

/-- A word fails R61 (check 4). -/
def ImgWord.bad4 (w : ImgWord) : Bool :=
  match decode .fabric w.word with
  | .ok _ => false
  | .error b => b != BadWord.void

/-- The targets of a word: `TGT0`, `TGT1`, the return target of `SPAWN`, and the panel-token target of `CIRCX`. -/
def ImgWord.targets (w : ImgWord) : List (BitVec 22) :=
  [w.form.tgt0, w.form.tgt1] ++ (if w.opc = 0x28 then [spawnRet w.form] else [])
    ++ (if w.opc = 0xA7 then [circxTarget w.form] else [])

/-- The `INJ` words of the drover code, by record: `MOD` and the target (R121). -/
def injWords (rs : List ImgRec) : List (Nat × BitVec 7 × BitVec 22) :=
  (rs.filter fun r => r.typ == 11).flatMap fun r => r.items.filterMap fun v =>
    let w : W128 := BitVec.ofNat 128 v
    if wordOpcode w = 0x0E then some (r.idx, (wordForm w).mod, (wordForm w).imm.setWidth 22) else none

/-- A target names a role that the image has not (check 6). -/
def badTarget (roles : Nat) (t : BitVec 22) : Bool := targetValid t && targetRole t ≥ roles && targetRole t != 0x3FF

/-! ## Checks 5, 7 and 8: windows, depths and ranges -/

/-- The first two ranges of a list that overlap, as the later record of the two. -/
def firstClash : List (Nat × Nat × Nat) → Option Nat
  | [] => none
  | (a, n, r) :: l =>
    match l.find? fun q => a < q.1 + q.2.1 && q.1 < a + n with
    | some q => some (max r q.2.2)
    | none => firstClash l

/-- The windows of an element's words (R29). -/
def elemWindows (ws : List ImgWord) (e : Nat) : List (Nat × Nat × Nat) :=
  (ws.filter fun w => w.node / 32 == e && 2 ≤ inputCount w.opc w.form).map fun w =>
    (w.form.msbase.toNat, 2 ^ w.form.mslog.toNat, w.src)

/-- The items of the `EDGE` records: record, producer node, field, initial and maximum depth. -/
def imageEdges (rs : List ImgRec) : List (Nat × Nat × Nat × Nat × Nat) :=
  (rs.filter fun r => r.typ == 2).flatMap fun r => r.items.map fun v =>
    (r.idx, r.role * 512 + r.elem * 32 + v % 32, bitsOf v 5 1, bitsOf v 16 9, bitsOf v 32 9)

/-- The maximum depth of an edge in an image (R102). -/
def edgeMax (es : List (Nat × Nat × Nat × Nat × Nat)) (node field : Nat) : Nat :=
  match es.reverse.find? fun e => e.2.1 == node && e.2.2.1 == field with
  | some e => e.2.2.2.2
  | none => 2

/-- The maximum depths of a tile's edges (R102). -/
def tileDepths (ws : List ImgWord) (es : List (Nat × Nat × Nat × Nat × Nat)) (role : Nat) : Nat :=
  ((ws.filter fun w => w.role == role).map fun w =>
    ([0, 1].map fun k => let t := targetOf w.form k
      if targetValid t && targetRole t == role then edgeMax es w.node k else 0).sum).sum

/-- The loop shares of a tile (R148). -/
def tileShares (ws : List ImgWord) (role : Nat) : List (Nat × Nat × Nat) :=
  (ws.filter fun w => w.role == role && w.opc == 0x20).map fun w =>
    ((shareOf w.form).base, 48 * (shareOf w.form).count, w.src)

/-- The serai tile parts, shares and rings of a tile that hold a byte (check 8). -/
def tileRanges (rs : List ImgRec) (ws : List ImgWord) (role : Nat) : List (Nat × Nat × Nat) :=
  ((rs.filter fun r => r.role == role && (r.typ == 3 || r.typ == 4)).map (fun r =>
    if r.typ = 3 then (r.addr % 2 ^ 16, 2048 * bitsOf r.addr 16 4, r.idx)
    else ((ringOfImm (r.addr % 2 ^ 28)).base, (ringOfImm (r.addr % 2 ^ 28)).size, r.idx))
    ++ tileShares ws role).filter fun q => q.2.1 != 0

/-- Check 8 of a tile. -/
def ranges8 (rs : List ImgRec) (ws : List ImgWord) (role : Nat) : Option Nat :=
  let l := tileRanges rs ws role
  firstBad l (fun q => q.1 + q.2.1 > 65536) (fun q => q.2.2) <|> firstClash l

/-! ## Where a token goes, and the field that it carries -/

/-- A token at a node, with the fields that its tag has above a point of reference. -/
abbrev Walker := Nat × Nat

/-- The depth that a `TAGOP` leaves; none where the tag is another one (R145). `top`: the point of reference is the
tag at depth 0, whose block tag is itself. -/
def tagopDepth (top : Bool) (op d : Nat) : Option Nat :=
  if op = 0 then some d else if op = 1 then some (d + 1)
  else if op = 2 then (if d = 0 then none else some (d - 1))
  else if op = 3 then (if d = 0 ∧ !top then none else some d)
  else if op = 4 then (if d = 0 then none else some d)
  else none

/-- Where the tokens of a word go that still carry the tag below depth `d`: target fields with the depths. A
`SPAWN` comes back at its return target with the caller's tag (R167), a `CIRCX` sends its panel token with the
output tag (R210; DEDUCED, log 155), a stream its row tokens with the command's or with a field of their own (R202), and a `SETIT` gives
another innermost field (R163). From a `SINK` and a `MARK` only markers go (R24, R110, R111). -/
def ImgWord.hops (top : Bool) (w : ImgWord) (d : Nat) : List (BitVec 22 × Nat) :=
  let f := w.form
  let both := fun k => [(f.tgt0, k), (f.tgt1, k)]
  let kept := match tagopDepth top f.tagop.toNat d with
    | some k => both k ++ (if w.opc = 0xA7 then [(circxTarget f, k)] else [])
      ++ (match w.rows with | some (t, own) => if own && k == 0 then [] else [(t, k)] | none => [])
    | none => []
  let all := match w.opc with
  | 0x07 => []
  | 0x08 => []
  | 0x25 => if d = 0 then [] else both d
  | 0x20 => both (d + 1)
  | 0x21 => (if d = 0 then [] else [(f.tgt0, d)]) ++ [(f.tgt1, d)]
  | 0x23 => (if d = 0 then [] else [(f.tgt0, d - 1)]) ++ [(f.tgt1, d)]
  | 0x24 => both (d + 1)
  | 0x28 => [(spawnRet f, d)]
  | 0x29 => []
  | _ => kept
  all.filter fun q => targetValid q.1

/-- The node of a target. -/
def nodeOf (t : BitVec 22) : Nat := targetRole t * 512 + targetElem t * 32 + targetSlot t

/-- One round of a search: what is reached next from some walkers, without what was seen. -/
def expand (go : Walker → List Walker) (seen front : List Walker) : List Walker :=
  (front.flatMap go).foldl (fun l q => if seen.contains q || l.contains q then l else l ++ [q]) []

/-- What walkers reach, in at most `n` rounds. -/
def reach (go : Walker → List Walker) : Nat → List Walker → List Walker → List Walker
  | 0, seen, _ => seen
  | n + 1, seen, front =>
    match expand go seen front with
    | [] => seen
    | next => reach go n (seen ++ next) next

/-- The targets that are slots, as walkers. -/
def slotWalkers (ts : List (BitVec 22 × Nat)) : List Walker :=
  (ts.filter fun t => targetValid t.1 && targetRole t.1 != 0x3FF).map fun t => (nodeOf t.1, t.2)

/-- Walk on from some walkers; `hops` says where a word's tokens go. -/
def walkBy (ws : List ImgWord) (hops : ImgWord → Nat → List (BitVec 22 × Nat)) (first : List Walker) : List Walker :=
  let go := fun (q : Walker) => match wordAt ws q.1 with
    | none => []
    | some w => if q.2 > 6 then [] else slotWalkers (hops w q.2)
  reach go (8 * ws.length + 8) first first

/-- Walk on from walkers up to words that stop them. -/
def walkFrom (top : Bool) (ws : List ImgWord) (stop : ImgWord → Nat → Bool) (first : List Walker) : List Walker :=
  walkBy ws (fun w d => if stop w d then [] else w.hops top d) first

/-- A word sends its token one way or another: a `STEER`, or `PRED` 11 (R55, R109). -/
def ImgWord.steers (w : ImgWord) : Bool := w.opc == 0x03 || w.form.pred == 3
/-- A word sends nothing where its predicate does not hold (R55). -/
def ImgWord.gates (w : ImgWord) : Bool := w.form.pred == 1 || w.form.pred == 2

/-! ## Check 9: the loop rules (R153) -/

/-- The `ALLOC` that a loop reference names, as a node. -/
def ImgWord.loopNode (w : ImgWord) : Nat := w.role * 512 + w.form.imm.toNat % 512

/-- A word ends the field of a loop (R153): an `ITER`, a `POPT` or a `FREE` of it at the loop's own depth. -/
def ImgWord.endsLoop (w : ImgWord) (loop d : Nat) : Bool :=
  d == 1 && ((w.opc == 0x23) || ((w.opc == 0x21 || w.opc == 0x22) && w.loopNode == loop))

/-- Where the tokens of a word go that still carry a loop's field: at the loop's `ITER` the next iteration's token goes
on from `TGT0`, and nothing else passes an end of the loop. -/
def ImgWord.loopHops (w : ImgWord) (loop d : Nat) : List (BitVec 22 × Nat) :=
  if w.endsLoop loop d then (if w.opc = 0x21 then [(w.form.tgt0, 1)] else [])
  else (w.hops false d).filter fun t => t.2 != 0

/-- What the outputs of an `ALLOC` reach while they carry its field. -/
def loopBody (ws : List ImgWord) (a : ImgWord) : List Walker :=
  walkBy ws (fun w d => w.loopHops a.node d) (slotWalkers [(a.form.tgt0, 1), (a.form.tgt1, 1)])

/-- A target leads to a `FREE` of a loop, with the loop's field. -/
def leadsToFree (ws : List ImgWord) (loop : Nat) (t : BitVec 22) : Bool :=
  (walkBy ws (fun w d => w.loopHops loop d) (slotWalkers [(t, 1)])).any fun q =>
    match wordAt ws q.1 with
    | some w => q.2 == 1 && w.opc == 0x22 && w.loopNode == loop
    | none => false

/-- A path that carries a loop's field may end at a word: a loop end, a `SINK` or a store. -/
def ImgWord.mayEnd (w : ImgWord) (loop d : Nat) : Bool :=
  w.endsLoop loop d || w.opc == 0x07 || w.opc == 0x81 || w.opc == 0x83

/-- A path of a loop ends at a word where it may not: it goes nowhere, whichever way the word sends its token (log 121),
or loses the loop's field. -/
def badEnd (ws : List ImgWord) (loop : Nat) (q : Walker) : Bool :=
  match wordAt ws q.1 with
  | none => true
  | some w =>
    let hops := w.hops false q.2
    !w.mayEnd loop q.2 && (hops.isEmpty || w.gates || (w.steers && hops.length < 2) || hops.any fun t => t.2 == 0)

/-- A rule on the words of one loop fails: an `ITER` or a `POPT` bound to it has no retire path, or a path ends badly. -/
def badLoop (ws : List ImgWord) (a : ImgWord) : Bool :=
  let body := loopBody ws a
  ([a.form.tgt0, a.form.tgt1].all fun t => !targetValid t)
    || body.any (badEnd ws a.node)
    || (ws.any fun w => w.opc == 0x21 && w.loopNode == a.node && !leadsToFree ws a.node w.form.tgt1)
    || body.any fun q => match wordAt ws q.1 with
      | some w => q.2 == 1 && w.opc == 0x23 && !leadsToFree ws a.node w.form.tgt1
      | none => false

/-- The words that start without a token. -/
def startWords (ws : List ImgWord) : List ImgWord := ws.filter fun w => w.form.arity == 3

/-- What tokens with a number of fields reach at targets without crossing a call. -/
def codeFrom (ws : List ImgWord) (ts : List (BitVec 22 × Nat)) : List Nat :=
  (walkFrom true ws (fun _ _ => false) (slotWalkers ts)).map (·.1)

/-- The callers' bound of an `ALLOC` (R153): the caps of the `SPAWN`s that enter its code, and 1 for code
reached from kernel start: from a word that starts without a token, or from a token that the drover program injects. -/
def callBound (ws : List ImgWord) (inj : List (BitVec 22)) (a : ImgWord) : Nat :=
  let called := fun (w : ImgWord) => codeFrom ws [(w.form.tgt0, 0), (w.form.tgt1, 0)]
  let spawns := (ws.filter fun w => w.opc == 0x28).filter fun w => (called w).contains a.node
  let started := spawns.isEmpty
    || (startWords ws).any (fun w => w.node == a.node || (codeFrom ws (w.hops true 0)).contains a.node)
    || (codeFrom ws (inj.map fun t => (t, 0))).contains a.node
  (spawns.map fun w => spawnCap w.form).sum + (if started then 1 else 0)

/-- The bound of an `ALLOC`'s share (R153): K of each enclosing loop, and the callers. -/
def loopBound (ws : List ImgWord) (inj : List (BitVec 22)) (a : ImgWord) : Nat :=
  let loops := ws.filter fun w => w.opc == 0x20 && w.node != a.node && (loopBody ws w).any fun q => q.1 == a.node
  (loops.map fun w => (shareOf w.form).k).foldl (· * ·) (callBound ws inj a)

/-- Check 9 (R153). -/
def loops9 (rs : List ImgRec) (ws : List ImgWord) (roles : Nat) : Option Nat :=
  let refs := ws.filter fun w => w.opc == 0x21 || w.opc == 0x22 || w.opc == 0x2A
  let allocs := ws.filter fun w => w.opc == 0x20
  let data := fun role => (rs.filter fun r => r.typ == 7 && r.role == role && r.len != 0).map fun r => (r.addr, r.len, r.idx)
  firstBad refs (fun w => match wordAt ws w.loopNode with
    | some a => a.opc != 0x20 || (w.opc == 0x21 && a.form.mod == 0)
    | none => true) (·.src)
  <|> ((List.range roles).findSome? fun role => (tileShares ws role).findSome? fun s =>
    ((data role).find? fun q => s.1 < q.1 + q.2.1 && q.1 < s.1 + s.2.1).map fun q => max s.2.2 q.2.2)
  <|> firstBad allocs (fun a => (shareOf a.form).count < loopBound ws ((injWords rs).map (·.2.2)) a) (·.src)
  <|> firstBad allocs (badLoop ws) (·.src)

/-! ## Check 10: the wave rules (R183) -/

/-- A wave-ordered access (R178). -/
def ImgWord.isAccess (w : ImgWord) : Bool := w.form.immp == 6 && (w.opc == 0x80 || w.opc == 0x81 || w.opc == 0x89 || w.opc == 0x8B)
/-- Its predecessor. -/
def ImgWord.pred (w : ImgWord) : Nat := bitsOf w.form.imm.toNat 20 10
/-- Its successor. -/
def ImgWord.succ (w : ImgWord) : Nat := w.form.imm.toNat % 1024

/-- A token at a node closes its wave's chain, whichever way it is steered: it meets an access with successor 0, or
goes on to tokens that close it (`known`): all of a steering word's, some of another's; one that its predicate may
suppress does not. -/
def closesNow (top : Bool) (ws : List ImgWord) (known : List Walker) (q : Walker) : Bool :=
  match wordAt ws q.1 with
  | none => false
  | some w =>
    if q.2 == 0 && w.isAccess && w.succ == 0 then true
    else
      let hops := w.hops top q.2
      let next := (hops.filter fun t => targetRole t.1 != 0x3FF && t.2 ≤ 6).map fun t => known.contains (nodeOf t.1, t.2)
      !w.gates && (if w.steers then hops.length == next.length && hops.length == 2 && next.all id else next.any id)

/-- The walkers of a list that come to an access with successor 0 within it: those found grow in at most `n` rounds. -/
def grounded (top : Bool) (ws : List ImgWord) (known : List Walker) : Nat → List Walker → List Walker
  | 0, found => found
  | n + 1, found =>
    let more := known.filter fun q => found.contains q || (match wordAt ws q.1 with
      | none => false
      | some w => (q.2 == 0 && w.isAccess && w.succ == 0) || (w.hops top q.2).any fun t => found.contains (nodeOf t.1, t.2))
    if more.length = found.length then found else grounded top ws known n more

/-- The walkers whose every path closes their chain: those that do not, and those that never come to an access with
successor 0, are taken out of a list in at most `n` rounds. A path that goes round a loop closes the chain where the loop's
way out does. -/
def closing (top : Bool) (ws : List ImgWord) : Nat → List Walker → List Walker
  | 0, known => known
  | n + 1, known =>
    let less := grounded top ws known (known.length + 1) [] |>.filter (closesNow top ws known)
    if less.length = known.length then known else closing top ws n less

/-- A wave's creation (R181): the record that it stands in, its first tokens that reach slots, and for `ALLOC` and `ITER`
the loop, as the node of its `ALLOC`. -/
structure Creation where
  src : Nat
  starts : List Walker
  loop : Option Nat := none
  /-- An `ITER` without `U`. -/
  links : Bool := false
  /-- Its tag stands at depth 0: `SPAWN`, kernel start, and what the drover program injects (log 121). -/
  top : Bool := false
  deriving DecidableEq, Repr

/-- The creation that a word makes. -/
def ImgWord.creation (w : ImgWord) : Option Creation :=
  let at0 := fun (ts : List (BitVec 22)) => slotWalkers (ts.map fun t => (t, 0))
  match w.opc with
  | 0x20 => some { src := w.src, starts := at0 [w.form.tgt0, w.form.tgt1], loop := some w.node }
  | 0x21 => some { src := w.src, starts := at0 [w.form.tgt0], loop := some w.loopNode, links := w.form.mod == 0 }
  | 0x28 => some { src := w.src, starts := at0 [w.form.tgt0, w.form.tgt1], top := true }
  | _ => none

/-- The creations of waves in an image (R181): `ALLOC`, `ITER`, `SPAWN`, kernel start, whose words without a token are of
one wave, and each `INJ` of the drover code (log 121). -/
def creations (rs : List ImgRec) (ws : List ImgWord) : List Creation :=
  ws.filterMap ImgWord.creation
    ++ (match startWords ws with
      | [] => []
      | w :: l => [{ src := w.src, starts := (w :: l).map fun v => (v.node, 0), top := true }])
    ++ (injWords rs).filterMap fun q => match slotWalkers [(q.2.2, 0)] with
      | [] => none
      | l => some { src := q.1, starts := l, top := true }

/-- Where the wave's tokens come. -/
def Creation.walk (ws : List ImgWord) (c : Creation) : List Walker := walkFrom c.top ws (fun _ _ => false) c.starts

/-- Some path of the wave holds a wave-ordered access. -/
def Creation.holdsAccess (ws : List ImgWord) (c : Creation) : Bool :=
  (c.walk ws).any fun q => match wordAt ws q.1 with
    | some w => q.2 == 0 && w.isAccess
    | none => false

/-- The wave's chain is closed on every path. -/
def Creation.closed (ws : List ImgWord) (c : Creation) : Bool :=
  let qs := c.walk ws
  let known := closing c.top ws (qs.length + 1) qs
  c.starts.any known.contains

/-- A wave must close its chain (R183): it holds an access, or an `ITER` without `U` links it to or from a wave
of its loop that does. -/
def Creation.mustClose (ws : List ImgWord) (all : List Creation) (c : Creation) : Bool :=
  c.holdsAccess ws ||
    (c.loop.isSome && all.any (fun d => d.links && d.loop == c.loop) && all.any fun d => d.loop == c.loop && d.holdsAccess ws)

/-- An access whose successor is not known is followed by one whose predecessor is not known: in the wave of any tag,
and in those at depth 0. -/
def badPair (ws : List ImgWord) (all : List Creation) (a : ImgWord) : Bool :=
  let meets := fun top => (walkFrom top ws (fun w d => d == 0 && w.isAccess) (slotWalkers (a.hops top 0))).any fun q =>
    match wordAt ws q.1 with
    | some w => q.2 == 0 && w.isAccess && w.pred == 0x3FF
    | none => false
  a.isAccess && a.succ == 0x3FF && (meets false || (meets true && all.any fun c => c.top && (c.walk ws).contains (a.node, 0)))

/-- Check 10 (R183). -/
def waves10 (rs : List ImgRec) (ws : List ImgWord) : Option Nat :=
  let all := creations rs ws
  firstBad ws (badPair ws all) (·.src) <|> firstBad all (fun c => c.mustClose ws all && !c.closed ws) (·.src)

/-! ## Check 11: routes (R209) -/

/-- The tile that a hop enters; none off the die. -/
def hopTile (t dir : Nat) : Option Nat :=
  if dir = 0 then (if tileX t < 63 then some (t + 1) else none)
  else if dir = 1 then (if 0 < tileX t then some (t - 1) else none)
  else if dir = 2 then (if tileY t < 63 then some (t + 64) else none)
  else (if 0 < tileY t then some (t - 64) else none)

/-- The link directions that a route takes from a tile, and its end; none where it leaves the die or enters a
fused-off tile. -/
def routePath (s : State) (v : Nat) : Nat → Nat → Nat → Option (List (Nat × Nat) × Nat)
  | 0, _, t => some ([], t)
  | n + 1, k, t =>
    let dir := bitsOf v (32 + 2 * k) 2
    match hopTile t dir with
    | none => none
    | some u =>
      if s.tileFused u then none
      else (routePath s v n (k + 1) u).map fun p => ((t, dir) :: p.1, p.2)

/-- The link directions of the circuits that stand outside a group. -/
def State.circuitLinks (s : State) (tiles : List Nat) : List (Nat × Nat) :=
  s.tiles.flatMap fun kv =>
    if tiles.contains kv.1 then [] else kv.2.circuits.flatMap fun c =>
      if c.2.bound then (match routePath s c.2.route (c.2.route % 128) 0 kv.1 with | some p => p.1 | none => []) else []

/-- Check 11 (R209). -/
def routes11 (s : State) (g : Nat) (rs : List ImgRec) : Option Nat :=
  let x := s.group g
  let routes := (rs.filter fun r => r.typ == 5).map fun r =>
    let v := natAt r.bytes 0 32
    (r.idx, routePath s v (v % 128) 0 (x.entry r.role % 2 ^ 14), x.entry (bitsOf v 22 10))
  let all := s.circuitLinks x.tiles ++ routes.flatMap fun q => match q.2.1 with | some p => p.1 | none => []
  firstBad routes (fun q => match q.2.1 with
    | none => true
    | some p => q.2.2 < 2 ^ 15 || p.2 != q.2.2 % 2 ^ 14 || p.1.any fun l => 4 < (all.filter fun m => m == l).length) (·.1)

/-! ## Check 12: declarations (R285, R316) -/

/-- The records that a `TREE` declaration names: ranges of virtual addresses (R238, R240). -/
def treeRanges (r : ImgRec) : List (Nat × Nat × Nat) :=
  let b := r.bytes
  let x := natAt b 8 8
  let d := 16 * 2 ^ bitsOf x 24 3
  let set := 64 + 8 * (x % 2 ^ 16) * bitsOf x 16 8
  ((natAt b 0 8, set, r.idx) :: (treeCkpts b).map fun a => (a, set, r.idx)) ++
    [(natAt b 16 8, natAt b 24 8 * (128 + 8 * d) + natAt b 32 8 * (64 + 2 * d) + natAt b 40 8 * (48 * d), r.idx)]

/-- The range of a `CELLS` declaration (R295). -/
def cellsRange (r : ImgRec) : Nat × Nat × Nat := (r.addr, 16 * natAt r.bytes 0 8, r.idx)

/-- A `TREE` declaration breaks R285: an address is not a multiple of 16, or its records overlap one another. -/
def badTree (r : ImgRec) : Bool :=
  let l := treeRanges r
  l.any (fun q => q.1 % 16 != 0) || (firstClash (l.filter fun q => q.2.1 != 0)).isSome

/-- The `MDATA` records: index, address and bytes (R341). -/
def mdataRecs (m : Image) (rs : List ImgRec) : List (Nat × Nat × List Byte) :=
  (rs.filter fun r => r.typ == 8).map fun r =>
    (r.idx, if bitOf r.addr 63 then (m.mdata + r.addr % 2 ^ 63) % 2 ^ 64 else r.addr, r.bytes)

/-- The grammar declarations of an image, each the `MDATA` records of its sequence record and of its grammar image (R316):
a sequence record is one of 128 bytes, aligned and ACTIVE with its RES fields zero, whose `GRAM` names a record. An image marks
these records in no other way: DESIGN CHOICE, log 121. -/
def gramDecls (ms : List (Nat × Nat × List Byte)) : List ((Nat × Nat × List Byte) × (Nat × Nat × List Byte)) :=
  ms.flatMap fun q =>
    let x := Seqn.ofBytes q.2.2
    if q.2.2.length = 128 ∧ q.2.1 % 128 = 0 ∧ seqResOk q.2.2 ∧ x.state = seqActive ∧ x.gram ≠ 0 then
      (ms.filter fun g => g.2.1 == x.gram && 64 ≤ g.2.2.length).map fun g => (q, g)
    else []

/-- The transitions of a state keep R293, from one on. -/
def transRun (g : Gram) (b : List Byte) : Nat → Nat → List Visited → Bool
  | 0, _, _ => true
  | n + 1, i, seen =>
    let e := slice b (g.trOff + 16 * i) 16
    g.trOff + 16 * i + 16 ≤ g.len && g.transOk e i seen && transRun g b n (i + 1) [(i, natAt e 0 4, natAt e 4 4)]

/-- The runs of a mask keep R293, from one on. -/
def maskRun (g : Gram) (b : List Byte) (off : Nat) : Nat → Nat → Option Nat → Bool
  | 0, _, _ => true
  | n + 1, k, prev =>
    let e := slice b (off + 8 * k) 8
    off + 8 * k + 8 ≤ g.len && g.runOk e prev && maskRun g b off n (k + 1) (some (natAt e 4 4))

/-- A whole grammar image keeps R293. -/
def gramOk (b : List Byte) : Bool :=
  let g := gramOfBytes 0 0 0 b
  let part := fun (off n : Nat) (ok : List Byte → Bool) => off + n ≤ g.len && ok (slice b off n)
  gramHeaderOk b && g.len ≤ b.length
    && (List.range (g.nst + 1)).all (fun s =>
      part (g.stOff + 8 * s) 8 (fun e => stateEntryOk e && transRun g b (natAt e 4 2) (natAt e 0 4) [])
        && part (g.midOff + 32 * s) 32 fun e => (List.range 16).all fun c => g.maskOk (natAt e (2 * c) 2))
    && (List.range g.nmask).all (fun k => part (g.dicOff + 8 * k) 8 fun e =>
      dictOk e && maskRun g b (natAt e 0 4) (natAt e 4 2) 0 none)
    && (List.range (g.nsym + 1)).all fun y => part (g.symOff + 4 * y) 4 g.symbolOk

/-- The records of the grammar declarations as ranges: images, sequence records, penalty tables, cells, and the cell
pool's descriptor at an address (R295, R316). -/
def gramRanges (m : Image) (rs : List ImgRec) (cpool : Nat) : List (Nat × Nat × Nat) :=
  let cells := rs.filter fun r => r.typ == 10
  let ds := gramDecls (mdataRecs m rs)
  let pool := (cells.take 1).map fun r => (cpool, 32, r.idx)
  ((ds.flatMap fun d =>
      let x := Seqn.ofBytes d.1.2.2
      [(d.2.2.1, d.2.2.2.length, d.2.1), (d.1.2.1, 128, d.1.1), (x.pen, 2 * x.voc, d.1.1)]).eraseDups
    ++ cells.map cellsRange ++ pool).filter fun q => q.2.1 != 0

/-- Check 12 (R285, R316): a tree declaration, a cell base that is not a multiple of 16, a grammar image, or the records of
the grammar declarations that overlap. -/
def decls12 (m : Image) (rs : List ImgRec) (cpool : Nat) : Option Nat :=
  firstBad rs (fun r => (r.typ == 9 && badTree r) || (r.typ == 10 && r.addr % 16 != 0)) (·.idx)
    <|> firstBad (gramDecls (mdataRecs m rs)) (fun d => !gramOk d.2.2.2) (·.2.1)
    <|> firstClash (gramRanges m rs cpool)

/-! ## Check 13 and the order of the checks -/

/-- Check 13 (R344): code past word 4,095, or an entry that no record writes. -/
def code13 (m : Image) (rs : List ImgRec) : Option Nat :=
  let cs := rs.filter fun r => r.typ == 11
  firstBad cs (fun r => r.addr + r.len / 16 > 4096) (·.idx)
    <|> if m.entry = 0xFFFF ∨ (cs.any fun r => r.addr ≤ m.entry && m.entry < r.addr + r.len / 16) then none
        else some wholeImage

/-- The first of the checks 3 to 13 that an image fails (R344), as `VERD`. -/
def verifyRecords (s : State) (g : Nat) (m : Image) : Option Nat :=
  let rs := m.recs
  let all := imageWords rs
  let ws := finalWords all
  let es := imageEdges rs
  let roles := List.range m.roles
  let checks : List (Nat × Option Nat) :=
    [(3, firstBad rs (fun r => r.bad3 m.roles) (·.idx)),
     (4, firstBad all ImgWord.bad4 (·.src)),
     (5, (List.range (16 * m.roles)).findSome? fun e => firstClash (elemWindows ws e)),
     (6, firstBad all (fun w => w.targets.any (badTarget m.roles)) (·.src)),
     (7, firstBad es (fun e => e.2.2.2.1 = 0 || e.2.2.2.1 > 256 || e.2.2.2.2 = 0 || e.2.2.2.2 > 256) (·.1)
       <|> if roles.any fun r => tileDepths ws es r > 256 then some wholeImage else none),
     (8, roles.findSome? (ranges8 rs ws)),
     (9, loops9 rs ws m.roles),
     (10, waves10 rs ws),
     (11, routes11 s g rs),
     (12, decls12 m rs ((s.ctx (s.group g).ctx.toNat).reg 0x117).toNat),
     (13, code13 m rs)]
  checks.findSome? fun c => c.2.map (verdict c.1)

end Sys2Proof.Machine
end

