-- ==== Sys2Proof/Machine/Load.lean ====
section
/-! DEFINITION. Loading a kernel image (R342 to R344), and the start and the end of a kernel (R45, R345 to
R347). -/

namespace Sys2Proof.Machine

open Sys2Proof

/-! ## Reading the image (R343) -/

/-- Read bytes on path D without parking: none where a page is absent, protected or malformed, or a line uncorrectable
(R410). -/
def readImage (c : BitVec 8) : Nat → Nat → State → List (Option Byte) × State
  | _, 0, s => ([], s)
  | va, n + 1, s =>
    let (b, s) := match translate s c va true false with
      | .ok p => if s.pageBad p va 1 then (none, s) else
        let (b, s) := s.pageByte agentSched c p va
        (some b, s)
      | .error _ => (none, s)
    let (bs, s) := readImage c (va + 1) n s
    (b :: bs, s)

/-- A byte of an image that is mapped and cannot be reached now (R388, R395). -/
def State.imageWaits (s : State) (c : BitVec 8) (va n : Nat) : Bool :=
  (List.range n).any fun i => match translate s c (va + i) true false with
    | .ok p => p.tgt == 0 && !s.reaches agentSched (p.pa (va + i))
    | .error e => e == .wait

/-- A read of an image that meets an uncorrectable line records it in the context (R410). -/
def State.noteSpoiled (s : State) (c : BitVec 8) (va n : Nat) : State :=
  let bad := (List.range n).find? fun i => match translate s c (va + i) true false with
    | .ok p => s.pageBad p (va + i) 1
    | .error _ => false
  match bad with
  | some i => s.record { code := fcMem, ukind := 3, unit := unitDie 0 192, ctx := c, val := some (BitVec.ofNat 64 (va + i)) }
  | none => s

/-- A header fails check 1 (R340, R344). -/
def badHeader (h roles : Nat) : Bool :=
  let m : Image := ⟨h, []⟩
  h % 2 ^ 32 != 0x4B5A5331 || bitsOf h 208 16 != 1 || bitsOf h 32 160 != 0 || bitsOf h 193 15 != 0 || bitsOf h 336 16 != 0
    || bitsOf h 368 8 != 0 || bitsOf h 380 4 != 0 || m.len % 16 != 0 || m.sigoff % 16 != 0 || m.crcoff % 16 != 0
    || m.len < 64 || m.sigoff > m.len || m.crcoff > m.len || m.roles != roles

/-- A signed image whose signed bytes cannot all be read: where a record is among them it fails check 3 (R343). -/
def Image.unread (m : Image) : Bool := m.signed && (m.slice 0 m.sigoff).isNone

/-- An image fails check 2 (R343, R344). -/
def State.badSignature (s : State) (m : Image) : Bool :=
  if m.signed then
    match m.slice 0 m.sigoff, m.slice m.sigoff 144 with
    | some d, some sig =>
      let d := d.take 52 ++ List.replicate (min 4 (d.length - 52)) 0 ++ d.drop 56
      sigResult (mapGet (0, 0) s.mgmt.sigKeys m.key) ((sha512 d).map (BitVec.ofNat 8)) sig != 0
    | _, _ => true
  else s.mgmt.secure

/-- The checks 1 to 13 of an image that has been read (R343, R344): the image, or `VERD`. -/
def State.checkImage (s : State) (g : Nat) (m : Image) : Except Nat Image :=
  if s.badSignature m && !m.unread then .error (verdict 2 wholeImage)
  else match verifyRecords s g m with
    | some v => .error v
    | none => if m.unread then .error (verdict 2 wholeImage) else .ok m

/-- Read an image and make the checks 1 to 13 (R343, R344); none while a part of it is not reached. -/
def State.readKernel (s : State) (g va roles : Nat) : Option (Except Nat Image × State) :=
  let c := (s.group g).ctx
  if s.imageWaits c va 64 then none
  else
    let (h, s) := readImage c va 64 (s.noteSpoiled c va 64)
    let hdr := ofBytes (h.map fun b => b.getD 0)
    let n := (Image.mk hdr []).len - 64
    if !h.all Option.isSome || badHeader hdr roles then some (.error (verdict 1 wholeImage), s)
    else if s.imageWaits c (va + 64) n then none
    else
      let (rest, s) := readImage c (va + 64) n (s.noteSpoiled c (va + 64) n)
      some (s.checkImage g ⟨hdr, h ++ rest⟩, s)

/-! ## Writing the configuration (R343) -/

/-- Bytes of a tile's scratchpad as a configuration write leaves them: every path sees them, as the element's firings come
after the write (R343, R426): DESIGN CHOICE, log 121. -/
def State.spConfig (s : State) (t a : Nat) (bs : List Byte) : State :=
  { s.modTile t fun x => { x with mem := memWrite x.mem a bs } with
      stale := s.stale.filter fun e => e.loc < spLoc t a || spLoc t a + bs.length ≤ e.loc }

/-- What the write of a record did: whether it changed the tile, and whether the tile took all of it. -/
structure Written where
  any : Bool
  all : Bool
  state : State

/-- One write of configuration. -/
def Written.ofOne (s : State) : Except Refused State → Written
  | .ok s => ⟨true, true, s⟩
  | .error _ => ⟨false, false, s⟩

/-- Write words from a slot on, up to one that is refused. -/
def putWords (t e : Nat) : Nat → List Nat → Written → Written
  | _, [], r => r
  | k, w :: ws, r =>
    match r.state.cfgSlot t e k (BitVec.ofNat 128 w) with
    | .ok s => putWords t e (k + 1) ws ⟨true, true, s⟩
    | .error _ => { r with all := false }

/-- Write one record of a role into its tile (R341). -/
def State.putRecord (s : State) (t : Nat) (r : ImgRec) : Written :=
  match r.typ with
  | 1 => putWords t r.elem r.slot r.items ⟨false, true, s⟩
  | 2 => .ofOne s (s.cfgElem t r.elem fun s => r.items.foldl (fun s v =>
      s.setEdge t r.elem (v % 32) (bitsOf v 5 1) (bitsOf v 16 9) (bitsOf v 32 9)) s)
  | 3 => .ofOne s (s.cfgElem t r.elem fun s => s.setSerai t r.elem r.addr)
  | 4 => .ofOne s (s.cfgRing t (bitsOf r.addr 28 3) (r.addr % 2 ^ 28))
  | 5 => let v := routeOf (natAt r.bytes 0 32)
    ⟨true, true, s.modCircuit t (bitsOf v 9 3) fun c => { c with bound := true, route := v }⟩
  | 6 => ⟨true, true, s.modTile t fun x => { x with live := x.live ++ [(r.addr % 2 ^ 16, bitsOf r.addr 16 17)] }⟩
  | 7 => ⟨true, true, (s.spConfig t r.addr r.bytes).fillBytes t r.addr r.len⟩
  | _ => ⟨false, true, s⟩

/-- The edges of an element take depths 2 and 2: those that no `EDGE` entry names keep them (R341). -/
def State.resetEdges (s : State) (t e : Nat) : State :=
  s.modTile t fun x => { x with edges := x.edges.filter fun kv => kv.1 / 64 != e }

/-- Write the records of every role (R343): whether the tiles took all of them, or the index of the record that one refused;
the tiles written; and the state. `seen` are the elements whose edges have their default depths. -/
def putRecords : List Nat → List Nat → List (Nat × ImgRec) → State → Except Nat Unit × List Nat × State
  | _, ts, [], s => (.ok (), ts, s)
  | seen, ts, (t, r) :: l, s =>
    let e := t * 16 + r.elem
    let fresh := r.typ ≤ 3 && !seen.contains e
    let w := (if fresh then s.resetEdges t r.elem else s).putRecord t r
    let ts := if w.any then t :: ts else ts
    let s := if w.any then w.state else s
    if w.all then putRecords (if fresh && w.any then e :: seen else seen) ts l s else (.error r.idx, ts, s)

/-- Write bytes on path D up to the first that meets a bad page (R343): whether all were written; none while a page
migrates, for which the writes wait (R377). -/
def writeUpTo (c : BitVec 8) : Nat → List Byte → State → Option (Bool × State)
  | _, [], s => some (true, s)
  | va, b :: bs, s =>
    match translate s c va false true with
    | .ok p => if bitOf p.e 7 then none else writeUpTo c (va + 1) bs (s.pageWrite agentSched c p va b)
    | .error _ => some (false, s)

/-- A free list in memory: `n` records of a size from an address on, each naming the next (R243). -/
def freeList (a n size : Nat) : List (Nat × List Byte) :=
  (List.range n).map fun k => (a + k * size, toBytes (if k + 1 = n then 0 else a + (k + 1) * size) 8)

/-- What a `TREE` record writes (R285): the set and checkpoint records, the free records, and the pool's
descriptor. -/
def treeWrites (x : Ctx) (b : List Byte) : List (Nat × List Byte) :=
  let dims := natAt b 8 8
  let d := 16 * 2 ^ bitsOf dims 24 3
  let set := toBytes dims 8 ++ List.replicate (56 + 8 * (dims % 2 ^ 16) * bitsOf dims 16 8) 0
  let a := natAt b 16 8
  let nI := natAt b 24 8
  let nL := natAt b 32 8
  let nP := natAt b 40 8
  let aL := a + nI * (128 + 8 * d)
  let aP := aL + nL * (64 + 2 * d)
  let head := fun (p n : Nat) => if n = 0 then 0 else p
  (natAt b 0 8 :: treeCkpts b).map (fun p => (p, set)) ++ freeList a nI (128 + 8 * d) ++ freeList aL nL (64 + 2 * d)
    ++ freeList aP nP (48 * d)
    ++ [((x.reg 0x116).toNat + 64 * bitsOf dims 32 3,
         toBytes (bitsOf dims 24 3 + nP % 2 ^ 32 * 2 ^ 224 + nL % 2 ^ 32 * 2 ^ 256 + nI % 2 ^ 32 * 2 ^ 288
           + head aP nP % 2 ^ 64 * 2 ^ 320 + head aL nL % 2 ^ 64 * 2 ^ 384 + head a nI % 2 ^ 64 * 2 ^ 448) 64)]

/-- What a `CELLS` record writes (R295, R316): free cells linked in index order, and the descriptor. -/
def cellsWrites (x : Ctx) (a n : Nat) : List (Nat × List Byte) :=
  (List.range n).map (fun k => (a + 16 * k, toBytes (if k + 1 = n then 0 else k + 2) 16)) ++
    [((x.reg 0x117).toNat, toBytes (n % 2 ^ 32 * 2 ^ 96 + min n 1 * 2 ^ 128 + n % 2 ^ 32 * 2 ^ 160 + a % 2 ^ 64 * 2 ^ 192) 32)]

/-- What an `MDATA`, `TREE` or `CELLS` record writes (R341). -/
def memoryWrites (x : Ctx) (m : Image) (r : ImgRec) : List (Nat × List Byte) :=
  match r.typ with
  | 8 => [(if bitOf r.addr 63 then (m.mdata + r.addr % 2 ^ 63) % 2 ^ 64 else r.addr, r.bytes)]
  | 9 => treeWrites x r.bytes
  | 10 => cellsWrites x r.addr (natAt r.bytes 0 8)
  | _ => []

/-- Make writes in order until one meets a bad page. -/
def writeAll (c : BitVec 8) : List (Nat × List Byte) → State → Option (Bool × State)
  | [], s => some (true, s)
  | (a, bs) :: l, s => match writeUpTo c a bs s with
    | some (true, s) => writeAll c l s
    | r => r

/-- Write the main-memory records; the index of the record that met a bad page. -/
def putMemory (c : BitVec 8) (m : Image) : List ImgRec → State → Option (Except Nat Unit × State)
  | [], s => some (.ok (), s)
  | r :: l, s => match writeAll c (memoryWrites (s.ctx c.toNat) m r) s with
    | none => none
    | some (true, s) => putMemory c m l s
    | some (false, s) => some (.error r.idx, s)

/-- The role whose CRC differs from the image's table (R342, check 15). -/
def State.badCrc (s : State) (g : Nat) (m : Image) : Option Nat :=
  (List.range m.roles).find? fun k =>
    (m.slice (m.crcoff + 4 * k) 4).map ofBytes != some (crc32c 0 (s.tileWords ((s.group g).entry k % 2 ^ 14)))

/-- The drover core of a group takes the image's code and data (R343). -/
def State.loadCore (s : State) (n : Nat) (rs : List ImgRec) : State :=
  rs.foldl (fun s r =>
    if r.typ = 11 then s.modCore n fun c => { c with code :=
        (r.items.zip (List.range r.items.length)).foldl (fun m q => mapSet 0 m (r.addr + q.2) (BitVec.ofNat 128 q.1)) c.code }
    else if r.typ = 12 then s.modCore n fun c => { c with dmem := memWrite c.dmem r.addr r.bytes }
    else s) (s.modCore n fun c => { c with dmem := [] })

/-- Write a verified image (R343): `VERD` 0, or that of check 14 or 15, where every tile written is cleared again; none
while a page that it writes migrates. -/
def State.writeKernel (s : State) (g : Nat) (m : Image) : Option (Nat × State) :=
  let x := s.group g
  let rs := m.recs
  let s := if x.ran then x.tiles.foldl (fun s t => s.clearTile t) s else s
  let s := x.tiles.foldl (fun s t => s.modTile t fun y => { y with live := [] }) s
  let byRole := (List.range m.roles).flatMap fun k => (rs.filter fun r => r.role == k && r.typ ≤ 7).map fun r =>
    (x.entry k % 2 ^ 14, r)
  let (done, written, s) := putRecords [] [] byRole s
  let undo := fun (v : Nat) (s : State) => (v, written.eraseDups.foldl (fun s t => s.clearTile t) s)
  match done with
  | .error i => some (undo (verdict 14 i) s)
  | .ok _ =>
    match putMemory x.ctx m (rs.filter fun r => 8 ≤ r.typ && r.typ ≤ 10) s with
    | none => none
    | some (.error i, s) => some (undo (verdict 14 i) s)
    | some (.ok _, s) =>
      match s.badCrc g m with
      | some k => some (undo (verdict 15 k) s)
      | none => some (0, s.loadCore x.core rs)

/-! ## Sinks (R45) -/

/-- The targets that a word's marker goes to. -/
def ImgWord.markTargets (w : ImgWord) : List (BitVec 22) :=
  (if w.opc = 0x28 then [spawnRet w.form] else [w.form.tgt0, w.form.tgt1]).filter fun t => targetValid t

/-- The targets of `INJ.M` words in the drover code (R45). -/
def injTargets (rs : List ImgRec) : List (BitVec 22) :=
  ((injWords rs).filterMap fun q => if q.2.1 = 1 then some q.2.2 else none).eraseDups

/-- A word starts rounds: `ARITY` 11 with `PUNCT` 01 or 11, `MARK` and `RNDQ` (R45). -/
def ImgWord.isSource (w : ImgWord) : Bool :=
  (w.form.arity == 3 && (w.form.punct == 1 || w.form.punct == 3)) || w.opc == 0x08 || w.opc == 0x0A

/-- The number of sinks of an image (R45): marker paths are followed from the round sources. A mailbox slot is one sink,
however many targets name it. -/
def countSinks (ws : List ImgWord) (inj : List (BitVec 22)) : Nat :=
  let slots := fun (ts : List (BitVec 22)) => (ts.filter fun t => targetRole t != 0x3FF).map fun t => (nodeOf t, 0)
  let boxes := fun (ts : List (BitVec 22)) => (ts.filter fun t => targetRole t == 0x3FF).map targetSlot
  let sources := ws.filter ImgWord.isSource
  let go : Walker → List Walker := fun q => match wordAt ws q.1 with
    | some w => if w.form.punct = 2 then [] else slots w.markTargets
    | none => []
  let first := (slots inj ++ sources.flatMap fun w => slots w.markTargets).eraseDups
  let words := (reach go (ws.length + 1) first first).filterMap fun q => wordAt ws q.1
  let ends := words.filter fun w => w.form.punct == 2 || w.markTargets.isEmpty
  let forward := words.filter fun w => w.form.punct != 2
  let starts := sources.filter fun w => w.form.arity == 3 && w.markTargets.isEmpty
  ends.length + starts.length
    + (boxes inj ++ (sources ++ forward).flatMap fun w => boxes w.markTargets).eraseDups.length

/-! ## Loading (R343 to R345) -/

/-- The rings that an image defines, at the tiles of its roles (R346). -/
def Group.imageRings (g : Group) (m : Image) : List (Nat × Nat) :=
  (m.recs.filter fun r => r.typ == 4).map fun r => (g.entry r.role % 2 ^ 14, bitsOf r.addr 28 3)

/-- The loader writes `VERD` into the image (R343). -/
def State.writeVerdict (s : State) (g v : Nat) : Option State :=
  let k := (s.group g).kernel
  (writeUpTo (s.group g).ctx (k.image + 52) (toBytes v 4) s).map fun r =>
    r.2.modGroup g fun x => { x with kernel := { x.kernel with state := if v = 0 then .loaded else .refused } }

/-- The loader loads the image of a group's kernel (R343): `VERD`, also written into the image; none where it waits for a
page that migrates or is not reached (R377, R388). -/
def State.load (s : State) (g roles : Nat) : Option (Nat × State) :=
  match s.readKernel g (s.group g).kernel.image roles with
  | none => none
  | some (.error v, s) => (s.writeVerdict g v).map fun s => (v, s)
  | some (.ok m, s) =>
    match s.writeKernel g m with
    | none => none
    | some (v, s) =>
      ((s.modGroup g fun x => { x with kernel := { x.kernel with
          entry := m.entry, sinks := countSinks (finalWords (imageWords m.recs)) (injTargets m.recs)
          rings := x.imageRings m } }).writeVerdict g v).map fun s => (v, s)

/-! ## The start (R24, R120, R324, R345, R346) -/

/-- A slot's state at kernel start (R346). -/
def SlotState.restart (y : SlotState) : SlotState :=
  { word := y.word, bval := y.bval, bmask := y.bmask
    start := match y.word with | some i => (formOf i).arity == 3 | none => false }

/-- An element at kernel start (R101, R346). -/
def Element.restart (x : Element) : Element :=
  { x with
    state := if x.state = .configured then .running else x.state
    slots := mapVals {} SlotState.restart x.slots
    buckets := [], flags := 0, arrival := 0, heldSlot := 0, heldAge := 0, skipBreak := false, noted := [], stopping := false }

/-- The loop shares of a tile are zero (R148, R346). -/
def Tile.zeroShares (x : Tile) : Tile :=
  let shares := x.elems.flatMap fun kv => kv.2.slots.filterMap fun y =>
    if y.2.op = 0x20 then some (shareOf y.2.form) else none
  { x with mem := shares.foldl (fun m h => memWrite m h.base (List.replicate (48 * h.count) 0)) x.mem }

/-- A tile at kernel start (R346): of its rings, those that the image defines. -/
def Tile.restart (rings : List Nat) (x : Tile) : Tile :=
  { x with
    rings := x.rings.filter fun kv => rings.contains kv.1
    elems := mapVals {} Element.restart x.elems
    engFlags := 0, accs := [], part := 0
    ports := mapVals {} (fun (p : Port) => { p with state := .idle, latches := [], dirty := none, unlatched := false }) x.ports }.zeroShares

/-- The drover core starts its program (R120): user mode, every register zero but `CTXID` and `CYCLE`; on the home core
`EVEC` is `HOME.VEC` (R324). -/
def Core.start (c : Core) (x : Ctx) (n : Nat) (ctx : BitVec 8) (entry : Nat) : Core :=
  { c with
    pc := BitVec.ofNat 12 entry, x := [], status := 0, flags := 0, epc := 0, ecause := 0, erec := 0
    evec := if (x.reg 0x118).getLsbD 31 ∧ (x.reg 0x118).toNat % 256 = n then BitVec.ofNat 64 (bitsOf (x.reg 0x118).toNat 16 12) else 0
    exitw := 0, bkpc := [], bkctl := 0, ctxid := ctx.setWidth 64, cmds := [], marked := [], discard := none, running := true, active := true, wait := .none }

/-- A LOADED kernel starts (R345): its colour, its elements, its program, its group and its context. -/
def State.startKernel (s : State) (g : Nat) : State :=
  let x := s.group g
  let k := x.kernel
  let c := x.ctx.toNat
  let s := (s.noteColour c k.lcol { state := .launch, group := g }).newWave x.ctx (colourTag k.lcol)
  let s := x.tiles.foldl (fun s t => (s.modTile t (Tile.restart ((k.rings.filter fun q => q.1 == t).map (·.2))))) s
  let s := if k.entry = 0xFFFF then s else s.modCore x.core fun d => d.start (s.ctx c) x.core x.ctx k.entry
  let s := s.modGroup g fun x => { x with
    state := .running, ran := true
    kernel := { x.kernel with
      state := .running, started := s.seq + 1, notices := [], oldest := 0, latest := none, rounds := 0, retired := k.entry == 0xFFFF, exitw := 0 } }
  { s with seq := s.seq + 1 }.modCtx c fun (y : Ctx) => if y.state = CtxState.ready then { y with state := .running } else y

/-- A kernel start is admitted (R320, R332): the context is READY or RUNNING, and the launch colour FREE. -/
def State.admits (s : State) (c : BitVec 8) (lcol : Nat) : Bool :=
  let x := s.ctx c.toNat
  (x.state == .ready || x.state == .running) && (x.colour lcol).state == .free

/-! ## The end (R347) -/

/-- A context whose last kernel has ended goes back to READY (R320), and the ordering buffers hold no entry of it that is
over (R182, R413). -/
def State.lastKernel (s : State) (c : BitVec 8) : State :=
  if (s.ctx c.toNat).state = .running ∧ (s.groupsOf c).all (fun g => (s.group g).kernel.state != .running)
  then (s.modCtx c.toNat fun x => { x with state := .ready }).dropWaves fun w => w.ctx == c && (w.over || w.chain.isEmpty)
  else s

/-- The launcher gets its signal (R337): `EXIT` from the program, `DONE`. -/
def Kernel.signal (k : Kernel) (c : BitVec 8) (g : Nat) : Signal :=
  { ctx := c, launcher := k.launcher, saddr := k.saddr, exit := k.exitw.toNat % 2 ^ 32, group := some g }

/-- A kernel has reached its end (R207, R347): its ports are closed, its elements quiesce, its colour is
freed, and its signal is on its way; a group of `LAUNCH` is BOUND again. -/
def State.endKernel (s : State) (g : Nat) : State :=
  let x := s.group g
  let s := x.tiles.foldl (fun s t => s.closePorts t) s
  if !x.tiles.all (fun t => (List.range 8).all fun p => (s.port t p).state == .idle) then s
  else
    let s := x.tiles.foldl (fun s t => s.modTile t fun y =>
      { y with elems := mapVals {} Element.quiesce y.elems }) s
    let s := (s.freeLaunch x.ctx.toNat x.kernel.lcol).spawnTurn x.ctx.toNat
    let s := { s with signals := s.signals ++ [x.kernel.signal x.ctx g] }
    let s := s.modGroup g fun y => { y with
      state := (match y.kernel.launcher with | .queue _ _ => y.state | .core _ _ => .bound)
      kernel := { y.kernel with state := .ended } }
    s.lastKernel x.ctx

/-- `KERNEL_END` (R347): the program has retired and the group is idle. -/
def execKernelEnd (group : Nat) (s : State) : Answer :=
  let x := s.group group
  .next (if x.kernel.state = .running ∧ x.kernel.retired ∧ s.groupIdle group then s.endKernel group else s)

end Sys2Proof.Machine
end

