-- ==== Sys2Proof/Machine/Context.lean ====
section
/-! DEFINITION. The context (R317 to R325): its commands and their checks, the fault queue, and what acts on
parked work. -/

namespace Sys2Proof.Machine

open Sys2Proof

/-! ## Queue descriptors (R330)

The descriptors are plain main memory: what the host or a peer stores to the RO fields `QSTATE` and `QHEAD` stands there and
is read back (R6, R391): DESIGN CHOICE, log 135. -/

/-- A field of a queue's descriptor: its first byte and its bytes. -/
def State.qfield (s : State) (q off n : Nat) : Nat := memNat s.mem (s.qtab + 32 * q + off) n
/-- Write a field of a queue's descriptor on path D. -/
def State.setQfield (s : State) (q off n v : Nat) : State :=
  ((toBytes v n).zip (List.range n)).foldl (fun s b => s.physPut agentSched 0 (s.qtab + 32 * q + off + b.2) b.1) s
/-- `QBASE`. -/
def State.qbase (s : State) (q : Nat) : Nat := s.qfield q 24 8
/-- `QTAIL`. -/
def State.qtail (s : State) (q : Nat) : Nat := s.qfield q 20 4
/-- `QHEAD`. -/
def State.qhead (s : State) (q : Nat) : Nat := s.qfield q 16 4
/-- `PBUD`. -/
def State.qpbud (s : State) (q : Nat) : Nat := s.qfield q 12 4
/-- `CTX`. -/
def State.qctx (s : State) (q : Nat) : Nat := s.qfield q 4 1
/-- The records of the ring. -/
def State.qlen (s : State) (q : Nat) : Nat := 2 ^ (s.qfield q 2 1 % 16)
/-- `QSTATE`: 0 DISABLED, 1 EMPTY, 2 WAITING, 3 READY. -/
def State.qstate (s : State) (q : Nat) : Nat := s.qfield q 0 1 % 8
/-- Set `QSTATE`. -/
def State.setQstate (s : State) (q v : Nat) : State := s.setQfield q 0 1 (s.qfield q 0 1 / 8 * 8 + v)
/-- Records in the ring: `QTAIL` − `QHEAD` mod 2^32. -/
def State.qused (s : State) (q : Nat) : Nat := (s.qtail q + 2 ^ 32 - s.qhead q) % 2 ^ 32
/-- What the scheduler keeps of a queue. -/
def State.qinf (s : State) (q : Nat) : QueueInfo := mapGet {} s.qinfo q
/-- Change what the scheduler keeps of a queue. -/
def State.modQinf (s : State) (q : Nat) (f : QueueInfo → QueueInfo) : State :=
  { s with qinfo := mapSet {} s.qinfo q (f (s.qinf q)) }
/-- A queue goes to DISABLED (R333, R334). -/
def State.disableQueue (s : State) (q : Nat) : State :=
  (s.setQstate q 0).modQinf q fun i => { i with absent := none, counting := false }
/-- A killed context's queues are DISABLED (R334). -/
def State.disableQueues (s : State) (c : Nat) : State :=
  (List.range 1024).foldl (fun s q => if s.qctx q = c ∧ s.qstate q ≠ 0 then s.disableQueue q else s) s

/-! ## The checks of `READY` (R319) -/

/-- The regions of a context's virtual space: base, length, and the register of the base. -/
def Ctx.regions (x : Ctx) : List (Nat × Nat × Nat) :=
  let r := fun (a : Nat) => (x.reg a).toNat
  [(r 0x105, 16 * r 0x106, 0x105), (r 0x107, 32 * r 0x108, 0x107), (r 0x10A, 32 * r 0x10B, 0x10A),
   (r 0x10E, 16 * r 0x10F, 0x10E), (r 0x112, 8 * r 0x113, 0x112), (r 0x114, r 0x115, 0x114), (r 0x116, 512, 0x116),
   (r 0x117, 32, 0x117), (r 0x104, 16384, 0x104)]

/-- Two regions overlap; one of length 0 overlaps nothing. -/
def regionsMeet (a b : Nat × Nat × Nat) : Bool :=
  a.2.1 != 0 && b.2.1 != 0 && a.1 < b.1 + b.2.1 && b.1 < a.1 + a.2.1

/-- The base register of the first region that overlaps an earlier one. -/
def firstOverlap : List (Nat × Nat × Nat) → List (Nat × Nat × Nat) → Option Nat
  | _, [] => none
  | before, r :: rs => if before.any (regionsMeet r) then some r.2.2 else firstOverlap (before ++ [r]) rs

/-- A power of two. -/
def isPow2 (n : Nat) : Bool := (List.range 17).any fun k => n == 2 ^ k

/-- The register whose check fails (R319). -/
def Ctx.readyFails (x : Ctx) : Option Nat :=
  let r := fun (a : Nat) => (x.reg a).toNat
  if r 0x106 < 1 ∨ 4096 < r 0x106 then some 0x106
  else if r 0x10B < 16 ∨ 65536 < r 0x10B ∨ !isPow2 (r 0x10B) then some 0x10B
  else if r 0x10F < 1 ∨ 2 ^ 24 < r 0x10F then some 0x10F
  else if r 0x113 < 1 ∨ 4096 < r 0x113 then some 0x113
  else if !(x.reg 0x118).getLsbD 31 then some 0x118
  else firstOverlap [] x.regions

/-! ## Event counters, and adders that end (R329, R337, R399) -/

/-- The increment of an event counter, as a signal at the arbiter (R329, R337): context and counter. -/
def State.raiseEvent (s : State) (e : Nat × Nat) : State :=
  { s with signals := s.signals ++ [{ ctx := BitVec.ofNat 8 e.1, launcher := .core 0 0, stage := 1
                                      saddr := ((s.ctx e.1).reg 0x112).toNat + 8 * e.2 }] }

/-- The dies that a link has a port on (R387). -/
def linkDies (l : Nat) : List Nat :=
  if l < 8 then [l / 2] else if l = 8 then [0] else if l = 9 then [0, 1] else if l = 10 then [2, 3]
  else if l = 11 then [0, 2] else if l = 12 then [1, 3] else []

/-- A link. -/
def State.link (s : State) (l : Nat) : Link := mapGet {} s.links l

/-- An adder sends a beat or an abort over its outgoing link (R398): over a die edge to the other die; what goes to a
peer leaves the device, and what goes to an adder that has ended failed is discarded. -/
def State.sendBeat (s : State) (a : Adder) (die : Nat) (abort : Bool) (data : Nat) : State :=
  match (linkDies a.out).find? fun d => d != die with
  | some d => if a.cut then s else { s with beats := s.beats ++ [{ link := a.out, die := d, chain := a.chain, abort, data }] }
  | none => s

/-- The die of an adder: bits 11:10 of its handle (R402). -/
def adderDie (k : Nat) : Nat := k / 1024 % 4

/-- The stream of a chain into an adder that has ended failed goes nowhere (R399): the beats that stand at its port and those
that the adder before it still sends are discarded, so that that one completes (DEDUCED, log 144). -/
def State.endChain (s : State) (k : Nat) (a : Adder) : State :=
  if a.inn < 9 ∨ 12 < a.inn then s
  else { s with
    beats := s.beats.filter fun b => !(b.link == a.inn && b.die == adderDie k && b.chain == a.chain)
    adders := s.adders.map fun kv =>
      (kv.1, if kv.2.running ∧ kv.2.out = a.inn ∧ kv.2.chain = a.chain ∧ adderDie kv.1 ≠ adderDie k then { kv.2 with cut := true } else kv.2) }

/-- An adder ends failed (R399): it forwards an abort if its outgoing link is UP, and raises its counter. -/
def State.failAdder (s : State) (k : Nat) : State :=
  let a := mapGet {} s.adders k
  if !a.running then s
  else
    let s := s.endChain k a
    let s := { s with adders := mapSet {} s.adders k { a with running := false, ended := true, failed := true, waitVa := none } }
    let s := if a.out ≠ 0xFF ∧ (s.link a.out).state = .up then s.sendBeat a (adderDie k) true 0 else s
    s.raiseEvent (a.ctx.toNat, a.event)

/-- Every adder that a condition picks ends failed. -/
def State.failAdders (s : State) (p : Adder → Bool) : State :=
  ((s.adders.filter fun kv => kv.2.running && p kv.2).map (·.1)).foldl State.failAdder s

/-! ## Commands (R317, R320) -/

/-- Resume of an element (R101, R320); that of a kernel that has ended stays as it is (log 74). -/
def Element.resumeFor (k : KernelState) (x : Element) : Element := if k = .ended then x else x.resume

/-- Resume of a context. -/
def State.resumeContext (s : State) (c : Nat) : State :=
  s.mapTiles (s.ownsTile c) fun (x : Tile) =>
    let k := match x.group with | some g => (s.group g).kernel.state | none => KernelState.none
    { x with elems := mapVals {} (Element.resumeFor k) x.elems }

/-- The force-release of a killed context's group (R320, R357). -/
def State.killGroup (s : State) (g : Nat) : State :=
  match (s.group g).state with
  | .bound | .running => s.release g
  | .unplaced => (s.freeColours g).freeUnplaced g
  | _ => s

/-- A context is killed (R320, R334, R345, R361): → DEAD. -/
def State.kill (s : State) (c : Nat) : State :=
  let cb := BitVec.ofNat 8 c
  let s := (s.groupsOf cb).foldl State.killGroup (s.modCtx c fun x => { x with state := .dead })
  let s := ((s.dropBarriers cb).disableQueues c).failAdders fun a => a.ctx == cb
  { s with
    reqs := s.reqs.filter fun m => m.req.ctx != cb
    waves := s.waves.filter fun w => w.ctx != cb
    iterLinks := s.iterLinks.filter fun m => m.ctx != cb
    late := s.late.filter fun w => w.ctx != cb
    signals := s.signals.filter fun m => m.ctx != cb }.modCtx c fun x =>
    { x with spawns := [], save := none, saveEvents := [], restoring := none, jobs := [], saving := none, bySched := none }

/-- The commands of `CCMD` (R317, R320): the new state, or what the `ILLEGAL` that it raises holds in `AUX`. -/
def State.ccmd (s : State) (c cmd : Nat) : Except (Option W64) State :=
  let x := s.ctx c
  match cmd, x.state with
  | 1, .free => .ok (s.setCtx c { x with state := .building })
  | 2, .building =>
    (match x.readyFails with
      | some a => .error (some (BitVec.ofNat 64 a))
      | none => .ok (s.setCtx c { x with state := .ready, seraiFree := List.range (x.reg 0x108).toNat }))
  | 3, .building | 3, .ready | 3, .running | 3, .draining | 3, .saved | 3, .faulted => .ok (s.kill c)
  | 4, .faulted =>
    .ok ((s.resumeContext c).modCtx c fun x => { x with state := .running, appendHeld := false, saving := none, bySched := none })
  | _, _ => .error none

/-- A command that management firmware gives; one that is refused has no effect. -/
def State.firmware (s : State) (c cmd : Nat) : State :=
  match s.ccmd (c % 256) cmd with
  | .ok s => s
  | .error _ => s

/-- `CCMD_BUILD` (R320). -/
def execCcmdBuild (ctx : Nat) (s : State) : Answer := .next (s.firmware ctx 1)
/-- `CCMD_READY` (R319). -/
def execCcmdReady (ctx : Nat) (s : State) : Answer := .next (s.firmware ctx 2)
/-- `CCMD_KILL` (R320). -/
def execCcmdKill (ctx : Nat) (s : State) : Answer := .next (s.firmware ctx 3)
/-- `CCMD_RESUME` (R320). -/
def execCcmdResume (ctx : Nat) (s : State) : Answer := .next (s.firmware ctx 4)

/-- `CONTEXT_RECLAIMED` (R320): a DEAD context whose groups are gone is FREE, its registers at reset. -/
def execContextReclaimed (ctx : Nat) (s : State) : Answer :=
  .next (if (s.ctx ctx).state = .dead ∧ (s.groupsOf (BitVec.ofNat 8 ctx)).isEmpty then s.setCtx ctx {} else s)

/-! ## The fault queue (R320, R324, R430) -/

/-- Records of one unit are appended in their order (R324): the context, the kind and the unit, for a slot its
element. -/
def FaultRec.from_ (r : FaultRec) : Nat × Nat × Nat :=
  (r.ctx.toNat, r.ukind, if r.ukind = 0 then r.unit / 256 else r.unit)

/-- An append meets a fault (R324): the record stays with its unit, and the context is FAULTED. -/
def State.appendFails (s : State) (c : BitVec 8) (addr : Nat) (why : Stop) : State :=
  let code := match why with | .fault code _ _ => code | .error code => code | _ => fcPageAbsent
  let s := s.logFault { code, ukind := 3, unit := unitDie 0 192, ctx := c, val := some (BitVec.ofNat 64 addr) }
  let s := s.modCtx c.toNat fun x => { x with appendHeld := true }
  let st := (s.ctx c.toNat).state
  if st = .running ∨ st = .ready ∨ st = .draining then
    (s.modCtx c.toNat fun x => { x with state := .faulted, saving := x.saving.map fun _ => true, bySched := none }).mapElems c.toNat
      Element.quiesce
  else s

/-- Append a record to its context's fault queue (R324); a page that migrates holds it back (R377). -/
def State.append (s : State) (pick : Nat) (r : FaultRec) : State :=
  let x := s.ctx r.ctx.toNat
  let gone := { s with pend := dropNth s.pend pick }
  if !x.hasQueue then gone.logFault r
  else if x.appendHeld ∨ x.queueFull then s
  else
    let addr := (x.reg 0x10A).toNat + 32 * ((x.reg 0x10D).toNat % max (x.reg 0x10B).toNat 1)
    match vwrite agentSched r.ctx addr (r.bytes s.tick) gone with
    | .ok (_, s) =>
      let s := s.modCtx r.ctx.toNat fun x => x.setReg 0x10D (BitVec.ofNat 64 (((x.reg 0x10D).toNat + 1) % 2 ^ 32))
      if (x.reg 0x118).getLsbD 31 then s else s.fatal r.ctx.toNat
    | .error .wait => s
    | .error e => s.appendFails r.ctx addr e

/-- `FAULT_APPEND` (R324). -/
def execFaultAppend (pick : Nat) (s : State) : Answer :=
  .next (match s.pend[pick]? with
    | none => s
    | some p => if (s.pend.take pick).any fun q => q.rcd.from_ == p.rcd.from_ then s else s.append pick p.rcd)

/-- `COLOUR_DEADLOCK` (R157): no colour is free and a `SPAWN` waits, for a colour or with its colour for the page of its
table entry (DESIGN CHOICE, log 61); the record names the oldest. -/
def execColourDeadlock (ctx : Nat) (s : State) : Answer :=
  .next (
    let x := s.ctx ctx
    match x.spawns.find? fun w => w.failed.isNone with
    | none => s
    | some w =>
      if x.reg 0x119 = 0 ∨ x.freeColour.isSome then s
      else s.record { code := fcDeadlock, ukind := 0, unit := unitSlot s w.tile w.elem w.slot, ctx := BitVec.ofNat 8 ctx
                      tag := w.tag })

/-! ## What acts on the causes of faults (R325) -/

/-- Raise `SERAIN` (R317, R325): the records from the old count up are free; none where the count falls. -/
def State.raiseSerain (s : State) (c : Nat) (v : W64) : Option State :=
  let x := s.ctx c
  if v.toNat < (x.reg 0x108).toNat then none
  else
    let more := if x.state = .free ∨ x.state = .building then [] else
      (List.range (v.toNat - (x.reg 0x108).toNat)).map (· + (x.reg 0x108).toNat)
    some (s.setCtx c { (x.setReg 0x108 v) with seraiFree := x.seraiFree ++ more })

/-- The request that parked first among those of a context on a range. -/
def State.firstParked (s : State) (c : BitVec 8) (lo size : Nat) : Option Nat :=
  let hit := fun (m : MemReq) => m.state == .parked && m.req.ctx == c && lo ≤ m.va && m.va < lo + size
  let first := (s.reqs.filter hit).foldl (fun k m => match k with
    | none => some m.parkedAt
    | some a => some (if (m.parkedAt.getD 0) < a.getD 0 then m.parkedAt else a)) none
  first.map fun a => s.reqs.findIdx fun m => hit m && m.parkedAt == a

/-- Fail the parked requests of a context on a range, in parking order (R325). -/
def failReqs (c : BitVec 8) (lo size : Nat) : Nat → State → State
  | 0, s => s
  | n + 1, s =>
    match s.firstParked c lo size with
    | none => s
    | some k => match s.reqs[k]? with
      | none => s
      | some m => failReqs c lo size n (s.endErr k m fcPageAbsent)

/-- The context of the work of a unit that waits for a page. -/
def State.parkedCtx (s : State) (e : Engine) : BitVec 8 :=
  match e with
  | .stream t p => (s.port t p).req.ctx
  | e => match s.queue e with | r :: _ => r.ctx | [] => 0

/-- The wait of a unit for a page of a range ends (R200, R206, R290, R322, R325): a window that a restored port latches
again goes on with that part failed; a dirty range is dropped, with `DROVF`; a request replies `ERR` and a code. -/
def State.failUnit (s : State) (e : Engine) (lo size code : Nat) : State :=
  match e with
  | .stream t p =>
    let s := { s with parked := s.parked.filter fun q => q.1 != e }
    if (s.port t p).unlatched then
      s.modPort t p fun x => { x with latches := x.latches ++ [{ va := lo, size := size, leaf := 0, failed := true }] }
    else
      (s.modPort t p fun x => { x with dirty := none, depositing := false }).modCtx (s.port t p).req.ctx.toNat fun x =>
        { x with drovf := true }
  | e => match s.queue e with
    | r :: _ => (s.endHead e).reply e r .err (BitVec.ofNat 64 code)
    | [] => { s with parked := s.parked.filter fun q => q.1 != e }

/-- The draws of a context that wait on a range fail (R155). -/
def State.failDraws (s : State) (c lo size : Nat) : State :=
  let hit := (s.ctx c).spawns.filter fun w => match w.drew with
    | some n => lo ≤ (s.ctx c).colourAddr n && (s.ctx c).colourAddr n < lo + size
    | none => false
  (hit.foldl (fun s w => (s.modCtx c fun x => x.setColour (w.drew.getD 0) {}).spawnErr c w fcPageAbsent) s).spawnTurn c

/-- The queues of a context whose head lies on a range go to DISABLED (R333), and its signals that wait there go
on without the write (R337). -/
def State.failQueues (s : State) (c lo size : Nat) : State :=
  let qs := (s.qinfo.filter fun kv => s.qctx kv.1 == c && (match kv.2.absent with
    | some a => lo ≤ a && a < lo + size
    | none => false)).map (·.1)
  let s := qs.foldl State.disableQueue s
  { s with signals := s.signals.map fun m => match m.waitVa with
      | some a => if m.ctx.toNat = c ∧ lo ≤ a ∧ a < lo + size then { m with stage := m.stage + 1, waitVa := none } else m
      | none => m }

/-- An adder whose page has failed. -/
def Adder.pageGone (c : BitVec 8) (lo size : Nat) (a : Adder) : Adder :=
  match a.waitVa with
  | some va => if a.running ∧ a.ctx = c ∧ lo ≤ va ∧ va < lo + size then { a with pageFailed := true } else a
  | none => a

/-- `FAILPG` (R325): every parked request and wait of a context on an address's page ends; a unit's own
write that waits there is lost (DESIGN CHOICE, log 114). -/
def State.failPage (s : State) (c : BitVec 8) (va : Nat) : State :=
  let (lo, size) := s.pageRange c va
  let s := failReqs c lo size s.reqs.length s
  let s := { s with late := s.late.filter fun w => !(w.ctx == c && lo ≤ w.va && w.va < lo + size) }
  let units := s.parked.filter fun q => s.parkedCtx q.1 == c && lo ≤ q.2 && q.2 < lo + size
  let s := units.foldl (fun s q => s.failUnit q.1 lo size fcPageAbsent) s
  let s := { s with adders := mapVals {} (Adder.pageGone c lo size) s.adders }
  let ports := s.tiles.flatMap fun kv => (kv.2.ports.filter fun q => q.2.req.ctx == c).map fun q => (kv.1, q.1)
  let s := ports.foldl (fun s q => s.failPort q.1 q.2 lo size) s
  (s.failDraws c.toNat lo size).failQueues c.toNat lo size

/-- `SERAIN` (R325): management firmware raises the count. -/
def execSerain (ctx : Nat) (s : State) : Answer :=
  .next ((s.raiseSerain (ctx % 256) (Config.firmwareValue s.tick)).getD s)
/-- `FAILPG` (R325): on an address that management firmware names. -/
def execFailpg (ctx : Nat) (s : State) : Answer :=
  .next (s.failPage (BitVec.ofNat 8 ctx) ((Config.firmwareValue s.tick).toNat % 2 ^ 56))
/-- `DLBUD` (R325): management firmware writes the budget; the count that it restarts is time. -/
def execDlbud (ctx : Nat) (s : State) : Answer :=
  .next (s.modCtx (ctx % 256) fun x => x.setReg 0x119 (Config.firmwareValue s.tick))

end Sys2Proof.Machine
end

