-- ==== Sys2Proof/Machine/Save.lean ====
section
/-! DEFINITION. Pre-emption (R326 to R329): the drain, the soft and the hard save, the restore, and the
instructions that ask for them. -/

namespace Sys2Proof.Machine

open Sys2Proof

/-! ## Renaming (R328) -/

/-- A name's new name by a list of renamings, or the name itself. -/
def newName (l : List (Nat × Nat)) (n : Nat) : Nat := match l.find? fun q => q.1 == n with | some q => q.2 | none => n

/-- The physical names that a restore replaces: tiles and drover cores, of one group or of all. -/
structure Rename where
  tiles : List (Nat × Nat) := []
  cores : List (Nat × Nat) := []
  deriving DecidableEq, Repr

/-- A tile's new name. -/
def Rename.tile (r : Rename) (t : Nat) : Nat := newName r.tiles t
/-- A core's new name. -/
def Rename.core (r : Rename) (n : Nat) : Nat := newName r.cores n
/-- A die's new name: that of the drover core's die. -/
def Rename.die (r : Rename) (d : Nat) : Nat := newName (r.cores.map fun q => (q.1 / 64, q.2 / 64)) d
/-- The renamings of two groups together. -/
def Rename.and (r q : Rename) : Rename := { tiles := r.tiles ++ q.tiles, cores := r.cores ++ q.cores }
/-- A unit's new name: that of its tile, or of the same unit on the new die. -/
def Rename.engine (r : Rename) : Engine → Engine
  | .scratch t => .scratch (r.tile t)
  | .tagTable t => .tagTable (r.tile t)
  | .circuit t => .circuit (r.tile t)
  | .matrix t => .matrix (r.tile t)
  | .scan t => .scan (r.tile t)
  | .summary t => .summary (r.tile t)
  | .ringPort t => .ringPort (r.tile t)
  | .stream t p => .stream (r.tile t) p
  | .memory d => .memory (r.die d)
  | .grammar d n => .grammar (r.die d) n
  | .sampler d n => .sampler (r.die d) n
  | .accept d n => .accept (r.die d) n
/-- The new key of a unit. -/
def Rename.key (r : Rename) (k : Nat) : Nat := engineKey (r.engine (engineOfKey k))
/-- A destination's new name. -/
def Rename.dest (r : Rename) : Dest → Dest
  | .slot t e k p => .slot (r.tile t) e k p
  | .mailbox n k => .mailbox (r.core n) k
/-- A source's new name. -/
def Rename.source (r : Rename) : Source → Source
  | .slot t e k f => .slot (r.tile t) e k f
  | .core n => .core (r.core n)
  | .unit k => .unit (r.key k)
/-- A request under new names. -/
def Rename.req (r : Rename) (q : Req) : Req :=
  { q with origin := match q.origin with | .slot t e k => .slot (r.tile t) e k | .core n => .core (r.core n) }
/-- An output item under new names. -/
def Rename.item (r : Rename) : OutItem → OutItem
  | .physical f d tok => .physical f (r.dest d) tok
  | .request q => .request (r.req q)
  | it => it
/-- An element under new names. -/
def Rename.elem (r : Rename) (x : Element) : Element :=
  { x with out := x.out.map fun o => { o with items := o.items.map r.item } }
/-- A port under new names. -/
def Rename.port (r : Rename) (x : Port) : Port := { x with opener := x.opener.map r.req, held := x.held.map r.req }
/-- A producer's key in a ring's waiting list: a circuit's names its source tile (R218). -/
def Rename.waiter (r : Rename) (k : Nat) : Nat :=
  if k < 1024 ∨ 2 ^ 20 ≤ k then k else waitCircuit (r.tile ((k - 1024) / 8)) ((k - 1024) % 8)
/-- A tile under new names. -/
def Rename.tileOf (r : Rename) (x : Tile) : Tile :=
  { x with
    rings := mapVals {} (fun (k : Ring) => { k with
      waiters := k.waiters.map r.waiter, granted := k.granted.foldl (fun m q => mapSet 0 m (r.waiter q.1) q.2) [] }) x.rings
    elems := mapVals {} r.elem x.elems
    ports := mapVals {} r.port x.ports
    circuits := mapVals {} (fun (c : Circuit) => { c with queue := c.queue.map r.req }) x.circuits
    waiting := x.waiting.map r.req }
/-- A core under new names: its scoreboard. -/
def Rename.coreOf (r : Rename) (x : Core) : Core :=
  { x with cmds := x.cmds.map fun c => { c with req := r.req c.req, port := r.key c.port } }
/-- An arrival of a context under new names (R364). -/
def Rename.arrival (r : Rename) (c : BitVec 8) (a : Arrival) : Arrival :=
  if a.ctx = c then { a with core := a.core.map r.core, tile := r.tile a.tile } else a
/-- The launcher of a kernel under new names (R339). -/
def Rename.launcher (r : Rename) : Launcher → Launcher
  | .core n a => .core (r.core n) a
  | l => l
/-- A kernel under new names. -/
def Rename.kernel (r : Rename) (k : Kernel) : Kernel :=
  { k with launcher := r.launcher k.launcher, rings := k.rings.map fun q => (r.tile q.1, q.2) }
/-- The new name of a unit: a tile, a core or a die; what else a chain leads to keeps its key but a stream port and a
core's commands. -/
def Rename.unit (r : Rename) (u : Nat) : Nat :=
  if u < 16384 then r.tile u else if u < 32768 then 16384 + r.core (u - 16384)
  else if u < 65536 then 32768 + r.die (u - 32768)
  else if 2 ^ 66 ≤ u ∧ u < 2 ^ 67 then portKey (r.tile ((u - 2 ^ 66) / 8)) (u % 8)
  else if 2 ^ 68 ≤ u ∧ u < 2 ^ 69 then commandKey (r.core (u - 2 ^ 68)) else u
/-- The new key of a reader (R184). -/
def Rename.reader (r : Rename) (k : Nat) : Nat :=
  k % 64 + 64 * (if k / 64 < 65536 then r.unit (k / 64) else 65536 + r.die (k / 64 - 65536))
/-- What the units of a context know of an older value under their new names: what they had seen to be replaced they do not
see again. What they wrote is theirs still. -/
def Rename.stale (r : Rename) (c : BitVec 8) (e : Stale) : Stale :=
  { e with
    unit := if e.ctx = c then r.unit e.unit else e.unit
    known := (e.known ++ e.known.map r.unit).eraseDups
    cleared := (e.cleared ++ e.cleared.map r.reader).eraseDups }
/-- A kept write of a context under new names. -/
def Rename.late (r : Rename) (c : BitVec 8) (w : LateWrite) : LateWrite := if w.ctx = c then { w with unit := r.unit w.unit } else w

/-! ## The save area (R328) -/

/-- A port as it is saved (R206): its latches are not; its stream latches the window again, that of a DONE port before its
`SCLOSE` completes, and the rows that waited for a page are issued again. -/
def Port.saved (x : Port) : Port :=
  let strm := opcodeOf x.req.instr == 0xA0
  { x with
    latches := [], parkVa := none, wasRunning := false, noted := [], badIndex := [], depositing := false
    rowWait := []
    state := if strm then (match x.state with
        | .latching | .parked | .running => .latching
        | st => st) else x.state
    unlatched := strm && x.state == .done }

/-- The loop shares of a tile: base and length (R148). -/
def Tile.shareRanges (x : Tile) : List (Nat × Nat) :=
  x.elems.flatMap fun kv => kv.2.slots.filterMap fun y =>
    if y.2.op = 0x20 then some ((shareOf y.2.form).base, 48 * (shareOf y.2.form).count) else none

/-- The scratchpad ranges of a soft save: loop shares and the live set. -/
def Tile.softRanges (x : Tile) : List (Nat × Nat) := x.shareRanges ++ x.live

/-- A tile as it is saved: a soft save keeps the declared ranges of the scratchpad only. -/
def Tile.saved (x : Tile) (hard : Bool) : Tile :=
  let x := { x with ports := mapVals {} Port.saved x.ports }
  if hard then x
  else { x with
    mem := x.mem.filter fun kv => x.softRanges.any fun r => r.1 ≤ kv.1 && kv.1 < r.1 + r.2
    full := [], tags := [] }

/-- What a save takes of a group. -/
def State.groupImage (s : State) (g : Nat) (hard : Bool) : GroupImage :=
  let x := s.group g
  let roles := x.manifest.filter fun kv => kv.1 != 0x3FF && kv.2 ≥ 2 ^ 15
  { group := g
    tiles := roles.map fun kv => (kv.1, (s.tile (kv.2 % 2 ^ 14)).saved hard)
    core := s.core x.core
    requests := (s.reqs.filter fun m => ownsReq x.tiles x.core m.req).length
      + (s.queues.map fun kv => (kv.2.filter (ownsReq x.tiles x.core)).length).sum
    flights := s.net.filter (ownsFlight x.tiles x.core)
    spawns := (s.ctx x.ctx.toNat).spawns.filter fun w => x.tiles.contains w.tile }

/-- A part of a record whose inner layout the spec does not give: `n` bytes of its own (log 79). -/
def GroupImage.part (m : GroupImage) (role k n : Nat) : List Byte := (List.range n).map (Config.saveByte m role k)

/-- The element registers of a tile: words 1 to 255 of configuration space 4, element after element (R431). -/
def Tile.registerBytes (x : Tile) : List Byte :=
  (List.range 16).flatMap fun e => (List.range 255).flatMap fun i => toBytes ((x.elem e).word (i + 1)) 16

/-- The record of a tile (R328), its parts in the order of the table. -/
def GroupImage.tileBytes (m : GroupImage) (hard : Bool) (role : Nat) (x : Tile) : List Byte :=
  m.part role 0 64 ++ m.part role 1 16384 ++ x.registerBytes ++ m.part role 2 8704 ++ m.part role 3 4096 ++
    (if hard then m.part role 4 62336 ++ m.part role 5 2048 ++ memRead x.mem 0 65536 ++ m.part role 6 (512 + 1024)
     else x.softRanges.flatMap fun r => toBytes r.1 8 ++ toBytes r.2 8 ++ memRead x.mem r.1 r.2)

/-- The record of a drover core (R328): its registers, then its code and its data memory. -/
def GroupImage.coreBytes (m : GroupImage) : List Byte :=
  m.part 0x3FF 0 8192 ++ ((List.range 4096).flatMap fun k => toBytes (mapGet 0 m.core.code k).toNat 16)
    ++ memRead m.core.dmem 0 65536

/-- The tile records of a group, and 64 bytes more for each request that a hard save keeps (R328). -/
def GroupImage.tilesBytes (m : GroupImage) (hard : Bool) : List Byte :=
  (m.tiles.flatMap fun t => m.tileBytes hard t.1 t.2)
    ++ (if hard then m.part 0 7 (64 * m.requests) else [])

/-- The bytes of a tile's record. -/
def Tile.savedBytes (x : Tile) (hard : Bool) : Nat :=
  64 + 16384 + 65280 + 8704 + 4096
    + (if hard then 62336 + 2048 + 65536 + (512 + 1024) else (x.softRanges.map fun r => 16 + r.2).sum)

/-- The bytes of a group's records. -/
def GroupImage.bytes (m : GroupImage) (hard : Bool) : Nat :=
  8192 + 131072 + (m.tiles.map fun t => t.2.savedBytes hard).sum
    + (if hard then 64 * m.requests else 0)

/-- The records of a save (R328): those of the drover cores, then those of the tiles. -/
def SaveImage.records (m : SaveImage) : List Byte :=
  (m.groups.flatMap GroupImage.coreBytes) ++ m.groups.flatMap fun g => g.tilesBytes m.hard

/-- The groups of a context that stand on tiles. -/
def State.placedGroups (s : State) (c : BitVec 8) : List Nat :=
  (s.groupsOf c).filter fun g => (s.group g).state == .bound || (s.group g).state == .running

/-- The image of a context. -/
def State.saveImage (s : State) (c : BitVec 8) (hard fsave : Bool) : SaveImage :=
  let gs := s.placedGroups c
  let ims := gs.map fun g => s.groupImage g hard
  let owns := fun (r : Req) => gs.any fun g => ownsReq (s.group g).tiles (s.group g).core r
  { hard, fsave
    oldRound := match gs with | g :: _ => if hard then 0 else (s.group g).kernel.oldest | [] => 0
    len := 64 + (ims.map fun m => m.bytes hard).sum
    groups := ims
    reqs := (s.reqs.filter fun m => owns m.req).map fun m => { m with state := .translating }
    queues := s.queues.filterMap fun (kv : Nat × List Req) =>
      let q := kv.2.filter owns
      if q = [] then none else some (engineOfKey kv.1, q)
    waves := s.waves.filter fun w => w.ctx == c
    links := s.iterLinks.filter fun m => m.ctx == c }

/-- The 64 bytes of the header. -/
def SaveImage.header (m : SaveImage) (c : BitVec 8) : List Byte :=
  toBytes (b2n m.hard * 4 + b2n m.fsave * 8 + c.toNat * 2 ^ 8 + m.oldRound.toNat * 2 ^ 400
    + m.groups.length % 256 * 2 ^ 408 + (m.groups.map fun g => g.tiles.length).sum % 2 ^ 32 * 2 ^ 416
    + m.len % 2 ^ 64 * 2 ^ 448) 64

/-- The bytes of a save. -/
def SaveImage.bytes (m : SaveImage) (c : BitVec 8) : List Byte := m.header c ++ m.records

/-- What an image holds of a group. -/
def SaveImage.forGroup (m : SaveImage) (g : Nat) : GroupImage :=
  (m.groups.find? fun x => x.group == g).getD { group := g }

/-- The ranges of a soft save, `n` of them, each after its base and length (R328): the scratchpad, and the bytes behind. -/
def areaRanges : Nat → List Byte → FMap Byte → FMap Byte × List Byte
  | 0, bs, m => (m, bs)
  | n + 1, bs, m => areaRanges n (bs.drop (16 + natAt bs 8 8)) (memWrite m (natAt bs 0 8 % 2 ^ 16) (slice bs 16 (natAt bs 8 8)))

/-- A tile record as its bytes say it (R328): the scratchpad and the register words, the other parts as they are given;
and the bytes behind. -/
def readTile (hard : Bool) (bs : List Byte) (t : Nat × Tile) : Tile × List (Nat × Nat × Nat × Nat) × List Byte :=
  let words := (List.range 16).flatMap fun e => (List.range 163).map fun i => (t.1, e, i + 1, natAt bs (16448 + 16 * (255 * e + i)) 16)
  let (mem, rest) := if hard then (memWrite [] 0 (slice bs 158912 65536), bs.drop 225984)
    else areaRanges t.2.softRanges.length (bs.drop 94528) []
  ({ t.2 with mem }, words, rest)

/-- The tile records of a group as their bytes say them. -/
def readTiles (hard : Bool) : List (Nat × Tile) → List Byte → List (Nat × Tile) × List (Nat × Nat × Nat × Nat) × List Byte
  | [], bs => ([], [], bs)
  | t :: ts, bs =>
    let (y, w, bs) := readTile hard bs t
    let (ys, ws, bs) := readTiles hard ts bs
    ((t.1, y) :: ys, w ++ ws, bs)

/-- A core record as its bytes say it (R328): code and data memory, the registers as they are given. -/
def readCore (bs : List Byte) (x : Core) : Core :=
  { x with
    code := (List.range 4096).foldl (fun m k => mapSet 0 m k (BitVec.ofNat 128 (natAt bs (8192 + 16 * k) 16))) []
    dmem := memWrite [] 0 (slice bs 73728 65536) }

/-- The groups of an image as the bytes say them: `cores` from the core records on, `tiles` from the tile records on. -/
def readGroups (hard : Bool) : List GroupImage → List Byte → List Byte → List GroupImage
  | [], _, _ => []
  | m :: ms, cores, tiles =>
    let (ts, ws, rest) := readTiles hard m.tiles tiles
    { m with core := readCore cores m.core, tiles := ts, words := ws } ::
      readGroups hard ms (cores.drop 139264) (rest.drop (if hard then 64 * m.requests else 0))

/-- The groups of an image that has `n` tile records (R328): of each group its tiles by role, as far as the records go, with
what the image `m` leaves open. -/
def shapeGroups (m : SaveImage) : List (Nat × Nat) → Nat → List GroupImage
  | [], _ => []
  | (g, roles) :: gs, n =>
    let im := m.forGroup g
    { im with tiles := (List.range (min roles n)).map fun k => (k, ((im.tiles.find? fun q => q.1 == k).map (·.2)).getD {}) } ::
      shapeGroups m gs (n - roles)

/-- What the bytes of a save area denote: the save of the context whose bytes they are, or else what R328 places in them, by
`NDRV`, `NTILE` and the order of the roles in the context's groups; its other parts as the model leaves them open (log
79). -/
def State.imageOf (s : State) (c : BitVec 8) (bs : List Byte) : SaveImage :=
  match (s.ctx c.toNat).images.find? fun m => m.bytes c == bs with
  | some m => m
  | none =>
    let h := natAt bs 0 64
    let m := Config.imageOf bs
    let gs := ((s.groupsOf c).filter fun g => (s.group g).state == .unplaced).take (bitsOf h 408 8)
    let shape := shapeGroups m (gs.map fun g => (g, (s.group g).roles)) (bitsOf h 416 32)
    { m with
      hard := bitOf h 2, fsave := bitOf h 3, oldRound := BitVec.ofNat 8 (bitsOf h 400 8), len := bitsOf h 448 64
      groups := readGroups (bitOf h 2) shape (bs.drop 64) (bs.drop (64 + 139264 * bitsOf h 408 8)) }

/-- Write the save area on path D; none while one of its pages migrates (R377). -/
def State.writeSave (s : State) (c : BitVec 8) (m : SaveImage) : Option State :=
  (writeUpTo c ((s.ctx c.toNat).reg 0x114).toNat (m.bytes c) s).map (·.2)

/-- What the controller has just written in a context's memory is performed at device scope (R329). -/
def State.showWritten (s : State) (c : BitVec 8) : State :=
  s.clear (fun e => e.ctx == c && e.src == pathD && e.tick == s.tick) fun e => e.without (withVersions 0x1FF)

/-- Take a group off its tiles (R357): they go to zeroing, and the group is UNPLACED. -/
def State.unplace (s : State) (g : Nat) : State :=
  let x := s.group g
  let s := x.tiles.foldl (fun s t => s.modTile t fun y =>
    { group := y.group, role := y.role, elems := y.elems.filter fun kv => kv.2.state == .fused }) s
  (s.giveUp g).modGroup g fun y => { y with
    state := .unplaced
    kernel := if y.kernel.state = .running ∨ y.kernel.state = .loaded then { y.kernel with state := .suspended } else y.kernel }

/-- A fault of the context controller (R322). -/
def State.drainFault (s : State) (c : Nat) (aux : Nat) : State :=
  s.record { code := fcDrain, ukind := 3, unit := unitDie 0 192, ctx := BitVec.ofNat 8 c, aux := some (BitVec.ofNat 64 aux) }

/-- A save (R320, R328): the context is SAVED and its groups UNPLACED; a save larger than `SVLEN` is not written, and the
context is FAULTED. It waits while a page of the save area migrates (R377). A hard save cancels the adders that still
run (R402). -/
def State.save (s : State) (c : Nat) (hard fsave : Bool) : State :=
  let cb := BitVec.ofNat 8 c
  let s0 := (if hard then s.failAdders fun a => a.ctx == cb else s).mapElems c Element.freeze
  let m := s0.saveImage cb hard fsave
  if ((s.ctx c).reg 0x115).toNat < m.len then
    (s0.drainFault c 2).modCtx c fun x => { x with state := .faulted, saving := none, bySched := none }
  else match s0.writeSave cb m with
  | none => s
  | some s =>
    let s := s.showWritten cb
    let s := { s with parked := s.parked.filter fun q => s.parkedCtx q.1 != cb }
    let s := (s.placedGroups cb).foldl State.unplace s
    let events := (s.ctx c).saveEvents
    let s := { s with
        waves := s.waves.filter fun w => w.ctx != cb
        iterLinks := s.iterLinks.filter fun l => l.ctx != cb }.modCtx c fun x => { x with
      state := .saved, saved1 := true, hsave := hard, fsave := fsave, save := some m, images := m :: x.images, saveEvents := []
      saving := none }
    events.foldl State.raiseEvent s

/-! ## Drains and saves (R326, R327) -/

/-- A hard save begins (R327, R399): no element of the context fires, and its running adders are cancelled. -/
def State.beginHard (s : State) (c : Nat) (faulted : Bool) : State :=
  ((s.mapElems c Element.quiesce).modCtx c fun x => { x with saving := some faulted }).failAdders fun a => a.ctx.toNat == c

/-- `DRAIN_COMPLETE` (R326): the soft save is written. -/
def execDrainComplete (ctx : Nat) (s : State) : Answer :=
  .next (let x := s.ctx ctx
    if x.state = .draining ∧ x.saving.isNone ∧ s.drainDone (BitVec.ofNat 8 ctx) then s.save ctx false false else s)

/-- `DRAIN_TIMEOUT` (R326): the count, which the move to DRAINING started from `DRBUD`, runs out, and the save becomes
hard. -/
def execDrainTimeout (ctx : Nat) (s : State) : Answer :=
  .next (let x := s.ctx ctx
    let c := BitVec.ofNat 8 ctx
    if x.state = .draining ∧ x.saving.isNone ∧ !s.drainDone c then
      (s.drainFault ctx (if s.roundsDone c then 1 else 0)).beginHard ctx false
    else s)

/-- A token of a context can still move on a network: it can cross to its destination, which has room, or a scale token can
be placed (R25, R28, R120). -/
def State.travels (s : State) (fl : Flight) : Bool :=
  s.edgesKept (unitDieOf fl.src.who) (unitDieOf fl.dst.who) && match fl.dst with
  | .mailbox n k => ((s.core n).mail k).length < 4
  | .slot t e k p =>
    let x := s.elem t e
    if fl.net = .scale then
      x.stageFree && !(x.in0 ++ x.in1).any (fun q => q.1 == k && q.2.1 == p) && (match s.place t e k p fl.tok with
        | .ok _ => true
        | .error _ => false)
    else
      (match fl.src with | .slot t' _ _ _ => t' != t | _ => true) && (x.input fl.net).length < 8

/-- An access that is under way (R327). -/
def MemReq.underWay (m : MemReq) : Bool :=
  m.failing.isNone && m.state == .performing && m.req.kind == .data && opcodeOf m.req.instr != 0x8B && opcodeOf m.req.instr != 0x8C

/-- An operation that has begun at a unit and goes on: a descent, or the reads of a matrix product or of a split whose slot
is reserved or can be (R223, R231, R235, R267). -/
def State.begun (s : State) (e : Engine) (r : Req) : Bool :=
  r.descends || r.reading || (opcodeOf r.instr == 0xB1 && !r.blk.isEmpty && (r.splitSlot.isSome ||
    (s.ring e.unit (bitsOf (formOf r.instr).imm.toNat 3 3)).mayReserve waitEngine))

/-- An arrival at a barrier can still be served (R366): its context is not FAULTED, its list has room, and it can cross to
its barrier. -/
def State.arrives (s : State) (a : Arrival) : Bool :=
  (s.ctx a.ctx.toNat).state != .faulted && !s.listFull (a.handle / 256)
    && s.edgesKept (unitDieOf a.unit) (a.handle / 256)

/-- What a hard save waits for (R267, R327): no token and no arrival moves, no access is under way, no word is about to end, and
no operation that has begun goes on; one that is parked on an absent page does not (log 81). -/
def State.hardReady (s : State) (c : BitVec 8) : Bool :=
  (s.queues.all fun kv => match kv.2 with
    | r :: _ => r.ctx != c || !s.begun (engineOfKey kv.1) r || s.parked.any fun p => engineKey p.1 == kv.1
    | [] => true) &&
  s.net.all (fun fl => fl.tok.ctx != c || !s.travels fl) && s.reqs.all (fun m => m.req.ctx != c || !m.underWay)
    && s.arrivals.all (fun a => a.ctx != c || !s.arrives a) && !s.wordEnds c
    && (s.groupsOf c).all fun g => (s.group g).kernel.state != .loading

/-- `HARD_SAVE` (R327). -/
def execHardSave (ctx : Nat) (s : State) : Answer :=
  .next (match (s.ctx ctx).saving with
    | none => s
    | some faulted => if s.hardReady (BitVec.ofNat 8 ctx) then s.save ctx true faulted else s)

/-! ## Restores (R328, R345, R357) -/

/-- A tile of a group as a restore writes it: an element is FUSED by the physical tile only (R101). -/
def State.rebuildTile (s : State) (g : Nat) (k : KernelState) (r : Rename) (m : GroupImage) (t role : Nat) : State :=
  let old := r.tileOf (((m.tiles.find? fun q => q.1 == role).map (·.2)).getD {})
  let elem := fun (e : Nat) =>
    if (s.elem t e).state = .fused then (s.elem t e)
    else if (old.elem e).state = .fused then {} else (old.elem e).resumeFor k
  s.setTile t { old with
    group := some g, role := role, zeroing := false, mem := mapNorm 0 old.mem
    elems := (List.range 16).foldl (fun y e => mapSet {} y e (elem e)) [] }

/-- The request of a word that waits for its reply and is executed again from the start: its number. One whose arrival is
recorded at a barrier waits on for its release (R364, R366): DESIGN CHOICE, log 81. -/
def Core.redo (x : Core) : Option Nat :=
  match x.wait with
  | .sent k => if wordOpcode (mapGet 0 x.code x.pc.toNat) = 0xF2 then none else some k
  | _ => none

/-- A word that waited when its core was saved is executed again from the start (R122, R328), and the command that it had
sent goes with it; what a word has done in its first part stays done (log 81). -/
def Core.restarted (x : Core) : Core :=
  match x.wait with
  | .sent _ => match x.redo with
    | some k => { x with cmds := x.cmds.filter fun c => c.req.seq != k, wait := .none }
    | none => x
  | .fetched | .reply _ | .late _ => { x with wait := .none }
  | .timed k => { x with wait := .none, discard := some (x.pc, k) }
  | _ => x

/-- The drover core of a group goes on at its saved `PC` (R328). -/
def Core.resumed (d saved : Core) (g : Nat) : Core :=
  { saved.restarted with group := some g, cycle := d.cycle, dmem := mapNorm 0 saved.dmem }

/-- The state of a restored kernel (R345). -/
def Kernel.restored (k : Kernel) : Kernel :=
  if k.state = .suspended then { k with state := if k.started = 0 then .loaded else .running } else k

/-- Place one group of an image again and rebuild what it held (R328, R357): the group is RUNNING, or BOUND if it was never
started. With the state goes what has been renamed. -/
def State.rebind (s : State) (c : Nat) (m : SaveImage) (g : Nat) : Option (Rename × State) :=
  let x := s.group g
  match s.place? ⟨x.roles, x.gw, x.gh⟩ 0 with
  | none => none
  | some p =>
    let im := m.forGroup g
    let r : Rename := { tiles := x.tiles.zip p.tiles, cores := [(x.core, p.core)] }
    let k := x.kernel.restored
    let d := s.core p.core
    let s := s.bindAt g x.ctx ⟨x.roles, x.gw, x.gh⟩ p
    let s := (p.tiles.zip (List.range p.tiles.length)).foldl (fun s q => s.rebuildTile g k.state r im q.1 q.2) s
    let s := s.modCore p.core fun _ => { d.resumed (r.coreOf im.core) g with ctxid := x.ctx.setWidth 64 }
    let s := s.modGroup g fun y => { y with state := if x.ran then .running else .bound, kernel := k }
    let held := (s.ctx c).colours.filter fun kv => kv.2.state == .held && kv.2.group == g
    let s := held.foldl (fun s kv => s.noteColour c kv.1 { kv.2 with tile := r.tile kv.2.tile }) s
    let s := im.words.foldl (fun s w => s.setWord (r.tile (x.entry w.1 % 2 ^ 14)) w.2.1 w.2.2.1 w.2.2.2) s
    let s : State := { s with net := s.net ++ im.flights.map fun fl => { fl with src := r.source fl.src, dst := r.dest fl.dst } }
    some (r, s.modCtx c fun y => { y with spawns := y.spawns ++ im.spawns.map fun w => { w with tile := r.tile w.tile } })

/-- Place every group of an image, or none. -/
def rebindAll (c : Nat) (m : SaveImage) (r : Rename) : List Nat → State → Option (Rename × State)
  | [], s => some (r, s)
  | g :: gs, s => match s.rebind c m g with
    | some (q, s) => rebindAll c m (r.and q) gs s
    | none => none

/-- The unit that takes a restored request: a boundary unit of the die that its issuer stands on now, and a sampler that the
slot's tile chooses is that of its new tile (R289). -/
def Rename.server (r : Rename) (e : Engine) (q : Req) : Engine :=
  match e, (r.req q).origin with
  | .sampler _ _, .slot t _ _ => (engineFor t q).getD (r.engine e)
  | .grammar _ n, _ => .grammar (unitDieOf (r.req q).unit) n
  | .accept _ n, _ => .accept (unitDieOf (r.req q).unit) n
  | _, _ => r.engine e

/-- The withdrawn and the queued requests of an image are issued again, in the orders of their parking and of their queues
(R327, R328), but those of words that are executed again. -/
def SaveImage.reissue (m : SaveImage) (r : Rename) (s : State) : State :=
  let redo := fun (q : Req) => m.groups.any fun g => match g.core.redo, q.origin with
    | some k, .core _ => q.seq == k
    | _, _ => false
  let s := (m.queues.flatMap fun q => q.2.map fun x => (q.1, x)).foldl (fun s q =>
    if redo q.2 then s else s.setQueue (r.server q.1 q.2) (s.queue (r.server q.1 q.2) ++ [r.req q.2])) s
  { s with reqs := s.reqs ++ (m.reqs.filter fun q => !redo q.req).map fun q => { q with req := r.req q.req } }

/-- What names a restored context's tiles and cores outside the groups: records on their way, arrivals, launchers, signals,
kept writes and what is known of older values. All groups are renamed at once. -/
def State.renamed (s : State) (c : BitVec 8) (r : Rename) : State :=
  { s with
    pend := s.pend.map fun q => if q.rcd.ctx = c then { q with elem := q.elem.map fun e => (r.tile e.1, e.2) } else q
    arrivals := s.arrivals.map (r.arrival c)
    barriers := s.barriers.map fun kv => (kv.1, { kv.2 with records := kv.2.records.map (r.arrival c) })
    groups := s.groups.map fun kv => (kv.1, if kv.2.ctx = c then { kv.2 with kernel := r.kernel kv.2.kernel } else kv.2)
    signals := s.signals.map fun m => if m.ctx = c then { m with launcher := r.launcher m.launcher } else m
    late := s.late.map (r.late c)
    stale := s.stale.map (r.stale c) }

/-- The image that the save area of a context holds now: its bytes say which (R328); where they cannot be read, the last
that was saved. -/
def State.areaImage (s : State) (c : Nat) : SaveImage :=
  let x := s.ctx c
  let m := x.save.getD default
  match vread agentSched (BitVec.ofNat 8 c) (x.reg 0x114).toNat m.len s with
  | .ok (bs, _) => s.imageOf (BitVec.ofNat 8 c) bs
  | .error _ => m

/-- A restore (R320, R328): → RUNNING; none while a group finds no room (R357). -/
def State.restore? (s : State) (c : Nat) : Option State :=
  let cb := BitVec.ofNat 8 c
  let m := s.areaImage c
  (rebindAll c m {} ((s.groupsOf cb).filter fun g => (s.group g).state == .unplaced) s).map fun (r, s) =>
    let events := (s.ctx c).restoring.getD []
    let s := m.reissue r (s.renamed cb r)
    let s := { s with waves := s.waves ++ m.waves, iterLinks := s.iterLinks ++ m.links }.modCtx c fun x =>
      { x with state := .running, restoring := none, appendHeld := false, bySched := none }
    events.foldl State.raiseEvent s

/-! ## The instructions (R329) -/

/-- The checks of R329, then the operation on the context that `xa` names, which goes on by itself; a state that is not
accepted is reported. -/
def ctxWord (f : Form) (n : Nat) (ok : CtxState → Bool) (go : Nat → Nat × Nat → State → State) (s : State) : State :=
  let c := s.core n
  let xa := (c.reg (Form.xa f)).toNat
  let cid := c.context.toNat
  let ev := f.imm.toNat % 4096
  if !c.priv then s.coreFault n fcPriv
  else if 256 ≤ xa ∨ bitsOf f.imm.toNat 12 20 ≠ 0 ∨ ((s.ctx cid).reg 0x113).toNat ≤ ev then s.coreFault n fcIllegal
  else if xa = cid ∨ !ok (s.ctx xa).state then s.coreResult n f (BitVec.ofNat 64 (2 ^ 63) ||| ((s.ctx xa).cstate &&& 7#64))
  else (go xa (cid, ev) s).coreResult n f ((s.ctx xa).cstate &&& 7#64)

/-- A kernel of a context is LOADING (R345). -/
def State.loads (s : State) (c : Nat) : Bool :=
  (s.groupsOf (BitVec.ofNat 8 c)).any fun g => (s.group g).kernel.state == .loading

/-- A drain, or a hard save, begins (R326, R327). -/
def State.beginDrain (s : State) (c : Nat) (hard : Bool) : State :=
  let s := s.modCtx c fun x => { x with state := .draining }
  if hard then s.beginHard c false else s

/-- Start a pre-emption (R320, R326), which is hard where `DRBUD` is 0 (R317): the image of a READY context, saved at once, or
when a load is over and the save area takes it (R345; DEDUCED, log 78); a drain; or a hard save, which cancels the adders
that still run (R402). -/
def State.preempt (s : State) (c : Nat) (hard : Bool) : State :=
  let hard := hard || (s.ctx c).reg 0x11A == 0
  match (s.ctx c).state with
  | .ready =>
    let s' := if s.loads c then s else if hard then (s.beginHard c false).save c true false else s.save c false false
    if (s'.ctx c).state = .ready then s.beginDrain c hard else s'
  | .running => s.beginDrain c hard
  | .draining => s.beginHard c false
  | .faulted => s.beginHard c true
  | _ => s

/-- `PREEMPT` (R329). -/
def preemptWord (f : Form) (hard : Bool) (n : Nat) (s : State) : State :=
  ctxWord f n (fun st => st == .ready || st == .running || (hard && (st == .draining || st == .faulted)))
    (fun c e s => (s.modCtx c fun x => { x with saveEvents := x.saveEvents ++ [e] }).preempt c hard) s
/-- `PREEMPT.SOFT` (R329). -/
def execPreemptSoft (f : Form) (s : State) : Answer := onCore s (preemptWord f false)
/-- `PREEMPT.HARD` (R329). -/
def execPreemptHard (f : Form) (s : State) : Answer := onCore s (preemptWord f true)

/-- The operation of a copy (R329): a failed one records `ILLEGAL` in the caller's queue; the counter is raised all
the same. None while the copy waits: a page that it writes migrates, or a page is not reached (R377, R388, R395). -/
def State.copyDone (s : State) (e : Nat × Nat) (r : Except Stop (Unit × State)) : Option State :=
  match r with
  | .ok (_, s) => some (s.raiseEvent e)
  | .error .wait => none
  | .error _ => some ((s.record { code := fcIllegal, ukind := 3, unit := unitDie 0 192, ctx := BitVec.ofNat 8 e.1 }).raiseEvent e)

/-- `CTXSAVE` (R329): `LEN` bytes of the save area go to the buffer. -/
def saveCopy (c : Nat) (e : Nat × Nat) (xb : Nat) : Act Unit := fun s =>
  let x := s.ctx c
  let len := (x.save.map (·.len)).getD 0
  ((vread agentSched (BitVec.ofNat 8 c) (x.reg 0x114).toNat len).andThen fun bs =>
    (vwrite agentSched (BitVec.ofNat 8 e.1) xb bs).andThen fun _ =>
      Act.change fun s => s.showWritten (BitVec.ofNat 8 e.1)) s
/-- A header that R328 allows for a context whose save area holds `svlen` bytes. -/
def headerOk (h c svlen : Nat) : Bool :=
  bitsOf h 0 2 == 0 && bitsOf h 4 4 == 0 && bitsOf h 16 384 == 0 && bitsOf h 8 8 == c && 64 ≤ bitsOf h 448 64
    && bitsOf h 448 64 ≤ svlen

/-- `CTXREST` copies a buffer into the save area (R329). -/
def restCopy (c : Nat) (e : Nat × Nat) (xb : Nat) : Act Unit := fun s =>
  let x := s.ctx c
  let cb := BitVec.ofNat 8 c
  ((vnat agentSched (BitVec.ofNat 8 e.1) xb 64).andThen fun h =>
    (Act.need (headerOk h c (x.reg 0x115).toNat) (.error fcIllegal)).andThen fun _ =>
    (vread agentSched (BitVec.ofNat 8 e.1) xb (bitsOf h 448 64)).andThen fun bs =>
    (vwrite agentSched cb (x.reg 0x114).toNat bs).andThen fun _ =>
      Act.change fun s => s.modCtx c fun x => { x with save := some (s.imageOf cb bs) }) s

/-- What follows the copy of a `CTXREST` (R329): a restore, whose end raises the counter, or the end. -/
def State.afterCopy (s : State) (c : Nat) (j : CtxJob) : State :=
  if j.run then s.modCtx c fun x => { x with restoring := some (x.restoring.getD [] ++ [j.event]) } else s.raiseEvent j.event

/-- Do a started copy and what follows it (R329); none while it waits. -/
def State.doJob (s : State) (c : Nat) (j : CtxJob) : Option State :=
  if j.save then s.copyDone j.event (saveCopy c j.event j.buffer s)
  else if j.buffer = 0 then some (s.afterCopy c j)
  else match restCopy c j.event j.buffer s with
    | .ok (_, s) => some (s.afterCopy c j)
    | r => s.copyDone j.event r

/-- A copy is started (R329): one that waits goes on by itself, and the copies of one save area keep their order. -/
def State.startJob (s : State) (c : Nat) (j : CtxJob) : State :=
  match if (s.ctx c).jobs = [] then s.doJob c j else none with
  | some s => s
  | none => s.modCtx c fun x => { x with jobs := x.jobs ++ [j] }

/-- The oldest copy of a save area that waits goes on. -/
def State.goJob (s : State) (c : Nat) : State :=
  match (s.ctx c).jobs with
  | [] => s
  | j :: js => ((s.modCtx c fun x => { x with jobs := js }).doJob c j).getD s

/-- The copies and the restores of a context that were asked for go on: the restore after the copies. -/
def State.tryRestore (s : State) (c : Nat) : State :=
  if (s.ctx c).jobs ≠ [] then s.goJob c
  else if (s.ctx c).restoring.isSome ∧ (s.ctx c).state = .saved then (s.restore? c).getD s else s

/-- `RESTORE` (R328). -/
def execRestore (ctx : Nat) (s : State) : Answer := .next (s.tryRestore ctx)
/-- `RESTORE_REBIND` (R357): a restore that found no room is tried again. -/
def execRestoreRebind (ctx : Nat) (s : State) : Answer := .next (s.tryRestore ctx)

/-- `CTXSAVE` and `CTXREST` (R329): the copy is started. -/
def copyWord (f : Form) (save run : Bool) (n : Nat) (s : State) : State :=
  ctxWord f n (· == .saved) (fun c e s => s.startJob c ⟨save, run, e, ((s.core n).reg (Form.xb f)).toNat⟩) s
/-- `CTXSAVE` (R329). -/
def execCtxsave (f : Form) (s : State) : Answer := onCore s (copyWord f true false)
/-- `CTXREST.RUN` (R329): a copy if a buffer is named, then a restore. -/
def execCtxrestRun (f : Form) (s : State) : Answer := onCore s (copyWord f false true)
/-- `CTXREST.LOAD` (R329): the copy only. -/
def execCtxrestLoad (f : Form) (s : State) : Answer := onCore s (copyWord f false false)

end Sys2Proof.Machine
end

