-- ==== Sys2Proof/Machine/Queue.lean ====
section
/-! DEFINITION. The queue (R330 to R339): doorbells, records and their checks, placement, loading, pre-emption by
the scheduler, signals, and the queue instructions. -/

namespace Sys2Proof.Machine

open Sys2Proof

/-! ## Queue records (R332) -/

/-- A queue record: its 64 bytes as a number. -/
structure QRec where
  raw : Nat
  deriving DecidableEq, Repr

/-- `KIMG`. -/
def QRec.kimg (r : QRec) : Nat := bitsOf r.raw 448 64
/-- `ARGS`. -/
def QRec.args (r : QRec) : Nat := bitsOf r.raw 384 64
/-- `WADDR`. -/
def QRec.waddr (r : QRec) : Nat := bitsOf r.raw 320 64
/-- `WVAL`. -/
def QRec.wval (r : QRec) : Nat := bitsOf r.raw 256 64
/-- `SADDR`. -/
def QRec.saddr (r : QRec) : Nat := bitsOf r.raw 192 64
/-- The shape: `ROLES`, `GW` and `GH`. -/
def QRec.shape (r : QRec) : Shape := ⟨bitsOf r.raw 144 16, bitsOf r.raw 136 8, bitsOf r.raw 128 8⟩
/-- `LCOL`. -/
def QRec.lcol (r : QRec) : Nat := bitsOf r.raw 16 12
/-- `AFTER`. -/
def QRec.after (r : QRec) : Bool := bitOf r.raw 3
/-- `NOPRE`. -/
def QRec.nopre (r : QRec) : Bool := bitOf r.raw 2
/-- `PRIO`. -/
def QRec.prio (r : QRec) : Nat := bitsOf r.raw 0 2

/-- The scheduler's faults name the context controller (R322). -/
def State.schedFault (s : State) (c : BitVec 8) (code : Nat) (val aux : Option W64) : State :=
  s.record { code, ukind := 3, unit := unitDie 0 192, ctx := c, val, aux }

/-- The scheduler's accesses to a counter would succeed (R333): it reads the one at `WADDR`, and writes the one at
`SADDR` too. -/
def State.counterOk (s : State) (c : BitVec 8) (a : Nat) (write : Bool) : Bool :=
  a == 0 || (match translate s c a true write with | .ok _ => true | .error _ => false)

/-- An address breaks R332. -/
def QRec.badAddress (r : QRec) : Bool :=
  r.kimg % 16 != 0 || r.args % 16 != 0 || r.waddr % 8 != 0 || r.saddr % 8 != 0
    || [r.kimg, r.args, r.waddr, r.saddr].any fun a => 2 ^ 56 ≤ a

/-- `SADDR` is legal. -/
def QRec.signalAddr (r : QRec) : Nat := if r.saddr % 8 ≠ 0 ∨ 2 ^ 56 ≤ r.saddr then 0 else r.saddr

/-- The checks of a record, but for 4 (R333): the number of the first that fails, or 0. -/
def State.recordFails (s : State) (c : BitVec 8) (r : QRec) : Nat :=
  let h := r.shape
  let st := (s.ctx c.toNat).state
  if bitsOf r.raw 28 100 ≠ 0 ∨ bitsOf r.raw 12 2 ≠ 0 ∨ bitsOf r.raw 4 4 ≠ 0 then 1
  else if r.badAddress || !s.counterOk c r.waddr false || !s.counterOk c r.saddr true then 2
  else if h.roles < 1 ∨ 1023 < h.roles ∨ h.gw < 1 ∨ 64 < h.gw ∨ h.gh < 1 ∨ 64 < h.gh ∨ h.gw * h.gh < h.roles then 3
  else if st = .free ∨ st = .building ∨ st = .dead then 5
  else if (s.ctx c.toNat).pool ≤ r.lcol then 6
  else 0

/-- The scheduler reads counters and records past every read buffer (R334). -/
def State.schedSees (s : State) : State := s.freshen agentSched fun _ => true

/-- A counter is at least a value (R334, R339). -/
def State.counterMet (s : State) (c : BitVec 8) (a v : Nat) : Bool :=
  match vnat agentSched c a 8 s.schedSees with
  | .ok (n, _) => v ≤ n
  | .error _ => false

/-! ## The head of a queue (R333, R334) -/

/-- The context that owns a queue. -/
def State.qowner (s : State) (q : Nat) : BitVec 8 := BitVec.ofNat 8 (s.qctx q)
/-- The address of the head record. -/
def State.headAddr (s : State) (q : Nat) : Nat := s.qbase q + 64 * (s.qhead q % s.qlen q)

/-- `QHEAD` advances (R334). -/
def State.advanceHead (s : State) (q : Nat) : State := s.setQfield q 16 4 ((s.qhead q + 1) % 2 ^ 32)

/-- A record fails (R333): its result and its signal are on their way, and the head advances once they are performed. -/
def State.failHead (s : State) (q addr : Nat) (r : QRec) (check : Nat) : State :=
  let m : Signal := { ctx := s.qowner q, launcher := .queue q addr, saddr := r.signalAddr, status := 0xC0 + check }
  { s with signals := s.signals ++ [m] }.modQinf q fun i => { i with absent := none, counting := false }

/-- A queue's number in a launcher. -/
def Launcher.of (l : Launcher) (q : Nat) : Bool := match l with | .queue n _ => n == q | .core _ _ => false

/-- The signal tells of a record that failed (R333). -/
def Signal.fails (m : Signal) : Bool := 0xC0 ≤ m.status

/-- The kernel is loaded, and has yet to start. -/
def Kernel.starting (k : Kernel) : Bool :=
  k.state == .loading || k.state == .loaded || (k.state == .suspended && k.started == 0)

/-- The head of a queue is being started, or its failure is being signalled: the queue goes on to the next record once that
is over, so that its records start in ring order (R333, R335, R339). -/
def State.headBusy (s : State) (q : Nat) : Bool :=
  s.signals.any (fun m => m.fails && m.stage < 3 && m.launcher.of q)
    || s.groups.any fun kv => kv.2.kernel.launcher.of q && kv.2.kernel.starting

/-- What reading the head finds: nothing, a head that is being dealt with, a page to wait for or a queue that cannot be
read, a record that fails, or a record that is met or not. -/
inductive Head where
  | empty
  | busy
  | blocked
  | failed
  | record (addr : Nat) (r : QRec) (met : Bool)
  deriving DecidableEq, Repr

/-- Read the head (R333, R334). -/
def State.readHead (s : State) (q : Nat) : Head × State :=
  let c := s.qowner q
  if s.headBusy q then (.busy, s)
  else if s.qused q = 0 then (.empty, s)
  else
    let addr := s.headAddr q
    match vnat agentSched c addr 64 s.schedSees with
    | .error (.absent va) =>
      (.blocked, if (s.qinf q).absent.isSome then s
        else (s.schedFault c fcPageAbsent (some (BitVec.ofNat 64 addr)) none).modQinf q fun i => { i with absent := some va })
    | .error (.fault code val aux) => (.blocked, (s.schedFault c code val aux).disableQueue q)
    | .error .wait => (.busy, s)
    | .error _ => (.blocked, s.disableQueue q)
    | .ok (n, s) =>
      let r : QRec := ⟨n⟩
      let s := s.modQinf q fun i => { i with absent := none }
      let k := s.recordFails c r
      if k ≠ 0 then (.failed, s.failHead q addr r k)
      else (.record addr r ((r.waddr = 0 || s.counterMet c r.waddr r.wval) && (!r.after || (s.qinf q).inFlight.isNone)), s)

/-- Test the head of a queue that is enabled: its new state (R334). -/
def State.testQueue (s : State) (q : Nat) : State :=
  if s.qstate q = 0 then s
  else match s.readHead q with
    | (.empty, s) => s.setQstate q 1
    | (.busy, s) => if s.qstate q = 1 then s.setQstate q 2 else s
    | (.blocked, s) => if s.qstate q = 0 then s else s.setQstate q 2
    | (.failed, s) => s.setQstate q 2
    | (.record _ _ met, s) => s.setQstate q (if met then 3 else 2)

/-- The head of a queue has been started, or has failed and has been signalled: `QHEAD` advances, and the new head is
tested (R334). -/
def State.nextHead (s : State) (q : Nat) (started : Option Nat) : State :=
  ((s.advanceHead q).modQinf q fun i => { i with inFlight := started, absent := none, counting := false }).testQueue q

/-! ## Doorbells (R331, R334) -/

/-- `RING` (R331): an EMPTY queue is tested. -/
def State.ring? (s : State) (q : Nat) : State := if s.qstate q = 1 then s.testQueue q else s

/-- `ENABLE` (R334): EMPTY, then as `RING`; `AFTER` is met. -/
def State.enableQueue (s : State) (q : Nat) : State :=
  if s.qstate q = 0 then ((s.setQstate q 1).modQinf q fun _ => {}).ring? q else s

/-- A bad doorbell (R331). -/
def badDoorbell (v : Nat) : Bool := bitsOf v 10 2 == 3 || bitsOf v 12 52 != 0

/-- A doorbell reaches the scheduler (R331): a bad one is discarded and logged. -/
def State.doorbell (s : State) (v : Nat) : State :=
  let q := v % 1024
  if badDoorbell v then
    s.logFault { code := fcIllegal, ukind := 3, unit := unitDie 0 192, ctx := s.qowner q, val := some (BitVec.ofNat 64 v) }
  else match bitsOf v 10 2 with
    | 0 => s.ring? q
    | 1 => s.enableQueue q
    | _ => s.disableQueue q

/-- A doorbell event: the word, if it is a command of that kind or a bad one. -/
def doorbellEvent (cmd value : Nat) (s : State) : State :=
  let v := value % 2 ^ 64
  if badDoorbell v ∨ bitsOf v 10 2 = cmd then s.doorbell v else s
/-- `DOORBELL_RING` (R331). -/
def execDoorbellRing (value : Nat) (s : State) : Answer := .next (doorbellEvent 0 value s)
/-- `DOORBELL_ENABLE` (R334). -/
def execDoorbellEnable (value : Nat) (s : State) : Answer := .next (doorbellEvent 1 value s)
/-- `DOORBELL_DISABLE` (R334). -/
def execDoorbellDisable (value : Nat) (s : State) : Answer := .next (doorbellEvent 2 value s)

/-- `QUEUE_HEAD_TEST` (R334): a WAITING head is tested again. -/
def execQueueHeadTest (ctx queue : Nat) (s : State) : Answer :=
  .next (if queue < 1024 ∧ s.qstate queue = 2 ∧ s.qctx queue = ctx then s.testQueue queue else s)

/-! ## Placement (R335) -/

/-- A launch colour is not FREE, or another kernel of the context that has yet to start has it (R332). -/
def State.colourBusy (s : State) (c : BitVec 8) (lcol : Nat) : Bool :=
  ((s.ctx c.toNat).colour lcol).state != .free || (s.groupsOf c).any fun g =>
    let k := (s.group g).kernel
    k.lcol == lcol && (k.state == .loading || k.state == .loaded)

/-- The kernel of a record. -/
def QRec.kernel (r : QRec) (l : Launcher) : Kernel :=
  { state := .loading, launcher := l, image := r.kimg, args := r.args, saddr := r.saddr, prio := r.prio, nopre := r.nopre
    lcol := r.lcol }

/-- The kernel of a queue's record, whose wait is met now: what the signals on its counter have made known is kept under
the key of this step (R337). -/
def QRec.queued (r : QRec) (q addr tick : Nat) : Kernel :=
  { r.kernel (.queue q addr) with met := if r.waddr = 0 then none else some (arrivalKey tick) }

/-- Bind a group for a record and hand it to the loader (R335): its kernel then starts, and only then the head advances;
none where it cannot be placed. -/
def State.placeRecord (s : State) (q addr : Nat) (r : QRec) : Option State :=
  let c := s.qowner q
  if s.colourBusy c r.lcol then none
  else match s.freeGroup?, s.place? r.shape 0 with
    | some g, some p =>
      let s := (s.learn (s.counterKey c r.waddr) (arrivalKey s.tick)).bindAt g c r.shape p
      let s := s.modGroup g fun x => { x with state := .bound, kernel := r.queued q addr s.tick }
      some { s.modQinf q fun i => { i with counting := false } with lastQueue := mapSet 0 s.lastQueue r.prio (q + 1) }
    | _, _ => none

/-- A context in which a kernel start is held (R320, R335). -/
def CtxState.holds (st : CtxState) : Bool := st == .draining || st == .saved || st == .faulted

/-- The READY queues of a priority, from the one after the last started (R335). -/
def State.readyQueues (s : State) (p : Nat) : List Nat :=
  let last := mapGet 0 s.lastQueue p
  ((List.range 1024).map fun k => (last + k) % 1024).filter fun q => s.qstate q == 3 && (match s.readHead q with
    | (.record _ r _, _) => r.prio == p
    | (.failed, _) => p == 3
    | (.blocked, _) => p == 3
    | _ => false)

/-- Try the READY queues in order: the state with a head started or failed, or with the counts of R336. -/
def tryQueues : List Nat → State → Bool × State
  | [], s => (false, s)
  | q :: qs, s =>
    match s.readHead q with
    | (.record addr r _, s') =>
      if (s.ctx (s.qctx q)).state.holds then tryQueues qs s
      else (match s'.placeRecord q addr r with
        | some s => (true, s)
        | none => tryQueues qs (s'.modQinf q fun i => { i with counting := true }))
    | (.busy, _) => tryQueues qs s
    | (_, s') => (true, if s'.qstate q = 0 then s' else s'.setQstate q 2)

/-- The contexts that the scheduler pre-empted at a priority and that are SAVED, oldest first (R336). -/
def State.waitingContexts (s : State) (p : Nat) : List Nat :=
  let l := s.ctxs.filterMap fun kv => match kv.2.bySched with
    | some (k, n) => if k = p ∧ kv.2.state = .saved ∧ kv.2.jobs = [] then some (n, kv.1) else none
    | none => none
  (l.mergeSort fun a b => a.1 ≤ b.1).map (·.2)

/-- Restore the first of the contexts that finds room. -/
def tryContexts : List Nat → State → Bool × State
  | [], s => (false, s)
  | c :: cs, s => match s.restore? c with
    | some s => (true, s)
    | none => tryContexts cs s

/-- Take the priorities from the highest down (R335). -/
def tryPriorities : Nat → State → State
  | 0, s => s
  | p + 1, s =>
    match tryContexts (s.waitingContexts p) s with
    | (true, s) => s
    | (false, s) => match tryQueues (s.readyQueues p) s with
      | (true, s) => s
      | (false, s) => tryPriorities p s

/-- `PLACEMENT` (R335). -/
def execPlacement (s : State) : Answer := .next (tryPriorities 4 s)

/-- Placement until nothing more can be placed (R335, R336). -/
def placeAll : Nat → State → State
  | 0, s => s
  | n + 1, s => let s' := tryPriorities 4 s; if s' = s then s else placeAll n s'

/-! ## Loading (R343, R345) -/

/-- The loader takes a group's image (R343); the record of a refused one fails check 4 (R333). It waits for a page that
migrates (R377). -/
def State.loadKernel (s : State) (g : Nat) : State :=
  let x := s.group g
  match s.load g x.roles with
  | none => s
  | some (v, s) =>
  if v = 0 then s
  else { s with signals := s.signals ++ [{ ctx := x.ctx, launcher := x.kernel.launcher, saddr := x.kernel.saddr
                                           status := 0xC4, group := some g }] }
/-- `KERNEL_LOAD` (R343). -/
def execKernelLoad (group : Nat) (s : State) : Answer :=
  .next (if (s.group group).kernel.state = .loading ∧ (s.group group).state = .bound then s.loadKernel group else s)

/-- The units of a group: its tiles and its drover core. -/
def Group.units (x : Group) : List Nat := (16384 + x.core) :: x.tiles

/-- A kernel that the scheduler starts (R335, R337): its units see what was performed before the signals that met its
wait, and the queue goes on to its next record. -/
def State.startQueued (s : State) (g : Nat) : State :=
  let x := s.group g
  let s := match x.kernel.met with | some k => x.units.foldl (fun (s : State) u => s.showKnown k u) s | none => s
  let s := s.startKernel g
  match x.kernel.launcher with
  | .queue q _ => s.nextHead q (some g)
  | .core _ _ => s

/-- `KERNEL_START` (R345). -/
def execKernelStart (group : Nat) (s : State) : Answer :=
  let x := s.group group
  .next (if x.kernel.state = .loaded ∧ s.admits x.ctx x.kernel.lcol then s.startQueued group else s)

/-! ## Pre-emption by the scheduler (R336) -/

/-- A queue record started the kernel. -/
def Launcher.queued (l : Launcher) : Bool := match l with | .queue _ _ => true | .core _ _ => false

/-- The kernels that a head of a priority may pre-empt: context, priority and start (R336). A kernel of `LAUNCH` has
no priority (R339). -/
def State.victims (s : State) (p : Nat) : List (Nat × Nat × Nat) :=
  s.groups.filterMap fun kv =>
    let k := kv.2.kernel
    let c := kv.2.ctx
    let spared := s.groups.any fun q => q.2.ctx == c && q.2.kernel.state == .running && q.2.kernel.nopre
    if k.state = .running ∧ (s.ctx c.toNat).state = .running ∧ k.prio < p ∧ !spared ∧ k.launcher.queued
    then some (c.toNat, k.prio, k.started) else none

/-- The one of the lowest priority, and of those the one started last. -/
def bestVictim : List (Nat × Nat × Nat) → Option (Nat × Nat × Nat)
  | [] => none
  | v :: vs => match bestVictim vs with
    | none => some v
    | some w => some (if v.2.1 < w.2.1 ∨ (v.2.1 = w.2.1 ∧ w.2.2 ≤ v.2.2) then v else w)

/-- A pre-emption of the scheduler is under way: until its context is SAVED and the tiles that it stood on are freed. -/
def State.preempting (s : State) : Bool :=
  s.ctxs.any fun kv => kv.2.bySched.isSome && (kv.2.state == .draining || (kv.2.state == .saved &&
    (s.groupsOf (BitVec.ofNat 8 kv.1)).any fun g => (s.group g).state == .unplaced
      && (s.group g).tiles.any fun t => (s.tile t).zeroing))

/-- `PREEMPT_BUDGET_EXPIRY` (R336): placement is tried again first, head after head, and then one context is
pre-empted. -/
def execPreemptBudgetExpiry (ctx queue : Nat) (s : State) : Answer :=
  let s := if s.preempting then s else placeAll 4096 s
  .next (
    if queue < 1024 ∧ s.qctx queue = ctx ∧ s.qstate queue = 3 ∧ (s.qinf queue).counting ∧ s.qpbud queue ≠ 2 ^ 32 - 1
        ∧ !s.preempting then
      match s.readHead queue with
      | (.record _ r _, _) => (match bestVictim (s.victims r.prio) with
        | some (c, p, _) =>
          { s with seq := s.seq + 1 }.modCtx c (fun x => { x with bySched := some (p, s.seq) }) |>.preempt c false
        | none => s)
      | _ => s
    else s)

/-! ## Signals (R337) -/

/-- One write of a signal: done, dropped on a fault that is recorded, or waiting for a page; none while a page
migrates. -/
def State.signalWrite (s : State) (m : Signal) (w : Act Unit) : Option (State × Option Nat) :=
  match w s with
  | .ok (_, s) => some (s, none)
  | .error (.absent va) =>
    some (if m.waitVa.isSome then s else s.schedFault m.ctx fcPageAbsent (some (BitVec.ofNat 64 va)) none, some va)
  | .error (.fault code val aux) => some (s.schedFault m.ctx code val aux, none)
  | .error .wait => none
  | .error _ => some (s, none)

/-- The result of a record: `EXIT`, `DONE`, `FAIL` and `FCODE`. -/
def Signal.result (m : Signal) : Act Unit :=
  match m.launcher with
  | .queue _ a => (vput agentSched m.ctx (a + 20) 4 m.exit).andThen fun _ => vput agentSched m.ctx (a + 1) 1 m.status
  | .core n a => Act.change fun s => s.modCore n fun c =>
    { c with dmem := memWrite (memWrite c.dmem (a + 20) (toBytes m.exit 4)) (a + 1) (toBytes m.status 1) }

/-- The increment of a counter. -/
def Signal.count (m : Signal) : Act Unit :=
  if m.saddr = 0 then Act.ret ()
  else fun s => ((vnat agentSched m.ctx m.saddr 8).andThen fun v => vput agentSched m.ctx m.saddr 8 ((v + 1) % 2 ^ 64)) s.schedSees

/-- A signal's queue record has ended (R334), and one that failed makes way for the next (R333). -/
def State.recordEnded (s : State) (m : Signal) : State :=
  match m.launcher with
  | .core _ _ => s
  | .queue q _ =>
    let s := s.modQinf q fun i => if i.inFlight.isSome ∧ i.inFlight = m.group then { i with inFlight := none } else i
    if m.fails then s.nextHead q none else s

/-- The group that a signal releases still has the kernel that the signal tells of. -/
def State.signalGroup (s : State) (m : Signal) : Option Group :=
  match m.launcher, m.group with
  | .queue _ _, some g =>
    let x := s.group g
    if x.kernel.launcher = m.launcher ∧ (x.kernel.state = .ended ∨ x.kernel.state = .refused) then some x else none
  | _, _ => none

/-- The release of a signal's group waits until a restore has placed the group again (R337, R357; DEDUCED, log 125). -/
def State.releaseWaits (s : State) (m : Signal) : Bool := (s.signalGroup m).any fun x => x.state == .unplaced

/-- The group of a queue record is released after the signal (R337). -/
def State.releaseAfter (s : State) (m : Signal) : State :=
  match s.signalGroup m, m.group with
  | some x, some g => if x.state = .bound ∨ x.state = .running then s.release g else s
  | _, _ => s

/-- A signal has been performed: its record has ended, and then its group is released. -/
def State.signalled (s : State) (k : Nat) (m : Signal) : State :=
  let ended := fun (s : State) => if m.stage = 2 then s.recordEnded m else s
  if s.releaseWaits m then ended { s with signals := setNth s.signals k { m with stage := 3 } }
  else (ended { s with signals := dropNth s.signals k }).releaseAfter m

/-- Perform the signal at a place (R337): the record, then the counter. A write that waits for a page keeps it
there. -/
def performSignal (k : Nat) : Nat → State → State
  | 0, s => s
  | n + 1, s =>
    match s.signals[k]? with
    | none => s
    | some m =>
      if 2 ≤ m.stage then s.signalled k m
      else match s.signalWrite m (if m.stage = 0 then m.result else m.count) with
        | none => s
        | some (s', some va) => { s' with signals := setNth s'.signals k { m with waitVa := some va } }
        | some (s', none) => performSignal k n { s' with signals := setNth s'.signals k { m with stage := m.stage + 1, waitVa := none } }

/-- A signal waits: for a page, or for its group to be placed again; one of a `LAUNCH` waits too while the context of
the core that holds its record is SAVED (R328, R339). -/
def State.signalWaits (s : State) (m : Signal) : Bool :=
  if 2 ≤ m.stage then m.stage == 3 && s.releaseWaits m
  else if m.stage = 0 ∧ !m.launcher.queued ∧ (s.ctx m.ctx.toNat).state = .saved then true
  else match m.waitVa with
    | some va => (match translate s m.ctx va true true with | .error (.absent _) => true | _ => false)
    | none => false

/-- `KERNEL_SIGNAL` (R337): the arbiter performs its next signal; every write of the kernel has been performed before it,
and is seen after a wait that it meets. -/
def execKernelSignal (group : Nat) (s : State) : Answer :=
  .next (
    let k := s.signals.findIdx fun m => !s.signalWaits m
    match s.signals[k]? with
    | none => s
    | some m => if m.group.isSome ∧ m.group ≠ some group then s else performSignal k 3 (s.signal m.ctx m.saddr))

/-! ## The instructions (R338, R339) -/

/-- A counter address that R338 refuses. -/
def badCounter (a : Nat) : Bool := a % 8 != 0 || 2 ^ 56 ≤ a

/-- `WAIT` (R339): until the counter is met, and then what was performed before the signals on it is seen (R337); a plain
store to the counter shows nothing (R427). -/
def waitWord (f : Form) (n : Nat) (s : State) : State :=
  let c := s.core n
  let a := (c.reg (Form.xa f)).toNat
  if badCounter a then s.coreFault n fcIllegal
  else s.coreAct n (fun s => vnat agentSched c.context a 8 s.schedSees) fun v s' =>
    if (c.reg (Form.xb f)).toNat ≤ v then (s'.showKnown (s'.counterKey c.context a) (16384 + n)).coreResult n f 0 else s
/-- `WAIT` (R339). -/
def execWait (f : Form) (s : State) : Answer := onCore s (waitWord f)

/-- The timeout of the word that a core executes, if that is a `WAIT` (R339). -/
def waitTimeoutOf (w : W128) : Option Form :=
  match decode .drover w with
  | .ok (.wait f) => if f.imm = 0 then none else some f
  | _ => none

/-- `WAIT_TIMEOUT` (R339): the cycles of a waiting `WAIT` have passed. -/
def execWaitTimeout (core : Nat) (s : State) : Answer :=
  .next (
    let c := s.core core
    match waitTimeoutOf (mapGet 0 c.code c.pc.toNat) with
    | none => s
    | some f =>
      let a := (c.reg (Form.xa f)).toNat
      if c.running ∧ c.wait = .fetched ∧ !badCounter a ∧ !s.counterMet c.context a (c.reg (Form.xb f)).toNat
      then s.coreResult core f 1 else s)

/-- `EVSIG` (R339): the core's earlier writes are performed, as a core's writes are before its next word (R116, R177); the
counter is changed at the arbiter, and who waits for it sees them (R427). -/
def evsigWord (f : Form) (set : Bool) (n : Nat) (s : State) : State :=
  let c := s.core n
  let a := (c.reg (Form.xa f)).toNat
  let v := (c.reg (Form.xb f)).toNat
  if badCounter a then s.coreFault n fcIllegal
  else s.coreAct n (fun s =>
      ((vnat agentSched c.context a 8).andThen fun old =>
        (vput agentSched c.context a 8 (if set then v else (old + v) % 2 ^ 64)).andThen fun _ => Act.ret old)
        s.schedSees) fun old s =>
      (s.signal c.context a).coreResult n f (BitVec.ofNat 64 old)
/-- `EVSIG.ADD` (R339). -/
def execEvsigAdd (f : Form) (s : State) : Answer := onCore s (evsigWord f false)
/-- `EVSIG.SET` (R339). -/
def execEvsigSet (f : Form) (s : State) : Answer := onCore s (evsigWord f true)

/-- `QPOST` (R339). A handler's stalls while the context drains (R326). -/
def qpostWord (f : Form) (n : Nat) (s : State) : State :=
  let c := s.core n
  let q := (c.reg (Form.xa f)).toNat
  let xb := (c.reg (Form.xb f)).toNat
  if 1024 ≤ q ∨ 0xFFC0 < xb ∨ xb % 16 ≠ 0 then s.coreFault n fcIllegal
  else if s.draining c.context then s
  else if s.qowner q ≠ c.context ∨ s.qstate q = 0 then s.coreResult n f (refusal 2)
  else if s.qused q = s.qlen q then s.coreResult n f (refusal 1)
  else
    let tail := s.qtail q
    s.coreAct n (vwrite (agentD n) c.context (s.qbase q + 64 * (tail % s.qlen q)) (memRead c.dmem xb 64)) fun _ s =>
      ((s.setQfield q 20 4 ((tail + 1) % 2 ^ 32)).ring? q).coreResult n f (BitVec.ofNat 64 tail)
/-- `QPOST` (R339). -/
def execQpost (f : Form) (s : State) : Answer := onCore s (qpostWord f)

/-- A group can take a `LAUNCH` of a context (R339): it is BOUND to it, idle (R347), and has no kernel that has yet to end. -/
def State.mayLaunch (s : State) (c : BitVec 8) (g : Nat) : Bool :=
  let x := s.group g
  x.state == .bound && x.ctx == c && (x.kernel.state == .none || x.kernel.state == .ended || x.kernel.state == .refused)
    && s.groupIdle g && s.signals.all fun m => m.group != some g

/-- `LAUNCH` (R339): the image is loaded onto the group and started. -/
def launchWord (f : Form) (n : Nat) (s : State) : State :=
  let c := s.core n
  let xa := (c.reg (Form.xa f)).toNat
  let xb := (c.reg (Form.xb f)).toNat
  let g := xb % 4096
  let r : QRec := ⟨memNat c.dmem xa 64⟩
  let bad := refusal 2
  if xa % 64 ≠ 0 ∨ 0xFFC0 < xa ∨ 2 ^ 20 ≤ xb then s.coreFault n fcIllegal
  else if (s.ctx c.context.toNat).state.holds then s
  else if s.recordFails c.context r ≠ 0 ∨ r.waddr ≠ 0 then s.coreResult n f bad
  else if xb / 4096 ≠ c.context.toNat ∨ !s.mayLaunch c.context g ∨ s.colourBusy c.context r.lcol then
    s.coreResult n f (refusal 1)
  else if (s.group g).roles < r.shape.roles then s.coreResult n f bad
  else
    match (s.modGroup g fun x => { x with kernel := r.kernel (.core n xa) }).load g r.shape.roles with
    | none => s
    | some (v, s) => if v = 0 then (s.startKernel g).coreResult n f 0 else s.coreResult n f bad
/-- `LAUNCH` (R339). -/
def execLaunch (f : Form) (s : State) : Answer := onCore s (launchWord f)

end Sys2Proof.Machine
end

