-- ==== Sys2Proof/Machine/Page.lean ====
section
/-! DEFINITION. The page (R377 to R386): `MAP`, `UNMAP` and `MIGR`, and the re-latching of stream ports. -/

namespace Sys2Proof.Machine

open Sys2Proof

/-! ## Entries (R370, R371) -/

/-- What a walk to an entry of a level finds (R384). -/
inductive WalkTo where
  | entry (e epa : Nat)
  | mapped
  | noTable
  | bad
  deriving DecidableEq, Repr

/-- Walk to the entry of an address at a level, over the levels that remain. -/
def walkToGo (m : FMap Byte) (gone : Nat → Bool) (va : Nat) : Nat → Nat → Nat → WalkTo
  | 0, lvl, table =>
    let epa := table + 8 * (va / regionSize lvl % 1024)
    let e := memNat m epa 8
    if gone epa || (bitOf e 0 && entryBad lvl e) then .bad else .entry e epa
  | n + 1, lvl, table =>
    let epa := table + 8 * (va / regionSize lvl % 1024)
    let e := memNat m epa 8
    if gone epa then .bad
    else if !bitOf e 0 then .noTable
    else if entryBad lvl e then .bad
    else if bitOf e 1 then .mapped
    else walkToGo m gone va n (lvl + 1) (bitsOf e 13 39 * 8192)

/-- Walk to the entry of an address at a level in a context's table. -/
def State.walkTo (s : State) (c : BitVec 8) (va lvl : Nat) : WalkTo :=
  let root := ((s.ctx c.toNat).reg 0x102).toNat
  if root ≠ bitsOf root 13 39 * 8192 then .bad else walkToGo s.mem s.stackFailed va lvl 0 root

/-- Write bytes of physical memory on path D; what lies where no memory is mapped is not written. -/
def State.physWrites (s : State) (c : BitVec 8) (pa : Nat) (bs : List Byte) : State :=
  (bs.zip (List.range bs.length)).foldl (fun s b => s.physPut agentSched c (pa + b.2) b.1) s

/-- Write an entry (R378). -/
def State.setEntry (s : State) (c : BitVec 8) (epa e : Nat) : State := s.physWrites c epa (toBytes e 8)

/-- A range of physical memory is as it was last written, for every path. -/
def State.showPhys (s : State) (pa n : Nat) : State :=
  { s with stale := s.stale.filter fun e => e.loc < pa || pa + n ≤ e.loc }

/-- Another core's `UNMAP` or `MIGR` of a range is under way (R378). -/
def State.pageBusy (s : State) (n : Nat) (c : BitVec 8) (lo size : Nat) : Bool :=
  s.cores.any fun kv =>
    let w := (mapGet 0 kv.2.code kv.2.pc.toNat).toNat
    let f := wordForm (BitVec.ofNat 128 w)
    let va := (kv.2.reg (Form.xa f)).toNat
    kv.1 != n && kv.2.context == c && (bitsOf w 120 8 == 0xF7 || bitsOf w 120 8 == 0xF8) && lo ≤ va && va < lo + size
      && (match kv.2.wait with | .reply _ | .late _ => true | _ => false)

/-! ## `MAP` (R384) -/

/-- What waits for a page goes on (R155, R175, R200, R322, R333, R384). -/
def State.pageMapped (s : State) (c : BitVec 8) (lo size : Nat) : State :=
  let s := s.releaseParked c lo size
  let units := s.parked.filter fun q => s.parkedCtx q.1 == c && lo ≤ q.2 && q.2 < lo + size
  let s := units.foldl (fun s q => match q.1 with
    | .stream t p => s.modPort t p fun x => { x with depositing := false }
    | _ => s) { s with parked := s.parked.filter fun q => !units.contains q }
  let s := (s.mapPorts fun x => x.mapped c lo size).retryDraws c.toNat
  let qs := (s.qinfo.filter fun kv => s.qowner kv.1 == c && (match kv.2.absent with
    | some a => lo ≤ a && a < lo + size
    | none => false)).map (·.1)
  qs.foldl (fun s q => s.testQueue q) s

/-- The end of `MAP`: the entry is written at device scope, and the parked requests are released. -/
def State.mapEntry (s : State) (n : Nat) (f : Form) (lvl epa e : Nat) : State :=
  let c := (s.core n).context
  let va := ((s.core n).reg (Form.xa f)).toNat
  let s := (s.setEntry c epa e).xfence c (2 ^ pathD) 0x1FF 3 (16384 + n)
  (s.pageMapped c (va / regionSize lvl * regionSize lvl) (regionSize lvl)).coreResult n f (BitVec.ofNat 64 e)

/-- The checks of `MAP` up to the entry (R384), then its act on the absent entry, once the entry can be reached (R388,
R395). -/
def mapWord (f : Form) (n lvl : Nat) (bad : Bool) (go : Nat → State → State) (s : State) : State :=
  let c := s.core n
  let va := (c.reg (Form.xa f)).toNat
  if 2 ^ 56 ≤ va ∨ bad then s.coreFault n fcIllegal
  else if s.pageBusy n c.context (va / regionSize lvl * regionSize lvl) (regionSize lvl) then s
  else match s.walkTo c.context va lvl with
    | .bad => s.coreFault n fcPageBad none (some (BitVec.ofNat 64 va))
    | .mapped => s.coreResult n f (refusal 1)
    | .noTable => s.coreResult n f (refusal 3)
    | .entry e epa =>
      if bitOf e 0 then s.coreResult n f (refusal 1)
      else if !s.reachesAll (agentD n) epa 8 then s
      else go epa s

/-- An entry image that `MAP.PA` refuses: a table entry when `TBL`, else a leaf, V 1, D and MIG 0 (R384). -/
def badImage (lvl e : Nat) (tbl : Bool) : Bool :=
  bitOf e 1 == tbl || !bitOf e 0 || bitOf e 5 || bitOf e 7 || entryBad lvl e

/-- `MAP.PA` (R384). -/
def mapPaWord (f : Form) (n : Nat) (s : State) : State :=
  let c := s.core n
  let lvl := f.imm.toNat % 4
  let tbl := bitOf f.imm.toNat 2
  let e := (c.reg (Form.xb f)).toNat
  if !c.priv then s.coreFault n fcPriv
  else mapWord f n lvl (8 ≤ f.imm.toNat || (!tbl && lvl == 0) || (tbl && lvl == 3)) (fun epa s =>
    if badImage lvl e tbl then s.coreFault n fcIllegal
    else if tbl && !s.reachesAll (agentD n) (bitsOf e 13 39 * 8192) 8192 then s
    else
      let s := if tbl then s.physWrites c.context (bitsOf e 13 39 * 8192) (List.replicate 8192 0) else s
      s.mapEntry n f lvl epa e) s
/-- `MAP.PA` (R384). -/
def execMapPa (f : Form) (s : State) : Answer := onCore s (mapPaWord f)

/-- The leaf that a frame takes (R384). -/
def frameLeaf (xb frame : Nat) : Nat := xb % 2 ^ 16 + xb / 2 ^ 52 * 2 ^ 52 + 3 + frame * 2 ^ 16

/-- `MAP.ZERO` and `MAP.COPY` take a frame from the pool and fill it, encrypted by its leaf (R382, R384). -/
def takeFrame (f : Form) (n epa : Nat) (bs : List Byte) (s : State) : State :=
  let c := s.core n
  let x := s.ctx c.context.toNat
  let va := (c.reg (Form.xa f)).toNat / 65536 * 65536
  let cnt := (x.reg 0x11F).toNat
  if cnt = 0 then s.coreResult n f (refusal 4)
  else
    let e := frameLeaf (c.reg (Form.xb f)).toNat (memNat s.mem ((x.reg 0x11E).toNat + 4 * (cnt - 1)) 4)
    s.coreAct n (fun s => (s.checkLeaf c.context ⟨e, 3, epa⟩ va false false).map fun p => (p, s)) fun p s =>
      if !s.reachesAll (agentD n) (p.pa va) 65536 || !s.reachesAll (agentD n) ((x.reg 0x11E).toNat + 4 * (cnt - 1)) 4 then s
      else
      let s := s.modCtx c.context.toNat fun x => x.setReg 0x11F (BitVec.ofNat 64 (cnt - 1))
      (s.physWrites c.context (p.pa va) ((bs.zip (List.range bs.length)).map fun b =>
        b.1 ^^^ (s.keyByte (agentD n) c.context p (va + b.2)).1)).mapEntry n f 3 epa e

/-- `MAP.ZERO` and `MAP.COPY`: the entry image holds R, W, ENC and BUF only. -/
def badFrameImage (xb : Nat) : Bool := xb % 2 ^ 52 / 2 ^ 7 != 0 || bitOf xb 5 || xb % 8 != 0

/-- `MAP.ZERO` (R384). -/
def execMapZero (f : Form) (s : State) : Answer :=
  onCore s fun n s => mapWord f n 3 (f.imm != 0) (fun epa s =>
    if badFrameImage ((s.core n).reg (Form.xb f)).toNat then s.coreFault n fcIllegal
    else takeFrame f n epa (List.replicate 65536 0) s) s

/-- `MAP.COPY` (R384): the page of `xc` is read through this table. -/
def execMapCopy (f : Form) (s : State) : Answer :=
  onCore s fun n s => mapWord f n 3 (f.imm != 0) (fun epa s =>
    let c := s.core n
    if badFrameImage (c.reg (Form.xb f)).toNat then s.coreFault n fcIllegal
    else s.coreAct n (vread (agentD n) c.context ((c.reg (Form.xc f)).toNat / 65536 * 65536) 65536) fun bs s =>
      takeFrame f n epa bs s) s

/-! ## Re-latching (R379) -/

/-- The physical address of a leaf's page. -/
def leafPa (e : Nat) : Nat := bitsOf e 16 36 * 65536

/-- The value of a `RELATCH` token: the page base and its size. -/
def relatchValue (lo lvl : Nat) : W64 := BitVec.ofNat 64 (lo + (3 - lvl) * 2 ^ 61)

/-- Re-latch a page (R379): every port of the context that holds a latch of it gets a token; a DONE port drops the
latch at once. -/
def State.relatchPage (s : State) (c : BitVec 8) (lo lvl : Nat) : State :=
  let size := regionSize lvl
  let meets := fun (l : Latch) => l.va < lo + size && lo < l.va + l.size
  let ports := s.tiles.flatMap fun kv =>
    if s.ownsTile c.toNat kv.2 then (kv.2.ports.filter fun q => q.2.latches.any meets).map fun q => (kv.1, q.1) else []
  ports.foldl (fun s q =>
    let tok : Token := { kind := .relatch, value := relatchValue lo lvl, tag := s.launchTag q.1, ctx := c }
    match (s.port q.1 q.2).state with
    | .done => (s.modPort q.1 q.2 fun x => { x with latches := x.latches.filter fun l => !meets l }).forwardRelatch q.1 q.2 tok
    | .idle => s
    | _ => s.modPort q.1 q.2 fun x => { x with relatch := x.relatch ++ [tok] }) s

/-- A write translated through the leaf of an entry, or any access translated through a leaf with a physical address, is not
performed (R386). -/
def State.accessingOld (s : State) (c : BitVec 8) (epa pa : Nat) (writes : Bool) : Bool :=
  s.reqs.any fun m => m.req.ctx == c && m.width != 0 && m.epa == epa && leafPa m.leaf == pa
    && (m.state == .held || m.state == .performing) && (!writes || writesMemory m.req.instr)

/-- A `RELATCH` of a page has not emerged. -/
def State.relatching (s : State) (c : BitVec 8) (v : W64) : Bool :=
  s.tiles.any fun kv => kv.2.ports.any fun q => q.2.req.ctx == c && q.2.relatch.any fun tok => tok.value == v

/-- An access translated through an entry is not performed. -/
def State.accessing (s : State) (c : BitVec 8) (epa : Nat) : Bool :=
  s.reqs.any fun m => m.req.ctx == c && m.width != 0 && m.epa == epa && (m.state == .held || m.state == .performing)

/-! ## `UNMAP` (R385) -/

/-- The checks of `UNMAP` and `MIGR` up to the leaf, then their act on it (R378, R385, R386); they wait for an operation on
the page that another core has under way. -/
def leafWord (f : Form) (n : Nat) (go : Page → State → State) (s : State) : State :=
  let c := s.core n
  let va := (c.reg (Form.xa f)).toNat
  let busy := fun (lvl : Nat) => s.pageBusy n c.context (va / regionSize lvl * regionSize lvl) (regionSize lvl)
  if 2 ^ 56 ≤ va then s.coreFault n fcIllegal
  else match s.walk c.context va with
    | .bad => s.coreFault n fcPageBad none (some (BitVec.ofNat 64 va))
    | .absent lvl _ => if busy lvl then s else s.coreResult n f (refusal 1)
    | .leaf e lvl epa => if busy lvl then s else go ⟨e, lvl, epa⟩ s

/-- The level and the entry of a page whose `UNMAP` is under way: the absent entry of the address. -/
def State.unmapped (s : State) (c : BitVec 8) (va : Nat) : Nat × Nat :=
  match s.walk c va with
  | .absent lvl epa => (lvl, epa)
  | .leaf _ lvl epa => (lvl, epa)
  | .bad => (3, 0)

/-- `UNMAP` (R385): V := 0; when the accesses through the old leaf are performed, the ports re-latch; and it completes when
every `RELATCH` has emerged. -/
def unmapWord (f : Form) (n : Nat) (s : State) : State :=
  let c := s.core n
  let va := (c.reg (Form.xa f)).toNat
  let (lvl, epa) := s.unmapped c.context va
  let lo := va / regionSize lvl * regionSize lvl
  match c.wait with
  | .late old => if s.relatching c.context (relatchValue lo lvl) then s else s.coreResult n f old
  | .reply old =>
    if s.accessing c.context epa then s
    else (s.relatchPage c.context lo lvl).modCore n fun c => { c with wait := .late old }
  | _ => leafWord f n (fun p s =>
      if !s.reachesAll (agentD n) p.epa 8 then s
      else (s.setEntry c.context p.epa (p.e - 1)).modCore n fun c => { c with wait := .reply (BitVec.ofNat 64 p.e) }) s
/-- `UNMAP` (R385). -/
def execUnmap (f : Form) (s : State) : Answer := onCore s (unmapWord f)

/-- `UNMAP.DCLR` (R385): it waits for the accesses through the leaf, then D := 0. -/
def unmapDclrWord (f : Form) (n : Nat) (s : State) : State :=
  leafWord f n (fun p s =>
    let c := (s.core n).context
    if s.accessing c p.epa || !s.reachesAll (agentD n) p.epa 8 then s
    else (s.setEntry c p.epa (if bitOf p.e 5 then p.e - 32 else p.e)).coreResult n f (BitVec.ofNat 64 p.e)) s
/-- `UNMAP.DCLR` (R385). -/
def execUnmapDclr (f : Form) (s : State) : Answer := onCore s (unmapDclrWord f)

/-! ## `MIGR` (R386) -/

/-- Copy what a map holds of `n` places from `a` on to those from `b` on; where `gone` holds nothing is written. -/
def copyRange {α : Type} [DecidableEq α] (d : α) (gone : Nat → Bool) (m : FMap α) (a b n : Nat) : FMap α :=
  let src := m.filter fun kv => a ≤ kv.1 && kv.1 < a + n && !gone (kv.1 - a + b)
  src.foldl (fun m kv => mapSet d m (kv.1 - a + b) kv.2) (m.filter fun kv => kv.1 < b || b + n ≤ kv.1 || gone kv.1)

/-- Copy the stored bytes of a frame (R386); a line that is uncorrectable is so at its new place (DESIGN CHOICE, log 134). -/
def State.copyFrame (s : State) (a b n : Nat) : State :=
  { s with
    mem := copyRange 0 s.unmappable s.mem a b n
    badLines := copyRange false (fun _ => false) s.badLines (a / 64) (b / 64) (n / 64) }

/-- An entry with another physical address, and MIG 0. -/
def withPa (e pa : Nat) : Nat :=
  (if bitOf e 7 then e - 128 else e) % 2 ^ 16 + bitsOf e 52 12 * 2 ^ 52 + bitsOf pa 16 36 * 2 ^ 16

/-- `MIGR` starts (R386): MIG := 1, and the ports re-latch; one that a save interrupted starts again (R328). -/
def migrStart (f : Form) (n : Nat) (p : Page) (s : State) : State :=
  let c := s.core n
  let va := (c.reg (Form.xa f)).toNat
  let xb := (c.reg (Form.xb f)).toNat
  if p.tgt ≠ 0 ∨ withPa p.e 0 ≠ withPa xb 0 ∨ entryBad p.lvl xb ∨ bitOf xb 7 then s.coreFault n fcIllegal
  else if !s.reachesAll (agentD n) p.epa 8 then s
  else
    let s := (s.setEntry c.context p.epa (if bitOf p.e 7 then p.e else p.e + 128)).relatchPage c.context (va / regionSize p.lvl * regionSize p.lvl) p.lvl
    s.modCore n fun c => { c with wait := .reply (BitVec.ofNat 64 p.e) }

/-- `MIGR` goes on (R386): the copy and the new entry once every write through the old leaf is performed and both frames are
reached. -/
def migrCopy (n va xb : Nat) (old : W64) (s : State) : State :=
  let c := (s.core n).context
  match s.walk c va with
  | .leaf e lvl epa =>
    let unreached := fun (pa n' : Nat) => !s.reachesAll (agentD n) pa n'
    if s.accessingOld c epa (leafPa old.toNat) true || unreached (leafPa e) (regionSize lvl) || unreached (leafPa xb) (regionSize lvl)
        || unreached epa 8 then s
    else
      (((s.copyFrame (leafPa e) (leafPa xb) (regionSize lvl)).showPhys (leafPa xb) (regionSize lvl)).setEntry
        c epa (withPa e (leafPa xb))).modCore n fun c => { c with wait := .late old }
  | _ => s.modCore n fun c => { c with wait := .late old }

/-- `MIGR` ends (R386): every access through the old leaf is performed, and every `RELATCH` has emerged. -/
def migrEnd (f : Form) (n va : Nat) (old : W64) (s : State) : State :=
  let c := (s.core n).context
  let (lvl, epa) := s.unmapped c va
  if s.accessingOld c epa (leafPa old.toNat) false || s.relatching c (relatchValue (va / regionSize lvl * regionSize lvl) lvl)
  then s else s.coreResult n f old

/-- `MIGR` (R386). -/
def migrWord (f : Form) (n : Nat) (s : State) : State :=
  let c := s.core n
  if !c.priv then s.coreFault n fcPriv
  else match c.wait with
  | .reply old => migrCopy n (c.reg (Form.xa f)).toNat (c.reg (Form.xb f)).toNat old s
  | .late old => migrEnd f n (c.reg (Form.xa f)).toNat old s
  | _ => leafWord f n (migrStart f n) s
/-- `MIGR` (R386). -/
def execMigr (f : Form) (s : State) : Answer := onCore s (migrWord f)

end Sys2Proof.Machine
end

