-- ==== Sys2Proof/Machine/System.lean ====
section
/-! DEFINITION. `SYSWR` (R118, R119, R125, R317). -/

namespace Sys2Proof.Machine

open Sys2Proof

/-- A write of a core's own system register (R118, R119): RO registers ignore it, and a field holds its width. -/
def Core.sysWrite (c : Core) (a : Nat) (v : W64) : Core :=
  match a with
  | 0x000 => { c with status := (c.status &&& 0xA#64) ||| (v &&& 5#64) }
  | 0x001 => { c with flags := c.flags &&& ~~~(v.setWidth _) }
  | 0x002 => { c with epc := v &&& 0xFFF#64 }
  | 0x004 => { c with evec := v &&& 0xFFF#64 }
  | 0x008 => { c with ctxid := v &&& 0xFF#64 }
  | 0x014 => { c with bkctl := v &&& 0x1F#64 }
  | a => if 0x010 ≤ a ∧ a ≤ 0x013 then { c with bkpc := mapSet 0 c.bkpc (a - 0x010) (v &&& 0xFFF#64) } else c

/-- A register that user mode may not write (R118). -/
def controlRegister (a : Nat) : Bool := a == 0x000 || a == 0x002 || a == 0x004 || a == 0x008

/-- A register of a core exists at an address (R118). -/
def coreRegister (a : Nat) : Bool := a ≤ 0x00A || (0x010 ≤ a && a ≤ 0x014)

/-- A context register marked RW (B): writable only while the context is BUILDING (R317). -/
def buildRegister (a : Nat) : Bool :=
  (0x102 ≤ a && a ≤ 0x107) || a == 0x10A || a == 0x10B || a == 0x10E || a == 0x10F || (0x112 ≤ a && a ≤ 0x117)

/-- A context register that holds a virtual address (R317). -/
def addressRegister (a : Nat) : Bool :=
  [0x104, 0x105, 0x107, 0x10A, 0x10E, 0x112, 0x114, 0x116, 0x117].contains a

/-- A value that a context register refuses (R317). -/
def badValue (a v : Nat) : Bool :=
  (addressRegister a && (v % 16 != 0 || 2 ^ 56 ≤ v))
    || (a == 0x102 && v != bitsOf v 13 39 * 8192)
    || (a == 0x11E && (v % 4 != 0 || 2 ^ 52 ≤ v))
    || (a == 0x118 && v != v % 2 ^ 8 + bitsOf v 16 12 * 2 ^ 16 + bitsOf v 31 1 * 2 ^ 31)
    || (a == 0x103 && 256 ≤ v)

/-- A context register that ignores a write (R6). -/
def readOnlyRegister (a : Nat) : Bool := a == 0x109 || a == 0x10D || a == 0x111

/-- What a control-mode write of a context register does (R317): the state, or the `AUX` of its `ILLEGAL`. -/
def State.contextWrite (s : State) (c a : Nat) (v : W64) : Except (Option W64) State :=
  let x := s.ctx c
  if a = 0x100 then .ok (if v.getLsbD 11 then s.setCtx c { x with drovf := false } else s)
  else if a = 0x101 then s.ccmd c v.toNat
  else if a = 0x11C then
    (if v.toNat % 16 ≠ 0 ∨ 2 ^ 56 ≤ v.toNat then .error none else .ok (s.failPage (BitVec.ofNat 8 c) v.toNat))
  else if a = 0x11D then .ok (s.doorbell v.toNat)
  else if readOnlyRegister a then .ok s
  else if (buildRegister a ∧ x.state ≠ .building) ∨ badValue a v.toNat then .error none
  else if a = 0x108 then (match s.raiseSerain c v with | some s => .ok s | none => .error none)
  else if a = 0x10C ∨ a = 0x110 then .ok (s.setCtx c (x.setReg a (BitVec.ofNat 64 (v.toNat % 2 ^ 32))))
  else .ok (s.setCtx c (x.setReg a v))

/-- `SYSWR` (R125, R317). -/
def syswrWord (f : Form) (n : Nat) (s : State) : State :=
  let c := s.core n
  let a := f.imm.toNat % 4096
  let v := c.reg (Form.xa f)
  if coreRegister a then
    (if controlRegister a ∧ !c.priv then s.coreFault n fcPriv else (s.setCore n (c.sysWrite a v)).coreDone n)
  else if 0x100 ≤ a ∧ a ≤ 0x11F then
    (if !c.priv then s.coreFault n fcPriv
     else match s.contextWrite c.context.toNat a v with
      | .ok s => s.coreDone n
      | .error aux => s.coreFault n fcIllegal aux)
  else s.coreFault n fcIllegal
/-- `SYSWR` (R125). -/
def execSyswr (f : Form) (s : State) : Answer := onCore s (syswrWord f)

end Sys2Proof.Machine
end

