-- ==== Sys2Proof/Machine/Link.lean ====
section
/-! DEFINITION. The link (R387 to R402): link states, host and peer accesses, memory lanes and refresh, and
chain reductions. -/

namespace Sys2Proof.Machine

open Sys2Proof

/-! ## Links (R387 to R390) -/

/-- Replace a link. -/
def State.setLink (s : State) (l : Nat) (x : Link) : State := { s with links := mapSet {} s.links l x }
/-- Counters of a link saturate (R401). -/
def saturate16 (n : Nat) : Nat := min n 65535

/-- An absent address belongs to the link that its entry still names (R390; DEDUCED, log 126). -/
def State.absentOn (s : State) (l : Nat) (c : BitVec 8) (va : Nat) : Bool :=
  match s.walk c va with
  | .absent _ epa => bitOf (memNat s.mem epa 8) 1 && leafLink (memNat s.mem epa 8) == some l
  | _ => false

/-- A request goes to a window of a link (R390). -/
def State.onLink (s : State) (l : Nat) (m : MemReq) : Bool :=
  m.width != 0 && (match m.state with
    | .held | .performing => leafLink m.leaf == some l
    | .translating => (match s.walk m.req.ctx m.va with | .leaf e _ _ => leafLink e == some l | _ => false)
    | .parked => s.absentOn l m.req.ctx m.va)

/-- `LINK_DOWN` in a context (R389, R390). -/
def State.linkFault (s : State) (l : Nat) (c : BitVec 8) : State :=
  s.record { code := fcLinkDown, ukind := 3, unit := unitDie ((linkDies l).headD 0) (160 + l), ctx := c
             aux := some (BitVec.ofNat 64 l) }

/-- The requests on a link reply `ERR` 0x30 (R390). -/
def failOnLink (l : Nat) : Nat → State → State
  | 0, s => s
  | n + 1, s =>
    let k := s.reqs.findIdx (s.onLink l)
    match s.reqs[k]? with
    | none => s
    | some m => failOnLink l n (s.endErr k m fcLinkDown)

/-- Some page of an address range lies in a window of a link, present or absent. -/
def rangeOnLink (s : State) (l : Nat) (c : BitVec 8) (hi : Nat) : Nat → Nat → Bool
  | 0, _ => false
  | n + 1, a =>
    if hi ≤ a then false
    else match s.walk c a with
      | .leaf e lvl _ => leafLink e == some l || rangeOnLink s l c hi n (a / regionSize lvl * regionSize lvl + regionSize lvl)
      | .absent lvl _ => s.absentOn l c a || rangeOnLink s l c hi n (a / regionSize lvl * regionSize lvl + regionSize lvl)
      | .bad => rangeOnLink s l c hi n (a / 65536 * 65536 + 65536)

/-- A stream goes through a window of a link: a latch of a `STRM` lies there, or a page of the window of a `GTHR` or `SCAT`,
which latches none (R208). -/
def State.streamOnLink (s : State) (l : Nat) (x : Port) : Bool :=
  x.open && (x.latches.any (fun p => leafLink p.leaf.toNat == some l)
    || (opcodeOf x.req.instr != 0xA0 && rangeOnLink s l x.req.ctx (x.base + x.wb.wlen) (x.wb.wlen / 65536 + 2) x.base))

/-- The units whose head is a request that is parked on a window of a link (R390). -/
def State.unitsOnLink (s : State) (l : Nat) : List (Engine × Nat) :=
  s.parked.filter fun q => (match q.1 with | .stream _ _ => false | _ => true) && s.absentOn l (s.parkedCtx q.1) q.2

/-- The pages of a link's windows that rows of a port are parked on: tile, port and address. -/
def State.rowsOnLink (s : State) (l : Nat) : List (Nat × Nat × Nat) :=
  s.tiles.flatMap fun kv => kv.2.ports.flatMap fun q =>
    ((q.2.rowWait.map fun w => w.2 - 1).filter fun va => s.absentOn l q.2.req.ctx va).map fun va => (kv.1, q.1, va)

/-- The contexts that a link which goes down concerns (R390): those with requests on it, and those whose streams go
through it. -/
def State.linkUsers (s : State) (l : Nat) : List (BitVec 8) :=
  (((s.reqs.filter (s.onLink l)).map fun m => m.req.ctx) ++ ((s.unitsOnLink l).map fun q => s.parkedCtx q.1) ++
    s.tiles.flatMap fun kv => (kv.2.ports.filter fun q => s.streamOnLink l q.2).map fun q => q.2.req.ctx).eraseDups

/-- What is parked on a window of a link at a unit or at a port replies `ERR` 0x30 (R390). -/
def State.failParked (s : State) (l : Nat) : State :=
  let s' := (s.unitsOnLink l).foldl (fun s q => s.failUnit q.1 q.2 1 fcLinkDown) s
  (s.rowsOnLink l).foldl (fun s q =>
    let (lo, size) := s.pageRange (s.port q.1 q.2.1).req.ctx q.2.2
    s.failRows q.1 q.2.1 lo size fcLinkDown) s'

/-- The adders of a link that leaves UP end failed (R399). -/
def State.adderStops (s : State) (l : Nat) : State := s.failAdders fun a => a.inn == l || a.out == l

/-- A link has left UP for DOWN or FAILED (R390): its requests and its adders fail. -/
def State.linkLeft (s : State) (l : Nat) : State :=
  ((s.linkUsers l).foldl (fun s c => s.linkFault l c) ((failOnLink l s.reqs.length s).failParked l)).adderStops l

/-- A context works: a fault of the whole device moves it to FAULTED (R320, R389). -/
def Ctx.works (x : Ctx) : Bool := x.state == .ready || x.state == .running || x.state == .draining

/-- A context that works goes to FAULTED, and its elements quiesce (R320, R389). -/
def State.toFaulted (s : State) (c : Nat) : State :=
  if (s.ctx c).works then
    (s.modCtx c fun x => { x with state := .faulted, bySched := none, saving := x.saving.map fun _ => true }).mapElems c Element.quiesce
  else s

/-- A die edge fails in service (R389): every context that works and has a group on tiles or a request in flight is
FAULTED, with `LINK_DOWN`. -/
def State.edgeLost (s : State) (l : Nat) : State :=
  let placed := fun (c : BitVec 8) => s.groups.any fun kv => kv.2.ctx == c && (kv.2.state == .bound || kv.2.state == .running)
  let cs := (s.ctxs.map fun kv => kv.1).filter fun c =>
    (s.ctx c).works && (placed (BitVec.ofNat 8 c) || s.inFlight (BitVec.ofNat 8 c))
  (cs.foldl (fun s c => (s.linkFault l (BitVec.ofNat 8 c)).toFaulted c) s).adderStops l

/-- A link goes to DOWN or FAILED (R388). From UP and RETRAINING its traffic fails (R389, R390); from TRAINING the table
gives it no effect, and what waits for the link waits on (DEDUCED, log 126). -/
def State.dropLink (s : State) (l : Nat) (next : LinkState) : State :=
  let x := s.link l
  if x.state = .up ∨ x.state = .retraining then
    let s := s.setLink l { x with state := next, left := none }
    if 9 ≤ l then s.edgeLost l else s.linkLeft l
  else s.setLink l { x with state := next }

/-- A link that is UP trains again (R388): its traffic waits, and its adders end failed (R399). -/
def State.leaveUp (s : State) (l : Nat) (x : Link) (next : LinkState) : State :=
  (s.setLink l { x with state := next, left := some s.tick }).adderStops l

/-- An event of links 0 to 12 (R388). -/
def linkEvent (l : Nat) (go : Link → State → State) (s : State) : State := if l ≤ 12 then go (s.link l) s else s

/-- `LINK_TRAINED` (R388). -/
def execLinkTrained (link : Nat) (s : State) : Answer :=
  .next (linkEvent link (fun x s => if x.state = .training then s.setLink link { x with state := .up, left := none } else s) s)
/-- `LINK_TRAIN_FAILED` (R388): a training or a retraining has failed. -/
def execLinkTrainFailed (link : Nat) (s : State) : Answer :=
  .next (linkEvent link (fun x s =>
    if x.state = .training ∨ x.state = .retraining then s.dropLink link .failed else s) s)
/-- `FLIT_REPLAY` (R388). -/
def execFlitReplay (link : Nat) (s : State) : Answer :=
  .next (linkEvent link (fun x s =>
    if x.state = .up then s.setLink link { x with replay := saturate16 (x.replay + 1) } else s) s)
/-- A link retrains: its traffic waits (R388). -/
def State.retrain (s : State) (l : Nat) : State :=
  linkEvent l (fun x s =>
    if x.state = .up then s.leaveUp l { x with retrain := saturate16 (x.retrain + 1) } .retraining else s) s
/-- `REPLAY_FAILED` (R388). -/
def execReplayFailed (link : Nat) (s : State) : Answer := .next (s.retrain link)
/-- `RETRAIN_DONE` (R388). -/
def execRetrainDone (link : Nat) (s : State) : Answer :=
  .next (linkEvent link (fun x s => if x.state = .retraining then s.setLink link { x with state := .up, left := none } else s) s)
/-- `LINK_RECALIBRATION` (R410): background recalibration runs as a retrain. -/
def execLinkRecalibration (link : Nat) (s : State) : Answer := .next (s.retrain link)

/-! ## Host and peer accesses (R391, R392) -/

/-- Write bytes of device memory on a path from outside. -/
def outsideWrite (a : Agent) : Nat → List Byte → State → State
  | _, [], s => s
  | pa, b :: bs, s =>
    outsideWrite a (pa + 1) bs (if pa < 2 ^ 39 ∧ !s.stackFailed pa then s.physWrite a 0 pa b else s)

/-- Read bytes of device memory on a path from outside: what is seen is not seen older again. -/
def outsideRead (a : Agent) : Nat → Nat → State → List Byte × State
  | _, 0, s => ([], s)
  | pa, n + 1, s =>
    let (b, s) := s.readVisible a pa (s.outsideByte pa)
    let (bs, s) := outsideRead a (pa + 1) n s
    (b :: bs, s)

/-- An access of device memory from outside; it waits while a byte of it is not reached (R388, R395). -/
def outsideAccess (path die : Nat) (a : Access) (s : State) : State :=
  let who : Agent := ⟨path, 32768 + die⟩
  if !s.reachesAll who a.addr a.size then s
  else if a.write then outsideWrite who a.addr (toBytes a.data a.size) s else (outsideRead who a.addr a.size s).2

/-- `HOST_ACCESS` (R391): a doorbell through BAR0, or device memory through BAR2 on path H. -/
def execHostAccess (access : Access) (s : State) : Answer :=
  .next (
    if (s.link 8).state ≠ .up then s
    else if access.bar = 0 then
      (if access.write ∧ access.addr = 0 ∧ access.size = 8 then s.doorbell (access.data % 2 ^ 64) else s)
    else if access.bar = 2 ∧ access.size ≤ (if access.write then 512 else 4096) then outsideAccess pathH 0 access s
    else s)

/-- `PEER_ACCESS` (R392): an access inside the link's aperture, on path P. -/
def execPeerAccess (access : Access) (s : State) : Answer :=
  .next (
    let (base, size) := mapGet (0, 0) s.apertures access.link
    if access.link < 8 ∧ (s.link access.link).state = .up ∧ base ≤ access.addr ∧ access.addr + access.size ≤ base + size
    then outsideAccess pathP (access.link / 2) access s else s)

/-! ## Memory lanes and refresh (R394 to R396) -/

/-- A pseudo-channel: stack * 64 + channel. -/
def State.lane (s : State) (k : Nat) : Lane := mapGet {} s.lanes k
/-- Replace a pseudo-channel. -/
def State.setLane (s : State) (k : Nat) (x : Lane) : State := { s with lanes := mapSet {} s.lanes k x }
/-- The lanes of a stack have retrained once more (R401). -/
def State.laneRetrained (s : State) (k : Nat) : State :=
  let l := 0x40 + k / 64
  s.setLink l { s.link l with retrain := saturate16 ((s.link l).retrain + 1) }

/-- The pseudo-channel of an address of a context's main memory. -/
def State.channelOfVa (s : State) (c : BitVec 8) (va : Nat) : Option Nat :=
  match s.walk c va with
  | .leaf e lvl epa => if (Page.mk e lvl epa).tgt = 0 then some (channelAt ((Page.mk e lvl epa).pa va)) else none
  | _ => none

/-- The word of a core that runs is an `LD`, `ST` or `ATOM` to a pseudo-channel. -/
def State.coreAsks (s : State) (k n : Nat) : Bool :=
  let c := s.core n
  c.running && (match s.fetchCheck n with
    | .ok i => (readsMemory i || writesMemory i)
        && s.channelOfVa c.context (alignTo (accessWidth i) (withOffset (formOf i) (c.reg (Form.xa (formOf i)))).toNat) == some k
    | .error _ => false)

/-- A request waits for a pseudo-channel (R395): an element's, a core's, or another access, such as one of a unit, of the
scheduler, of the host or of a peer, which is open (DESIGN CHOICE, log 128). -/
def State.channelAsked (s : State) (k : Nat) : Bool :=
  s.reqs.any (fun m => m.state == .performing && m.channel == some k) || s.cores.any (fun kv => s.coreAsks k kv.1)
    || Config.unitAsks s.tick k

/-- `LANE_LEND` (R395): a channel without a request lends its lanes to a neighbour that has requests waiting. -/
def execLaneLend (pc : Nat) (s : State) : Answer :=
  .next (let x := s.lane pc
    if pc < 512 ∧ x.state = .own ∧ x.lend ∧ (s.lane (neighbour pc)).state = .own ∧ !s.channelAsked pc
        ∧ s.channelAsked (neighbour pc)
    then s.setLane pc { x with state := .lending } else s)
/-- `LANE_RECLAIM` (R395): a request for a LENT channel takes its lanes back. -/
def execLaneReclaim (pc : Nat) (s : State) : Answer :=
  .next (let x := s.lane pc
    if pc < 512 ∧ x.state = .lent ∧ s.channelAsked pc then s.setLane pc { x with state := .reclaiming } else s)

/-- The ratio changes that wait are made, in their order. -/
def Lane.change (x : Lane) : Lane :=
  { x.wants.foldl (fun (x : Lane) w => { x with ratio := w.2.1, lend := w.2.2 }) x with wants := [] }

/-- A handshake is over (R395): the ratio changes that wait go on. -/
def Lane.shaken (x : Lane) : Lane :=
  match x.state with
  | .lending => { x with state := if x.wants = [] then .lent else .reclaiming }
  | .reclaiming => { x.change with state := .own }
  | _ => x
/-- `LANE_HANDSHAKE_DONE` (R395). -/
def execLaneHandshakeDone (pc : Nat) (s : State) : Answer :=
  .next (let x := s.lane pc
    if pc < 512 ∧ (x.state = .lending ∨ x.state = .reclaiming) then (s.setLane pc x.shaken).laneRetrained pc else s)

/-- `LNKCFG.RATIO` of a core at a channel (R394, R395): an OWN channel changes its ratio; a LENT one is reclaimed, and then
changes; at the others it waits. -/
def Lane.ask (n r : Nat) (l : Bool) (x : Lane) : Lane :=
  let x := { x with wants := x.wants ++ [(n, r, l)] }
  match x.state with
  | .own => x.change
  | .lent => { x with state := .reclaiming }
  | _ => x
/-- No ratio change of a core waits at a channel. -/
def Lane.settled (n : Nat) (x : Lane) : Bool := x.wants.all fun w => w.1 != n

/-- `REFRESH_DUE` (R396): it is postponed while the bank is busy and fewer than 8 are; else it is issued. -/
def execRefreshDue (pc bank : Nat) (s : State) : Answer :=
  .next (
    let x := s.lane pc
    let n := mapGet 0 x.postponed bank
    if 512 ≤ pc then s
    else if Config.bankBusy s.tick then
      (if n < 8 then s.setLane pc { x with postponed := mapSet 0 x.postponed bank (n + 1) } else s)
    else s.setLane pc { x with postponed := mapSet 0 x.postponed bank (min n (Config.refreshesKept s.tick)) })
/-- `ACTIVATION_ALERT` (R396): every postponed refresh of the bank is issued. -/
def execActivationAlert (pc bank : Nat) (s : State) : Answer :=
  .next (let x := s.lane pc
    if 512 ≤ pc then s else s.setLane pc { x with postponed := mapSet 0 x.postponed bank 0 })

/-! ## `LNKCFG` (R400, R401) -/

/-- A number names a link (R387). -/
def isLink (l : Nat) : Bool := l ≤ 12 || (0x40 ≤ l && l ≤ 0x47)
/-- The dies of a link or of a stack's lanes. -/
def portDies (l : Nat) : List Nat := if 0x40 ≤ l then [(l - 0x40) / 2] else linkDies l
/-- `LSTATE`. -/
def LinkState.code : LinkState → Nat
  | .down => 0
  | .training => 1
  | .up => 2
  | .retraining => 3
  | .failed => 4
/-- The pseudo-channels of a stack. -/
def stackLanes (k : Nat) : List Nat := (List.range 64).map (k * 64 + ·)

/-- The link status word (R401). -/
def State.linkWord (s : State) (l : Nat) : W64 :=
  let x := s.link l
  if 0x40 ≤ l then
    let cs := stackLanes (l - 0x40)
    let lent := (cs.filter fun k => (s.lane k).state == .lent).length
    let post := (cs.flatMap fun k => (s.lane k).postponed.map (·.2)).foldl max 0
    BitVec.ofNat 64 (2 + post % 16 * 2 ^ 8 + 64 * 2 ^ 16 + lent * 2 ^ 24 + x.retrain * 2 ^ 32)
  else
    let (active, lanes) := Config.lanesOf l
    let total := if l < 8 then 8 else if l = 8 then 16 else lanes
    BitVec.ofNat 64 (x.state.code + total % 256 * 2 ^ 16 + active % 256 * 2 ^ 24 + x.retrain * 2 ^ 32 + x.replay * 2 ^ 48)

/-- The checks of `LNKCFG`, then its act on the link (R401). -/
def linkWordOf (f : Form) (n : Nat) (query : Bool) (bad : Nat → Bool) (go : Nat → State → State) (s : State) : State :=
  let c := s.core n
  let l := (c.reg (Form.xa f)).toNat
  if !query ∧ !c.priv then s.coreFault n fcPriv
  else if !isLink l ∨ (!query ∧ !(portDies l).contains (n / 64)) ∨ bad l then s.coreFault n fcIllegal
  else go l s

/-- `LNKCFG.QUERY` (R401). -/
def execLnkcfgQuery (f : Form) (s : State) : Answer :=
  onCore s fun n s => linkWordOf f n true (fun _ => false) (fun l s => s.coreResult n f (s.linkWord l)) s

/-- `TRAIN` and `DOWN` name a peer link or the host link. -/
def notTrained (l : Nat) : Bool := 9 ≤ l

/-- `LNKCFG.TRAIN` (R388, R401). -/
def execLnkcfgTrain (f : Form) (s : State) : Answer :=
  onCore s fun n s => linkWordOf f n false notTrained (fun l s =>
    let x := s.link l
    (if x.state = .up then s.leaveUp l x .training
     else if x.state = .down ∨ x.state = .failed then s.setLink l { x with state := .training } else s).coreResult
      n f (BitVec.ofNat 64 x.state.code)) s

/-- `LNKCFG.DOWN` (R388, R390, R401). -/
def execLnkcfgDown (f : Form) (s : State) : Answer :=
  onCore s fun n s => linkWordOf f n false notTrained (fun l s =>
    let x := s.link l
    (if x.state = .down then s else if x.state = .failed then s.setLink l { x with state := .down } else s.dropLink l .down).coreResult
      n f (BitVec.ofNat 64 x.state.code)) s

/-- The operand of `RATIO` is refused. -/
def badRatio (xb : Nat) : Bool := 2 ^ 12 ≤ xb || bitsOf xb 8 2 == 3

/-- The pseudo-channels that `RATIO` names on a stack. -/
def ratioLanes (l xb : Nat) : List Nat := if bitOf xb 10 then stackLanes (l - 0x40) else [(l - 0x40) * 64 + xb % 64]

/-- `RATIO` reaches a channel: one that is OWN at the ratio stays as it is. -/
def State.askLane (s : State) (n r : Nat) (lend : Bool) (k : Nat) : State :=
  let x := s.lane k
  if x.state = .own ∧ x.ratio = r ∧ x.lend = lend then s
  else
    let s' := s.setLane k (x.ask n r lend)
    if x.state = .own then s'.laneRetrained k else s'

/-- `LNKCFG.RATIO` (R394, R395, R401): the channels named are asked, and it completes when every one has changed. -/
def execLnkcfgRatio (f : Form) (s : State) : Answer :=
  onCore s fun n s =>
    let xb := ((s.core n).reg (Form.xb f)).toNat
    linkWordOf f n false (fun l => l < 0x40 || badRatio xb) (fun l s =>
      let ks := ratioLanes l xb
      let r := bitsOf xb 8 2
      let lend := bitOf xb 11
      let asked := match (s.core n).wait with | .late _ => true | _ => false
      let s := if asked then s else ks.foldl (fun s k => s.askLane n r lend k) s
      if ks.all fun k => (s.lane k).settled n then s.coreResult n f 0
      else s.modCore n fun c => { c with wait := .late 0 }) s

/-! ## Chain reductions (R397 to R402) -/

/-- The bytes of an adder's element. -/
def typeBytes (t : Nat) : Nat := if t = 1 then 2 else 4

/-- An adder's sum of one element, with its flags (R398). -/
def addElement (t a b : Nat) : Nat × Flags :=
  if t = 0 then addIn fp32 a b else if t = 1 then addIn bf16 a b else ((a + b) % 2 ^ 32, 0)

/-- An adder's sum of two beats. -/
def addBeats (t a b : Nat) : Nat × Flags :=
  let w := 8 * typeBytes t
  (List.range (64 / typeBytes t)).foldl (fun (v, fl) k =>
    let (x, g) := addElement t (bitsOf a (w * k) w) (bitsOf b (w * k) w)
    (v + x * 2 ^ (w * k), fl ||| g)) (0, 0)

/-- The beats of an adder's stream. -/
def Adder.total (a : Adder) : Nat := a.count * typeBytes a.type / 64

/-- A fault of an adder's access (R175, R399): an absent page is recorded once and waited for; any other fault ends it
failed. -/
def State.adderStop (s : State) (k : Nat) (a : Adder) (e : Stop) : State :=
  let fault := fun code (val aux : Option W64) => s.record
    { code, ukind := 3, unit := unitDie (adderDie k) (160 + (if a.out = 0xFF then a.inn else a.out)), ctx := a.ctx, val, aux }
  match e with
  | .absent va =>
    if a.waitVa = some va then s
    else { fault fcPageAbsent (some (BitVec.ofNat 64 va)) none with adders := mapSet {} s.adders k { a with waitVa := some va } }
  | .fault code val aux => (fault code val aux).failAdder k
  | .error _ => s.failAdder k
  | .wait => s

/-- The first beat of a chain that has arrived at a die over a link, with its place. -/
def State.beatArrived (s : State) (a : Adder) (die : Nat) : Option (Nat × Beat) :=
  let k := s.beats.findIdx fun b => b.link == a.inn && b.die == die && b.chain == a.chain
  s.beats[k]?.map fun b => (k, b)

/-- What comes in for a beat (R398): nothing at position 0, what a peer sent, or the next beat from the other die. -/
def State.incoming (s : State) (k : Nat) (a : Adder) (data : Nat) : Option (Option Nat × State) :=
  if a.inn = 0xFF then some (none, s)
  else if a.inn < 8 then some (some (data % 2 ^ 512), s)
  else match s.beatArrived a (adderDie k) with
    | some (i, b) => if b.abort then none else some (some b.data, { s with beats := dropNth s.beats i })
    | none => none

/-- A credit is free on an adder's outgoing link (R398). -/
def State.beatCredit (s : State) (k : Nat) (a : Adder) : Bool :=
  a.out == 0xFF || a.cut || (s.beats.filter fun b => b.link == a.out && b.die != adderDie k).length < 256

/-- A link of an adder is UP, or it has none. -/
def State.adderLink (s : State) (l : Nat) : Bool := l == 0xFF || (s.link l).state == .up

/-- A beat is done (R399): after the last one the adder ends. -/
def State.beatDone (s : State) (k : Nat) (a : Adder) (fl : Flags) : State :=
  let last := a.beats + 1 == a.total
  let s := { s with adders := mapSet {} s.adders k { a with
    beats := a.beats + 1, flags := a.flags ||| fl, running := !last, ended := last, waitVa := none } }
  if last then (s.xfence a.ctx (2 ^ pathP) 0x1FF 3 (32768 + adderDie k)).raiseEvent (a.ctx.toNat, a.event) else s

/-- One beat of an adder (R398). -/
def beatStep (k data : Nat) (s : State) : State :=
  let a := mapGet {} s.adders k
  let agent : Agent := ⟨pathP, 32768 + adderDie k⟩
  if !a.running then s
  else if a.pageFailed then s.failAdder k
  else if !s.adderLink a.inn || !s.adderLink a.out || !s.beatCredit k a then s
  else match vnat agent a.ctx (a.src + 64 * a.beats) 64 s with
  | .error e => s.adderStop k a e
  | .ok (loc, s1) =>
    match s1.incoming k a data with
    | none => s
    | some (inn, s2) =>
      let (v, fl) := match inn with | some d => addBeats a.type d loc | none => (loc, 0)
      if a.out ≠ 0xFF then (s2.sendBeat a (adderDie k) false v).beatDone k a fl
      else match vput agent a.ctx (a.dst + 64 * a.beats) 64 v s2 with
        | .ok (_, s3) => s3.beatDone k a fl
        | .error e => s.adderStop k a e
/-- `CHAIN_BEAT` (R398). -/
def execChainBeat (adder data : Nat) (s : State) : Answer := .next (beatStep adder data s)

/-- `ADDER_ABORT` (R399): an abort arrives, from the other die or from a peer. -/
def execAdderAbort (adder : Nat) (s : State) : Answer :=
  .next (
    let a := mapGet {} s.adders adder
    if !a.running ∨ a.inn = 0xFF ∨ (s.link a.inn).state ≠ .up then s
    else if a.inn < 8 then s.failAdder adder
    else match s.beatArrived a (adderDie adder) with
      | some (i, b) => if b.abort then { s with beats := dropNth s.beats i }.failAdder adder else s
      | none => s)

/-- A link that a chain record may not name (R402). -/
def badChainLink (l : Nat) : Bool := l == 8 || (13 ≤ l && l ≤ 0xFE)

/-- The adder of a chain record (R397). -/
def adderOf (h : Nat) (c : BitVec 8) (ev : Nat) : Adder :=
  { src := bitsOf h 448 64, dst := bitsOf h 384 64, count := bitsOf h 352 32, chain := bitsOf h 336 16
    inn := bitsOf h 328 8, out := bitsOf h 320 8, type := bitsOf h 256 2, ctx := c, event := ev, running := true, used := true }

/-- A chain record that `START` refuses on a die (R397, R402). One with a RES field that is not zero breaks R397 and is
refused, although R6 has the value of a RES field ignored: DESIGN CHOICE, log 127. -/
def badChain (h die : Nat) (a : Adder) : Bool :=
  bitsOf h 258 62 != 0 || h % 2 ^ 256 != 0 || a.type == 3 || a.src % 64 != 0 || a.dst % 64 != 0
    || (a.out != 0xFF && a.dst != 0) || a.count < 1 || 2 ^ 24 < a.count || a.count * typeBytes a.type % 64 != 0
    || a.chain == 0 || (a.inn == 0xFF && a.out == 0xFF) || badChainLink a.inn || badChainLink a.out
    || !(linkDies (if a.out = 0xFF then a.inn else a.out)).contains die

/-- `LNKADD.START` (R402). -/
def lnkaddStartWord (f : Form) (n : Nat) (s : State) : State :=
  let c := s.core n
  let xa := (c.reg (Form.xa f)).toNat
  let ev := f.imm.toNat % 4096
  let h := memNat c.dmem xa 64
  let a := adderOf h c.context ev
  let die := n / 64
  if 0xFFC0 < xa ∨ xa % 16 ≠ 0 ∨ bitsOf f.imm.toNat 12 20 ≠ 0 ∨ ((s.ctx c.context.toNat).reg 0x113).toNat ≤ ev
      ∨ badChain h die a then s.coreFault n fcIllegal
  else
    let base := (if a.out = 0xFF then a.inn else a.out) + die * 1024
    match (List.range 4).find? fun k => !(mapGet {} s.adders (base + k * 256)).running with
    | none => s.coreResult n f (refusal 1)
    | some k =>
      if !s.adderLink a.inn || !s.adderLink a.out then s.coreResult n f (refusal fcLinkDown)
      else { s with adders := mapSet {} s.adders (base + k * 256) a }.coreResult n f (BitVec.ofNat 64 (base + k * 256))
/-- `LNKADD.START` (R402). -/
def execLnkaddStart (f : Form) (s : State) : Answer := onCore s (lnkaddStartWord f)

/-- The status of an adder (R402). -/
def Adder.word (a : Adder) : W64 :=
  BitVec.ofNat 64 (a.beats % 2 ^ 24 + a.flags.toNat * 2 ^ 52 + b2n a.running * 2 ^ 61 + b2n a.failed * 2 ^ 62
    + b2n a.ended * 2 ^ 63)

/-- The checks of `STAT` and `CANCEL`, then their act on the adder (R402). -/
def adderWord (f : Form) (n : Nat) (go : Nat → State → State) (s : State) : State :=
  let c := s.core n
  let xa := (c.reg (Form.xa f)).toNat
  let a := mapGet {} s.adders xa
  if 2 ^ 12 ≤ xa ∨ !a.used then s.coreFault n fcIllegal
  else if a.ctx ≠ c.context then s.coreFault n fcPriv
  else go xa s
/-- `LNKADD.STAT` (R402). -/
def execLnkaddStat (f : Form) (s : State) : Answer :=
  onCore s fun n s => adderWord f n (fun k s => s.coreResult n f (mapGet {} s.adders k).word) s
/-- `LNKADD.CANCEL` (R402). -/
def execLnkaddCancel (f : Form) (s : State) : Answer :=
  onCore s fun n s => adderWord f n (fun k s =>
    let s := s.failAdder k
    s.coreResult n f (mapGet {} s.adders k).word) s

end Sys2Proof.Machine
end

