-- ==== Sys2Proof/Machine/Boot.lean ====
section
/-! DEFINITION. Start, identity and background work (R403 to R411, R430). -/

namespace Sys2Proof.Machine

open Sys2Proof

/-! ## The start log (R405) -/

/-- Change the management core's state. -/
def State.modMgmt (s : State) (f : Management → Management) : State := { s with mgmt := f s.mgmt }

/-- Append a record; the log is a ring of 4,096. -/
def Management.append (m : Management) (r : StartRec) : Management :=
  { m with log := if m.log.length < 4096 then m.log ++ [r] else m.log.tail ++ [r] }

/-- The latest record of a step in a start has `OUT` 1. -/
def Management.failedIn (m : Management) (boot step : Nat) : Bool :=
  match (m.log.filter fun r => r.boot == boot && r.step == step).getLast? with
  | some r => r.out == 1
  | none => false

/-- A step is run by its alternative: it failed in the previous start, or in two starts in a row (R405). -/
def Management.alternate (m : Management) (step : Nat) : Bool :=
  m.alternative.contains step || m.failedIn (m.boot - 1) step

/-- A step ends with an outcome (R405): a second failure in a row is remembered. -/
def Management.ends (m : Management) (step out code detail : Nat) : Management :=
  let m := if out = 1 ∧ m.failedIn (m.boot - 1) step ∧ !m.alternative.contains step then
    { m with alternative := m.alternative ++ [step] } else m
  m.append { boot := m.boot, step := step, out := out, code := code, detail := detail }

/-! ## The steps (R403) -/

/-- A step passes at a unit in this start. -/
def State.passes (s : State) (step unit : Nat) : Bool := Config.startPasses s.mgmt.boot step unit
/-- The units at which a step fails. -/
def State.failsAt (s : State) (step : Nat) (units : List Nat) : List Nat := units.filter fun u => !s.passes step u

/-- A start step: the state after it, and whether the start goes on. -/
abbrev Started := State × Bool

/-- A step whose alternative is None: it passes, or stops the start. -/
def plainStep (step : Nat) (units : List Nat) (go : State → State) (s : State) : Started :=
  match s.failsAt step units with
  | [] => ((go s).modMgmt fun m => m.ends step 0 0 0, true)
  | u :: _ => (s.modMgmt fun m => m.ends step 1 0 u, false)

/-- A step with an alternative: `good` for each unit that passes, `bad` for each that fails, which the alternative
leaves out. -/
def spareStep (step : Nat) (units : List Nat) (good bad : Nat → State → State) (s : State) : Started :=
  let fails := s.failsAt step units
  let s' := units.foldl (fun s u => if fails.contains u then bad u s else good u s) s
  if s.mgmt.alternate step then (s'.modMgmt fun m => m.ends step 3 0 (fails.headD 0), true)
  else match fails with
    | [] => (s'.modMgmt fun m => m.ends step 0 0 0, true)
    | u :: _ => (s'.modMgmt fun m => m.ends step 1 0 u, false)

/-- SHA-512 as bytes. -/
def sha512Bytes (bs : List Byte) : List Byte := (sha512 bs).map (BitVec.ofNat 8)

/-- A public key as bytes: x and then y, each 66 bytes big-endian as R340 writes r and s (DESIGN CHOICE, log 105). -/
def keyBytes (key : Nat × Nat) : List Byte := (bigEndian 66 key.1 ++ bigEndian 66 key.2).map (BitVec.ofNat 8)

/-- The signature of an image verifies under a key (R404, R406). -/
def StageImage.signedBy (m : StageImage) (key : Nat × Nat) : Bool := sigResult key (sha512Bytes m.bytes) m.sig == 0

/-- A step that takes an image from a source and verifies it (R404, R406): an image that fails is not run, and one that
runs is measured (R407). `DETAIL` names the source. -/
def imageStep (step source : Nat) (m : StageImage) (good : Bool) (s : State) : Started :=
  if good then
    (s.modMgmt fun x => ({ x with measured := x.measured ++ [ofBigEndian (sha512 m.bytes)] } : Management).ends step
      (if x.alternate step then 3 else 0) 0 source, true)
  else (s.modMgmt fun x => x.ends step 1 0 source, false)

/-- Step 1: the ROM verifies Valjor's key by its digest, and by the key the first stage in slot A, or by the alternative in
slot B (R404). -/
def firstStageStep (s : State) : Started :=
  let slot := b2n (s.mgmt.alternate 1)
  let m := Config.firstStage s.mgmt.boot slot
  imageStep 1 slot m (sha512Bytes (keyBytes m.key) == Config.romDigest && m.signedBy m.key) s

/-- Step 9: the second stage comes from the host, or from storage by the alternative and where the host link is not UP; it
is verified with key slot 0 (R403, R406). -/
def secondStageStep (s : State) : Started :=
  let source := b2n (s.mgmt.alternate 9 || (s.link 8).state != .up)
  let m := Config.secondStage s.mgmt.boot source
  imageStep 9 source m (m.signedBy (mapGet (0, 0) s.mgmt.sigKeys 0)) s

/-- A link is trained (R388). -/
def State.trained (s : State) (l : Nat) : State := s.setLink l { s.link l with state := .up }

/-- Step 2: the fuse map is read, with the secure-launch fuse (R408). -/
def readFuses (s : State) : State :=
  s.modMgmt fun m => { m with
    secure := Config.secureFuse
    fused := Config.fusedElements.foldl (fun f k => mapSet false f k true) []
    badSlots := Config.badSlots.foldl (fun f k => mapSet false f k true) [] }

/-- Step 5: the elements that the fuse map names are FUSED (R101). -/
def placeFuses (s : State) : State :=
  s.mgmt.fused.foldl (fun s kv => s.modElem (kv.1 / 16) (kv.1 % 16) fun x => { x with state := .fused }) s

/-- The stacks whose failure step 4 has logged: in the start before this one, and where its alternative is kept, in any
(DESIGN CHOICE, log 145). -/
def Management.failedStacks (m : Management) : List Nat :=
  (m.log.filter fun r => r.step == 4 && r.out == 1 && (r.boot + 1 == m.boot || m.alternative.contains 4)).map (·.detail)

/-- A stack is marked failed (R403). -/
def State.markStack (s : State) (k : Nat) : State := s.modMgmt fun m => { m with badStacks := mapSet false m.badStacks k true }

/-- Step 4: the memory lanes of each stack are trained; by the alternative a stack that failed before is left out, marked
failed (R403). -/
def memoryStep (s : State) : Started :=
  let gone := if s.mgmt.alternate 4 then s.mgmt.failedStacks else []
  spareStep 4 ((List.range 8).filter fun k => !gone.contains k) (fun _ s => s) (fun k s => s.markStack k) (gone.foldl State.markStack s)

/-- Step 7: the host link is trained; by the alternative it is left DOWN (R403). -/
def hostLinkStep (s : State) : Started :=
  if s.mgmt.alternate 7 then (s.modMgmt fun m => m.ends 7 3 0 8, true) else plainStep 7 [8] (fun s => s.trained 8) s

/-- A scalar brought into 1 to n - 1. -/
def scalarOf (k : Nat) : Nat := 1 + k % (p521n - 1)
/-- The device identity key, a P-521 key (R407). -/
def identityScalar : Nat := scalarOf Config.identityKey
/-- The identity public key. -/
def identityPublic : Nat × Nat := (pointMul 521 identityScalar (some p521g) none).getD (0, 0)

/-- An ECDSA signature (r, s) over a digest with the identity key (FIPS 186-5): of the secret numbers tried, the first that
gives r and s not zero. -/
def signReport (tick digest : Nat) : Nat × Nat :=
  ((List.range 8).findSome? fun j =>
    let k := scalarOf (Config.signNonce tick j)
    let r := ((pointMul 521 k (some p521g) none).getD (0, 0)).1 % p521n
    let v := invMod p521n k * ((digest + r * identityScalar) % p521n) % p521n
    if r = 0 ∨ v = 0 then none else some (r, v)).getD (0, 0)

/-- Step 6: the key slots; signature key slot 1 holds the identity public key (R407). -/
def loadKeys (s : State) : State :=
  s.modMgmt fun m => { m with
    sigKeys := mapSet (0, 0) ((List.range 16).foldl (fun f k => match Config.sigKey k with | some v => mapSet (0, 0) f k v | none => f) [])
      1 identityPublic
    ctxKeys := (List.range 256).foldl (fun f k => match Config.ctxKey k with | some v => mapSet 0 f k (v + 1) | none => f) [] }

/-- Management firmware places a program on a drover core and starts it at word 0 in control mode, with every register zero
but `EVEC` and `CTXID` (R420). -/
def State.placeProgram (s : State) (p : Firmware) : State :=
  s.modCore p.core fun c => { c with
    pc := 0, x := [], status := statusOf false false false true, flags := 0, epc := 0, ecause := 0, erec := 0
    evec := p.evec.setWidth 64, ctxid := p.ctx.setWidth 64, exitw := 0, bkpc := [], bkctl := 0
    code := (p.code.zip (List.range 4096)).foldl (fun m w => mapSet 0 m w.2 w.1) []
    cmds := [], running := true, active := true, wait := .none }

/-- Step 10: the scheduler and the controller serve, with the queue table and the apertures that firmware sets (R330,
R392), and firmware's programs start on drover cores (R420). -/
def beginService (s : State) : State :=
  let s := Config.firmware.foldl (fun (s : State) p => if p.core < 256 then s.placeProgram p else s) s
  { s with
    qtab := Config.queueTable
    apertures := (List.range 8).foldl (fun m k => mapSet (0, 0) m k (Config.aperture k)) [] }.modMgmt fun m =>
      { m with start := .serving }

/-- A step of the start (R403). -/
def startStep (step : Nat) (s : State) : Started :=
  match step with
  | 1 => firstStageStep s
  | 2 => plainStep 2 [0] readFuses s
  | 3 => plainStep 3 [9, 10, 11, 12] (fun s => [9, 10, 11, 12].foldl State.trained s) s
  | 4 => memoryStep s
  | 5 => plainStep 5 [0] placeFuses s
  | 6 => plainStep 6 [0] loadKeys s
  | 7 => hostLinkStep s
  | 8 => spareStep 8 (List.range 8) (fun l s => s.trained l) (fun _ s => s) s
  | 9 => secondStageStep s
  | _ => plainStep 10 [0] beginService s

/-- The steps in order: one that fails stops the start (R403). -/
def runSteps : List Nat → State → State
  | [], s => s
  | k :: ks, s => match startStep k s with
    | (s, true) => runSteps ks s
    | (s, false) => s.modMgmt fun m => { m with start := .stopped }

/-- `POWER_UP` (R403): the management core runs the start sequence. -/
def execPowerUp (s : State) : Answer :=
  .next (if s.mgmt.start ≠ .cold then s
    else runSteps [1, 2, 3, 4, 5, 6, 7, 8, 9, 10] (s.modMgmt fun m => { m with boot := m.boot + 1 }))

/-- `POWER_LOSS` (R403): nothing is kept but what stands in flash: the start log with its start numbers. -/
def execPowerLoss (s : State) : Answer :=
  .next { State.reset with
    mgmt := { boot := s.mgmt.boot, log := s.mgmt.log, alternative := s.mgmt.alternative }
    tick := s.tick }

/-- `START_LOG_CLEAR` (R405). -/
def execStartLogClear (s : State) : Answer := .next (s.modMgmt fun m => { m with log := [], alternative := [] })
/-- `MANAGEMENT_FAULT_LOG_CLEAR` (R430). -/
def execManagementFaultLogClear (s : State) : Answer := .next (s.modMgmt fun m => { m with faults := [], lost := 0 })

/-! ## The management port (R403, R406, R407, R410) -/

/-- A record of the start log (R405). -/
def StartRec.bytes (r : StartRec) : List Byte :=
  toBytes (r.detail % 2 ^ 32 + r.code % 256 * 2 ^ 32 + r.out % 256 * 2 ^ 40 + r.step % 2 ^ 16 * 2 ^ 48 + r.boot % 2 ^ 64 * 2 ^ 64) 16

/-- An attestation report (R407): the measurement list, the nonce and the fuse-map digest, then their signature laid out as
in R340. The digests stand in the byte order of FIPS 180-4 (DESIGN CHOICE, log 105). -/
def attestation (tick : Nat) (m : Management) (nonce : Nat) : List Byte :=
  let body := m.measured.flatMap (fun d => (bigEndian 64 d).map (BitVec.ofNat 8)) ++ toBytes nonce 32 ++ sha512Bytes Config.fuseMap
  let (r, v) := signReport tick (ofBigEndian (sha512 body))
  body ++ (bigEndian 66 r ++ bigEndian 66 v).map (BitVec.ofNat 8) ++ toBytes 0 12

/-- The telemetry counters as they stand now (R410, R411): each has come on by what its unit counted, and saturates. -/
def Management.count (m : Management) (tick : Nat) (ks : List Nat) : Management :=
  { m with counters := ks.foldl (fun f k => mapSet 0 f k (min (mapGet 0 f k + Config.counted tick k) (2 ^ 64 - 1))) m.counters }

/-- Bytes of the telemetry counters from an address on, 8 for each counter (DESIGN CHOICE, log 105). -/
def Management.telemetry (m : Management) (a n : Nat) : List Byte :=
  (List.range n).map fun i => (toBytes (mapGet 0 m.counters ((a + i) / 8)) 8).getD ((a + i) % 8) 0

/-- `MANAGEMENT_PORT_REQUEST` (R403): a stopped start answers with the start log; else a request with a nonce gets a
report (R407), and a read telemetry (R410). -/
def execManagementPortRequest (access : Access) (s : State) : Answer :=
  .next (s.modMgmt fun m =>
    match m.start with
    | .cold => { m with answer := [] }
    | .stopped => { m with answer := m.log.flatMap StartRec.bytes }
    | .serving =>
      if access.write then { m with answer := attestation s.tick m access.data }
      else
        let m := m.count s.tick ((List.range (access.size / 8 + 2)).map (access.addr / 8 + ·))
        { m with answer := m.telemetry access.addr access.size })

/-! ## Power and background work (R409 to R411) -/

/-- `POWER_SAMPLE` (R409): limits on firing, which slow execution only. -/
def execPowerSample (s : State) : Answer :=
  .next (s.modMgmt fun m =>
    let w := Config.power s.tick
    let high := if 2200 < w then m.overCount + 1 else 0
    { m with
      overCount := high
      limit := if w < 2050 then 0 else if 100 ≤ high then 2 else if 2150 < w then max m.limit 1 else m.limit })

/-- `PATROL_SCRUB` (R410, R411): in one step a line is read, corrected and written back as it was, so that no newer data
is lost; a line that cannot be corrected is known, and the next read of it meets the error (log 134). -/
def execPatrolScrub (address : Nat) (s : State) : Answer :=
  .next (if address < 2 ^ 39 ∧ !s.stackFailed address ∧ Config.spoiled s.tick then
      { s with badLines := mapSet false s.badLines (address / 64) true }
    else s)

/-- `SRAM_SCRUB` (R410): an uncorrectable granule is reported to the context that holds the tile. -/
def execSramScrub (unit : Nat) (s : State) : Answer :=
  .next (if Config.spoiled s.tick ∧ (s.tile unit).group.isSome then
      s.record { code := fcMem, ukind := 2, unit := unitEngine s unit 2, ctx := s.tileCtx unit }
    else s)

/-- `MEMORY_RECALIBRATION` (R410): requests to a pseudo-channel wait, and nothing else changes. -/
def execMemoryRecalibration (_stack : Nat) (s : State) : Answer := .next s

end Sys2Proof.Machine
end

