-- ==== Sys2Proof/Machine/Dispatch.lean ====
section
/-! DEFINITION. The dispatch: one arm for every instruction and event, each a direct call of its
meaning. -/

namespace Sys2Proof.Machine

open Sys2Proof

/-- What executing an instruction, or an event, does to the machine. -/
def exec (i : Instr) (s : State) : Host.Outcome State Fault Refusal :=
  match i with
  | .pass f => Sys2Proof.Machine.execPass f s
  | .const f => Sys2Proof.Machine.execConst f s
  | .steer f => Sys2Proof.Machine.execSteer f s
  | .merge f => Sys2Proof.Machine.execMerge f s
  | .select f => Sys2Proof.Machine.execSelect f s
  | .gate f => Sys2Proof.Machine.execGate f s
  | .sink f => Sys2Proof.Machine.execSink f s
  | .mark f => Sys2Proof.Machine.execMark f s
  | .rndq f => Sys2Proof.Machine.execRndq f s
  | .align f => Sys2Proof.Machine.execAlign f s
  | .count f => Sys2Proof.Machine.execCount f s
  | .trap f => Sys2Proof.Machine.execTrap f s
  | .assert f => Sys2Proof.Machine.execAssert f s
  | .inj f => Sys2Proof.Machine.execInj f s
  | .take f => Sys2Proof.Machine.execTake f s
  | .reconf f => Sys2Proof.Machine.execReconf f s
  | .probe f => Sys2Proof.Machine.execProbe f s
  | .alloc f => Sys2Proof.Machine.execAlloc f s
  | .iter f => Sys2Proof.Machine.execIter f s
  | .free f => Sys2Proof.Machine.execFree f s
  | .popt f => Sys2Proof.Machine.execPopt f s
  | .pusht f => Sys2Proof.Machine.execPusht f s
  | .setit f => Sys2Proof.Machine.execSetit f s
  | .gettag f => Sys2Proof.Machine.execGettag f s
  | .mktag f => Sys2Proof.Machine.execMktag f s
  | .spawn f => Sys2Proof.Machine.execSpawn f s
  | .returnTok f => Sys2Proof.Machine.execReturnTok f s
  | .tsize f => Sys2Proof.Machine.execTsize f s
  | .colq f => Sys2Proof.Machine.execColq f s
  | .add f => Sys2Proof.Machine.execAdd f s
  | .sub f => Sys2Proof.Machine.execSub f s
  | .mul f => Sys2Proof.Machine.execMul f s
  | .mulh f => Sys2Proof.Machine.execMulh f s
  | .mad f => Sys2Proof.Machine.execMad f s
  | .div f => Sys2Proof.Machine.execDiv f s
  | .rem f => Sys2Proof.Machine.execRem f s
  | .neg f => Sys2Proof.Machine.execNeg f s
  | .abs f => Sys2Proof.Machine.execAbs f s
  | .min f => Sys2Proof.Machine.execMin f s
  | .max f => Sys2Proof.Machine.execMax f s
  | .cmp f => Sys2Proof.Machine.execCmp f s
  | .and f => Sys2Proof.Machine.execAnd f s
  | .or f => Sys2Proof.Machine.execOr f s
  | .xor f => Sys2Proof.Machine.execXor f s
  | .not f => Sys2Proof.Machine.execNot f s
  | .shl f => Sys2Proof.Machine.execShl f s
  | .shr f => Sys2Proof.Machine.execShr f s
  | .sar f => Sys2Proof.Machine.execSar f s
  | .rot f => Sys2Proof.Machine.execRot f s
  | .clz f => Sys2Proof.Machine.execClz f s
  | .popc f => Sys2Proof.Machine.execPopc f s
  | .bfx f => Sys2Proof.Machine.execBfx f s
  | .bfi f => Sys2Proof.Machine.execBfi f s
  | .ext f => Sys2Proof.Machine.execExt f s
  | .agen f => Sys2Proof.Machine.execAgen f s
  | .sat f => Sys2Proof.Machine.execSat f s
  | .fadd f => Sys2Proof.Machine.execFadd f s
  | .fsub f => Sys2Proof.Machine.execFsub f s
  | .fmul f => Sys2Proof.Machine.execFmul f s
  | .fma f => Sys2Proof.Machine.execFma f s
  | .fdiv f => Sys2Proof.Machine.execFdiv f s
  | .fmin f => Sys2Proof.Machine.execFmin f s
  | .fmax f => Sys2Proof.Machine.execFmax f s
  | .fabs f => Sys2Proof.Machine.execFabs f s
  | .fneg f => Sys2Proof.Machine.execFneg f s
  | .fcmp f => Sys2Proof.Machine.execFcmp f s
  | .fclass f => Sys2Proof.Machine.execFclass f s
  | .frcp f => Sys2Proof.Machine.execFrcp f s
  | .frsq f => Sys2Proof.Machine.execFrsq f s
  | .fsqrt f => Sys2Proof.Machine.execFsqrt f s
  | .fexp2 f => Sys2Proof.Machine.execFexp2 f s
  | .flog2 f => Sys2Proof.Machine.execFlog2 f s
  | .cvt f => Sys2Proof.Machine.execCvt f s
  | .frnd f => Sys2Proof.Machine.execFrnd f s
  | .vdot f => Sys2Proof.Machine.execVdot f s
  | .vsum f => Sys2Proof.Machine.execVsum f s
  | .vpack f => Sys2Proof.Machine.execVpack f s
  | .vunpk f => Sys2Proof.Machine.execVunpk f s
  | .vshuf f => Sys2Proof.Machine.execVshuf f s
  | .scaleSend f => Sys2Proof.Machine.execScaleSend f s
  | .scaleApply f => Sys2Proof.Machine.execScaleApply f s
  | .ld f => Sys2Proof.Machine.execLd f s
  | .st f => Sys2Proof.Machine.execSt f s
  | .lds f => Sys2Proof.Machine.execLds f s
  | .sts f => Sys2Proof.Machine.execSts f s
  | .lkup f => Sys2Proof.Machine.execLkup f s
  | .ttset f => Sys2Proof.Machine.execTtset f s
  | .ttinv f => Sys2Proof.Machine.execTtinv f s
  | .feq f => Sys2Proof.Machine.execFeq f s
  | .feset f => Sys2Proof.Machine.execFeset f s
  | .atom f => Sys2Proof.Machine.execAtom f s
  | .red f => Sys2Proof.Machine.execRed f s
  | .fence f => Sys2Proof.Machine.execFence f s
  | .xfence f => Sys2Proof.Machine.execXfence f s
  | .reord f => Sys2Proof.Machine.execReord f s
  | .pref f => Sys2Proof.Machine.execPref f s
  | .strm f => Sys2Proof.Machine.execStrm f s
  | .gthr f => Sys2Proof.Machine.execGthr f s
  | .scat f => Sys2Proof.Machine.execScat f s
  | .sclose f => Sys2Proof.Machine.execSclose f s
  | .scloseCut f => Sys2Proof.Machine.execScloseCut f s
  | .swait f => Sys2Proof.Machine.execSwait f s
  | .sbar f => Sys2Proof.Machine.execSbar f s
  | .circ f => Sys2Proof.Machine.execCirc f s
  | .circx f => Sys2Proof.Machine.execCircx f s
  | .ring f => Sys2Proof.Machine.execRing f s
  | .rcommitRsv f => Sys2Proof.Machine.execRcommitRsv f s
  | .rcommitRsvw f => Sys2Proof.Machine.execRcommitRsvw f s
  | .rcommitPub f => Sys2Proof.Machine.execRcommitPub f s
  | .rcommitTail f => Sys2Proof.Machine.execRcommitTail f s
  | .rpop f => Sys2Proof.Machine.execRpop f s
  | .rstatRing f => Sys2Proof.Machine.execRstatRing f s
  | .rstatEng f => Sys2Proof.Machine.execRstatEng f s
  | .rstatEngclr f => Sys2Proof.Machine.execRstatEngclr f s
  | .mma f => Sys2Proof.Machine.execMma f s
  | .mmas f => Sys2Proof.Machine.execMmas f s
  | .accz f => Sys2Proof.Machine.execAccz f s
  | .accrd f => Sys2Proof.Machine.execAccrd f s
  | .nzscan f => Sys2Proof.Machine.execNzscan f s
  | .xsplit f => Sys2Proof.Machine.execXsplit f s
  | .tapp f => Sys2Proof.Machine.execTapp f s
  | .tfork f => Sys2Proof.Machine.execTfork f s
  | .tckpt f => Sys2Proof.Machine.execTckpt f s
  | .tcommit f => Sys2Proof.Machine.execTcommit f s
  | .ttrunc f => Sys2Proof.Machine.execTtrunc f s
  | .tevict f => Sys2Proof.Machine.execTevict f s
  | .tdesc f => Sys2Proof.Machine.execTdesc f s
  | .tmask f => Sys2Proof.Machine.execTmask f s
  | .tstatLen f => Sys2Proof.Machine.execTstatLen f s
  | .tstatPool f => Sys2Proof.Machine.execTstatPool f s
  | .rope3Rot f => Sys2Proof.Machine.execRope3Rot f s
  | .rope3Set f => Sys2Proof.Machine.execRope3Set f s
  | .rope3Getlo f => Sys2Proof.Machine.execRope3Getlo f s
  | .rope3Gethi f => Sys2Proof.Machine.execRope3Gethi f s
  | .tfree f => Sys2Proof.Machine.execTfree f s
  | .gmask f => Sys2Proof.Machine.execGmask f s
  | .gmaskH f => Sys2Proof.Machine.execGmaskH f s
  | .gstep f => Sys2Proof.Machine.execGstep f s
  | .gstepH f => Sys2Proof.Machine.execGstepH f s
  | .gsnap f => Sys2Proof.Machine.execGsnap f s
  | .grest f => Sys2Proof.Machine.execGrest f s
  | .gfork f => Sys2Proof.Machine.execGfork f s
  | .gdrop f => Sys2Proof.Machine.execGdrop f s
  | .samp f => Sys2Proof.Machine.execSamp f s
  | .lstat f => Sys2Proof.Machine.execLstat f s
  | .penal f => Sys2Proof.Machine.execPenal f s
  | .acceptOpen f => Sys2Proof.Machine.execAcceptOpen f s
  | .acceptWalk f => Sys2Proof.Machine.execAcceptWalk f s
  | .acceptAbort f => Sys2Proof.Machine.execAcceptAbort f s
  | .commit f => Sys2Proof.Machine.execCommit f s
  | .commitFree f => Sys2Proof.Machine.execCommitFree f s
  | .rng f => Sys2Proof.Machine.execRng f s
  | .jmp f => Sys2Proof.Machine.execJmp f s
  | .br f => Sys2Proof.Machine.execBr f s
  | .call f => Sys2Proof.Machine.execCall f s
  | .ret f => Sys2Proof.Machine.execRet f s
  | .sysrd f => Sys2Proof.Machine.execSysrd f s
  | .syswr f => Sys2Proof.Machine.execSyswr f s
  | .eret f => Sys2Proof.Machine.execEret f s
  | .exit f => Sys2Proof.Machine.execExit f s
  | .exitDiscard f => Sys2Proof.Machine.execExitDiscard f s
  | .wait f => Sys2Proof.Machine.execWait f s
  | .qpost f => Sys2Proof.Machine.execQpost f s
  | .evsigAdd f => Sys2Proof.Machine.execEvsigAdd f s
  | .evsigSet f => Sys2Proof.Machine.execEvsigSet f s
  | .launch f => Sys2Proof.Machine.execLaunch f s
  | .cfgw f => Sys2Proof.Machine.execCfgw f s
  | .cfgr f => Sys2Proof.Machine.execCfgr f s
  | .cfgclrTile f => Sys2Proof.Machine.execCfgclrTile f s
  | .cfgclrElem f => Sys2Proof.Machine.execCfgclrElem f s
  | .bkptSet f => Sys2Proof.Machine.execBkptSet f s
  | .bkptClr f => Sys2Proof.Machine.execBkptClr f s
  | .bkptRes f => Sys2Proof.Machine.execBkptRes f s
  | .sigchk f => Sys2Proof.Machine.execSigchk f s
  | .dgst f => Sys2Proof.Machine.execDgst f s
  | .crcMem f => Sys2Proof.Machine.execCrcMem f s
  | .crcTile f => Sys2Proof.Machine.execCrcTile f s
  | .gbind f => Sys2Proof.Machine.execGbind f s
  | .grel f => Sys2Proof.Machine.execGrel f s
  | .grelForce f => Sys2Proof.Machine.execGrelForce f s
  | .barinitAlloc f => Sys2Proof.Machine.execBarinitAlloc f s
  | .barinitFree f => Sys2Proof.Machine.execBarinitFree f s
  | .barinitQuery f => Sys2Proof.Machine.execBarinitQuery f s
  | .bararrTok f => Sys2Proof.Machine.execBararrTok f s
  | .bararrRnd f => Sys2Proof.Machine.execBararrRnd f s
  | .bararr f => Sys2Proof.Machine.execBararr f s
  | .preemptSoft f => Sys2Proof.Machine.execPreemptSoft f s
  | .preemptHard f => Sys2Proof.Machine.execPreemptHard f s
  | .ctxsave f => Sys2Proof.Machine.execCtxsave f s
  | .ctxrestRun f => Sys2Proof.Machine.execCtxrestRun f s
  | .ctxrestLoad f => Sys2Proof.Machine.execCtxrestLoad f s
  | .mapPa f => Sys2Proof.Machine.execMapPa f s
  | .mapZero f => Sys2Proof.Machine.execMapZero f s
  | .mapCopy f => Sys2Proof.Machine.execMapCopy f s
  | .unmap f => Sys2Proof.Machine.execUnmap f s
  | .unmapDclr f => Sys2Proof.Machine.execUnmapDclr f s
  | .migr f => Sys2Proof.Machine.execMigr f s
  | .lnkcfgQuery f => Sys2Proof.Machine.execLnkcfgQuery f s
  | .lnkcfgTrain f => Sys2Proof.Machine.execLnkcfgTrain f s
  | .lnkcfgDown f => Sys2Proof.Machine.execLnkcfgDown f s
  | .lnkcfgRatio f => Sys2Proof.Machine.execLnkcfgRatio f s
  | .lnkaddStart f => Sys2Proof.Machine.execLnkaddStart f s
  | .lnkaddStat f => Sys2Proof.Machine.execLnkaddStat f s
  | .lnkaddCancel f => Sys2Proof.Machine.execLnkaddCancel f s
  | .illegalWord core => Sys2Proof.Machine.execIllegalWord core s
  | .addressBreakpoint core => Sys2Proof.Machine.execAddressBreakpoint core s
  | .handlerEntry core => Sys2Proof.Machine.execHandlerEntry core s
  | .commandIssue core pick => Sys2Proof.Machine.execCommandIssue core pick s
  | .tokenArrival tile elem pick => Sys2Proof.Machine.execTokenArrival tile elem pick s
  | .pullBack tile elem => Sys2Proof.Machine.execPullBack tile elem s
  | .overflowRefill tile elem bucket => Sys2Proof.Machine.execOverflowRefill tile elem bucket s
  | .markerAction tile elem => Sys2Proof.Machine.execMarkerAction tile elem s
  | .slotBreakpointMatch tile elem => Sys2Proof.Machine.execSlotBreakpointMatch tile elem s
  | .edgeResizeDone tile edge => Sys2Proof.Machine.execEdgeResizeDone tile edge s
  | .outputQueueDrain tile elem => Sys2Proof.Machine.execOutputQueueDrain tile elem s
  | .mailboxDeliver core pick => Sys2Proof.Machine.execMailboxDeliver core pick s
  | .roundNotice pick => Sys2Proof.Machine.execRoundNotice pick s
  | .kernelStart group => Sys2Proof.Machine.execKernelStart group s
  | .kernelEnd group => Sys2Proof.Machine.execKernelEnd group s
  | .requestTranslate req => Sys2Proof.Machine.execRequestTranslate req s
  | .orderClear req => Sys2Proof.Machine.execOrderClear req s
  | .fenceWPassed req => Sys2Proof.Machine.execFenceWPassed req s
  | .waveLinkAck pick => Sys2Proof.Machine.execWaveLinkAck pick s
  | .requestComplete req => Sys2Proof.Machine.execRequestComplete req s
  | .streamLatchDone tile port => Sys2Proof.Machine.execStreamLatchDone tile port s
  | .streamRowComplete tile port row => Sys2Proof.Machine.execStreamRowComplete tile port row s
  | .portRelatch tile port => Sys2Proof.Machine.execPortRelatch tile port s
  | .gatherRowComplete tile port row => Sys2Proof.Machine.execGatherRowComplete tile port row s
  | .circuitGranule tile circuit => Sys2Proof.Machine.execCircuitGranule tile circuit s
  | .colourDeadlock ctx => Sys2Proof.Machine.execColourDeadlock ctx s
  | .barrierArrival pick => Sys2Proof.Machine.execBarrierArrival pick s
  | .faultAppend pick => Sys2Proof.Machine.execFaultAppend pick s
  | .ccmdBuild ctx => Sys2Proof.Machine.execCcmdBuild ctx s
  | .ccmdReady ctx => Sys2Proof.Machine.execCcmdReady ctx s
  | .ccmdKill ctx => Sys2Proof.Machine.execCcmdKill ctx s
  | .ccmdResume ctx => Sys2Proof.Machine.execCcmdResume ctx s
  | .serain ctx => Sys2Proof.Machine.execSerain ctx s
  | .failpg ctx => Sys2Proof.Machine.execFailpg ctx s
  | .dlbud ctx => Sys2Proof.Machine.execDlbud ctx s
  | .drainComplete ctx => Sys2Proof.Machine.execDrainComplete ctx s
  | .drainTimeout ctx => Sys2Proof.Machine.execDrainTimeout ctx s
  | .hardSave ctx => Sys2Proof.Machine.execHardSave ctx s
  | .restore ctx => Sys2Proof.Machine.execRestore ctx s
  | .contextReclaimed ctx => Sys2Proof.Machine.execContextReclaimed ctx s
  | .doorbellRing value => Sys2Proof.Machine.execDoorbellRing value s
  | .doorbellEnable value => Sys2Proof.Machine.execDoorbellEnable value s
  | .doorbellDisable value => Sys2Proof.Machine.execDoorbellDisable value s
  | .queueHeadTest ctx queue => Sys2Proof.Machine.execQueueHeadTest ctx queue s
  | .placement => Sys2Proof.Machine.execPlacement s
  | .kernelLoad group => Sys2Proof.Machine.execKernelLoad group s
  | .preemptBudgetExpiry ctx queue => Sys2Proof.Machine.execPreemptBudgetExpiry ctx queue s
  | .kernelSignal group => Sys2Proof.Machine.execKernelSignal group s
  | .zeroingDone tile => Sys2Proof.Machine.execZeroingDone tile s
  | .restoreRebind ctx => Sys2Proof.Machine.execRestoreRebind ctx s
  | .linkTrained link => Sys2Proof.Machine.execLinkTrained link s
  | .linkTrainFailed link => Sys2Proof.Machine.execLinkTrainFailed link s
  | .flitReplay link => Sys2Proof.Machine.execFlitReplay link s
  | .replayFailed link => Sys2Proof.Machine.execReplayFailed link s
  | .retrainDone link => Sys2Proof.Machine.execRetrainDone link s
  | .hostAccess access => Sys2Proof.Machine.execHostAccess access s
  | .peerAccess access => Sys2Proof.Machine.execPeerAccess access s
  | .laneLend pc => Sys2Proof.Machine.execLaneLend pc s
  | .laneHandshakeDone pc => Sys2Proof.Machine.execLaneHandshakeDone pc s
  | .laneReclaim pc => Sys2Proof.Machine.execLaneReclaim pc s
  | .refreshDue pc bank => Sys2Proof.Machine.execRefreshDue pc bank s
  | .activationAlert pc bank => Sys2Proof.Machine.execActivationAlert pc bank s
  | .chainBeat adder data => Sys2Proof.Machine.execChainBeat adder data s
  | .adderAbort adder => Sys2Proof.Machine.execAdderAbort adder s
  | .powerUp => Sys2Proof.Machine.execPowerUp s
  | .powerSample => Sys2Proof.Machine.execPowerSample s
  | .patrolScrub address => Sys2Proof.Machine.execPatrolScrub address s
  | .sramScrub unit => Sys2Proof.Machine.execSramScrub unit s
  | .memoryRecalibration stack => Sys2Proof.Machine.execMemoryRecalibration stack s
  | .waitTimeout core => Sys2Proof.Machine.execWaitTimeout core s
  | .linkRecalibration link => Sys2Proof.Machine.execLinkRecalibration link s
  | .powerLoss => Sys2Proof.Machine.execPowerLoss s
  | .managementPortRequest access => Sys2Proof.Machine.execManagementPortRequest access s
  | .startLogClear => Sys2Proof.Machine.execStartLogClear s
  | .managementFaultLogClear => Sys2Proof.Machine.execManagementFaultLogClear s

end Sys2Proof.Machine
end

