-- ==== Sys2Proof/Machine/Step.lean ====
section
/-! DEFINITION. The step: the unit whose turn it is does one thing (R426). -/

namespace Sys2Proof.Machine

open Sys2Proof

/-- One step: the unit whose turn it is executes an instruction, or has nothing to do and its turn passes. -/
def step (s : State) : Host.Outcome State Fault Refusal :=
  match s.nextWork with
  | none => .next s.passTurn.advance
  | some (i, s') => finish (exec i s')

/-- A ready pair of slot 0 for an instruction: every token that it takes is 0 with the empty tag. -/
def readyPair (i : Instr) : LatchPair :=
  { slot := 0, entry := (inputPorts i).foldl (fun en p => en.fill p {} 0) { newEntry i 0 0 0 with state := .held } }

/-- The coordinate tokens that an instruction waits for: `MMAS` two empty vectors, each ended by a `STOP` 0 (R232). -/
def readyCoords (i : Instr) : List Token := if opcodeOf i = 0xAD then List.replicate 2 { kind := .stop } else []

/-- Slot 0 of element 0 of tile 0 holds an instruction that is ready to fire. -/
def State.withSlot (s : State) (i : Instr) : State :=
  { s.modElem 0 0 fun x =>
      { (x.modSlot 0 fun y => { y with word := some i, bmask := 0, start := (formOf i).arity == 3, coords := readyCoords i }) with
        state := .running, latch := if (formOf i).arity = 3 then none else some (readyPair i)
        entries := [], buf := [], out := [], skipBreak := false } with
    turn := .elem 0 0 }

/-- Drover core 0 fetches a word next, at its `PC`. -/
def State.withCode (s : State) (w : W128) : State :=
  { s.modCore 0 fun c =>
      { c with code := mapSet 0 c.code c.pc.toNat w, running := true, active := false, wait := .none, bkctl := 0 } with
    turn := .core 0 }

/-- The state with an instruction stored where the next step takes it, on a device that serves: a fabric word in a
slot that is ready to fire, any other word in the code of drover core 0. -/
def State.withFetchWord (s : State) (_nbits w : Nat) : State :=
  let s := s.modMgmt fun m => { m with start := .serving }
  match decodeBytes .fabric (toBytes w 16) with
  | .ok (i, _) => s.withSlot i
  | .error _ => s.withCode (wordOfBytes (toBytes w 16))

end Sys2Proof.Machine
end

