-- ==== Sys2Proof/Laws/PerInstr.lean ====
section
/-! SUPPORT. The family `Encoding`: what the encoding of each instruction owes to its syntax. -/

namespace Sys2Proof.Laws

set_option Elab.async false

open Sys2Proof

/-- An instruction with a word has an assigned opcode other than 0x00 and 0xFF, and from its opcode and fields the
decoder finds it again for every reader that it belongs to. An event has no word. -/
def Encoding.Statement (i : Instr) : Prop :=
  match i.parts with
  | some (opc, f) => 0 < opc ∧ opc < 255 ∧ (opSpec opc).isSome = true
      ∧ ∀ r, i.ownsFields r = true → instrOf r opc f = some i
  | none => ∀ r, i.wf r = false

/-- A row that has its opcode for itself. -/
theorem Encoding.single (i : Instr) (opc : Nat) (f : Form) (hp : i.parts = some (opc, f))
    (ho : 0 < opc ∧ opc < 255 ∧ (opSpec opc).isSome = true) (hi : ∀ r, instrOf r opc f = some i) :
    Encoding.Statement i := by
  unfold Encoding.Statement; rw [hp]; exact ⟨ho.1, ho.2.1, ho.2.2, fun r _ => hi r⟩

/-- A row that shares its opcode. -/
theorem Encoding.shared (i : Instr) (opc : Nat) (f : Form) (hp : i.parts = some (opc, f))
    (ho : 0 < opc ∧ opc < 255 ∧ (opSpec opc).isSome = true)
    (hi : ∀ r, i.ownsFields r = true → instrOf r opc f = some i) : Encoding.Statement i := by
  unfold Encoding.Statement; rw [hp]; exact ⟨ho.1, ho.2.1, ho.2.2, hi⟩

/-- An event. -/
theorem Encoding.event (i : Instr) (hp : i.parts = none) : Encoding.Statement i := by
  unfold Encoding.Statement; rw [hp]; intro r; unfold Instr.wf; rw [hp]

theorem Encoding.pass (f : Form) : Encoding.Statement (.pass f) :=
  Encoding.single _ 0x01 f rfl (by decide) fun _ => rfl
theorem Encoding.const (f : Form) : Encoding.Statement (.const f) :=
  Encoding.single _ 0x02 f rfl (by decide) fun _ => rfl
theorem Encoding.steer (f : Form) : Encoding.Statement (.steer f) :=
  Encoding.single _ 0x03 f rfl (by decide) fun _ => rfl
theorem Encoding.merge (f : Form) : Encoding.Statement (.merge f) :=
  Encoding.single _ 0x04 f rfl (by decide) fun _ => rfl
theorem Encoding.select (f : Form) : Encoding.Statement (.select f) :=
  Encoding.single _ 0x05 f rfl (by decide) fun _ => rfl
theorem Encoding.gate (f : Form) : Encoding.Statement (.gate f) :=
  Encoding.single _ 0x06 f rfl (by decide) fun _ => rfl
theorem Encoding.sink (f : Form) : Encoding.Statement (.sink f) :=
  Encoding.single _ 0x07 f rfl (by decide) fun _ => rfl
theorem Encoding.mark (f : Form) : Encoding.Statement (.mark f) :=
  Encoding.single _ 0x08 f rfl (by decide) fun _ => rfl
theorem Encoding.rndq (f : Form) : Encoding.Statement (.rndq f) :=
  Encoding.single _ 0x0A f rfl (by decide) fun _ => rfl
theorem Encoding.align (f : Form) : Encoding.Statement (.align f) :=
  Encoding.single _ 0x09 f rfl (by decide) fun _ => rfl
theorem Encoding.count (f : Form) : Encoding.Statement (.count f) :=
  Encoding.single _ 0x0B f rfl (by decide) fun _ => rfl
theorem Encoding.trap (f : Form) : Encoding.Statement (.trap f) :=
  Encoding.single _ 0x0C f rfl (by decide) fun _ => rfl
theorem Encoding.assert (f : Form) : Encoding.Statement (.assert f) :=
  Encoding.single _ 0x0D f rfl (by decide) fun _ => rfl
theorem Encoding.inj (f : Form) : Encoding.Statement (.inj f) :=
  Encoding.single _ 0x0E f rfl (by decide) fun _ => rfl
theorem Encoding.take (f : Form) : Encoding.Statement (.take f) :=
  Encoding.single _ 0x0F f rfl (by decide) fun _ => rfl
theorem Encoding.reconf (f : Form) : Encoding.Statement (.reconf f) :=
  Encoding.single _ 0x10 f rfl (by decide) fun _ => rfl
theorem Encoding.probe (f : Form) : Encoding.Statement (.probe f) :=
  Encoding.single _ 0x11 f rfl (by decide) fun _ => rfl
theorem Encoding.alloc (f : Form) : Encoding.Statement (.alloc f) :=
  Encoding.single _ 0x20 f rfl (by decide) fun _ => rfl
theorem Encoding.iter (f : Form) : Encoding.Statement (.iter f) :=
  Encoding.single _ 0x21 f rfl (by decide) fun _ => rfl
theorem Encoding.free (f : Form) : Encoding.Statement (.free f) :=
  Encoding.single _ 0x22 f rfl (by decide) fun _ => rfl
theorem Encoding.popt (f : Form) : Encoding.Statement (.popt f) :=
  Encoding.single _ 0x23 f rfl (by decide) fun _ => rfl
theorem Encoding.pusht (f : Form) : Encoding.Statement (.pusht f) :=
  Encoding.single _ 0x24 f rfl (by decide) fun _ => rfl
theorem Encoding.setit (f : Form) : Encoding.Statement (.setit f) :=
  Encoding.single _ 0x25 f rfl (by decide) fun _ => rfl
theorem Encoding.gettag (f : Form) : Encoding.Statement (.gettag f) :=
  Encoding.single _ 0x26 f rfl (by decide) fun _ => rfl
theorem Encoding.mktag (f : Form) : Encoding.Statement (.mktag f) :=
  Encoding.single _ 0x27 f rfl (by decide) fun _ => rfl
theorem Encoding.spawn (f : Form) : Encoding.Statement (.spawn f) :=
  Encoding.single _ 0x28 f rfl (by decide) fun _ => rfl
theorem Encoding.returnTok (f : Form) : Encoding.Statement (.returnTok f) :=
  Encoding.single _ 0x29 f rfl (by decide) fun _ => rfl
theorem Encoding.tsize (f : Form) : Encoding.Statement (.tsize f) :=
  Encoding.single _ 0x2A f rfl (by decide) fun _ => rfl
theorem Encoding.colq (f : Form) : Encoding.Statement (.colq f) :=
  Encoding.single _ 0x2B f rfl (by decide) fun _ => rfl
theorem Encoding.add (f : Form) : Encoding.Statement (.add f) :=
  Encoding.single _ 0x40 f rfl (by decide) fun _ => rfl
theorem Encoding.sub (f : Form) : Encoding.Statement (.sub f) :=
  Encoding.single _ 0x41 f rfl (by decide) fun _ => rfl
theorem Encoding.mul (f : Form) : Encoding.Statement (.mul f) :=
  Encoding.single _ 0x42 f rfl (by decide) fun _ => rfl
theorem Encoding.mulh (f : Form) : Encoding.Statement (.mulh f) :=
  Encoding.single _ 0x43 f rfl (by decide) fun _ => rfl
theorem Encoding.mad (f : Form) : Encoding.Statement (.mad f) :=
  Encoding.single _ 0x44 f rfl (by decide) fun _ => rfl
theorem Encoding.div (f : Form) : Encoding.Statement (.div f) :=
  Encoding.single _ 0x45 f rfl (by decide) fun _ => rfl
theorem Encoding.rem (f : Form) : Encoding.Statement (.rem f) :=
  Encoding.single _ 0x46 f rfl (by decide) fun _ => rfl
theorem Encoding.neg (f : Form) : Encoding.Statement (.neg f) :=
  Encoding.single _ 0x47 f rfl (by decide) fun _ => rfl
theorem Encoding.abs (f : Form) : Encoding.Statement (.abs f) :=
  Encoding.single _ 0x48 f rfl (by decide) fun _ => rfl
theorem Encoding.min (f : Form) : Encoding.Statement (.min f) :=
  Encoding.single _ 0x49 f rfl (by decide) fun _ => rfl
theorem Encoding.max (f : Form) : Encoding.Statement (.max f) :=
  Encoding.single _ 0x4A f rfl (by decide) fun _ => rfl
theorem Encoding.cmp (f : Form) : Encoding.Statement (.cmp f) :=
  Encoding.single _ 0x4B f rfl (by decide) fun _ => rfl
theorem Encoding.and (f : Form) : Encoding.Statement (.and f) :=
  Encoding.single _ 0x4C f rfl (by decide) fun _ => rfl
theorem Encoding.or (f : Form) : Encoding.Statement (.or f) :=
  Encoding.single _ 0x4D f rfl (by decide) fun _ => rfl
theorem Encoding.xor (f : Form) : Encoding.Statement (.xor f) :=
  Encoding.single _ 0x4E f rfl (by decide) fun _ => rfl
theorem Encoding.not (f : Form) : Encoding.Statement (.not f) :=
  Encoding.single _ 0x4F f rfl (by decide) fun _ => rfl
theorem Encoding.shl (f : Form) : Encoding.Statement (.shl f) :=
  Encoding.single _ 0x50 f rfl (by decide) fun _ => rfl
theorem Encoding.shr (f : Form) : Encoding.Statement (.shr f) :=
  Encoding.single _ 0x51 f rfl (by decide) fun _ => rfl
theorem Encoding.sar (f : Form) : Encoding.Statement (.sar f) :=
  Encoding.single _ 0x52 f rfl (by decide) fun _ => rfl
theorem Encoding.rot (f : Form) : Encoding.Statement (.rot f) :=
  Encoding.single _ 0x53 f rfl (by decide) fun _ => rfl
theorem Encoding.clz (f : Form) : Encoding.Statement (.clz f) :=
  Encoding.single _ 0x54 f rfl (by decide) fun _ => rfl
theorem Encoding.popc (f : Form) : Encoding.Statement (.popc f) :=
  Encoding.single _ 0x55 f rfl (by decide) fun _ => rfl
theorem Encoding.bfx (f : Form) : Encoding.Statement (.bfx f) :=
  Encoding.single _ 0x56 f rfl (by decide) fun _ => rfl
theorem Encoding.bfi (f : Form) : Encoding.Statement (.bfi f) :=
  Encoding.single _ 0x57 f rfl (by decide) fun _ => rfl
theorem Encoding.ext (f : Form) : Encoding.Statement (.ext f) :=
  Encoding.single _ 0x58 f rfl (by decide) fun _ => rfl
theorem Encoding.agen (f : Form) : Encoding.Statement (.agen f) :=
  Encoding.single _ 0x59 f rfl (by decide) fun _ => rfl
theorem Encoding.sat (f : Form) : Encoding.Statement (.sat f) :=
  Encoding.single _ 0x5A f rfl (by decide) fun _ => rfl
theorem Encoding.fadd (f : Form) : Encoding.Statement (.fadd f) :=
  Encoding.single _ 0x60 f rfl (by decide) fun _ => rfl
theorem Encoding.fsub (f : Form) : Encoding.Statement (.fsub f) :=
  Encoding.single _ 0x61 f rfl (by decide) fun _ => rfl
theorem Encoding.fmul (f : Form) : Encoding.Statement (.fmul f) :=
  Encoding.single _ 0x62 f rfl (by decide) fun _ => rfl
theorem Encoding.fma (f : Form) : Encoding.Statement (.fma f) :=
  Encoding.single _ 0x63 f rfl (by decide) fun _ => rfl
theorem Encoding.fdiv (f : Form) : Encoding.Statement (.fdiv f) :=
  Encoding.single _ 0x6E f rfl (by decide) fun _ => rfl
theorem Encoding.fmin (f : Form) : Encoding.Statement (.fmin f) :=
  Encoding.single _ 0x64 f rfl (by decide) fun _ => rfl
theorem Encoding.fmax (f : Form) : Encoding.Statement (.fmax f) :=
  Encoding.single _ 0x65 f rfl (by decide) fun _ => rfl
theorem Encoding.fabs (f : Form) : Encoding.Statement (.fabs f) :=
  Encoding.single _ 0x66 f rfl (by decide) fun _ => rfl
theorem Encoding.fneg (f : Form) : Encoding.Statement (.fneg f) :=
  Encoding.single _ 0x67 f rfl (by decide) fun _ => rfl
theorem Encoding.fcmp (f : Form) : Encoding.Statement (.fcmp f) :=
  Encoding.single _ 0x68 f rfl (by decide) fun _ => rfl
theorem Encoding.fclass (f : Form) : Encoding.Statement (.fclass f) :=
  Encoding.single _ 0x77 f rfl (by decide) fun _ => rfl
theorem Encoding.frcp (f : Form) : Encoding.Statement (.frcp f) :=
  Encoding.single _ 0x69 f rfl (by decide) fun _ => rfl
theorem Encoding.frsq (f : Form) : Encoding.Statement (.frsq f) :=
  Encoding.single _ 0x6A f rfl (by decide) fun _ => rfl
theorem Encoding.fsqrt (f : Form) : Encoding.Statement (.fsqrt f) :=
  Encoding.single _ 0x6B f rfl (by decide) fun _ => rfl
theorem Encoding.fexp2 (f : Form) : Encoding.Statement (.fexp2 f) :=
  Encoding.single _ 0x6C f rfl (by decide) fun _ => rfl
theorem Encoding.flog2 (f : Form) : Encoding.Statement (.flog2 f) :=
  Encoding.single _ 0x6D f rfl (by decide) fun _ => rfl
theorem Encoding.cvt (f : Form) : Encoding.Statement (.cvt f) :=
  Encoding.single _ 0x6F f rfl (by decide) fun _ => rfl
theorem Encoding.frnd (f : Form) : Encoding.Statement (.frnd f) :=
  Encoding.single _ 0x70 f rfl (by decide) fun _ => rfl
theorem Encoding.vdot (f : Form) : Encoding.Statement (.vdot f) :=
  Encoding.single _ 0x71 f rfl (by decide) fun _ => rfl
theorem Encoding.vsum (f : Form) : Encoding.Statement (.vsum f) :=
  Encoding.single _ 0x72 f rfl (by decide) fun _ => rfl
theorem Encoding.vpack (f : Form) : Encoding.Statement (.vpack f) :=
  Encoding.single _ 0x73 f rfl (by decide) fun _ => rfl
theorem Encoding.vunpk (f : Form) : Encoding.Statement (.vunpk f) :=
  Encoding.single _ 0x74 f rfl (by decide) fun _ => rfl
theorem Encoding.vshuf (f : Form) : Encoding.Statement (.vshuf f) :=
  Encoding.single _ 0x75 f rfl (by decide) fun _ => rfl
theorem Encoding.scaleSend (f : Form) : Encoding.Statement (.scaleSend f) :=
  Encoding.shared _ 0x76 f rfl (by decide) fun r h => by
    show some (α := Instr) (if f.arity == 0 then .scaleSend f else .scaleApply f) = _
    simp [Instr.ownsFields] at h; simp [h]
theorem Encoding.scaleApply (f : Form) : Encoding.Statement (.scaleApply f) :=
  Encoding.shared _ 0x76 f rfl (by decide) fun r h => by
    show some (α := Instr) (if f.arity == 0 then .scaleSend f else .scaleApply f) = _
    simp [Instr.ownsFields] at h; simp [h]
theorem Encoding.ld (f : Form) : Encoding.Statement (.ld f) :=
  Encoding.single _ 0x80 f rfl (by decide) fun _ => rfl
theorem Encoding.st (f : Form) : Encoding.Statement (.st f) :=
  Encoding.single _ 0x81 f rfl (by decide) fun _ => rfl
theorem Encoding.lds (f : Form) : Encoding.Statement (.lds f) :=
  Encoding.single _ 0x82 f rfl (by decide) fun _ => rfl
theorem Encoding.sts (f : Form) : Encoding.Statement (.sts f) :=
  Encoding.single _ 0x83 f rfl (by decide) fun _ => rfl
theorem Encoding.lkup (f : Form) : Encoding.Statement (.lkup f) :=
  Encoding.single _ 0x84 f rfl (by decide) fun _ => rfl
theorem Encoding.ttset (f : Form) : Encoding.Statement (.ttset f) :=
  Encoding.single _ 0x85 f rfl (by decide) fun _ => rfl
theorem Encoding.ttinv (f : Form) : Encoding.Statement (.ttinv f) :=
  Encoding.single _ 0x86 f rfl (by decide) fun _ => rfl
theorem Encoding.feq (f : Form) : Encoding.Statement (.feq f) :=
  Encoding.single _ 0x87 f rfl (by decide) fun _ => rfl
theorem Encoding.feset (f : Form) : Encoding.Statement (.feset f) :=
  Encoding.single _ 0x88 f rfl (by decide) fun _ => rfl
theorem Encoding.atom (f : Form) : Encoding.Statement (.atom f) :=
  Encoding.single _ 0x89 f rfl (by decide) fun _ => rfl
theorem Encoding.red (f : Form) : Encoding.Statement (.red f) :=
  Encoding.single _ 0x8A f rfl (by decide) fun _ => rfl
theorem Encoding.fence (f : Form) : Encoding.Statement (.fence f) :=
  Encoding.single _ 0x8B f rfl (by decide) fun _ => rfl
theorem Encoding.xfence (f : Form) : Encoding.Statement (.xfence f) :=
  Encoding.single _ 0x8C f rfl (by decide) fun _ => rfl
theorem Encoding.reord (f : Form) : Encoding.Statement (.reord f) :=
  Encoding.single _ 0x8D f rfl (by decide) fun _ => rfl
theorem Encoding.pref (f : Form) : Encoding.Statement (.pref f) :=
  Encoding.single _ 0x8E f rfl (by decide) fun _ => rfl
theorem Encoding.strm (f : Form) : Encoding.Statement (.strm f) :=
  Encoding.single _ 0xA0 f rfl (by decide) fun _ => rfl
theorem Encoding.gthr (f : Form) : Encoding.Statement (.gthr f) :=
  Encoding.single _ 0xA1 f rfl (by decide) fun _ => rfl
theorem Encoding.scat (f : Form) : Encoding.Statement (.scat f) :=
  Encoding.single _ 0xA2 f rfl (by decide) fun _ => rfl
theorem Encoding.sclose (f : Form) : Encoding.Statement (.sclose f) :=
  Encoding.shared _ 0xA3 f rfl (by decide) fun r h => by
    show some (α := Instr) (if !bitOf f.mod.toNat 3 then .sclose f else .scloseCut f) = _
    simp [Instr.ownsFields] at h; simp [h]
theorem Encoding.scloseCut (f : Form) : Encoding.Statement (.scloseCut f) :=
  Encoding.shared _ 0xA3 f rfl (by decide) fun r h => by
    show some (α := Instr) (if !bitOf f.mod.toNat 3 then .sclose f else .scloseCut f) = _
    simp [Instr.ownsFields] at h; simp [h]
theorem Encoding.swait (f : Form) : Encoding.Statement (.swait f) :=
  Encoding.single _ 0xA4 f rfl (by decide) fun _ => rfl
theorem Encoding.sbar (f : Form) : Encoding.Statement (.sbar f) :=
  Encoding.single _ 0xA5 f rfl (by decide) fun _ => rfl
theorem Encoding.circ (f : Form) : Encoding.Statement (.circ f) :=
  Encoding.single _ 0xA6 f rfl (by decide) fun _ => rfl
theorem Encoding.circx (f : Form) : Encoding.Statement (.circx f) :=
  Encoding.single _ 0xA7 f rfl (by decide) fun _ => rfl
theorem Encoding.ring (f : Form) : Encoding.Statement (.ring f) :=
  Encoding.single _ 0xA8 f rfl (by decide) fun _ => rfl
theorem Encoding.rcommitRsv (f : Form) : Encoding.Statement (.rcommitRsv f) :=
  Encoding.shared _ 0xA9 f rfl (by decide) fun r h => by
    show some (α := Instr) (if bitsOf f.mod.toNat 3 2 == 0 then .rcommitRsv f else if bitsOf f.mod.toNat 3 2 == 1 then .rcommitRsvw f else if bitsOf f.mod.toNat 3 2 == 2 then .rcommitPub f else .rcommitTail f) = _
    simp [Instr.ownsFields] at h; simp [h]
theorem Encoding.rcommitRsvw (f : Form) : Encoding.Statement (.rcommitRsvw f) :=
  Encoding.shared _ 0xA9 f rfl (by decide) fun r h => by
    show some (α := Instr) (if bitsOf f.mod.toNat 3 2 == 0 then .rcommitRsv f else if bitsOf f.mod.toNat 3 2 == 1 then .rcommitRsvw f else if bitsOf f.mod.toNat 3 2 == 2 then .rcommitPub f else .rcommitTail f) = _
    simp [Instr.ownsFields] at h; simp [h]
theorem Encoding.rcommitPub (f : Form) : Encoding.Statement (.rcommitPub f) :=
  Encoding.shared _ 0xA9 f rfl (by decide) fun r h => by
    show some (α := Instr) (if bitsOf f.mod.toNat 3 2 == 0 then .rcommitRsv f else if bitsOf f.mod.toNat 3 2 == 1 then .rcommitRsvw f else if bitsOf f.mod.toNat 3 2 == 2 then .rcommitPub f else .rcommitTail f) = _
    simp [Instr.ownsFields] at h; simp [h]
theorem Encoding.rcommitTail (f : Form) : Encoding.Statement (.rcommitTail f) :=
  Encoding.shared _ 0xA9 f rfl (by decide) fun r h => by
    show some (α := Instr) (if bitsOf f.mod.toNat 3 2 == 0 then .rcommitRsv f else if bitsOf f.mod.toNat 3 2 == 1 then .rcommitRsvw f else if bitsOf f.mod.toNat 3 2 == 2 then .rcommitPub f else .rcommitTail f) = _
    simp [Instr.ownsFields] at h; simp [h]
theorem Encoding.rpop (f : Form) : Encoding.Statement (.rpop f) :=
  Encoding.single _ 0xAA f rfl (by decide) fun _ => rfl
theorem Encoding.rstatRing (f : Form) : Encoding.Statement (.rstatRing f) :=
  Encoding.shared _ 0xAB f rfl (by decide) fun r h => by
    show some (α := Instr) (if bitsOf f.mod.toNat 3 2 == 0 then .rstatRing f else if bitsOf f.mod.toNat 3 2 == 1 then .rstatEng f else .rstatEngclr f) = _
    simp [Instr.ownsFields] at h; simp [h]
theorem Encoding.rstatEng (f : Form) : Encoding.Statement (.rstatEng f) :=
  Encoding.shared _ 0xAB f rfl (by decide) fun r h => by
    show some (α := Instr) (if bitsOf f.mod.toNat 3 2 == 0 then .rstatRing f else if bitsOf f.mod.toNat 3 2 == 1 then .rstatEng f else .rstatEngclr f) = _
    simp [Instr.ownsFields] at h; simp [h]
theorem Encoding.rstatEngclr (f : Form) : Encoding.Statement (.rstatEngclr f) :=
  Encoding.shared _ 0xAB f rfl (by decide) fun r h => by
    show some (α := Instr) (if bitsOf f.mod.toNat 3 2 == 0 then .rstatRing f else if bitsOf f.mod.toNat 3 2 == 1 then .rstatEng f else .rstatEngclr f) = _
    simp [Instr.ownsFields] at h
    simp only [beq_iff_eq]
    repeat (first | rw [if_neg (by omega)] | rfl)
theorem Encoding.mma (f : Form) : Encoding.Statement (.mma f) :=
  Encoding.single _ 0xAC f rfl (by decide) fun _ => rfl
theorem Encoding.mmas (f : Form) : Encoding.Statement (.mmas f) :=
  Encoding.single _ 0xAD f rfl (by decide) fun _ => rfl
theorem Encoding.accz (f : Form) : Encoding.Statement (.accz f) :=
  Encoding.single _ 0xAE f rfl (by decide) fun _ => rfl
theorem Encoding.accrd (f : Form) : Encoding.Statement (.accrd f) :=
  Encoding.single _ 0xAF f rfl (by decide) fun _ => rfl
theorem Encoding.nzscan (f : Form) : Encoding.Statement (.nzscan f) :=
  Encoding.single _ 0xB0 f rfl (by decide) fun _ => rfl
theorem Encoding.xsplit (f : Form) : Encoding.Statement (.xsplit f) :=
  Encoding.single _ 0xB1 f rfl (by decide) fun _ => rfl
theorem Encoding.tapp (f : Form) : Encoding.Statement (.tapp f) :=
  Encoding.single _ 0xC0 f rfl (by decide) fun _ => rfl
theorem Encoding.tfork (f : Form) : Encoding.Statement (.tfork f) :=
  Encoding.single _ 0xC1 f rfl (by decide) fun _ => rfl
theorem Encoding.tckpt (f : Form) : Encoding.Statement (.tckpt f) :=
  Encoding.single _ 0xC2 f rfl (by decide) fun _ => rfl
theorem Encoding.tcommit (f : Form) : Encoding.Statement (.tcommit f) :=
  Encoding.single _ 0xC3 f rfl (by decide) fun _ => rfl
theorem Encoding.ttrunc (f : Form) : Encoding.Statement (.ttrunc f) :=
  Encoding.single _ 0xC4 f rfl (by decide) fun _ => rfl
theorem Encoding.tevict (f : Form) : Encoding.Statement (.tevict f) :=
  Encoding.single _ 0xC5 f rfl (by decide) fun _ => rfl
theorem Encoding.tdesc (f : Form) : Encoding.Statement (.tdesc f) :=
  Encoding.single _ 0xC6 f rfl (by decide) fun _ => rfl
theorem Encoding.tmask (f : Form) : Encoding.Statement (.tmask f) :=
  Encoding.single _ 0xC7 f rfl (by decide) fun _ => rfl
theorem Encoding.tstatLen (f : Form) : Encoding.Statement (.tstatLen f) :=
  Encoding.shared _ 0xC8 f rfl (by decide) fun r h => by
    show some (α := Instr) (if f.mod == 0 then .tstatLen f else .tstatPool f) = _
    simp [Instr.ownsFields] at h; simp [h]
theorem Encoding.tstatPool (f : Form) : Encoding.Statement (.tstatPool f) :=
  Encoding.shared _ 0xC8 f rfl (by decide) fun r h => by
    show some (α := Instr) (if f.mod == 0 then .tstatLen f else .tstatPool f) = _
    simp [Instr.ownsFields] at h; simp [h]
theorem Encoding.rope3Rot (f : Form) : Encoding.Statement (.rope3Rot f) :=
  Encoding.shared _ 0xC9 f rfl (by decide) fun r h => by
    show some (α := Instr) (if f.mod == 0 then .rope3Rot f else if f.mod == 1 then .rope3Set f else if f.mod == 2 then .rope3Getlo f else .rope3Gethi f) = _
    simp [Instr.ownsFields] at h; simp [h]
theorem Encoding.rope3Set (f : Form) : Encoding.Statement (.rope3Set f) :=
  Encoding.shared _ 0xC9 f rfl (by decide) fun r h => by
    show some (α := Instr) (if f.mod == 0 then .rope3Rot f else if f.mod == 1 then .rope3Set f else if f.mod == 2 then .rope3Getlo f else .rope3Gethi f) = _
    simp [Instr.ownsFields] at h; simp [h]
theorem Encoding.rope3Getlo (f : Form) : Encoding.Statement (.rope3Getlo f) :=
  Encoding.shared _ 0xC9 f rfl (by decide) fun r h => by
    show some (α := Instr) (if f.mod == 0 then .rope3Rot f else if f.mod == 1 then .rope3Set f else if f.mod == 2 then .rope3Getlo f else .rope3Gethi f) = _
    simp [Instr.ownsFields] at h; simp [h]
theorem Encoding.rope3Gethi (f : Form) : Encoding.Statement (.rope3Gethi f) :=
  Encoding.shared _ 0xC9 f rfl (by decide) fun r h => by
    show some (α := Instr) (if f.mod == 0 then .rope3Rot f else if f.mod == 1 then .rope3Set f else if f.mod == 2 then .rope3Getlo f else .rope3Gethi f) = _
    simp [Instr.ownsFields] at h
    simp only [beq_iff_eq, BitVec.toNat_eq, BitVec.ofNat_eq_ofNat, BitVec.toNat_ofNat]
    repeat (first | rw [if_neg (by omega)] | rfl)
theorem Encoding.tfree (f : Form) : Encoding.Statement (.tfree f) :=
  Encoding.single _ 0xCA f rfl (by decide) fun _ => rfl
theorem Encoding.gmask (f : Form) : Encoding.Statement (.gmask f) :=
  Encoding.shared _ 0xD0 f rfl (by decide) fun r h => by
    show some (α := Instr) (if f.mod == 0 then .gmask f else .gmaskH f) = _
    simp [Instr.ownsFields] at h; simp [h]
theorem Encoding.gmaskH (f : Form) : Encoding.Statement (.gmaskH f) :=
  Encoding.shared _ 0xD0 f rfl (by decide) fun r h => by
    show some (α := Instr) (if f.mod == 0 then .gmask f else .gmaskH f) = _
    simp [Instr.ownsFields] at h
    simp only [beq_iff_eq, BitVec.toNat_eq, BitVec.ofNat_eq_ofNat, BitVec.toNat_ofNat]
    repeat (first | rw [if_neg (by omega)] | rfl)
theorem Encoding.gstep (f : Form) : Encoding.Statement (.gstep f) :=
  Encoding.shared _ 0xD1 f rfl (by decide) fun r h => by
    show some (α := Instr) (if f.mod == 0 then .gstep f else .gstepH f) = _
    simp [Instr.ownsFields] at h; simp [h]
theorem Encoding.gstepH (f : Form) : Encoding.Statement (.gstepH f) :=
  Encoding.shared _ 0xD1 f rfl (by decide) fun r h => by
    show some (α := Instr) (if f.mod == 0 then .gstep f else .gstepH f) = _
    simp [Instr.ownsFields] at h
    simp only [beq_iff_eq, BitVec.toNat_eq, BitVec.ofNat_eq_ofNat, BitVec.toNat_ofNat]
    repeat (first | rw [if_neg (by omega)] | rfl)
theorem Encoding.gsnap (f : Form) : Encoding.Statement (.gsnap f) :=
  Encoding.single _ 0xD2 f rfl (by decide) fun _ => rfl
theorem Encoding.grest (f : Form) : Encoding.Statement (.grest f) :=
  Encoding.single _ 0xD3 f rfl (by decide) fun _ => rfl
theorem Encoding.gfork (f : Form) : Encoding.Statement (.gfork f) :=
  Encoding.single _ 0xD4 f rfl (by decide) fun _ => rfl
theorem Encoding.gdrop (f : Form) : Encoding.Statement (.gdrop f) :=
  Encoding.single _ 0xD5 f rfl (by decide) fun _ => rfl
theorem Encoding.samp (f : Form) : Encoding.Statement (.samp f) :=
  Encoding.single _ 0xD6 f rfl (by decide) fun _ => rfl
theorem Encoding.lstat (f : Form) : Encoding.Statement (.lstat f) :=
  Encoding.single _ 0xD7 f rfl (by decide) fun _ => rfl
theorem Encoding.penal (f : Form) : Encoding.Statement (.penal f) :=
  Encoding.single _ 0xD8 f rfl (by decide) fun _ => rfl
theorem Encoding.acceptOpen (f : Form) : Encoding.Statement (.acceptOpen f) :=
  Encoding.shared _ 0xD9 f rfl (by decide) fun r h => by
    show some (α := Instr) (if f.mod == 1 then .acceptOpen f else if f.mod == 0 then .acceptWalk f else .acceptAbort f) = _
    simp [Instr.ownsFields] at h; simp [h]
theorem Encoding.acceptWalk (f : Form) : Encoding.Statement (.acceptWalk f) :=
  Encoding.shared _ 0xD9 f rfl (by decide) fun r h => by
    show some (α := Instr) (if f.mod == 1 then .acceptOpen f else if f.mod == 0 then .acceptWalk f else .acceptAbort f) = _
    simp [Instr.ownsFields] at h; simp [h]
theorem Encoding.acceptAbort (f : Form) : Encoding.Statement (.acceptAbort f) :=
  Encoding.shared _ 0xD9 f rfl (by decide) fun r h => by
    show some (α := Instr) (if f.mod == 1 then .acceptOpen f else if f.mod == 0 then .acceptWalk f else .acceptAbort f) = _
    simp [Instr.ownsFields] at h
    simp only [beq_iff_eq, BitVec.toNat_eq, BitVec.ofNat_eq_ofNat, BitVec.toNat_ofNat]
    repeat (first | rw [if_neg (by omega)] | rfl)
theorem Encoding.commit (f : Form) : Encoding.Statement (.commit f) :=
  Encoding.shared _ 0xDA f rfl (by decide) fun r h => by
    show some (α := Instr) (if f.mod == 0 then .commit f else .commitFree f) = _
    simp [Instr.ownsFields] at h; simp [h]
theorem Encoding.commitFree (f : Form) : Encoding.Statement (.commitFree f) :=
  Encoding.shared _ 0xDA f rfl (by decide) fun r h => by
    show some (α := Instr) (if f.mod == 0 then .commit f else .commitFree f) = _
    simp [Instr.ownsFields] at h
    simp only [beq_iff_eq, BitVec.toNat_eq, BitVec.ofNat_eq_ofNat, BitVec.toNat_ofNat]
    repeat (first | rw [if_neg (by omega)] | rfl)
theorem Encoding.rng (f : Form) : Encoding.Statement (.rng f) :=
  Encoding.single _ 0xDB f rfl (by decide) fun _ => rfl
theorem Encoding.jmp (f : Form) : Encoding.Statement (.jmp f) :=
  Encoding.single _ 0xE0 f rfl (by decide) fun _ => rfl
theorem Encoding.br (f : Form) : Encoding.Statement (.br f) :=
  Encoding.single _ 0xE1 f rfl (by decide) fun _ => rfl
theorem Encoding.call (f : Form) : Encoding.Statement (.call f) :=
  Encoding.single _ 0xE2 f rfl (by decide) fun _ => rfl
theorem Encoding.ret (f : Form) : Encoding.Statement (.ret f) :=
  Encoding.single _ 0xE3 f rfl (by decide) fun _ => rfl
theorem Encoding.sysrd (f : Form) : Encoding.Statement (.sysrd f) :=
  Encoding.single _ 0xE4 f rfl (by decide) fun _ => rfl
theorem Encoding.syswr (f : Form) : Encoding.Statement (.syswr f) :=
  Encoding.single _ 0xE5 f rfl (by decide) fun _ => rfl
theorem Encoding.eret (f : Form) : Encoding.Statement (.eret f) :=
  Encoding.single _ 0xE6 f rfl (by decide) fun _ => rfl
theorem Encoding.exit (f : Form) : Encoding.Statement (.exit f) :=
  Encoding.shared _ 0xE7 f rfl (by decide) fun r h => by
    show some (α := Instr) (if f.mod == 0 then .exit f else .exitDiscard f) = _
    simp [Instr.ownsFields] at h; simp [h]
theorem Encoding.exitDiscard (f : Form) : Encoding.Statement (.exitDiscard f) :=
  Encoding.shared _ 0xE7 f rfl (by decide) fun r h => by
    show some (α := Instr) (if f.mod == 0 then .exit f else .exitDiscard f) = _
    simp [Instr.ownsFields] at h
    simp only [beq_iff_eq, BitVec.toNat_eq, BitVec.ofNat_eq_ofNat, BitVec.toNat_ofNat]
    repeat (first | rw [if_neg (by omega)] | rfl)
theorem Encoding.wait (f : Form) : Encoding.Statement (.wait f) :=
  Encoding.single _ 0xE8 f rfl (by decide) fun _ => rfl
theorem Encoding.qpost (f : Form) : Encoding.Statement (.qpost f) :=
  Encoding.single _ 0xE9 f rfl (by decide) fun _ => rfl
theorem Encoding.evsigAdd (f : Form) : Encoding.Statement (.evsigAdd f) :=
  Encoding.shared _ 0xEA f rfl (by decide) fun r h => by
    show some (α := Instr) (if f.mod == 0 then .evsigAdd f else .evsigSet f) = _
    simp [Instr.ownsFields] at h; simp [h]
theorem Encoding.evsigSet (f : Form) : Encoding.Statement (.evsigSet f) :=
  Encoding.shared _ 0xEA f rfl (by decide) fun r h => by
    show some (α := Instr) (if f.mod == 0 then .evsigAdd f else .evsigSet f) = _
    simp [Instr.ownsFields] at h
    simp only [beq_iff_eq, BitVec.toNat_eq, BitVec.ofNat_eq_ofNat, BitVec.toNat_ofNat]
    repeat (first | rw [if_neg (by omega)] | rfl)
theorem Encoding.launch (f : Form) : Encoding.Statement (.launch f) :=
  Encoding.single _ 0xEB f rfl (by decide) fun _ => rfl
theorem Encoding.cfgw (f : Form) : Encoding.Statement (.cfgw f) :=
  Encoding.single _ 0xEC f rfl (by decide) fun _ => rfl
theorem Encoding.cfgr (f : Form) : Encoding.Statement (.cfgr f) :=
  Encoding.single _ 0xED f rfl (by decide) fun _ => rfl
theorem Encoding.cfgclrTile (f : Form) : Encoding.Statement (.cfgclrTile f) :=
  Encoding.shared _ 0xEE f rfl (by decide) fun r h => by
    show some (α := Instr) (if f.mod == 0 then .cfgclrTile f else .cfgclrElem f) = _
    simp [Instr.ownsFields] at h; simp [h]
theorem Encoding.cfgclrElem (f : Form) : Encoding.Statement (.cfgclrElem f) :=
  Encoding.shared _ 0xEE f rfl (by decide) fun r h => by
    show some (α := Instr) (if f.mod == 0 then .cfgclrTile f else .cfgclrElem f) = _
    simp [Instr.ownsFields] at h
    simp only [beq_iff_eq, BitVec.toNat_eq, BitVec.ofNat_eq_ofNat, BitVec.toNat_ofNat]
    repeat (first | rw [if_neg (by omega)] | rfl)
theorem Encoding.bkptSet (f : Form) : Encoding.Statement (.bkptSet f) :=
  Encoding.shared _ 0xFE f rfl (by decide) fun r h => by
    show some (α := Instr) (if f.mod == 0 then .bkptSet f else if f.mod == 1 then .bkptClr f else .bkptRes f) = _
    simp [Instr.ownsFields] at h; simp [h]
theorem Encoding.bkptClr (f : Form) : Encoding.Statement (.bkptClr f) :=
  Encoding.shared _ 0xFE f rfl (by decide) fun r h => by
    show some (α := Instr) (if f.mod == 0 then .bkptSet f else if f.mod == 1 then .bkptClr f else .bkptRes f) = _
    simp [Instr.ownsFields] at h; simp [h]
theorem Encoding.bkptRes (f : Form) : Encoding.Statement (.bkptRes f) :=
  Encoding.shared _ 0xFE f rfl (by decide) fun r h => by
    show some (α := Instr) (if f.mod == 0 then .bkptSet f else if f.mod == 1 then .bkptClr f else .bkptRes f) = _
    simp [Instr.ownsFields] at h
    simp only [beq_iff_eq, BitVec.toNat_eq, BitVec.ofNat_eq_ofNat, BitVec.toNat_ofNat]
    repeat (first | rw [if_neg (by omega)] | rfl)
theorem Encoding.sigchk (f : Form) : Encoding.Statement (.sigchk f) :=
  Encoding.single _ 0xFB f rfl (by decide) fun _ => rfl
theorem Encoding.dgst (f : Form) : Encoding.Statement (.dgst f) :=
  Encoding.single _ 0xFC f rfl (by decide) fun _ => rfl
theorem Encoding.crcMem (f : Form) : Encoding.Statement (.crcMem f) :=
  Encoding.shared _ 0xFD f rfl (by decide) fun r h => by
    show some (α := Instr) (if f.mod == 0 then .crcMem f else .crcTile f) = _
    simp [Instr.ownsFields] at h; simp [h]
theorem Encoding.crcTile (f : Form) : Encoding.Statement (.crcTile f) :=
  Encoding.shared _ 0xFD f rfl (by decide) fun r h => by
    show some (α := Instr) (if f.mod == 0 then .crcMem f else .crcTile f) = _
    simp [Instr.ownsFields] at h
    simp only [beq_iff_eq, BitVec.toNat_eq, BitVec.ofNat_eq_ofNat, BitVec.toNat_ofNat]
    repeat (first | rw [if_neg (by omega)] | rfl)
theorem Encoding.gbind (f : Form) : Encoding.Statement (.gbind f) :=
  Encoding.single _ 0xEF f rfl (by decide) fun _ => rfl
theorem Encoding.grel (f : Form) : Encoding.Statement (.grel f) :=
  Encoding.shared _ 0xF0 f rfl (by decide) fun r h => by
    show some (α := Instr) (if f.mod == 0 then .grel f else .grelForce f) = _
    simp [Instr.ownsFields] at h; simp [h]
theorem Encoding.grelForce (f : Form) : Encoding.Statement (.grelForce f) :=
  Encoding.shared _ 0xF0 f rfl (by decide) fun r h => by
    show some (α := Instr) (if f.mod == 0 then .grel f else .grelForce f) = _
    simp [Instr.ownsFields] at h
    simp only [beq_iff_eq, BitVec.toNat_eq, BitVec.ofNat_eq_ofNat, BitVec.toNat_ofNat]
    repeat (first | rw [if_neg (by omega)] | rfl)
theorem Encoding.barinitAlloc (f : Form) : Encoding.Statement (.barinitAlloc f) :=
  Encoding.shared _ 0xF1 f rfl (by decide) fun r h => by
    show some (α := Instr) (if f.mod == 0 then .barinitAlloc f else if f.mod == 1 then .barinitFree f else .barinitQuery f) = _
    simp [Instr.ownsFields] at h; simp [h]
theorem Encoding.barinitFree (f : Form) : Encoding.Statement (.barinitFree f) :=
  Encoding.shared _ 0xF1 f rfl (by decide) fun r h => by
    show some (α := Instr) (if f.mod == 0 then .barinitAlloc f else if f.mod == 1 then .barinitFree f else .barinitQuery f) = _
    simp [Instr.ownsFields] at h; simp [h]
theorem Encoding.barinitQuery (f : Form) : Encoding.Statement (.barinitQuery f) :=
  Encoding.shared _ 0xF1 f rfl (by decide) fun r h => by
    show some (α := Instr) (if f.mod == 0 then .barinitAlloc f else if f.mod == 1 then .barinitFree f else .barinitQuery f) = _
    simp [Instr.ownsFields] at h
    simp only [beq_iff_eq, BitVec.toNat_eq, BitVec.ofNat_eq_ofNat, BitVec.toNat_ofNat]
    repeat (first | rw [if_neg (by omega)] | rfl)
theorem Encoding.bararrTok (f : Form) : Encoding.Statement (.bararrTok f) :=
  Encoding.shared _ 0xF2 f rfl (by decide) fun r h => by
    show some (α := Instr) (if r = .drover then .bararr f else if f.mod = 0 then .bararrTok f else .bararrRnd f) = _
    simp [Instr.ownsFields] at h; simp [h]
theorem Encoding.bararrRnd (f : Form) : Encoding.Statement (.bararrRnd f) :=
  Encoding.shared _ 0xF2 f rfl (by decide) fun r h => by
    show some (α := Instr) (if r = .drover then .bararr f else if f.mod = 0 then .bararrTok f else .bararrRnd f) = _
    simp [Instr.ownsFields] at h; simp [h]
theorem Encoding.bararr (f : Form) : Encoding.Statement (.bararr f) :=
  Encoding.shared _ 0xF2 f rfl (by decide) fun r h => by
    show some (α := Instr) (if r = .drover then .bararr f else if f.mod = 0 then .bararrTok f else .bararrRnd f) = _
    simp [Instr.ownsFields] at h; simp [h]
theorem Encoding.preemptSoft (f : Form) : Encoding.Statement (.preemptSoft f) :=
  Encoding.shared _ 0xF5 f rfl (by decide) fun r h => by
    show some (α := Instr) (if f.mod == 0 then .preemptSoft f else .preemptHard f) = _
    simp [Instr.ownsFields] at h; simp [h]
theorem Encoding.preemptHard (f : Form) : Encoding.Statement (.preemptHard f) :=
  Encoding.shared _ 0xF5 f rfl (by decide) fun r h => by
    show some (α := Instr) (if f.mod == 0 then .preemptSoft f else .preemptHard f) = _
    simp [Instr.ownsFields] at h
    simp only [beq_iff_eq, BitVec.toNat_eq, BitVec.ofNat_eq_ofNat, BitVec.toNat_ofNat]
    repeat (first | rw [if_neg (by omega)] | rfl)
theorem Encoding.ctxsave (f : Form) : Encoding.Statement (.ctxsave f) :=
  Encoding.single _ 0xF3 f rfl (by decide) fun _ => rfl
theorem Encoding.ctxrestRun (f : Form) : Encoding.Statement (.ctxrestRun f) :=
  Encoding.shared _ 0xF4 f rfl (by decide) fun r h => by
    show some (α := Instr) (if f.mod == 0 then .ctxrestRun f else .ctxrestLoad f) = _
    simp [Instr.ownsFields] at h; simp [h]
theorem Encoding.ctxrestLoad (f : Form) : Encoding.Statement (.ctxrestLoad f) :=
  Encoding.shared _ 0xF4 f rfl (by decide) fun r h => by
    show some (α := Instr) (if f.mod == 0 then .ctxrestRun f else .ctxrestLoad f) = _
    simp [Instr.ownsFields] at h
    simp only [beq_iff_eq, BitVec.toNat_eq, BitVec.ofNat_eq_ofNat, BitVec.toNat_ofNat]
    repeat (first | rw [if_neg (by omega)] | rfl)
theorem Encoding.mapPa (f : Form) : Encoding.Statement (.mapPa f) :=
  Encoding.shared _ 0xF6 f rfl (by decide) fun r h => by
    show some (α := Instr) (if f.mod == 0 then .mapPa f else if f.mod == 1 then .mapZero f else .mapCopy f) = _
    simp [Instr.ownsFields] at h; simp [h]
theorem Encoding.mapZero (f : Form) : Encoding.Statement (.mapZero f) :=
  Encoding.shared _ 0xF6 f rfl (by decide) fun r h => by
    show some (α := Instr) (if f.mod == 0 then .mapPa f else if f.mod == 1 then .mapZero f else .mapCopy f) = _
    simp [Instr.ownsFields] at h; simp [h]
theorem Encoding.mapCopy (f : Form) : Encoding.Statement (.mapCopy f) :=
  Encoding.shared _ 0xF6 f rfl (by decide) fun r h => by
    show some (α := Instr) (if f.mod == 0 then .mapPa f else if f.mod == 1 then .mapZero f else .mapCopy f) = _
    simp [Instr.ownsFields] at h
    simp only [beq_iff_eq, BitVec.toNat_eq, BitVec.ofNat_eq_ofNat, BitVec.toNat_ofNat]
    repeat (first | rw [if_neg (by omega)] | rfl)
theorem Encoding.unmap (f : Form) : Encoding.Statement (.unmap f) :=
  Encoding.shared _ 0xF7 f rfl (by decide) fun r h => by
    show some (α := Instr) (if f.mod == 0 then .unmap f else .unmapDclr f) = _
    simp [Instr.ownsFields] at h; simp [h]
theorem Encoding.unmapDclr (f : Form) : Encoding.Statement (.unmapDclr f) :=
  Encoding.shared _ 0xF7 f rfl (by decide) fun r h => by
    show some (α := Instr) (if f.mod == 0 then .unmap f else .unmapDclr f) = _
    simp [Instr.ownsFields] at h
    simp only [beq_iff_eq, BitVec.toNat_eq, BitVec.ofNat_eq_ofNat, BitVec.toNat_ofNat]
    repeat (first | rw [if_neg (by omega)] | rfl)
theorem Encoding.migr (f : Form) : Encoding.Statement (.migr f) :=
  Encoding.single _ 0xF8 f rfl (by decide) fun _ => rfl
theorem Encoding.lnkcfgQuery (f : Form) : Encoding.Statement (.lnkcfgQuery f) :=
  Encoding.shared _ 0xF9 f rfl (by decide) fun r h => by
    show some (α := Instr) (if f.mod == 0 then .lnkcfgQuery f else if f.mod == 1 then .lnkcfgTrain f else if f.mod == 2 then .lnkcfgDown f else .lnkcfgRatio f) = _
    simp [Instr.ownsFields] at h; simp [h]
theorem Encoding.lnkcfgTrain (f : Form) : Encoding.Statement (.lnkcfgTrain f) :=
  Encoding.shared _ 0xF9 f rfl (by decide) fun r h => by
    show some (α := Instr) (if f.mod == 0 then .lnkcfgQuery f else if f.mod == 1 then .lnkcfgTrain f else if f.mod == 2 then .lnkcfgDown f else .lnkcfgRatio f) = _
    simp [Instr.ownsFields] at h; simp [h]
theorem Encoding.lnkcfgDown (f : Form) : Encoding.Statement (.lnkcfgDown f) :=
  Encoding.shared _ 0xF9 f rfl (by decide) fun r h => by
    show some (α := Instr) (if f.mod == 0 then .lnkcfgQuery f else if f.mod == 1 then .lnkcfgTrain f else if f.mod == 2 then .lnkcfgDown f else .lnkcfgRatio f) = _
    simp [Instr.ownsFields] at h; simp [h]
theorem Encoding.lnkcfgRatio (f : Form) : Encoding.Statement (.lnkcfgRatio f) :=
  Encoding.shared _ 0xF9 f rfl (by decide) fun r h => by
    show some (α := Instr) (if f.mod == 0 then .lnkcfgQuery f else if f.mod == 1 then .lnkcfgTrain f else if f.mod == 2 then .lnkcfgDown f else .lnkcfgRatio f) = _
    simp [Instr.ownsFields] at h
    simp only [beq_iff_eq, BitVec.toNat_eq, BitVec.ofNat_eq_ofNat, BitVec.toNat_ofNat]
    repeat (first | rw [if_neg (by omega)] | rfl)
theorem Encoding.lnkaddStart (f : Form) : Encoding.Statement (.lnkaddStart f) :=
  Encoding.shared _ 0xFA f rfl (by decide) fun r h => by
    show some (α := Instr) (if f.mod == 0 then .lnkaddStart f else if f.mod == 1 then .lnkaddStat f else .lnkaddCancel f) = _
    simp [Instr.ownsFields] at h; simp [h]
theorem Encoding.lnkaddStat (f : Form) : Encoding.Statement (.lnkaddStat f) :=
  Encoding.shared _ 0xFA f rfl (by decide) fun r h => by
    show some (α := Instr) (if f.mod == 0 then .lnkaddStart f else if f.mod == 1 then .lnkaddStat f else .lnkaddCancel f) = _
    simp [Instr.ownsFields] at h; simp [h]
theorem Encoding.lnkaddCancel (f : Form) : Encoding.Statement (.lnkaddCancel f) :=
  Encoding.shared _ 0xFA f rfl (by decide) fun r h => by
    show some (α := Instr) (if f.mod == 0 then .lnkaddStart f else if f.mod == 1 then .lnkaddStat f else .lnkaddCancel f) = _
    simp [Instr.ownsFields] at h
    simp only [beq_iff_eq, BitVec.toNat_eq, BitVec.ofNat_eq_ofNat, BitVec.toNat_ofNat]
    repeat (first | rw [if_neg (by omega)] | rfl)
theorem Encoding.illegalWord (core : Nat) : Encoding.Statement (.illegalWord core) := Encoding.event _ rfl
theorem Encoding.addressBreakpoint (core : Nat) : Encoding.Statement (.addressBreakpoint core) := Encoding.event _ rfl
theorem Encoding.handlerEntry (core : Nat) : Encoding.Statement (.handlerEntry core) := Encoding.event _ rfl
theorem Encoding.commandIssue (core : Nat) (pick : Nat) : Encoding.Statement (.commandIssue core pick) := Encoding.event _ rfl
theorem Encoding.tokenArrival (tile : Nat) (elem : Nat) (pick : Nat) : Encoding.Statement (.tokenArrival tile elem pick) := Encoding.event _ rfl
theorem Encoding.pullBack (tile : Nat) (elem : Nat) : Encoding.Statement (.pullBack tile elem) := Encoding.event _ rfl
theorem Encoding.overflowRefill (tile : Nat) (elem : Nat) (bucket : Nat) : Encoding.Statement (.overflowRefill tile elem bucket) := Encoding.event _ rfl
theorem Encoding.markerAction (tile : Nat) (elem : Nat) : Encoding.Statement (.markerAction tile elem) := Encoding.event _ rfl
theorem Encoding.slotBreakpointMatch (tile : Nat) (elem : Nat) : Encoding.Statement (.slotBreakpointMatch tile elem) := Encoding.event _ rfl
theorem Encoding.edgeResizeDone (tile : Nat) (edge : Nat) : Encoding.Statement (.edgeResizeDone tile edge) := Encoding.event _ rfl
theorem Encoding.outputQueueDrain (tile : Nat) (elem : Nat) : Encoding.Statement (.outputQueueDrain tile elem) := Encoding.event _ rfl
theorem Encoding.mailboxDeliver (core : Nat) (pick : Nat) : Encoding.Statement (.mailboxDeliver core pick) := Encoding.event _ rfl
theorem Encoding.roundNotice (pick : Nat) : Encoding.Statement (.roundNotice pick) := Encoding.event _ rfl
theorem Encoding.kernelStart (group : Nat) : Encoding.Statement (.kernelStart group) := Encoding.event _ rfl
theorem Encoding.kernelEnd (group : Nat) : Encoding.Statement (.kernelEnd group) := Encoding.event _ rfl
theorem Encoding.requestTranslate (req : Nat) : Encoding.Statement (.requestTranslate req) := Encoding.event _ rfl
theorem Encoding.orderClear (req : Nat) : Encoding.Statement (.orderClear req) := Encoding.event _ rfl
theorem Encoding.fenceWPassed (req : Nat) : Encoding.Statement (.fenceWPassed req) := Encoding.event _ rfl
theorem Encoding.waveLinkAck (pick : Nat) : Encoding.Statement (.waveLinkAck pick) := Encoding.event _ rfl
theorem Encoding.requestComplete (req : Nat) : Encoding.Statement (.requestComplete req) := Encoding.event _ rfl
theorem Encoding.streamLatchDone (tile : Nat) (port : Nat) : Encoding.Statement (.streamLatchDone tile port) := Encoding.event _ rfl
theorem Encoding.streamRowComplete (tile : Nat) (port : Nat) (row : Nat) : Encoding.Statement (.streamRowComplete tile port row) := Encoding.event _ rfl
theorem Encoding.portRelatch (tile : Nat) (port : Nat) : Encoding.Statement (.portRelatch tile port) := Encoding.event _ rfl
theorem Encoding.gatherRowComplete (tile : Nat) (port : Nat) (row : Nat) : Encoding.Statement (.gatherRowComplete tile port row) := Encoding.event _ rfl
theorem Encoding.circuitGranule (tile : Nat) (circuit : Nat) : Encoding.Statement (.circuitGranule tile circuit) := Encoding.event _ rfl
theorem Encoding.colourDeadlock (ctx : Nat) : Encoding.Statement (.colourDeadlock ctx) := Encoding.event _ rfl
theorem Encoding.barrierArrival (pick : Nat) : Encoding.Statement (.barrierArrival pick) := Encoding.event _ rfl
theorem Encoding.faultAppend (pick : Nat) : Encoding.Statement (.faultAppend pick) := Encoding.event _ rfl
theorem Encoding.ccmdBuild (ctx : Nat) : Encoding.Statement (.ccmdBuild ctx) := Encoding.event _ rfl
theorem Encoding.ccmdReady (ctx : Nat) : Encoding.Statement (.ccmdReady ctx) := Encoding.event _ rfl
theorem Encoding.ccmdKill (ctx : Nat) : Encoding.Statement (.ccmdKill ctx) := Encoding.event _ rfl
theorem Encoding.ccmdResume (ctx : Nat) : Encoding.Statement (.ccmdResume ctx) := Encoding.event _ rfl
theorem Encoding.serain (ctx : Nat) : Encoding.Statement (.serain ctx) := Encoding.event _ rfl
theorem Encoding.failpg (ctx : Nat) : Encoding.Statement (.failpg ctx) := Encoding.event _ rfl
theorem Encoding.dlbud (ctx : Nat) : Encoding.Statement (.dlbud ctx) := Encoding.event _ rfl
theorem Encoding.drainComplete (ctx : Nat) : Encoding.Statement (.drainComplete ctx) := Encoding.event _ rfl
theorem Encoding.drainTimeout (ctx : Nat) : Encoding.Statement (.drainTimeout ctx) := Encoding.event _ rfl
theorem Encoding.hardSave (ctx : Nat) : Encoding.Statement (.hardSave ctx) := Encoding.event _ rfl
theorem Encoding.restore (ctx : Nat) : Encoding.Statement (.restore ctx) := Encoding.event _ rfl
theorem Encoding.contextReclaimed (ctx : Nat) : Encoding.Statement (.contextReclaimed ctx) := Encoding.event _ rfl
theorem Encoding.doorbellRing (value : Nat) : Encoding.Statement (.doorbellRing value) := Encoding.event _ rfl
theorem Encoding.doorbellEnable (value : Nat) : Encoding.Statement (.doorbellEnable value) := Encoding.event _ rfl
theorem Encoding.doorbellDisable (value : Nat) : Encoding.Statement (.doorbellDisable value) := Encoding.event _ rfl
theorem Encoding.queueHeadTest (ctx : Nat) (queue : Nat) : Encoding.Statement (.queueHeadTest ctx queue) := Encoding.event _ rfl
theorem Encoding.placement : Encoding.Statement (.placement) := Encoding.event _ rfl
theorem Encoding.kernelLoad (group : Nat) : Encoding.Statement (.kernelLoad group) := Encoding.event _ rfl
theorem Encoding.preemptBudgetExpiry (ctx : Nat) (queue : Nat) : Encoding.Statement (.preemptBudgetExpiry ctx queue) := Encoding.event _ rfl
theorem Encoding.kernelSignal (group : Nat) : Encoding.Statement (.kernelSignal group) := Encoding.event _ rfl
theorem Encoding.zeroingDone (tile : Nat) : Encoding.Statement (.zeroingDone tile) := Encoding.event _ rfl
theorem Encoding.restoreRebind (ctx : Nat) : Encoding.Statement (.restoreRebind ctx) := Encoding.event _ rfl
theorem Encoding.linkTrained (link : Nat) : Encoding.Statement (.linkTrained link) := Encoding.event _ rfl
theorem Encoding.linkTrainFailed (link : Nat) : Encoding.Statement (.linkTrainFailed link) := Encoding.event _ rfl
theorem Encoding.flitReplay (link : Nat) : Encoding.Statement (.flitReplay link) := Encoding.event _ rfl
theorem Encoding.replayFailed (link : Nat) : Encoding.Statement (.replayFailed link) := Encoding.event _ rfl
theorem Encoding.retrainDone (link : Nat) : Encoding.Statement (.retrainDone link) := Encoding.event _ rfl
theorem Encoding.hostAccess (access : Access) : Encoding.Statement (.hostAccess access) := Encoding.event _ rfl
theorem Encoding.peerAccess (access : Access) : Encoding.Statement (.peerAccess access) := Encoding.event _ rfl
theorem Encoding.laneLend (pc : Nat) : Encoding.Statement (.laneLend pc) := Encoding.event _ rfl
theorem Encoding.laneHandshakeDone (pc : Nat) : Encoding.Statement (.laneHandshakeDone pc) := Encoding.event _ rfl
theorem Encoding.laneReclaim (pc : Nat) : Encoding.Statement (.laneReclaim pc) := Encoding.event _ rfl
theorem Encoding.refreshDue (pc : Nat) (bank : Nat) : Encoding.Statement (.refreshDue pc bank) := Encoding.event _ rfl
theorem Encoding.activationAlert (pc : Nat) (bank : Nat) : Encoding.Statement (.activationAlert pc bank) := Encoding.event _ rfl
theorem Encoding.chainBeat (adder : Nat) (data : Nat) : Encoding.Statement (.chainBeat adder data) := Encoding.event _ rfl
theorem Encoding.adderAbort (adder : Nat) : Encoding.Statement (.adderAbort adder) := Encoding.event _ rfl
theorem Encoding.powerUp : Encoding.Statement (.powerUp) := Encoding.event _ rfl
theorem Encoding.powerSample : Encoding.Statement (.powerSample) := Encoding.event _ rfl
theorem Encoding.patrolScrub (address : Nat) : Encoding.Statement (.patrolScrub address) := Encoding.event _ rfl
theorem Encoding.sramScrub (unit : Nat) : Encoding.Statement (.sramScrub unit) := Encoding.event _ rfl
theorem Encoding.memoryRecalibration (stack : Nat) : Encoding.Statement (.memoryRecalibration stack) := Encoding.event _ rfl
theorem Encoding.waitTimeout (core : Nat) : Encoding.Statement (.waitTimeout core) := Encoding.event _ rfl
theorem Encoding.linkRecalibration (link : Nat) : Encoding.Statement (.linkRecalibration link) := Encoding.event _ rfl
theorem Encoding.powerLoss : Encoding.Statement (.powerLoss) := Encoding.event _ rfl
theorem Encoding.managementPortRequest (access : Access) : Encoding.Statement (.managementPortRequest access) := Encoding.event _ rfl
theorem Encoding.startLogClear : Encoding.Statement (.startLogClear) := Encoding.event _ rfl
theorem Encoding.managementFaultLogClear : Encoding.Statement (.managementFaultLogClear) := Encoding.event _ rfl

end Sys2Proof.Laws
end

