-- ==== Sys2Proof/Safety.lean ====
section
/-! DEFINITION. What counts as a safe run: no step stops, and the memories keep their canonical form. -/

namespace Sys2Proof.Machine

/-- A memory of bytes is in canonical form: addresses rise, and no listed byte is 0, the value that an
unlisted address reads as. -/
def Memory.wf (m : FMap Byte) : Bool := mapWf 0 m

/-- Main memory, the scratchpads and the data memories of a state are in canonical form. -/
def State.wf (s : State) : Bool :=
  Memory.wf s.mem && s.tiles.all (fun kv => Memory.wf kv.2.mem) && s.cores.all fun kv => Memory.wf kv.2.dmem

/-- A step goes on: it ends neither in a fault nor in a refusal. -/
def Goes (s : State) : Prop := ∃ t, step s = .next t

/-- The state after `n` steps, if every one of them goes on. -/
def runs : Nat → State → Option State
  | 0, s => some s
  | n + 1, s => match step s with
    | .next t => runs n t
    | .fault _ => none
    | .refused _ => none

/-- A safe run of `n` steps: none of them stops, and the memories end in canonical form. -/
def SafeRun (n : Nat) (s : State) : Prop := ∃ t, runs n s = some t ∧ t.wf = true

end Sys2Proof.Machine
end

