-- ==== Sys2Proof/Certificates/Slice0/Obligations.lean ====
section
/-! DEFINITION. The statements for the provers: what the instructions, the events and the machine do. -/

namespace Sys2Proof.Claims

open Sys2Proof Sys2Proof.Machine

/-! ## The vocabulary of the statements -/

/-- A firing evaluates its instruction: no operand is an `ERR` or a `STOP`, the predicate does not suppress it, and its
`TAGOP` gives the output tag (R40, R41, R55, R147). -/
def Evaluates (fr : Firing) (f : Form) (s : State) (tag : W64) : Prop :=
  fr.err? = none ∧ fr.hasStop = false ∧ fr.suppressed f = false ∧ fr.tagOut s f = .ok tag

/-- The tokens of a firing as items of its output queue: one for each valid target among two (R39, R107). -/
def tokensTo (f : Form) (to0 to1 : Option Token) : List OutItem :=
  (match to0 with | some t => if f.tgt0.getLsbD 21 then [.token 0 f.tgt0 t none] else [] | none => []) ++
  (match to1 with | some t => if f.tgt1.getLsbD 21 then [.token 1 f.tgt1 t none] else [] | none => [])

/-- A token of a firing: its round and its tile's context travel with it (R39). -/
def tokenOf (fr : Firing) (s : State) (kind : Kind) (v tag : W64) (sbit : Bool) : Token :=
  { kind := kind, value := v, tag := tag, s := sbit, round := fr.round, ctx := s.tileCtx fr.tile }

/-- The state after items entered the output queue of a firing's element as one entry (R38). -/
def emitted (fr : Firing) (items : List OutItem) (s : State) : State :=
  if items = [] then s
  else s.modElem fr.tile fr.elem fun x => { x with out := x.out ++ [{ slot := fr.slot, items := items }] }

/-- The state after a firing emitted one token to both targets. -/
def emittedBoth (fr : Firing) (f : Form) (kind : Kind) (v tag : W64) (sbit : Bool) (s : State) : State :=
  emitted fr (tokensTo f (some (tokenOf fr s kind v tag sbit)) (some (tokenOf fr s kind v tag sbit))) s

/-- The state after a core wrote `xd` and went on to the next word; `x0` discards the write (R116). -/
def wordDone (s : State) (n : Nat) (f : Form) (v : W64) : State :=
  s.setCore n { s.core n with
    x := if f.tgt0.toNat % 32 = 0 then (s.core n).x else mapSet 0 (s.core n).x (f.tgt0.toNat % 32) v
    pc := (s.core n).pc + 1
    wait := .none }

/-- The record of a fault of a core's own word (R321, R322). -/
def wordRecord (s : State) (n code : Nat) (val aux : Option W64) : FaultRec :=
  let c := s.core n
  { code := code, own := true, ukind := 1, unit := c.pc.toNat * 1024 + n, ctx := c.ctxid.setWidth 8, val := val, aux := aux }

/-- The state after a core entered its handler for a fault of its own word (R127, R324): the record at 0xFFE0 of its data
memory, `EPC`, `ECAUSE`, `EREC`, `PPRIV`, `HND` and the `PC`. -/
def handlerEntered (s : State) (n code : Nat) (val aux : Option W64) : State :=
  let c := s.core n
  s.setCore n { c with
    dmem := memWrite c.dmem 0xFFE0 ((wordRecord s n code val aux).bytes s.tick)
    epc := c.pc.setWidth 64
    ecause := BitVec.ofNat 64 code
    erec := 0xFFE0
    status := statusOf false (c.status.getLsbD 0) true (c.status.getLsbD 0)
    pc := c.evec.setWidth 12
    discard := match c.wait with | .timed k => some (c.pc, k) | _ => c.discard
    wait := .none }

/-- The state after a fault of a word inside the handler: the core halts, and its RUNNING context is FAULTED, whose
elements fire no more; in a DRAINING or FAULTED context the fault is recorded (R127, R320). -/
def handlerHalted (s : State) (n code : Nat) (val aux : Option W64) : State :=
  let c := s.core n
  let st := (s.ctx (c.ctxid.setWidth 8).toNat).state
  let halted := s.setCore n { c with
    status := statusOf true (c.status.getLsbD 2) true (c.status.getLsbD 0)
    running := false }
  let noted := if st = .draining ∨ st = .faulted then halted.record (wordRecord s n code val aux) else halted
  if (s.ctx c.ctxid.toNat).state = .running then
    (noted.modCtx c.ctxid.toNat fun x => { x with state := .faulted }).mapElems c.ctxid.toNat Element.quiesce
  else noted

/-- The state after a word of a core raised a fault (R127). -/
def wordFaults (s : State) (n code : Nat) (val aux : Option W64) : State :=
  if (s.core n).hnd = true then handlerHalted s n code val aux else handlerEntered s n code val aux

/-- The operand registers of a word (R59). -/
def xaOf (s : State) (n : Nat) (f : Form) : W64 := (s.core n).reg (Form.xa f)
/-- The second operand register. -/
def xbOf (s : State) (n : Nat) (f : Form) : W64 := (s.core n).reg (Form.xb f)
/-- The third operand register. -/
def xcOf (s : State) (n : Nat) (f : Form) : W64 := (s.core n).reg (Form.xc f)

/-- A core that fetches a word: at an enabled breakpoint that it skips, the fetch clears `SKIP` (R126). -/
def fetched (c : Core) : Core :=
  if c.wait = .none ∧ c.atBreakpoint = true then { c with bkctl := c.bkctl &&& ~~~(0x10#64) } else c

/-- Every unassigned opcode (R65). -/
def unassigned : List Nat :=
  (List.range' 0x12 14) ++ (List.range' 0x2C 20) ++ (List.range' 0x5B 5) ++ (List.range' 0x78 8) ++
  (List.range' 0x8F 17) ++ (List.range' 0xB2 14) ++ (List.range' 0xCB 5) ++ (List.range' 0xDC 4)

/-- The arithmetic instructions (R134 to R144): opcode, instruction, and the value with its flags. -/
def arithRows : List (Nat × (Form → Instr) × (Form → W64 → W64 → W64 → W64 × Flags)) :=
  [(0x40, Instr.add, addValue), (0x41, Instr.sub, subValue), (0x42, Instr.mul, mulValue), (0x43, Instr.mulh, mulhValue),
   (0x44, Instr.mad, madValue), (0x45, Instr.div, divValue), (0x46, Instr.rem, remValue), (0x47, Instr.neg, negValue),
   (0x48, Instr.abs, absValue), (0x49, Instr.min, minValue), (0x4A, Instr.max, maxValue), (0x4B, Instr.cmp, cmpValue),
   (0x58, Instr.ext, extValue), (0x59, Instr.agen, agenValue), (0x5A, Instr.sat, satValue)]
  ++ [(0x60, Instr.fadd, faddValue), (0x61, Instr.fsub, fsubValue), (0x62, Instr.fmul, fmulValue), (0x63, Instr.fma, fmaValue),
   (0x64, Instr.fmin, fminValue), (0x65, Instr.fmax, fmaxValue), (0x66, Instr.fabs, fabsValue), (0x67, Instr.fneg, fnegValue),
   (0x68, Instr.fcmp, fcmpValue), (0x69, Instr.frcp, frcpValue), (0x6A, Instr.frsq, frsqValue), (0x6B, Instr.fsqrt, fsqrtValue),
   (0x6C, Instr.fexp2, fexp2Value), (0x6D, Instr.flog2, flog2Value), (0x6E, Instr.fdiv, fdivValue), (0x6F, Instr.cvt, cvtValue),
   (0x70, Instr.frnd, frndValue), (0x71, Instr.vdot, vdotValue), (0x72, Instr.vsum, vsumValue), (0x73, Instr.vpack, vpackValue),
   (0x74, Instr.vunpk, vunpkValue), (0x77, Instr.fclass, fclassValue)]

/-- The instructions that move bits (R137, R138, R144), which set no `S` condition on their operands (R133). -/
def bitRows : List (Nat × (Form → Instr) × (Form → W64 → W64 → W64 → W64 × Flags)) :=
  [(0x4C, Instr.and, andValue), (0x4D, Instr.or, orValue), (0x4E, Instr.xor, xorValue), (0x4F, Instr.not, notValue),
   (0x50, Instr.shl, shlValue), (0x51, Instr.shr, shrValue), (0x52, Instr.sar, sarValue), (0x53, Instr.rot, rotValue),
   (0x54, Instr.clz, clzValue), (0x55, Instr.popc, popcValue), (0x56, Instr.bfx, bfxValue), (0x57, Instr.bfi, bfiValue),
   (0x75, Instr.vshuf, vshufValue)]

/-- The requests that a firing sends unconditionally (R174). -/
def requestRows : List (Form → Instr) :=
  [Instr.lds, Instr.sts, Instr.lkup, Instr.fence, Instr.xfence, Instr.pref, Instr.strm, Instr.gthr, Instr.scat, Instr.sclose, Instr.scloseCut, Instr.swait, Instr.circ, Instr.circx,
   Instr.rstatEng, Instr.rstatEngclr, Instr.mma, Instr.accz, Instr.accrd, Instr.nzscan, Instr.xsplit]
  ++ [Instr.tapp, Instr.tfork, Instr.tckpt, Instr.tcommit, Instr.ttrunc, Instr.tevict, Instr.tdesc, Instr.tmask, Instr.tstatLen, Instr.tstatPool, Instr.rope3Rot, Instr.rope3Set,
   Instr.rope3Getlo, Instr.rope3Gethi, Instr.tfree]
  ++ [Instr.gmask, Instr.gmaskH, Instr.gstep, Instr.gstepH, Instr.gsnap, Instr.grest, Instr.gfork, Instr.gdrop, Instr.samp, Instr.lstat, Instr.penal, Instr.acceptOpen,
   Instr.acceptWalk, Instr.acceptAbort, Instr.commit, Instr.commitFree, Instr.rng]

/-- The state after a core's jump: to a word address in 0 to 4,095, with a return address in `xd` for a call; else it
raises `ILLEGAL` at the branch (R124). -/
def jumped (s : State) (n : Nat) (target : Int) (link : Option (Form × W64)) : State :=
  if 0 ≤ target ∧ target < 4096 then
    s.setCore n { (match link with | some (f, v) => (s.core n).setReg (Form.xd f) v | none => s.core n) with
      pc := BitVec.ofNat 12 target.toNat, wait := .none }
  else handlerEntered s n 0x2B none none

/-- The state after a command of a core entered its scoreboard of 32 (R123). -/
def commandQueued (s : State) (n port : Nat) (r : Req) : State :=
  s.setCore n { s.core n with
    cmds := (s.core n).cmds ++ [{ req := r, port := port }], pc := (s.core n).pc + 1, wait := .none }

/-- The state after a command whose reply the core waits for entered the scoreboard: the word stays (R123). -/
def querySent (s : State) (n port : Nat) (r : Req) : State :=
  s.setCore n { s.core n with cmds := (s.core n).cmds ++ [{ req := r, port := port }], wait := .sent r.seq }

/-- The state after a firing emitted one token to target 0 or to target 1. -/
def emittedOne (fr : Firing) (f : Form) (first : Bool) (kind : Kind) (v tag : W64) (sbit : Bool) (s : State) : State :=
  if first then emitted fr (tokensTo f (some (tokenOf fr s kind v tag sbit)) none) s
  else emitted fr (tokensTo f none (some (tokenOf fr s kind v tag sbit))) s

/-- The predicate of a firing: the immediate with `IMMP` 100, else the token of port P, which takes the third place (R55). -/
def predicateOf (fr : Firing) (f : Form) : Bool := if f.immp = 4 then f.imm != 0 else fr.c.value != 0

/-- The state after a firing emitted a value: with `PRED` 11 to the target that the predicate chooses, else to both (R55). -/
def emittedValue (fr : Firing) (f : Form) (v tag : W64) (sbit : Bool) (s : State) : State :=
  if f.pred = 3 then emittedOne fr f (predicateOf fr f) .data v tag sbit s else emittedBoth fr f .data v tag sbit s

/-- The state after a firing recorded a fault with its own tag and emitted `ERR` with the code and a tag to each valid
target. -/
def faultedAs (fr : Firing) (f : Form) (tag : W64) (code : Nat) (aux : Option W64) (s : State) : State :=
  emittedBoth fr f .err (BitVec.ofNat 64 code) tag false (s.record
    { code := code, ukind := 0, unit := unitSlot s fr.tile fr.elem fr.slot, ctx := s.tileCtx fr.tile, tag := fr.tag, aux := aux }
    (some (fr.tile, fr.elem)))

/-- The state after a firing recorded a fault with its tag and emitted `ERR` with the code to each valid target (R147). -/
def faulted (fr : Firing) (f : Form) (code : Nat) (aux : Option W64) (s : State) : State := faultedAs fr f fr.tag code aux s

/-- The state after a firing sent a request to its unit (R174). -/
def requested (fr : Firing) (i : Instr) (kind : Kind) (l tag : W64) (s : State) : State :=
  emitted fr [.request { instr := i, origin := .slot fr.tile fr.elem fr.slot, kind := kind, tag := tag, wave := fr.tag
                         round := fr.round, ctx := s.tileCtx fr.tile, l := l, r := fr.r.value, c := fr.c.value, s := fr.sOr
                         coords := fr.coords, seq := s.tick }] s

/-- The instructions whose firings emit what they compute, with `ERR` and `STOP` passed to every target (R40, R41). -/
def firingRows : List (Form → Instr) :=
  (arithRows ++ bitRows).map (fun row => row.2.1)
  ++ [Instr.pass, Instr.const, Instr.steer, Instr.merge, Instr.select, Instr.gate, Instr.rndq, Instr.trap, Instr.assert,
   Instr.reconf, Instr.probe, Instr.scaleSend, Instr.red]
  ++ [Instr.alloc, Instr.iter, Instr.free, Instr.popt, Instr.pusht, Instr.setit, Instr.gettag, Instr.mktag, Instr.spawn,
   Instr.returnTok, Instr.tsize, Instr.colq]
  ++ [Instr.ring, Instr.rcommitRsv, Instr.rcommitRsvw, Instr.rcommitPub, Instr.rcommitTail, Instr.rpop, Instr.rstatRing,
   Instr.reord, Instr.bararrTok]

/-- The state after a unit ended the head request of its queue with a reply (R174). -/
def answered (s : State) (e : Engine) (r : Req) (v : W64) : State := (s.endHead e).reply e r .data v

/-- The operations of the summary unit (R273 to R284). -/
def summaryRows : List ((Form → Instr) × (Form → Nat → Req → Act W64)) :=
  [(Instr.tapp, tappUnit),
   (Instr.tfork, fun _ t r => onSet t r fun v => TreeOp.of (v.fork r.r.toNat)),
   (Instr.tckpt, fun _ t r => onSet t r fun v => TreeOp.of (v.checkpoint r.r.toNat)),
   (Instr.tcommit, fun _ t r => onSet t r fun v => v.commit r.r.toNat),
   (Instr.ttrunc, fun _ t r => onSetFreed t r fun v => v.truncate r.r.toNat),
   (Instr.tevict, fun _ t r => onSet t r fun v => v.evict (bitsOf r.r.toNat 0 32) (bitsOf r.r.toNat 32 32)),
   (Instr.tmask, fun _ t r => (needCheck 4 (recAligned r.r.toNat)).andThen fun _ =>
      onSet t r fun v => TreeOp.of ((v.put (v.set + 8) 8 r.r.toNat).andThen fun _ => Act.ret (0, 0))),
   (Instr.tstatLen, fun _ t r => (needCheck 1 (r.r.toNat < 2 ^ 40)).andThen fun _ =>
      (openSet (agentT t) r.ctx r.l.toNat).andThen fun v => (v.selected (selLayer r.r) (selHead r.r)).andThen fun slot =>
        (v.length slot).andThen fun n => Act.ret (BitVec.ofNat 64 n)),
   (Instr.tstatPool, fun f => tstatPool (f.mod.toNat - 1)),
   (Instr.rope3Rot, fun _ => ropeRot), (Instr.rope3Set, fun _ => ropeSet),
   (Instr.rope3Getlo, fun _ t _ => Act.look fun s => (s.tile t).part.setWidth 64),
   (Instr.rope3Gethi, fun _ t _ => Act.look fun s => (s.tile t).part.extractLsb' 64 64),
   (Instr.tfree, fun _ t r => onSetFreed t r fun v => v.freeRoots)]

/-- The operations of the boundary units (R307 to R313). -/
def boundaryRows : List ((Form → Instr) × (Form → Nat → Req → Act W64)) :=
  [(Instr.gmask, fun _ => gmaskUnit), (Instr.gmaskH, fun _ => gmaskHUnit), (Instr.gstep, fun _ => gstepUnit),
   (Instr.gstepH, fun _ => gstepHUnit), (Instr.gsnap, fun _ => gsnapUnit), (Instr.grest, fun _ => grestUnit),
   (Instr.gfork, fun _ d r => (splitHandle r.l).andThen fun h => (cellRef d r.ctx h.top).andThen fun _ => Act.ret r.l),
   (Instr.gdrop, fun _ d r => (splitHandle r.l).andThen fun h => (cellRelease d r.ctx h.top).andThen fun _ => Act.ret 0),
   (Instr.samp, fun _ => sampUnit), (Instr.lstat, fun _ => lstatUnit), (Instr.penal, fun _ => penalUnit),
   (Instr.acceptOpen, fun _ => acceptOpenUnit), (Instr.acceptWalk, fun _ => acceptWalkUnit),
   (Instr.acceptAbort, fun _ => acceptAbortUnit), (Instr.commit, fun _ => commitUnit),
   (Instr.commitFree, fun _ => commitFreeUnit), (Instr.rng, rngUnit)]

end Sys2Proof.Claims

open Sys2Proof Sys2Proof.Machine Sys2Proof.Claims

/-! ## Encoding -/

/-- Decoding the word of a well-formed instruction gives the instruction back, for both readers, with every field at
every value that the encoding admits (R50, R59, R61, R63). -/
def Obligations.DecodeOfEncode : Prop :=
  ∀ (r : Reader) (i : Instr), i.wf r = true → decode r (encode i) = .ok i

/-- A word that decodes is the word of the instruction that it decodes to, and that is well-formed: each word has one
meaning, and no bit of it is ignored. -/
def Obligations.EncodeOfDecode : Prop :=
  ∀ (r : Reader) (w : W128) (i : Instr), decode r w = .ok i → encode i = w ∧ i.wf r = true

/-- The unassigned opcodes, and what a word with one of them does: a configuration write of a slot of an element that may be
written is refused with `CFG_BADOP`, check 1, in every state; and a drover core that fetches it raises `ILLEGAL` with check
1: it enters its handler, or inside the handler it halts and its context is FAULTED, or the fault recorded; a breakpoint at the word is skipped, and
the fetch clears `SKIP` (R65, R126, R127). -/
def Obligations.UnassignedOpcodeRefused : Prop :=
  (∀ opc, opc ∈ unassigned ↔ (0x12 ≤ opc ∧ opc ≤ 0x1F) ∨ (0x2C ≤ opc ∧ opc ≤ 0x3F) ∨ (0x5B ≤ opc ∧ opc ≤ 0x5F)
    ∨ (0x78 ≤ opc ∧ opc ≤ 0x7F) ∨ (0x8F ≤ opc ∧ opc ≤ 0x9F) ∨ (0xB2 ≤ opc ∧ opc ≤ 0xBF) ∨ (0xCB ≤ opc ∧ opc ≤ 0xCF)
    ∨ (0xDC ≤ opc ∧ opc ≤ 0xDF)) ∧
  ∀ (w : W128), wordOpcode w ∈ unassigned →
    (∀ r, decode r w = .error .opcode) ∧ BadWord.opcode.number = 1 ∧
    (∀ (s : State) (t e k : Nat), (s.elem t e).state ≠ .fused → (s.elem t e).state ≠ .running →
      mapGet false s.mgmt.badSlots ((t * 16 + e) * 32 + k) = false → s.cfgSlot t e k w = .error ⟨0x10, 1⟩) ∧
    ∀ (s : State) (n : Nat), (s.core n).running = true → mapGet 0 (s.core n).code (s.core n).pc.toNat = w →
      exec (.illegalWord n) s = .next (wordFaults (s.setCore n (fetched (s.core n))) n 0x2B none (some 1))

/-- The window rules: a word whose instruction has two or three inputs is accepted by a fabric slot only with `MSLOG` at
most 6 and its window inside the 64 entries, and one with no or one input only with `MSBASE` and `MSLOG` 0 (R62). -/
def Obligations.WindowRules : Prop :=
  ∀ (w : W128) (i : Instr) (opc : Nat) (f : Form), decode .fabric w = .ok i → i.parts = some (opc, f) →
    (inputCount opc f = 2 ∨ inputCount opc f = 3 → f.mslog.toNat ≤ 6 ∧ f.msbase.toNat + 2 ^ f.mslog.toNat ≤ 64) ∧
    (inputCount opc f = 0 ∨ inputCount opc f = 1 → f.msbase = 0 ∧ f.mslog = 0)

/-- A word whose instruction the reader's mode excludes is refused by name: a sequential word in a slot, and a fabric word
on a core, with check 3 (R3, R61, R63). -/
def Obligations.ModeExcludes : Prop :=
  BadWord.marking.number = 3 ∧ ∀ (w : W128) (o : OpSpec), wordOpcode w ≠ 0 → opSpec (wordOpcode w) = some o → w.extractLsb' 0 16 = 0 →
    (o.marking = .sequential → decode .fabric w = .error .marking) ∧
    (o.marking = .fabric → decode .drover w = .error .marking)

/-- Words that the spec writes out, bit for bit, decode to the instructions that they stand for (R115, R129, R143, R168,
R273, R329, R368). -/
def Obligations.SpecWordsDecode : Prop :=
  decode .fabric 0x01000000000008002200000000000000 = .ok (.pass ⟨0, 0, 0, 0, 0x200088, 0, 0, 0, 0, 0, 0⟩) ∧
  decode .fabric 0x03400000000008002220008911000000 = .ok (.steer ⟨1, 0, 0, 0, 0x200088, 0x200089, 4, 2, 0, 0, 0⟩) ∧
  decode .drover 0x0E00000E00088000000000A400000000 = .ok (.inj ⟨0, 0, 0, 0xE00088, 0, 0xA4, 0, 0, 0, 0, 0⟩) ∧
  decode .drover 0xE1002000000050000000008300000000 = .ok (.br ⟨0, 0, 2, 5, 0, 0x83, 0, 0, 0, 0, 0⟩) ∧
  decode .drover 0xF30000000000000000C000A400000000 = .ok (.ctxsave ⟨0, 0, 0, 0, 3, 0xA4, 0, 0, 0, 0, 0⟩) ∧
  decode .fabric 0xF2000000001058002200000000000000 = .ok (.bararrTok ⟨0, 0, 0, 0x105, 0x200088, 0, 0, 0, 0, 0, 0⟩) ∧
  decode .drover 0xF10020000000000000C0000400000000 = .ok (.barinitQuery ⟨0, 0, 2, 0, 3, 4, 0, 0, 0, 0, 0⟩) ∧
  decode .fabric 0x20001000010F08006000000000200000 = .ok (.alloc ⟨0, 0, 1, 0x10F0, 0x200180, 0, 0, 0, 1, 0, 0⟩) ∧
  decode .fabric 0x60428000000008002200000000000000 = .ok (.fadd ⟨1, 0, 0x28, 0, 0x200088, 0, 0, 0, 0, 0, 0⟩) ∧
  decode .fabric 0xC0401000000008002200000000000000 = .ok (.tapp ⟨1, 0, 1, 0, 0x200088, 0, 0, 0, 0, 0, 0⟩)

/-! ## The step -/

/-- A step runs the instruction of the unit whose turn it is: a core the word at its `PC`, an element the pair that it
chose, or first a slot of `ARITY` 11 that starts, a serving unit the head of its queue, and an event itself; around it the step only closes the turn (R36, R51, R63,
R174, R426). That a slot of `ARITY` 11 starts before any pair of its element, and then owes the `MARK` of round 0, is the
model's choice (log 12). -/
def Obligations.StepRunsInstruction : Prop :=
  (∀ (s : State) (n : Nat) (i : Instr), s.mgmt.start = .serving → s.turn = .core n → (s.core n).running = true →
    s.queuedFault n = false → s.draining (s.core n).context = false → (s.core n).wait = .none →
    (s.core n).atBreakpoint = false ∨ (s.core n).bkctl.getLsbD 4 = true →
    decode .drover (mapGet 0 (s.core n).code (s.core n).pc.toNat) = .ok i →
    step s = finish (exec i { s.setCore n { fetched (s.core n) with wait := .fetched } with unit := .core n })) ∧
  (∀ (s : State) (t e : Nat) (c : Cand) (i : Instr), s.mgmt.start = .serving → s.turn = .elem t e →
    (s.elem t e).mayFire = true → s.heldPair t e = none → (∀ k, k < 32 → (s.slot t e k).start = true → s.startHeld t e k = true) →
    (s.noteAttempts t e).elemChoice t e = .pair c → ((s.noteAttempts t e).slot t e c.slot).breaks c.ent.tag = false →
    let s1 := s.noteAttempts t e
    let s2 := (s1.takePair t e (s1.candsOf t e) c).settle t
    (s2.slot t e c.slot).word = some i →
    step s = finish (exec i { s2 with unit := .slot (c.firing t e (s1.slot t e c.slot)) })) ∧
  (∀ (s : State) (t e : Nat) (c : Cand) (i : Instr), s.mgmt.start = .serving → s.turn = .elem t e →
    (s.elem t e).mayFire = true → s.heldPair t e = some c →
    let s1 := s.modElem t e fun x => { x with skipBreak := false }
    let s2 := (s1.takePair t e (s1.candsOf t e) c).settle t
    (s2.slot t e c.slot).word = some i →
    step s = finish (exec i { s2 with unit := .slot (c.firing t e (s1.slot t e c.slot)) })) ∧
  (∀ (s : State) (t e k : Nat) (i : Instr), s.mgmt.start = .serving → s.turn = .elem t e → (s.elem t e).mayFire = true →
    s.heldPair t e = none → k < 32 → (s.slot t e k).start = true → s.startHeld t e k = false → (s.slot t e k).word = some i →
    (∀ j, j < k → (s.slot t e j).start = true → s.startHeld t e j = true) →
    let s1 := (s.beginRound t 0).modSlot t e k fun y =>
      { y with start := false, releasing := if y.form.punct = 1 ∨ y.form.punct = 3 then some 0 else none, done := 255 }
    step s = finish (exec i { s1 with unit := .slot { immFiring i t e k (s1.launchTag t) 0 {} with start := true } })) ∧
  (∀ (s : State) (e : Engine) (r : Req) (rs : List Req), s.mgmt.start = .serving → s.turn = .engine e →
    s.queue e = r :: rs → s.markerWaits e r = false → s.recordWaits e r.ctx = false →
    step s = finish (exec r.instr { s with unit := .engine e r })) ∧
  (∀ (s : State) (i : Instr), s.mgmt.start = .serving → s.turn = .event i → i.parts = none →
    step s = finish (exec i { s with unit := .idle }))

/-- While the device does not serve, nothing happens but its start, the end of its power and the management port's
requests (R403). -/
def Obligations.NothingBeforeStart : Prop :=
  ∀ (s : State), s.mgmt.start ≠ .serving → s.turn ≠ .event .powerUp → s.turn ≠ .event .powerLoss →
    (∀ a, s.turn ≠ .event (.managementPortRequest a)) → step s = .next s.advance

/-- The turn of a drover core and an event never stop the machine, in any state. -/
def Obligations.CoreAndEventTurnsGoOn : Prop :=
  ∀ (s : State), ((∃ n, s.turn = .core n) ∨ ∃ i, s.turn = .event i) → ∃ t, step s = .next t

/-- Reset leaves every memory empty, every core halted in its first word in control mode with registers of zero, every
element IDLE, every context and group FREE, every link DOWN, and the device not started (R403). The values of registers
for which the spec gives no reset value are the model's choice (assumption log: the reset entries). -/
def Obligations.ResetState : Prop :=
  State.reset.mem = [] ∧ State.reset.net = [] ∧ State.reset.reqs = [] ∧ State.reset.pend = [] ∧
  State.reset.mgmt.start = .cold ∧
  (∀ n, let c := State.reset.core n
    c.pc = 0 ∧ c.running = false ∧ c.priv = true ∧ c.hnd = false ∧ c.flags = 0 ∧ ∀ k, c.reg k = 0) ∧
  (∀ t e, (State.reset.elem t e).state = .idle ∧ (State.reset.elem t e).flags = 0) ∧
  (∀ t a, mapGet 0 (State.reset.tile t).mem a = 0) ∧
  (∀ c, (State.reset.ctx c).state = .free) ∧ (∀ g, (State.reset.group g).state = .free) ∧
  (∀ l, (State.reset.link l).state = .down)

/-- Main memory is in canonical form after reset. -/
def Obligations.ResetMemoryCanonical : Prop := Memory.wf State.reset.mem = true

/-- Every step keeps main memory in canonical form: addresses rise strictly, and no listed byte is the value that an
unlisted address reads as. -/
def Obligations.StepKeepsMemoryCanonical : Prop :=
  ∀ (s t : State), Memory.wf s.mem = true → step s = .next t → Memory.wf t.mem = true

/-! ## The memories -/

/-- Two canonical memories that read alike at every address are equal: a memory has one representation. -/
def Obligations.CanonicalMemoryUnique : Prop :=
  ∀ (m m' : FMap Byte), Memory.wf m = true → Memory.wf m' = true → (∀ a, mapGet 0 m a = mapGet 0 m' a) → m = m'

/-- A store to a plain page of main memory is read back, and changes no other byte but the `D` bit of its page's entry:
the bytes written read back on the path that wrote them, the entry's first byte reads as before or with `D`, bit 5, set, and
every other address outside the bytes written reads as before (R170, R375). The page is not encrypted and no window, and the
store does not reach its own entry. -/
def Obligations.PageStoreReadsBack : Prop :=
  ∀ (s : State) (a : Agent) (c : BitVec 8) (p : Page) (va : Nat) (bs : List Byte), Memory.wf s.mem = true → p.tgt = 0 →
    bitOf p.e 6 = false → va % regionSize p.lvl + bs.length ≤ regionSize p.lvl → a.path < 9 →
    ¬ (p.pa va ≤ p.epa ∧ p.epa < p.pa va + bs.length) →
    let t := pageWrites a c p va bs s
    (pageRead a c p va bs.length t).1 = bs ∧
    (mapGet 0 t.mem p.epa = mapGet 0 s.mem p.epa ∨ mapGet 0 t.mem p.epa = mapGet 0 s.mem p.epa ||| 0x20) ∧
    ∀ x, ¬ (p.pa va ≤ x ∧ x < p.pa va + bs.length) → x ≠ p.epa → mapGet 0 t.mem x = mapGet 0 s.mem x

/-! ## Faults of a drover core -/

/-- An exception of a core's own word, outside a handler: the record goes to 0xFFE0 of its data memory, `EPC` holds the
word's address, `ECAUSE` the code and `EREC` the record's address, `PPRIV` takes `PRIV`, `HND` is set, `PRIV` stays, and
the core goes on at `EVEC`; the count of an `EXIT.DISCARD` that waits is kept, by the model's choice (log 67). Nothing
else changes (R127, R324). A fault of a word inside the handler halts the core, and its RUNNING
context goes to FAULTED, whose elements fire no more; in a DRAINING or FAULTED context it is recorded, by the model's choice
as the records of the other units are (R127, R320, log 143). `ERET` returns from the handler: `PC` :=
`EPC`, `PRIV` := `PPRIV`, `HND` := 0; outside a handler it raises `ILLEGAL` (R127). -/
def Obligations.HandlerEntryAndReturn : Prop :=
  (∀ (s : State) (n code : Nat) (val aux : Option W64), (s.core n).hnd = false →
    s.enterHandler n code val aux = handlerEntered s n code val aux) ∧
  (∀ (s : State) (n code : Nat) (val aux : Option W64), (s.core n).hnd = true →
    s.enterHandler n code val aux = handlerHalted s n code val aux) ∧
  (∀ (f : Form) (s : State) (n : Nat), s.unit = .core n →
    ((s.core n).hnd = true → exec (.eret f) s = .next (s.setCore n { s.core n with
      pc := (s.core n).epc.setWidth 12
      status := statusOf false ((s.core n).status.getLsbD 2) false ((s.core n).status.getLsbD 2)
      wait := .none })) ∧
    ((s.core n).hnd = false → exec (.eret f) s = .next (handlerEntered s n 0x2B none none)))


/-- A word that needs control mode and is executed in user mode raises `PRIV`, and nothing of it is executed (R117). -/
def Obligations.ControlWordsInUserMode : Prop :=
  ∀ (f : Form) (s : State) (n : Nat), s.unit = .core n → (s.core n).priv = false → (s.core n).hnd = false →
    (∀ i ∈ [Instr.preemptSoft f, .preemptHard f, .ctxsave f, .ctxrestRun f, .ctxrestLoad f, .migr f, .lnkcfgTrain f,
        .lnkcfgDown f, .lnkcfgRatio f, .mapPa f],
      exec i s = .next (handlerEntered s n 0x2C none none)) ∧
    (f.imm.toNat % 4096 ∈ [0x000, 0x002, 0x004, 0x008] ∨ (0x100 ≤ f.imm.toNat % 4096 ∧ f.imm.toNat % 4096 ≤ 0x11F) →
      exec (.syswr f) s = .next (handlerEntered s n 0x2C none none)) ∧
    ((xaOf s n f).toNat < 2 ^ 20 → (s.group ((xaOf s n f).toNat % 4096)).state ≠ .free →
      exec (.grelForce f) s = .next (handlerEntered s n 0x2C none none))

/-! ## Words of a drover core -/

/-- An arithmetic or bit instruction on a core writes its value to `xd`, ORs its flags into `FLAGS` and goes on to the
next word. Nothing else changes: no other register, no special register, no memory, no other unit (R59, R85, R117). -/
def Obligations.ArithmeticWords : Prop :=
  ∀ row ∈ arithRows ++ bitRows, ∀ (f : Form) (s : State) (n : Nat), s.unit = .core n →
    let r := if f.immp = 2 then widenPort row.1 f else xbOf s n f
    let x := if f.immp = 3 then widenPort row.1 f else xcOf s n f
    let v := row.2.2 f (xaOf s n f) r x
    exec (row.2.1 f) s = .next (s.setCore n { s.core n with
      flags := (s.core n).flags ||| v.2
      x := if f.tgt0.toNat % 32 = 0 then (s.core n).x else mapSet 0 (s.core n).x (f.tgt0.toNat % 32) v.1
      pc := (s.core n).pc + 1
      wait := .none })

/-- The control-flow words: `JMP` and `CALL` go to the word plus the offset, or to `xa` plus the offset with `X`; `BR` goes
to the word plus the offset when its condition holds on all 64 bits, and else to the next word; `RET` goes to `xa`; a
target outside 0 to 4,095 raises `ILLEGAL` at the branch, and that a `BR` not taken at word 4,095 does so too is the
model's choice (log 9); the conditions 6 and 7 are reserved, and a label and an offset
are parameters with `IMMP` 000 (R124). -/
def Obligations.ControlFlow : Prop :=
  (∀ (f : Form) (s : State) (n : Nat), s.unit = .core n → (s.core n).hnd = false →
    let here : Int := (s.core n).pc.toNat
    let xa : Int := (xaOf s n f).toNat
    let back := BitVec.ofNat 64 ((s.core n).pc.toNat + 1)
    (f.mod = 0 → exec (.jmp f) s = .next (jumped s n (here + f.imm.toInt) none)) ∧
    (f.mod = 1 → exec (.jmp f) s = .next (jumped s n (xa + f.imm.toInt) none)) ∧
    (f.mod = 0 → exec (.call f) s = .next (jumped s n (here + f.imm.toInt) (some (f, back)))) ∧
    (f.mod = 1 → exec (.call f) s = .next (jumped s n (xa + f.imm.toInt) (some (f, back)))) ∧
    exec (.ret f) s = .next (jumped s n xa none) ∧
    ∀ (c : Nat) (cond : W64 → W64 → Prop), (c, cond) ∈ ([(0, fun a b => a = b), (1, fun a b => a ≠ b),
        (2, fun a b => a.toInt < b.toInt), (3, fun a b => b.toInt ≤ a.toInt), (4, fun a b => a.toNat < b.toNat),
        (5, fun a b => b.toNat ≤ a.toNat)] : List (Nat × (W64 → W64 → Prop))) → f.mod.toNat = c →
      (cond (xaOf s n f) (xbOf s n f) → exec (.br f) s = .next (jumped s n (here + f.imm.toInt) none)) ∧
      (¬ cond (xaOf s n f) (xbOf s n f) → exec (.br f) s = .next (jumped s n (here + 1) none))) ∧
  (∀ f : Form, (Instr.br f).wf .drover = true → f.mod.toNat < 6) ∧
  ∀ f : Form, (∀ i ∈ [Instr.jmp f, .br f, .call f], i.wf .drover = true → f.immp = 0)

/-- `TAKE` completes on a mailbox slot with a token: `V` gives the head's value, 0 for a `MARK`, and removes it, and `H` and
`T` read its header and its tag and leave it; `P` completes on every slot, with the header, or 0 where it is empty; without
a token the other forms wait, and nothing changes (R122). `INJ` completes in each of its four kinds: it sends one token into
the fabric through the core's group, with the value of `xa`, 0 for a `MARK`, the tag of `xb`, and the round of its
immediate, which it starts (R44, R121); a `DATA` token begins a wave of its tag (R181); a token to a mailbox goes on `VN` 1,
and to a slot on `VN` 0 (R23). How many tokens the network takes before an `INJ` waits is the model's choice (log 139). -/
def Obligations.MailboxWords : Prop :=
  (∀ (f : Form) (s : State) (n : Nat), s.unit = .core n →
    let k := f.imm.toNat % 32
    (∀ (t : Token) (ts : List Token), (s.core n).mail k = t :: ts → f.mod = 0 →
      exec (.take f) s = .next (wordDone (s.setCore n { s.core n with mbox := mapSet [] (s.core n).mbox k ts }) n f
        (if t.kind = .mark then 0 else t.value))) ∧
    (∀ (t : Token) (ts : List Token), (s.core n).mail k = t :: ts → f.mod = 1 →
      exec (.take f) s = .next (wordDone s n f (mailHeader (t :: ts)))) ∧
    (∀ (t : Token) (ts : List Token), (s.core n).mail k = t :: ts → f.mod = 2 →
      exec (.take f) s = .next (wordDone s n f t.tag)) ∧
    (f.mod = 3 → exec (.take f) s = .next (wordDone s n f (mailHeader ((s.core n).mail k)))) ∧
    ((s.core n).mail k = [] → f.mod ≠ 3 → exec (.take f) s = .next s)) ∧
  (∀ (f : Form) (s : State) (n g : Nat) (d : Dest), s.unit = .core n → (s.core n).group = some g →
    f.imm.getLsbD 21 = true → (s.group g).resolve (f.imm.setWidth 22) = some d → tagOk (xbOf s n f) = true →
    s.ownsColour (s.core n).context (tagColour (xbOf s n f)) = true →
    (s.ctx (s.core n).context.toNat).state = .running →
    (s.group g).kernel.tooFar (BitVec.ofNat 8 (bitsOf f.imm.toNat 22 8)) = false → s.injRoom n d = true →
    let begun := fun (kind : Kind) => if kind = .data then s.newWave (s.core n).context (xbOf s n f) else s
    let round := BitVec.ofNat 8 (bitsOf f.imm.toNat 22 8)
    let net : Net := match d with | .mailbox _ _ => .vn1 | .slot _ _ _ _ => .vn0
    ∀ (m : Nat) (kind : Kind) (v : W64) (ds : Bool), (m, kind, v, ds) ∈ [(0, Kind.data, xaOf s n f, false), (1, .mark, 0, false),
        (2, .stop, xaOf s n f, false), (4, .data, xaOf s n f, true)] → f.mod.toNat = m →
      exec (.inj f) s = .next ((((begun kind).modGroup g fun x => { x with kernel := x.kernel.begun round }).send (.core n) d net
        { kind := kind, value := v, tag := xbOf s n f, s := ds, round := round, ctx := (s.core n).context }).setCore n
          { s.core n with pc := (s.core n).pc + 1, wait := .none }))


/-- `SYSRD` gives a system register of the core by its address: `CYCLE` after the cycles that passed, which the model leaves
open, and `SBSTAT` with the commands queued and issued; and a context register of its context, of which the WO ones read 0
and 0x109 counts the free records (R118, R119, R125, R126, R317). `SYSWR` writes it: `STATUS` keeps `HALT` and `HND`, a 1
written to `FLAGS` clears the flag, the registers marked RO do not change, and `STATUS`, `EPC`, `EVEC`, `CTXID` and the
context registers need control mode (R6, R118, R317). That `EPC`, `EVEC` and `BKPC` hold 12 bits, `CTXID` 8 bits and `BKCTL`
5 bits is the model's choice (log 69). -/
def Obligations.SystemRegisters : Prop :=
  ∀ (f : Form) (s : State) (n : Nat), s.unit = .core n →
    let c := s.core n
    let v := xaOf s n f
    let cid := c.context.toNat
    let x := s.ctx cid
    let queued := (c.cmds.filter fun m => !m.issued).length + 256 * (c.cmds.filter fun m => m.issued).length
    let cycle := c.cycle + Config.cyclesPassed s.tick
    (∀ (a : Nat) (r : W64), (a, r) ∈ [(0x000, c.status), (0x001, c.flags.setWidth 64), (0x002, c.epc), (0x003, c.ecause),
        (0x004, c.evec), (0x005, c.erec), (0x007, BitVec.ofNat 64 n), (0x008, c.ctxid), (0x009, c.exitw),
        (0x00A, BitVec.ofNat 64 queued), (0x010, mapGet 0 c.bkpc 0), (0x011, mapGet 0 c.bkpc 1), (0x012, mapGet 0 c.bkpc 2),
        (0x013, mapGet 0 c.bkpc 3), (0x014, c.bkctl), (0x100, x.cstate), (0x101, 0), (0x109, BitVec.ofNat 64 x.seraiFree.length),
        (0x11C, 0), (0x11D, 0)] → f.imm.toNat = a → exec (.sysrd f) s = .next (wordDone s n f r)) ∧
    (f.imm.toNat = 0x006 → exec (.sysrd f) s = .next (wordDone (s.setCore n { c with cycle := cycle }) n f cycle)) ∧
    (∀ a, 0x100 ≤ a → a ≤ 0x11F → a ∉ [0x100, 0x101, 0x109, 0x11C, 0x11D] → f.imm.toNat = a →
      exec (.sysrd f) s = .next (wordDone s n f (x.reg a))) ∧
    (∀ (a : Nat) (c' : Core), c.priv = true → (a, c') ∈ [
        (0x000, { c with status := (c.status &&& 0xA) ||| (v &&& 5) }), (0x002, { c with epc := v &&& 0xFFF }),
        (0x004, { c with evec := v &&& 0xFFF }), (0x008, { c with ctxid := v &&& 0xFF })] → f.imm.toNat = a →
      exec (.syswr f) s = .next ((s.setCore n c').coreDone n)) ∧
    (∀ (a : Nat) (c' : Core), (a, c') ∈ [
        (0x001, { c with flags := c.flags &&& ~~~(v.setWidth 4) }), (0x003, c), (0x005, c), (0x006, c), (0x007, c), (0x009, c),
        (0x00A, c), (0x010, { c with bkpc := mapSet 0 c.bkpc 0 (v &&& 0xFFF) }),
        (0x011, { c with bkpc := mapSet 0 c.bkpc 1 (v &&& 0xFFF) }), (0x012, { c with bkpc := mapSet 0 c.bkpc 2 (v &&& 0xFFF) }),
        (0x013, { c with bkpc := mapSet 0 c.bkpc 3 (v &&& 0xFFF) }), (0x014, { c with bkctl := v &&& 0x1F })] → f.imm.toNat = a →
      exec (.syswr f) s = .next ((s.setCore n c').coreDone n)) ∧
    (∀ a, c.priv = true → 0x100 ≤ a → a ≤ 0x11F → f.imm.toNat = a →
      (∀ s', s.contextWrite cid a v = .ok s' → exec (.syswr f) s = .next (s'.coreDone n)) ∧
      (∀ aux, s.contextWrite cid a v = .error aux → exec (.syswr f) s = .next (wordFaults s n 0x2B none aux)) ∧
      (a ∈ [0x109, 0x10D, 0x111] → exec (.syswr f) s = .next (s.coreDone n)) ∧
      (buildRegister a = true → x.state ≠ .building → exec (.syswr f) s = .next (wordFaults s n 0x2B none none)) ∧
      (buildRegister a = true → x.state = .building → badValue a v.toNat = false →
        exec (.syswr f) s = .next ((s.setCtx cid (x.setReg a v)).coreDone n)))

/-- `EXIT` and `EXIT.DISCARD` end the program once its commands are complete: `EXITW` holds the code of `xa`, and with
`DISCARD` the number of queued commands dropped; the core stops, and its group's kernel is told; while issued commands are
not complete, `EXIT.DISCARD` drops the queued ones and waits (R129, R347). That the count is kept over a handler entered in
that wait is the model's choice (log 67). -/
def Obligations.ProgramEnds : Prop :=
  ∀ (f : Form) (s : State) (n g : Nat), s.unit = .core n → (s.core n).group = some g →
    let idle : Core := { s.core n with cmds := [] }
    let ended := fun (w : W64) (s : State) =>
      (s.setCore n { idle with exitw := w, running := false, active := false, wait := .none, discard := none }).modGroup g
        fun x => { x with kernel := { x.kernel with retired := true, exitw := w } }
    let code := (xaOf s n f).toNat % 2 ^ 32
    let queued := (s.core n).cmds.filter fun x => !x.issued
    let before := match (s.core n).discard with | some (pc, k) => if pc = (s.core n).pc then k else 0 | none => 0
    ((s.core n).cmds = [] → exec (.exit f) s = .next (ended (BitVec.ofNat 64 code) s)) ∧
    ((∀ x ∈ (s.core n).cmds, x.issued = false) → (s.core n).wait = .fetched →
      exec (.exitDiscard f) s = .next (ended (BitVec.ofNat 64 (code + (queued.length + before) * 2 ^ 32 + 2 ^ 48))
        (s.setCore n idle))) ∧
    ((∃ x ∈ (s.core n).cmds, x.issued = true) → (s.core n).wait = .fetched →
      exec (.exitDiscard f) s = .next (s.setCore n { s.core n with
        cmds := (s.core n).cmds.filter fun x => x.issued, wait := .timed (queued.length + before) }))

/-- The words that touch only the core: `LDS` reads its data memory, `STS` writes it, `FENCE` gives `xa`, at once by the
model's choice (log 33), `SBAR` ends when no command is left, after which the effects of the earlier ones are seen, and `XFENCE` when the writes before it are performed (R188,
R193, R194, R214). `LD`, `ST` and `ATOM` on a core: an access to a page that is there and allows it is performed, unless the
memory has an uncorrectable error, which raises `MEM_UNCORRECTABLE`; a write waits while its page migrates, and an access
while what carries it cannot serve it (R377, R388, R395); a translation that fails raises its fault, an absent page
`PAGE_ABSENT` with the address, and a window whose link is down `LINK_DOWN`; but `LD.SPEC` of an absent page counts a drop
and gives 1, by the model's choice (log 35) (R175, R186, R187, R191). The memory's errors are the model's free value. -/
def Obligations.CoreMemoryWords : Prop :=
  (∀ (f : Form) (s : State) (n : Nat), s.unit = .core n →
    let c := s.core n
    let r := if f.immp = 2 then widenPort 0x83 f else xbOf s n f
    exec (.lds f) s = .next (wordDone s n f (loadValue (.lds f)
      (memRead c.dmem (alignTo (accessWidth (.lds f)) ((withOffset f (xaOf s n f)).toNat % 2 ^ 16)) (accessWidth (.lds f))))) ∧
    exec (.sts f) s = .next ((s.modCore n fun c => { c with
      dmem := memWrite c.dmem (alignTo (accessWidth (.sts f)) ((withOffset f (xaOf s n f)).toNat % 2 ^ 16))
        (toBytes r.toNat (accessWidth (.sts f))) }).coreDone n) ∧
    exec (.fence f) s = .next (wordDone s n f (xaOf s n f)) ∧
    (c.cmds = [] → exec (.sbar f) s = .next ((s.showCommands n).coreDone n)) ∧
    (s.reqs = [] → s.unserved = [] → s.late = [] → ∃ t, exec (.xfence f) s = .next t ∧ t.cores = (wordDone s n f (xaOf s n f)).cores ∧
      t.mem = s.mem ∧ t.tiles = s.tiles)) ∧
  (∀ (f : Form) (s : State) (n : Nat), s.unit = .core n →
    let c := (s.core n).context
    let va := fun (i : Instr) => alignTo (accessWidth i) (withOffset f (xaOf s n f)).toNat
    let r := fun (opc : Nat) => if f.immp = 2 then widenPort opc f else xbOf s n f
    let k := if f.immp = 3 then widenPort 0x89 f else xcOf s n f
    let spec := bitsOf f.mod.toNat 3 2
    let served := fun (i : Instr) (rd : Bool) (p : Page) (done : State) =>
      let spoilt := wordFaults s n 0x31 (some (BitVec.ofNat 64 (va i))) none
      if Config.spoiled s.tick = true then spoilt
      else match s.serves (agentD n) p (va i) rd with
        | .error .wait => s
        | .error _ => spoilt
        | .ok _ => done
    let ld := fun (p : Page) => accessPage (agentD n) c p (va (.ld f)) (.ld f) 0 0 s
    let atom := fun (p : Page) => accessPage (agentD n) c p (va (.atom f)) (.atom f) (r 0x89) k s
    (∀ p, translate s c (va (.ld f)) true false = .ok p →
      exec (.ld f) s = .next (served (.ld f) true p ((ld p).2.coreResult n f (ld p).1))) ∧
    (∀ p, translate s c (va (.st f)) false true = .ok p → exec (.st f) s = .next (served (.st f) false p
      (if bitOf p.e 7 = true then s
        else (pageWrites (agentD n) c p (va (.st f)) (toBytes (r 0x81).toNat (accessWidth (.st f))) s).coreDone n))) ∧
    (∀ p, translate s c (va (.atom f)) true true = .ok p → exec (.atom f) s = .next (served (.atom f) true p
      (if bitOf p.e 7 = true then s else (atom p).2.coreResult n f (atom p).1))) ∧
    (∀ a, translate s c (va (.ld f)) true false = .error (.absent a) → spec = 1 →
      exec (.ld f) s = .next ((s.countDrop c).coreResult n f 1)) ∧
    ∀ (i : Instr) (rd wr : Bool), (i, rd, wr) ∈ [(Instr.ld f, true, false), (.st f, false, true), (.atom f, true, true)] →
      (∀ a, translate s c (va i) rd wr = .error (.absent a) → i ≠ .ld f ∨ spec ≠ 1 →
        exec i s = .next (wordFaults s n 0x01 (some (BitVec.ofNat 64 a)) none)) ∧
      (∀ code val aux, translate s c (va i) rd wr = .error (.fault code val aux) →
        exec i s = .next (wordFaults s n code val aux)) ∧
      (∀ code, translate s c (va i) rd wr = .error (.error code) → exec i s = .next (wordFaults s n code none none)))


/-- The command words of streams and of the matrix engine: with the tile of their role in the core's group and region and
room in the scoreboard, a command enters it; a word that answers waits for its reply, which it then writes to `xd`; without
such a tile they raise `ILLEGAL` (R123, R197, R212, R213, R227, R230). That the waybill's address counts mod 2^16 is the
model's choice (log 37). -/
def Obligations.CommandWords : Prop :=
  ∀ (f : Form) (s : State) (n t : Nat), s.unit = .core n → (s.core n).cmds.length < 32 →
    let portKey := engineKey (.stream t (f.mod.toNat % 8))
    let role := f.imm.toNat % 1024
    let roleC := (xcOf s n f).toNat % 1024
    let blk := (List.range 64).map fun i => mapGet 0 (s.core n).dmem ((xaOf s n f).toNat % 2 ^ 16 + i)
    (∀ i ∈ [Instr.strm f, .gthr f, .scat f], s.commandTile n role = some t → (xaOf s n f).toNat % 2 ^ 16 + 64 ≤ 2 ^ 16 →
      (waybillOf blk).check (opcodeOf i) (s.tile t) (xcOf s n f) = 0 →
      exec i s = .next (commandQueued s n portKey (s.commandReq n i (xaOf s n f) (xbOf s n f) (xcOf s n f) blk))) ∧
    (∀ i ∈ [Instr.sclose f, .scloseCut f], s.commandTile n role = some t →
      exec i s = .next (commandQueued s n portKey (s.commandReq n i 0 0 0 []))) ∧
    (∀ i ∈ [Instr.ring f, .mma f, .accz f, .accrd f], s.commandTile n roleC = some t →
      exec i s = .next (commandQueued s n (engineKey (.matrix t)) (s.commandReq n i (xaOf s n f) (xbOf s n f) 0 []))) ∧
    (∀ i ∈ [Instr.rstatRing f, .rstatEng f, .rstatEngclr f], s.commandTile n roleC = some t → (s.core n).wait = .fetched →
      exec i s = .next (querySent s n (engineKey (.matrix t)) (s.commandReq n i 0 0 0 []))) ∧
    (s.commandTile n role = some t → (s.core n).wait = .fetched →
      exec (.swait f) s = .next (querySent s n portKey (s.commandReq n (.swait f) (xaOf s n f) 0 0 []))) ∧
    (∀ v, s.commandTile n role = some t → (s.core n).wait = .reply v →
      exec (.swait f) s = .next (wordDone s n f v)) ∧
    (∀ v, s.commandTile n roleC = some t → (s.core n).wait = .reply v → ∀ i ∈ [Instr.rstatRing f, .rstatEng f, .rstatEngclr f],
      exec i s = .next (wordDone s n f v)) ∧
    (s.commandTile n role = none → ∀ i ∈ [Instr.strm f, .gthr f, .scat f, .sclose f, .scloseCut f, .swait f],
      exec i s = .next (wordFaults s n 0x2B none none)) ∧
    (s.commandTile n roleC = none → ∀ i ∈ [Instr.ring f, .mma f, .accz f, .accrd f, .rstatRing f, .rstatEng f, .rstatEngclr f],
      exec i s = .next (wordFaults s n 0x2B none none))

/-- The context words in control mode: `xd` gets the state of the context of `xa` as it was, and the word returns at once; the
operation acts on that context, with the caller's context and event counter: a pre-emption begins, a save is copied out, a
save area is filled, and a restore is asked for; a copy that has to wait, for a page that migrates or is not reached or behind
an earlier copy of the save area, goes on by itself, which RESTORE does (R329, R377). The events by which such a copy goes on are
the model's choice (log 83). -/
def Obligations.ContextWords : Prop :=
  ∀ (f : Form) (s : State) (n : Nat), s.unit = .core n → (s.core n).priv = true →
    let x := (xaOf s n f).toNat
    let cid := (s.core n).context.toNat
    let ev := (cid, f.imm.toNat % 4096)
    let xb := (xbOf s n f).toNat
    let done := fun (s' : State) => s'.coreResult n f ((s.ctx x).cstate &&& 7#64)
    x < 256 → x ≠ cid → bitsOf f.imm.toNat 12 20 = 0 → f.imm.toNat % 4096 < ((s.ctx cid).reg 0x113).toNat →
    ((s.ctx x).state = .ready ∨ (s.ctx x).state = .running → exec (.preemptSoft f) s = .next (done
      ((s.modCtx x fun c => { c with saveEvents := c.saveEvents ++ [ev] }).preempt x false))) ∧
    ((s.ctx x).state ∈ [.ready, .running, .draining, .faulted] →
      exec (.preemptHard f) s = .next (done
        ((s.modCtx x fun c => { c with saveEvents := c.saveEvents ++ [ev] }).preempt x true))) ∧
    (∀ (i : Instr) (save run : Bool), (i, save, run) ∈ [(Instr.ctxsave f, true, false), (.ctxrestRun f, false, true),
        (.ctxrestLoad f, false, false)] → (s.ctx x).state = .saved →
      let waits := s.modCtx x fun c => { c with jobs := c.jobs ++ [{ save := save, run := run, event := ev, buffer := xb }] }
      let after := fun (s' : State) => if run then s'.modCtx x fun c => { c with restoring := some (c.restoring.getD [] ++ [ev]) }
        else s'.raiseEvent ev
      let failed := (s.record { code := fcIllegal, ukind := 3, unit := unitDie 0 192, ctx := BitVec.ofNat 8 cid }).raiseEvent ev
      ((s.ctx x).jobs ≠ [] → exec i s = .next (done waits)) ∧
      ((s.ctx x).jobs = [] →
        (save = true → (∀ u s', saveCopy x ev xb s = .ok (u, s') → exec i s = .next (done (s'.raiseEvent ev))) ∧
          (saveCopy x ev xb s = .error .wait → exec i s = .next (done waits)) ∧
          (∀ e, saveCopy x ev xb s = .error e → e ≠ .wait → exec i s = .next (done failed))) ∧
        (save = false → xb = 0 → exec i s = .next (done (after s))) ∧
        (save = false → xb ≠ 0 → (∀ u s', restCopy x ev xb s = .ok (u, s') → exec i s = .next (done (after s'))) ∧
          (restCopy x ev xb s = .error .wait → exec i s = .next (done waits)) ∧
          (∀ e, restCopy x ev xb s = .error e → e ≠ .wait → exec i s = .next (done failed))))) ∧
    ((s.ctx x).state = .free → ∀ i ∈ [Instr.preemptSoft f, .preemptHard f, .ctxsave f, .ctxrestRun f, .ctxrestLoad f],
      exec i s = .next (wordDone s n f (BitVec.ofNat 64 (2 ^ 63) ||| ((s.ctx x).cstate &&& 7#64))))

/-- The queue words: `WAIT` ends with 0 when the counter has reached `xb`, with what was performed before the signals on it
seen, and stays while it has not; `EVSIG.ADD` and
`EVSIG.SET` change the counter and give its old value; `QPOST` puts the record of data memory at the queue's tail, which
advances, and rings it; `LAUNCH` loads the record's image onto a BOUND group that is idle and starts it, or answers with bit 63 set
(R339). -/
def Obligations.QueueWords : Prop :=
  ∀ (f : Form) (s : State) (n : Nat), s.unit = .core n →
    let c := (s.core n).context
    let a := (xaOf s n f).toNat
    let v := (xbOf s n f).toNat
    (∀ (old : Nat) (s' : State), badCounter a = false → vnat agentSched c a 8 s.schedSees = .ok (old, s') →
      (v ≤ old → exec (.wait f) s = .next ((s'.showKnown (s'.counterKey c a) (16384 + n)).coreResult n f 0)) ∧
      (old < v → exec (.wait f) s = .next s)) ∧
    (∀ (set : Bool) (old : Nat) (s' s'' : State), badCounter a = false →
      vnat agentSched c a 8 s.schedSees = .ok (old, s') →
      vput agentSched c a 8 (if set then v else (old + v) % 2 ^ 64) s' = .ok ((), s'') →
      exec (if set then .evsigSet f else .evsigAdd f) s = .next ((s''.signal c a).coreResult n f (BitVec.ofNat 64 old))) ∧
    (∀ s' : State, a < 1024 → v ≤ 0xFFC0 → v % 16 = 0 → s.draining c = false → s.qowner a = c → s.qstate a ≠ 0 →
      s.qused a ≠ s.qlen a →
      vwrite (agentD n) c (s.qbase a + 64 * (s.qtail a % s.qlen a)) (memRead (s.core n).dmem v 64) s = .ok ((), s') →
      exec (.qpost f) s = .next (((s'.setQfield a 20 4 ((s.qtail a + 1) % 2 ^ 32)).ring? a).coreResult n f
        (BitVec.ofNat 64 (s.qtail a)))) ∧
    (let r : QRec := ⟨memNat (s.core n).dmem a 64⟩
     let g := v % 4096
     ∀ w loaded, (s.modGroup g fun x => { x with kernel := r.kernel (.core n a) }).load g r.shape.roles = some (w, loaded) →
      a % 64 = 0 → a ≤ 0xFFC0 → v < 2 ^ 20 → (s.ctx c.toNat).state.holds = false → s.recordFails c r = 0 → r.waddr = 0 →
      v / 4096 = c.toNat → s.mayLaunch c g = true → s.colourBusy c r.lcol = false → r.shape.roles ≤ (s.group g).roles →
      exec (.launch f) s = .next (if w = 0 then (loaded.startKernel g).coreResult n f 0
        else loaded.coreResult n f (BitVec.ofNat 64 (2 ^ 63 + 2))))

/-- The configuration words on an address that the core may configure: `CFGW` writes the item and gives 0, or gives the
refusal and changes nothing; `CFGR` reads half of it; `CFGCLR` clears idle elements; `BKPT` sets and clears a slot's
breakpoint and resumes an element from BREAK or HALTED (R350, R351, R352). The verification words: `SIGCHK` tests the
signature block of data memory under a key slot, `DGST` stores the digest of virtual memory and gives its length, and
`CRC` gives the CRC of data memory or of a tile's configuration, whose tile stands in bits 59:46 of `xa` by the model's
choice (log 91) (R349, R353). -/
def Obligations.ConfigurationWords : Prop :=
  (∀ (f : Form) (s : State) (n : Nat), s.unit = .core n →
    let a := cfgFields (xaOf s n f).toNat
    let v := (xbOf s n f).toNat * 2 ^ 64 + (xcOf s n f).toNat
    a.ok = true → s.mayConfigure n (s.cfgGroup a) = true →
    (∀ s', s.cfgWrite a v = .ok s' → exec (.cfgw f) s = .next (s'.coreResult n f 0)) ∧
    (∀ r, s.cfgWrite a v = .error r →
      exec (.cfgw f) s = .next (wordDone s n f (BitVec.ofNat 64 (2 ^ 63 + (r.check * 256 + r.code))))) ∧
    exec (.cfgr f) s = .next (wordDone s n f (BitVec.ofNat 64 (s.cfgRead a / 2 ^ (64 * f.mod.toNat)))) ∧
    (a.space = 0 → a.elem = 0 → a.slot = 0 → ((List.range 16).any fun e => (s.elem a.tile e).clearBusy) = false →
      exec (.cfgclrTile f) s = .next ((s.clearTile a.tile).coreResult n f 0)) ∧
    (a.space = 0 → a.slot = 0 → (s.elem a.tile a.elem).clearBusy = false →
      exec (.cfgclrElem f) s = .next ((s.clearElem a.tile a.elem).coreResult n f 0)) ∧
    (a.space = 0 → (s.elem a.tile a.elem).state ≠ .fused →
      exec (.bkptSet f) s = .next ((s.modSlot a.tile a.elem a.slot fun y =>
        { y with bval := xbOf s n f, bmask := xcOf s n f }).coreResult n f 0) ∧
      exec (.bkptClr f) s = .next ((s.modSlot a.tile a.elem a.slot fun y =>
        { y with bval := 0, bmask := 0 }).coreResult n f 0)) ∧
    (a.space = 0 → a.slot = 0 →
      ((s.elem a.tile a.elem).state = .broken → exec (.bkptRes f) s = .next ((s.modElem a.tile a.elem fun x =>
        { x with state := .running, skipBreak := true }).coreResult n f 0)) ∧
      ((s.elem a.tile a.elem).state = .halted → exec (.bkptRes f) s = .next ((s.modElem a.tile a.elem fun x =>
        { x with state := .running }).coreResult n f 0)))) ∧
  (∀ (f : Form) (s : State) (n : Nat), s.unit = .core n →
    let a := (xaOf s n f).toNat
    let b := (xbOf s n f).toNat
    let c := (xcOf s n f).toNat
    (a + 64 ≤ 65536 → b + 144 ≤ 65536 → b % 16 = 0 →
      exec (.sigchk f) s = .next (wordDone s n f (BitVec.ofNat 64 (sigResult (mapGet (0, 0) s.mgmt.sigKeys (f.imm.toNat % 16))
        (memRead (s.core n).dmem a 64) (memRead (s.core n).dmem b 144))))) ∧
    (∀ bs s', b < 2 ^ 32 → c + 64 ≤ 65536 → c % 16 = 0 → vread (agentD n) (s.core n).context a b s = .ok (bs, s') →
      exec (.dgst f) s = .next ((s'.modCore n fun x =>
        { x with dmem := memWrite x.dmem c ((sha512 bs).map (BitVec.ofNat 8)) }).coreResult n f (xbOf s n f))) ∧
    (a + b ≤ 65536 → exec (.crcMem f) s = .next (wordDone s n f
      (BitVec.ofNat 64 (crc32c (c % 2 ^ 32) (memRead (s.core n).dmem a b))))) ∧
    exec (.crcTile f) s = .next (wordDone s n f (BitVec.ofNat 64 (crc32c 0 (s.tileWords (bitsOf a 46 14))))))


/-- The group words: `GBIND` binds a free group of the shape at a place, with `xb` not 0 the one that `xb` names, and gives
its handle, or refuses with 1 for no place; `GREL` and, in control mode, `GREL.FORCE` release a BOUND group (R359). The barrier words: `BARINIT.ALLOC` takes
the lowest FREE entry of the die for `xa` arrivals and gives its handle, or 1 with bit 63; `FREE` frees an entry of the
context on which nothing waits; both change no entry while the context is FAULTED, where they wait by the model's choice (log 94);
`QUERY` reads it; `BARARR` sends one arrival for the round of `xb` and waits, and ends with the round when its release has
crossed the die edges, with what was before the arrivals of the round seen (R360, R364, R365, R366, R368, R388); that what a
chain leads from to the core is before its arrival is the model's choice (log 94). -/
def Obligations.GroupAndBarrierWords : Prop :=
  (∀ (f : Form) (s : State) (n : Nat), s.unit = .core n →
    let c := (s.core n).context
    let a := (xaOf s n f).toNat
    let b := (xbOf s n f).toNat
    (∀ h g, gbindShape a b = some h → (s.ctx c.toNat).state = .running → s.freeGroup? = some g →
      let t := b % 2 ^ 14
      let place := if b = 0 then s.place? h (n / 64) else s.placeAt h (t / 4096) (t % 64) (t / 64 % 64)
      (∀ p, place = some p →
        exec (.gbind f) s = .next (((s.bindAt g c h p).modGroup g fun x => { x with state := .bound }).coreResult n f
          (handleOf g c))) ∧
      (place = none → exec (.gbind f) s = .next (wordDone s n f (BitVec.ofNat 64 (2 ^ 63 + 1))))) ∧
    (a < 2 ^ 20 → (s.group (a % 4096)).state = .bound → (s.group (a % 4096)).ctx = c →
      exec (.grel f) s = .next ((s.release (a % 4096)).coreResult n f 0)) ∧
    (a < 2 ^ 20 → (s.group (a % 4096)).state = .bound → (s.core n).priv = true →
      exec (.grelForce f) s = .next ((s.release (a % 4096)).coreResult n f 0))) ∧
  (∀ (f : Form) (s : State) (n : Nat), s.unit = .core n →
    let c := (s.core n).context
    let a := (xaOf s n f).toNat
    let b := (xbOf s n f).toNat
    let die := n / 64 * 256
    (∀ k, 1 ≤ a → a ≤ 1024 → b = 0 → s.barriersHeld c = false → k < 256 → (s.barrier (die + k)).n = 0 → (∀ j, j < k → (s.barrier (die + j)).n ≠ 0) →
      exec (.barinitAlloc f) s =
        .next ((s.setBarrier (die + k) { ctx := c, n := a }).coreResult n f (BitVec.ofNat 64 (die + k)))) ∧
    (1 ≤ a → a ≤ 1024 → b = 0 → s.barriersHeld c = false → (∀ j, j < 256 → (s.barrier (die + j)).n ≠ 0) →
      exec (.barinitAlloc f) s = .next (wordDone s n f (BitVec.ofNat 64 (2 ^ 63 + 1)))) ∧
    (a < 1024 → (s.barrier a).n ≠ 0 → (s.barrier a).ctx = c →
      exec (.barinitQuery f) s = .next (wordDone s n f (s.barrier a).word) ∧
      ((s.barrier a).bstate ≠ 2 → s.barriersHeld c = false → exec (.barinitFree f) s = .next ((s.setBarrier a {}).coreResult n f 0)) ∧
      ((s.barrier a).bstate ≠ 2 → s.barriersHeld c = true → exec (.barinitFree f) s = .next s)) ∧
    (1 ≤ a → a ≤ 1024 → b = 0 → s.barriersHeld c = true → exec (.barinitAlloc f) s = .next s) ∧
    (a < 1024 → b < 256 → (s.core n).wait = .fetched →
      exec (.bararr f) s = .next { (s.learn (16384 + n) (arrivalKey s.tick)).setCore n
          { s.core n with wait := .sent s.tick } with
        arrivals := s.arrivals ++ [{ handle := a, core := some n, tag := s.coreTag n, ctx := c, at_ := BitVec.ofNat 8 b
                                     step := s.tick }] }) ∧
    (∀ v d k, a < 1024 → b < 256 → (s.core n).wait = .released v d k → exec (.bararr f) s = .next (
      if s.edgesUp d (n / 64) = true then (s.learn (arrivalKey k) (16384 + n)).coreResult n f v else s)))


/-- The page words: with an absent entry for the address, `MAP.PA` in control mode writes the entry, and a table page that
it names becomes zeros; `MAP.ZERO` and `MAP.COPY` take a frame of the pool and fill it with zeros or with the page of `xc`,
and answer 4 when the pool is empty; a present entry, or a leaf above it, is answered with 1; what cannot be reached now is
waited for. `UNMAP` clears `V` of the leaf, re-latches the
ports when every access through the old leaf is performed, and gives the old entry when no `RELATCH` is left; `UNMAP.DCLR`
waits while an access through the leaf is not performed and then clears `D`; an absent page is answered with 1; and with `MIGR`
they wait while another core's `UNMAP` or `MIGR` of the page is under way. `MIGR` in control mode sets `MIG` and re-latches the ports, then, with every write through the old leaf performed,
copies the page and writes the new entry, and, with every access and every `RELATCH` past, gives the old one; until then it
waits (R377, R378, R384, R385, R386). -/
def Obligations.PageWords : Prop :=
  ∀ (f : Form) (s : State) (n : Nat), s.unit = .core n →
    let c := (s.core n).context
    let va := (xaOf s n f).toNat
    let xb := (xbOf s n f).toNat
    let lo := fun lvl => va / regionSize lvl * regionSize lvl
    let lvl := f.imm.toNat % 4
    let tbl := f.imm.getLsbD 2
    let pool := ((s.ctx c.toNat).reg 0x11F).toNat
    let frame := memNat s.mem (((s.ctx c.toNat).reg 0x11E).toNat + 4 * (pool - 1)) 4
    let leaf := xb % 2 ^ 16 + xb / 2 ^ 52 * 2 ^ 52 + 3 + frame * 2 ^ 16
    let filled := fun (epa : Nat) (bs : List Byte) (p : Page) (s : State) =>
      ((s.modCtx c.toNat fun x => x.setReg 0x11F (BitVec.ofNat 64 (pool - 1))).physWrites c (p.pa (va / 65536 * 65536))
        ((bs.zip (List.range bs.length)).map fun b => b.1 ^^^
          ((s.modCtx c.toNat fun x => x.setReg 0x11F (BitVec.ofNat 64 (pool - 1))).keyByte (agentD n) c p
            (va / 65536 * 65536 + b.2)).1)).mapEntry n f 3 epa leaf
    let reached := fun (s : State) (pa k : Nat) => s.reachesAll (agentD n) pa k
    let listed := ((s.ctx c.toNat).reg 0x11E).toNat + 4 * (pool - 1)
    va < 2 ^ 56 →
    (∀ e epa, (s.core n).priv = true → f.imm.toNat < 8 → (if tbl then lvl ≠ 3 else lvl ≠ 0) →
      s.pageBusy n c (lo lvl) (regionSize lvl) = false → s.walkTo c va lvl = .entry e epa → bitOf e 0 = false →
      badImage lvl xb tbl = false →
      exec (.mapPa f) s = .next (if reached s epa 8 = true ∧ (tbl = true → reached s (bitsOf xb 13 39 * 8192) 8192 = true) then
        (if tbl then s.physWrites c (bitsOf xb 13 39 * 8192) (List.replicate 8192 0) else s).mapEntry n f lvl epa xb else s)) ∧
    (∀ e epa, (s.core n).priv = true → f.imm.toNat < 8 → (if tbl then lvl ≠ 3 else lvl ≠ 0) →
      s.pageBusy n c (lo lvl) (regionSize lvl) = false →
      (s.walkTo c va lvl = .entry e epa ∧ bitOf e 0 = true) ∨ s.walkTo c va lvl = .mapped →
      exec (.mapPa f) s = .next (wordDone s n f (BitVec.ofNat 64 (2 ^ 63 + 1)))) ∧
    (∀ e epa, f.imm = 0 → s.pageBusy n c (lo 3) (regionSize 3) = false →
      (s.walkTo c va 3 = .entry e epa ∧ bitOf e 0 = true) ∨ s.walkTo c va 3 = .mapped →
      ∀ i ∈ [Instr.mapZero f, .mapCopy f], exec i s = .next (wordDone s n f (BitVec.ofNat 64 (2 ^ 63 + 1)))) ∧
    (∀ e epa, f.imm = 0 → s.pageBusy n c (lo 3) (regionSize 3) = false → s.walkTo c va 3 = .entry e epa →
      bitOf e 0 = false → reached s epa 8 = false → ∀ i ∈ [Instr.mapZero f, .mapCopy f], exec i s = .next s) ∧
    (∀ e epa, f.imm = 0 → s.pageBusy n c (lo 3) (regionSize 3) = false → s.walkTo c va 3 = .entry e epa →
      bitOf e 0 = false → reached s epa 8 = true → badFrameImage xb = false →
      (pool = 0 → exec (.mapZero f) s = .next (wordDone s n f (BitVec.ofNat 64 (2 ^ 63 + 4)))) ∧
      (∀ p, pool ≠ 0 → s.checkLeaf c ⟨leaf, 3, epa⟩ (va / 65536 * 65536) false false = .ok p →
        exec (.mapZero f) s = .next (if reached s (p.pa (va / 65536 * 65536)) 65536 = true ∧ reached s listed 4 = true then
          filled epa (List.replicate 65536 0) p s else s)) ∧
      (∀ bs s1, vread (agentD n) c ((xcOf s n f).toNat / 65536 * 65536) 65536 s = .ok (bs, s1) →
        s1.core n = s.core n → s1.ctxs = s.ctxs →
        (pool = 0 → exec (.mapCopy f) s = .next (wordDone s1 n f (BitVec.ofNat 64 (2 ^ 63 + 4)))) ∧
        (∀ p, pool ≠ 0 → memNat s1.mem listed 4 = frame →
          s1.checkLeaf c ⟨leaf, 3, epa⟩ (va / 65536 * 65536) false false = .ok p →
          exec (.mapCopy f) s = .next (if reached s1 (p.pa (va / 65536 * 65536)) 65536 = true ∧ reached s1 listed 4 = true then
            filled epa bs p s1 else s1)))) ∧
    (∀ lvl epa, s.walk c va = .absent lvl epa → (s.core n).wait = .fetched →
      (s.pageBusy n c (lo lvl) (regionSize lvl) = false → ∀ i ∈ [Instr.unmap f, .unmapDclr f],
        exec i s = .next (wordDone s n f (BitVec.ofNat 64 (2 ^ 63 + 1)))) ∧
      (s.pageBusy n c (lo lvl) (regionSize lvl) = true → ∀ i ∈ [Instr.unmap f, .unmapDclr f], exec i s = .next s) ∧
      ((s.core n).priv = true → exec (.migr f) s = .next (if s.pageBusy n c (lo lvl) (regionSize lvl) = true then s
        else wordDone s n f (BitVec.ofNat 64 (2 ^ 63 + 1))))) ∧
    (∀ e lvl epa, s.walk c va = .leaf e lvl epa → (s.core n).wait = .fetched → s.pageBusy n c (lo lvl) (regionSize lvl) = true →
      (∀ i ∈ [Instr.unmap f, .unmapDclr f], exec i s = .next s) ∧ ((s.core n).priv = true → exec (.migr f) s = .next s)) ∧
    (∀ e lvl epa, s.walk c va = .leaf e lvl epa → s.pageBusy n c (lo lvl) (regionSize lvl) = false →
      ((s.core n).wait = .fetched → exec (.unmap f) s = .next (if reached s epa 8 = true then
        (s.setEntry c epa (e - 1)).modCore n fun x => { x with wait := .reply (BitVec.ofNat 64 e) } else s)) ∧
      (s.accessing c epa = false → reached s epa 8 = true → exec (.unmapDclr f) s =
        .next ((s.setEntry c epa (if bitOf e 5 then e - 32 else e)).coreResult n f (BitVec.ofNat 64 e))) ∧
      (s.accessing c epa = true ∨ reached s epa 8 = false → exec (.unmapDclr f) s = .next s) ∧
      ((s.core n).priv = true → (s.core n).wait = .fetched → Page.tgt ⟨e, lvl, epa⟩ = 0 → withPa e 0 = withPa xb 0 →
        entryBad lvl xb = false → bitOf xb 7 = false → exec (.migr f) s = .next (if reached s epa 8 = true then
          ((s.setEntry c epa (if bitOf e 7 = true then e else e + 128)).relatchPage c (lo lvl) lvl).modCore n fun x =>
            { x with wait := .reply (BitVec.ofNat 64 e) } else s))) ∧
    (∀ old lvl epa, s.walk c va = .absent lvl epa →
      ((s.core n).wait = .reply old → s.accessing c epa = false → exec (.unmap f) s =
        .next ((s.relatchPage c (lo lvl) lvl).modCore n fun x => { x with wait := .late old })) ∧
      ((s.core n).wait = .late old → s.relatching c (relatchValue (lo lvl) lvl) = false →
        exec (.unmap f) s = .next (wordDone s n f old)) ∧
      ((s.core n).wait = .reply old → s.accessing c epa = true → exec (.unmap f) s = .next s) ∧
      ((s.core n).wait = .late old → s.relatching c (relatchValue (lo lvl) lvl) = true → exec (.unmap f) s = .next s)) ∧
    (∀ old e lvl epa, (s.core n).priv = true → s.walk c va = .leaf e lvl epa →
      ((s.core n).wait = .reply old → s.accessingOld c epa (leafPa old.toNat) true = false → exec (.migr f) s = .next (
        if reached s (leafPa e) (regionSize lvl) = true ∧ reached s (leafPa xb) (regionSize lvl) = true ∧ reached s epa 8 = true then
          (((s.copyFrame (leafPa e) (leafPa xb) (regionSize lvl)).showPhys (leafPa xb) (regionSize lvl)).setEntry c epa
            (withPa e (leafPa xb))).modCore n fun x => { x with wait := .late old }
        else s)) ∧
      ((s.core n).wait = .late old → s.accessingOld c epa (leafPa old.toNat) false = false →
        s.relatching c (relatchValue (lo lvl) lvl) = false → exec (.migr f) s = .next (wordDone s n f old)) ∧
      ((s.core n).wait = .reply old → s.accessingOld c epa (leafPa old.toNat) true = true → exec (.migr f) s = .next s) ∧
      ((s.core n).wait = .late old → s.accessingOld c epa (leafPa old.toNat) false = true ∨
        s.relatching c (relatchValue (lo lvl) lvl) = true → exec (.migr f) s = .next s))

/-- The link words: `LNKCFG.QUERY` gives a link's status word; in control mode on a core of one of the link's dies, `TRAIN`
starts the training of a link that is DOWN, UP or FAILED, which ends the adders of one that was UP, `DOWN` takes it down, and
both give its state before; `RATIO` asks the named channels for a ratio once: one that is OWN takes it at once, and the others keep it for the core until
they are OWN; it ends with 0 when none keeps one for it. `LNKADD.START` gives a free adder of the die to a chain
record and answers with its handle, or with 1 when none is free; `STAT` and `CANCEL` give an adder's status (R388, R400,
R401, R402). That a change of ratio counts as a retrain, and how `RATIO` asks a lent channel back, is the model's choice (log
98). -/
def Obligations.LinkWords : Prop :=
  ∀ (f : Form) (s : State) (n : Nat), s.unit = .core n →
    let l := (xaOf s n f).toNat
    let xb := (xbOf s n f).toNat
    let x := s.link l
    let ks := if bitOf xb 10 then (List.range 64).map ((l - 0x40) * 64 + ·) else [(l - 0x40) * 64 + xb % 64]
    let ratio := bitsOf xb 8 2
    let lend := bitOf xb 11
    let asked := ks.foldl (fun s k =>
      let y := s.lane k
      let waits := y.wants ++ [(n, ratio, lend)]
      match y.state with
      | .own => if y.ratio = ratio ∧ y.lend = lend then s
        else (s.setLane k { y with ratio := ratio, lend := lend, wants := [] }).laneRetrained k
      | .lent => s.setLane k { y with state := .reclaiming, wants := waits }
      | .lending | .reclaiming => s.setLane k { y with wants := waits }) s
    let changed := fun (s : State) => ks.all fun k => (s.lane k).wants.all fun w => w.1 != n
    (isLink l = true → exec (.lnkcfgQuery f) s = .next (wordDone s n f (s.linkWord l))) ∧
    (isLink l = false → (s.core n).hnd = false → exec (.lnkcfgQuery f) s = .next (handlerEntered s n 0x2B none none)) ∧
    ((s.core n).priv = true → l < 9 → (portDies l).contains (n / 64) = true →
      (x.state = .down ∨ x.state = .failed → exec (.lnkcfgTrain f) s =
        .next ((s.setLink l { x with state := .training }).coreResult n f (BitVec.ofNat 64 x.state.code))) ∧
      (x.state = .up → exec (.lnkcfgTrain f) s = .next (((s.setLink l { x with state := .training, left := some s.tick
        }).adderStops l).coreResult n f (BitVec.ofNat 64 x.state.code))) ∧
      (x.state = .training ∨ x.state = .retraining → exec (.lnkcfgTrain f) s =
        .next (wordDone s n f (BitVec.ofNat 64 x.state.code))) ∧
      (x.state = .down → exec (.lnkcfgDown f) s = .next (wordDone s n f 0)) ∧
      (x.state = .failed → exec (.lnkcfgDown f) s =
        .next ((s.setLink l { x with state := .down }).coreResult n f 4)) ∧
      (x.state = .up ∨ x.state = .training ∨ x.state = .retraining → exec (.lnkcfgDown f) s =
        .next ((s.dropLink l .down).coreResult n f (BitVec.ofNat 64 x.state.code)))) ∧
    ((s.core n).priv = true → 0x40 ≤ l → l ≤ 0x47 → (l - 0x40) / 2 = n / 64 → badRatio xb = false →
      ((s.core n).wait = .fetched → exec (.lnkcfgRatio f) s = .next (
        if changed asked = true then asked.coreResult n f 0
        else asked.modCore n fun c => { c with wait := .late 0 })) ∧
      (∀ v, (s.core n).wait = .late v → exec (.lnkcfgRatio f) s = .next (
        if changed s = true then s.coreResult n f 0 else s.modCore n fun c => { c with wait := .late 0 }))) ∧
    (let ev := f.imm.toNat % 4096
     let h := memNat (s.core n).dmem l 64
     let a := adderOf h (s.core n).context ev
     let base := (if a.out = 0xFF then a.inn else a.out) + n / 64 * 1024
     l ≤ 0xFFC0 → l % 16 = 0 → f.imm.toNat < 4096 → ev < ((s.ctx (s.core n).context.toNat).reg 0x113).toNat →
      badChain h (n / 64) a = false →
      (∀ k, k < 4 → (mapGet {} s.adders (base + k * 256)).running = false →
        (∀ j, j < k → (mapGet {} s.adders (base + j * 256)).running = true) →
        s.adderLink a.inn = true → s.adderLink a.out = true →
        exec (.lnkaddStart f) s = .next ({ s with adders := mapSet {} s.adders (base + k * 256) a }.coreResult n f
          (BitVec.ofNat 64 (base + k * 256)))) ∧
      ((∀ k, k < 4 → (mapGet {} s.adders (base + k * 256)).running = true) →
        exec (.lnkaddStart f) s = .next (wordDone s n f (BitVec.ofNat 64 (2 ^ 63 + 1))))) ∧
    (l < 4096 → (mapGet {} s.adders l).used = true → (mapGet {} s.adders l).ctx = (s.core n).context →
      exec (.lnkaddStat f) s = .next (wordDone s n f (mapGet {} s.adders l).word) ∧
      exec (.lnkaddCancel f) s = .next ((s.failAdder l).coreResult n f (mapGet {} (s.failAdder l).adders l).word))

/-! ## Firings of the fabric -/

/-- The steering instructions: `PASS` gives L, `CONST` its immediate, `STEER` L to target 0 or 1 by R, `MERGE` the one token
that came, `SELECT` L or R by C, and `GATE` L, with the `S` bit of what they pass (R39, R55, R108, R109). -/
def Obligations.SteeringFirings : Prop :=
  ∀ (f : Form) (s : State) (fr : Firing) (tag : W64), s.unit = .slot fr → Evaluates fr f s tag →
    let sor := fr.l.s || fr.r.s || fr.c.s
    let one := if fr.l.kind.isSome then fr.l else if fr.r.kind.isSome then fr.r else fr.c
    let sel := if fr.c.value ≠ 0 then fr.l else fr.r
    exec (.pass f) s = .next (if f.pred = 3 then emittedOne fr f (predicateOf fr f) .data fr.l.value tag fr.l.s s
      else emittedBoth fr f .data fr.l.value tag fr.l.s s) ∧
    exec (.const f) s = .next (emittedBoth fr f .data (widenType (typeOf f) f.imm) tag false s) ∧
    exec (.steer f) s = .next (emittedOne fr f (fr.r.value != 0) .data fr.l.value tag sor s) ∧
    exec (.merge f) s = .next (emittedBoth fr f .data one.value tag one.s s) ∧
    exec (.select f) s = .next (emittedBoth fr f .data sel.value tag sel.s s) ∧
    exec (.gate f) s = .next (emittedBoth fr f .data fr.l.value tag sor s)

/-- An arithmetic or bit firing ORs the flags of its value into the element's flag word and emits the value with the `S` of
its token operands; an arithmetic one whose token operands differ in `S` evaluates nothing, records the scale code and emits
it as `ERR` with the output tag, with `S` 0 by the model's choice (log 138) (R24, R85, R130, R133). -/
def Obligations.ArithmeticFirings : Prop :=
  ∀ (f : Form) (s : State) (fr : Firing) (tag : W64), s.unit = .slot fr → Evaluates fr f s tag →
    let ts := fr.tokens f
    let result := fun (v : W64 × Flags) => emittedValue fr f v.1 tag (ts.any Operand.s)
      (s.modElem fr.tile fr.elem fun x => { x with flags := x.flags ||| v.2 })
    (∀ row ∈ arithRows, exec (row.2.1 f) s = .next (
      if (∃ o ∈ ts, o.s = true) ∧ (∃ o ∈ ts, o.s = false) then faultedAs fr f tag fcScale none s
      else result (row.2.2 f fr.l.value fr.r.value fr.c.value))) ∧
    (∀ row ∈ bitRows, exec (row.2.1 f) s = .next (result (row.2.2 f fr.l.value fr.r.value fr.c.value)))

/-- What a firing does before its evaluation: an `ERR` operand leaves as `ERR` with its value for each valid target, else a
`STOP` leaves as `STOP` with a value that the spec leaves open, the model's free value (log 111), both with the output tag; a
predicate that suppresses leaves nothing; and a `TAGOP` that does not apply faults with its code, with which an `RCOMMIT.RSVW` gives up the slot that was kept for it (R40,
R41, R55, R147, R224). By the
model's choice an `ERR` whose `TAGOP` faults takes the tag T without a record, and a false predicate suppresses the `TAGOP`'s
fault (log 14); of two `ERR`s the first in port order goes on (log 110); and the `ERR` of a fault and a `STOP` have `S` 0 (log 138). -/
def Obligations.FiringWithoutEvaluation : Prop :=
  ∀ row ∈ firingRows, ∀ (f : Form) (s : State) (fr : Firing), s.unit = .slot fr →
    (∀ v tag, fr.err? = some v → fr.tagOut s f = .ok tag → exec (row f) s = .next (emittedBoth fr f .err v tag false s)) ∧
    (∀ v code, fr.err? = some v → fr.tagOut s f = .error code →
      exec (row f) s = .next (emittedBoth fr f .err v fr.tag false s)) ∧
    (∀ tag, fr.err? = none → fr.hasStop = true → fr.tagOut s f = .ok tag →
      exec (row f) s = .next (emittedBoth fr f .stop (Config.stopValue s.tick) tag false s)) ∧
    (fr.err? = none → fr.hasStop = false → fr.suppressed f = true → exec (row f) s = .next s) ∧
    (∀ code, fr.err? = none → fr.suppressed f = false → fr.tagOut s f = .error code →
      let failed := faulted fr f code (some (f.tagop.setWidth 64)) s
      exec (row f) s = .next (if row f = .rcommitRsvw f then
        failed.modRing fr.tile (f.mod.toNat % 8) fun r => r.dequeue (fr.elem * 32 + fr.slot) else failed))

/-- The output tag of every `TAGOP` on a tag that keeps R21: `KEEP` gives the tag, `PUSH` pushes a field 0, `POP` pops, `REPL`
makes the innermost field 0, `SETOP` makes it the low 8 bits of the tag source, `COLOUR` gives the source's colour at depth 0
and `REST` the source itself, if that keeps R21 and its colour is owned; a depth that does not allow it faults. Each result
keeps R21; a push is undone by a pop; and what an operation does not name, of the depth, the colour and the fields, stays (R20,
R21, R145, R147). -/
def Obligations.TagOperations : Prop :=
  ∀ (s : State) (c : BitVec 8) (t src : W64), tagOk t = true →
    let pool := ((s.ctx c.toNat).reg 0x106).toNat
    (∀ op v, tagOut s c op t src = .ok v → tagOk v = true) ∧
    tagOut s c 0 t src = .ok t ∧
    tagOut s c 1 t src = (if tagDepth t = 6 then .error fcTagDepth else .ok (tagPush t 0)) ∧
    tagOut s c 2 t src = (if tagDepth t = 0 then .error fcTagDepth else .ok (tagPop t)) ∧
    tagOut s c 3 t src = .ok (blockTag t) ∧
    tagOut s c 4 t src = (if tagDepth t = 0 then .error fcTagDepth else .ok (tagSet t (src.toNat % 256))) ∧
    tagOut s c 6 t src = (if tagOk src = false then .error fcIllegal
      else if tagColour src < pool then .ok src else .error fcTagForeign) ∧
    (tagDepth t < 6 → ∀ x, tagDepth (tagPush t x) = tagDepth t + 1 ∧ tagColour (tagPush t x) = tagColour t ∧
      tagInner (tagPush t x) = x % 256 ∧ tagPop (tagPush t x) = t) ∧
    (0 < tagDepth t → tagDepth (tagPop t) = tagDepth t - 1 ∧ tagColour (tagPop t) = tagColour t ∧
      tagPush (tagPop t) (tagInner t) = t ∧ blockTag t = tagPush (tagPop t) 0 ∧ ∀ x, tagSet t x = tagPush (tagPop t) x) ∧
    (tagDepth t = 0 → blockTag t = t) ∧
    (src.toNat % 4096 < pool → ∃ v, tagOut s c 5 t src = .ok v ∧ tagColour v = src.toNat % 4096 ∧ tagDepth v = 0 ∧
      ∀ k, k < 6 → tagField v k = 0) ∧
    (pool ≤ src.toNat % 4096 → tagOut s c 5 t src = .error fcTagForeign)

/-- `POPT`, `PUSHT`, `SETIT` and `GETTAG` complete on every tag that has the depth: `POPT` emits L with the tag of the outer
instance to target 0 and a token 0 with its own tag to target 1; `PUSHT` and `SETIT` push and set the innermost field;
`GETTAG`, on any tag, gives the tag or its innermost field, its colour or its depth; and a tag without the depth faults
(R147, R162, R163, R164). That the `ERR` of such a fault has `S` 0 is the model's choice (log 138). -/
def Obligations.TagFirings : Prop :=
  ∀ (f : Form) (s : State) (fr : Firing) (tag : W64), s.unit = .slot fr → Evaluates fr f s tag →
    let t := fr.tag
    let field := if f.arity = 0 then f.imm.toNat % 256 else fr.r.value.toNat % 256
    let depthFault := faulted fr f fcTagDepth (some (f.tagop.setWidth 64)) s
    (tagDepth t ≠ 0 → exec (.popt f) s = .next (emitted fr (tokensTo f (some (tokenOf fr s .data fr.l.value (tagPop t) fr.l.s))
      (some (tokenOf fr s .data 0 t fr.sOr))) s)) ∧
    (tagDepth t = 0 → exec (.popt f) s = .next depthFault) ∧
    (tagDepth t ≠ 6 → exec (.pusht f) s = .next (emittedBoth fr f .data fr.l.value (tagPush t field) fr.sOr s)) ∧
    (tagDepth t = 6 → exec (.pusht f) s = .next depthFault) ∧
    (tagDepth t ≠ 0 → exec (.setit f) s = .next (emittedBoth fr f .data fr.l.value (tagSet t (fr.r.value.toNat % 256)) fr.sOr s)) ∧
    (tagDepth t = 0 → exec (.setit f) s = .next depthFault) ∧
    (f.mod = 0 → exec (.gettag f) s = .next (emittedBoth fr f .data t tag fr.sOr s)) ∧
    (f.mod = 1 → exec (.gettag f) s = .next (emittedBoth fr f .data
      (if tagDepth t = 0 then 0 else BitVec.ofNat 64 (tagField t (tagDepth t - 1))) tag fr.sOr s)) ∧
    (f.mod = 2 → exec (.gettag f) s = .next (emittedBoth fr f .data (BitVec.ofNat 64 (tagColour t)) tag fr.sOr s)) ∧
    (f.mod = 3 → exec (.gettag f) s = .next (emittedBoth fr f .data (BitVec.ofNat 64 (tagDepth t)) tag fr.sOr s))

/-- `MKTAG` completes on a colour of the context and fields inside the depth, and `COLQ` always, in a firing and on a core:
`MKTAG` makes a tag of the colour in L, the depth in its immediate and the fields in R, and `COLQ` counts the colours of
the context; a field past the depth or a colour that the context does not own faults (R165, R168). That `COLQ` counts a `SPAWN`
that holds its colour and waits for its entry's page is the model's choice (log 61). -/
def Obligations.TagWords : Prop :=
  ∀ (f : Form) (s : State), f.imm.toNat ≤ 6 →
    let made := fun (l r : W64) => BitVec.ofNat 64 (l.toNat % 4096 * 2 ^ 52 + f.imm.toNat * 2 ^ 49 + r.toNat % 2 ^ 48)
    let fits := fun (r : W64) => r.toNat % 2 ^ 48 < 2 ^ (8 * f.imm.toNat)
    let owned := fun (c : BitVec 8) (l : W64) => l.toNat % 4096 < ((s.ctx c.toNat).reg 0x106).toNat
    (∀ fr tag, s.unit = .slot fr → Evaluates fr f s tag →
      let c := s.tileCtx fr.tile
      (fits fr.r.value → owned c fr.l.value →
        exec (.mktag f) s = .next (emittedBoth fr f .data (made fr.l.value fr.r.value) tag fr.sOr s)) ∧
      (¬ fits fr.r.value → exec (.mktag f) s = .next (faulted fr f fcIllegal (some (f.tagop.setWidth 64)) s)) ∧
      (fits fr.r.value → ¬ owned c fr.l.value →
        exec (.mktag f) s = .next (faulted fr f fcTagForeign (some (f.tagop.setWidth 64)) s)) ∧
      exec (.colq f) s = .next (emittedBoth fr f .data (colqWord (s.ctx c.toNat)) tag fr.sOr s)) ∧
    (∀ n, s.unit = .core n →
      let c := (s.core n).context
      (fits (xbOf s n f) → owned c (xaOf s n f) →
        exec (.mktag f) s = .next (wordDone s n f (made (xaOf s n f) (xbOf s n f)))) ∧
      (¬ fits (xbOf s n f) → exec (.mktag f) s = .next (wordFaults s n fcIllegal none none)) ∧
      (fits (xbOf s n f) → ¬ owned c (xaOf s n f) →
        exec (.mktag f) s = .next (wordFaults s n fcTagForeign none none)) ∧
      exec (.colq f) s = .next (wordDone s n f (colqWord (s.ctx c.toNat))))

/-- `ALLOC`, `ITER` and `FREE` complete on a live instance, and `ALLOC` where its tag has none and an entry is free, and
`TSIZE` wherever its reference names a loop:
`ALLOC` hands out the slot `NEXT` of the instance of its tag, or of a new
instance in a free entry, and pushes its field; `ITER` hands out the next slot of the instance, with the wave link, and gives
the field to the retire target; `FREE` takes the slot back and passes L; `TSIZE` reports the instance (R150, R159, R160,
R161, R168, R181). The word of a tag without a live instance, and that of `INNER` at depth 0, are the model's choice (log
115). -/
def Obligations.LoopFirings : Prop :=
  ∀ (f : Form) (s : State) (fr : Firing) (tag : W64), s.unit = .slot fr → Evaluates fr f s tag →
    let t := fr.tag
    let own := shareOf f
    let taken := fun (h : Share) (en : LoopEntry) =>
      { en with use := en.use ||| 2 ^ en.next, used := en.used + 1, next := (en.next + 1) % h.k }
    let field := fun (en : LoopEntry) => en.genOf en.next * 64 + en.next
    (∀ i, tagDepth t ≠ 6 → s.findLoop fr.tile own t = some i →
      let en := s.loopEntry fr.tile own i
      exec (.alloc f) s = .next (emittedBoth fr f .data fr.l.value (tagPush t (field en)) fr.l.s
        ((s.setLoopEntry fr.tile own i (taken own en)).newWave (s.tileCtx fr.tile) (tagPush t (field en))))) ∧
    (∀ i, tagDepth t ≠ 6 → s.findLoop fr.tile own t = none → s.freeLoop fr.tile own = some i →
      let en := { s.loopEntry fr.tile own i with key := t, v := true }
      exec (.alloc f) s = .next (emittedBoth fr f .data fr.l.value (tagPush t (field en)) fr.l.s
        ((s.setLoopEntry fr.tile own i (taken own en)).newWave (s.tileCtx fr.tile) (tagPush t (field en))))) ∧
    (∀ h i, tagDepth t ≠ 0 → s.loopShare fr.tile f = some h → s.findLoop fr.tile h (tagPop t) = some i →
      let en := s.loopEntry fr.tile h i
      let t2 := tagPush (tagPop t) (field en)
      let s1 := (s.setLoopEntry fr.tile h i (taken h en)).newWave (s.tileCtx fr.tile) t2
      let s2 := if f.mod = 0 then { s1 with iterLinks := s1.iterLinks ++
        [{ id := s1.tick, ctx := s1.tileCtx fr.tile, src := t, dst := t2 }] } else s1
      bitOf en.use (innerSlot t) = true → en.genOf (innerSlot t) = tagInner t / 64 →
      exec (.iter f) s = .next (emitted fr
        ((if f.tgt0.getLsbD 21 then [.token 0 f.tgt0 (tokenOf fr s2 .data fr.l.value t2 fr.l.s)
            (if f.mod = 0 then some s2.tick else none)] else [])
          ++ tokensTo f none (some (tokenOf fr s2 .data (BitVec.ofNat 64 (field en)) t fr.sOr))) s2)) ∧
    (∀ h i en, tagDepth t ≠ 0 → s.loopShare fr.tile f = some h → s.findLoop fr.tile h (tagPop t) = some i →
      (s.loopEntry fr.tile h i).release (tagInner t) = some en →
      exec (.free f) s = .next (emittedBoth fr f .data fr.l.value tag fr.sOr (s.setLoopEntry fr.tile h i en))) ∧
    (∀ h, s.loopShare fr.tile f = some h → exec (.tsize f) s =
      .next (emittedBoth fr f .data (tsizeWord s fr.tile h (if f.mod = 0 then t else tagPop t)) tag fr.sOr s))

/-- A slot of a loop instance that is handed out and taken back leaves the same uses, and its generation advances by one
modulo 4: the field that was handed out is in use until then, and not afterwards (R150). -/
def Obligations.LoopSlotTakenBack : Prop :=
  ∀ (en : LoopEntry) (k : Nat), en.v = true → en.next < k → k ≤ 64 → 0 < en.used → en.used < 128 → en.use < 2 ^ 64 → en.gen < 2 ^ 128 →
    en.canTake = true →
    let (field, en1) := en.take k
    ∃ en2, en1.release field = some en2 ∧ en2.use = en.use ∧ en2.used = en.used ∧ en2.key = en.key ∧
      en2.genOf en.next = (en.genOf en.next + 1) % 4 ∧ (∀ j, j < 64 → j ≠ en.next → en2.genOf j = en.genOf j) ∧
      en2.release field = none

/-- `SPAWN` and `RETURN` complete: `SPAWN` waits at the controller; with nothing waiting before it, a FREE colour, fewer held than its cap and room in its
element it draws the lowest FREE colour at once, writes the colour's entry, and sends L and R with the new colour's tag; with
no FREE colour it waits. `RETURN` sends L with the caller's tag to the return target of its HELD colour; on another colour
it records `ILLEGAL` (R155, R156, R166, R167). -/
def Obligations.CallFirings : Prop :=
  ∀ (f : Form) (s : State) (fr : Firing) (tag : W64), s.unit = .slot fr → Evaluates fr f s tag →
    let cb := s.tileCtx fr.tile
    let x := s.ctx cb.toNat
    let w : SpawnWait := { tile := fr.tile, elem := fr.elem, slot := fr.slot, tag := fr.tag, round := fr.round
                           l := tokenOf fr s .data fr.l.value fr.tag fr.l.s
                           r := if f.arity = 1 then some (tokenOf fr s .data fr.r.value fr.tag fr.r.s) else none }
    let s1 := s.modCtx cb.toNat fun x => { x with spawns := x.spawns ++ [w] }
    let col := x.colour (tagColour fr.tag)
    (x.freeColour = none → x.spawns = [] → exec (.spawn f) s = .next s1) ∧
    (∀ k s2, x.spawns = [] → (s.slot fr.tile fr.elem fr.slot).form = f → x.freeColour = some k →
      x.heldBy fr.tile fr.elem fr.slot < bitsOf f.imm.toNat 22 10 → (s.elem fr.tile fr.elem).out.length < 4 →
      let drawn : Colour := { state := .held, caller := fr.tag, ret := f.imm.setWidth 22, tile := fr.tile, elem := fr.elem
                              slot := fr.slot, group := s.groupOf fr.tile, round := fr.round }
      s.lateFor cb = false →
      vwrite agentSched (BitVec.ofNat 8 cb.toNat) (x.colourAddr k) drawn.bytes s1 = .ok ((), s2) →
      exec (.spawn f) s = .next (emitted fr (tokensTo f (some { w.l with tag := colourTag k })
        (w.r.map fun r => { r with tag := colourTag k }))
        (((s2.learn (colourKey cb.toNat k) fr.tile).newWave (BitVec.ofNat 8 cb.toNat) (colourTag k)).modCtx cb.toNat fun x => { x.setColour k drawn with spawns := x.spawns.filter fun v => v != w }))) ∧
    (col.state = .held → exec (.returnTok f) s = .next
      (emitted fr [.returned (tagColour fr.tag) col.ret (tokenOf fr s .data fr.l.value col.caller fr.sOr)] s)) ∧
    (col.state ≠ .held → exec (.returnTok f) s = .next (s.record
      { code := fcIllegal, ukind := 0, unit := unitSlot s fr.tile fr.elem fr.slot, ctx := cb, tag := fr.tag
        aux := some (f.tagop.setWidth 64) } (some (fr.tile, fr.elem))))

/-- `SINK` discards what it takes; `MARK` starts its round and emits the round's marker; `RNDQ` stamps L with the round
register and closes the round after its quota, with its `MARK` at once if the output queue has room, else owed; `ALIGN` and `COUNT` add 1 and the value to the slot's total and keep the first
tag; `RED` passes the combined value; `REORD` passes the token of the expected tag and expects the next; `BARARR.TOK` sends
an arrival (R48, R110, R111, R112, R192, R195, R368). That `BARARR.RND` does nothing with a token (log 95), and that what a
chain leads from to the tile is before the arrival (log 94), is the model's choice. -/
def Obligations.RoundFirings : Prop :=
  ∀ (f : Form) (s : State) (fr : Firing), s.unit = .slot fr →
    let marks := fun (r : BitVec 8) (s : State) => emitted fr (tokensTo f
      (some { kind := .mark, tag := colourTag (s.group (s.groupOf fr.tile)).kernel.lcol, round := r, ctx := s.tileCtx fr.tile })
      (some { kind := .mark, tag := colourTag (s.group (s.groupOf fr.tile)).kernel.lcol, round := r, ctx := s.tileCtx fr.tile })) s
    let y := s.slot fr.tile fr.elem fr.slot
    let counted := fun (add : W64) => s.modSlot fr.tile fr.elem fr.slot fun y =>
      { y with count := y.count + add, key := some (y.key.getD fr.tag) }
    exec (.sink f) s = .next s ∧
    (fr.single.kind = some .data → exec (.align f) s = .next (counted 1) ∧
      exec (.count f) s = .next (counted fr.single.value)) ∧
    ∀ tag, Evaluates fr f s tag →
      exec (.mark f) s = .next (marks fr.round (s.beginRound fr.tile fr.round)) ∧
      (let stamped : Token := { tokenOf fr (s.beginRound fr.tile y.rr) .data fr.l.value tag fr.sOr with round := y.rr }
       let s1 := emitted fr (tokensTo f (some stamped) (some stamped)) (s.beginRound fr.tile y.rr)
       (y.count + 1 ≠ f.imm.setWidth 64 → exec (.rndq f) s = .next (s1.modSlot fr.tile fr.elem fr.slot fun y =>
          { y with count := y.count + 1 })) ∧
       (y.count + 1 = f.imm.setWidth 64 → exec (.rndq f) s = .next ((if (s1.elem fr.tile fr.elem).out.length < 4 then
            marks y.rr s1 else s1.modSlot fr.tile fr.elem fr.slot fun y => { y with releasing := some (s.slot fr.tile fr.elem
              fr.slot).rr }).modSlot fr.tile fr.elem fr.slot fun y => { y with count := 0, rr := y.rr + 1 }))) ∧
      exec (.red f) s = .next (emittedBoth fr f .data fr.l.value tag fr.l.s s) ∧
      exec (.reord f) s = .next (((emittedBoth fr f .data fr.l.value fr.tag fr.l.s s).modSlot fr.tile fr.elem fr.slot
        fun y => { y with count := BitVec.ofNat 64 (nextField (2 ^ f.mod.toNat) y.count.toNat) }).seekReord
          fr.tile fr.elem fr.slot) ∧
      exec (.bararrTok f) s = .next { s.learn fr.tile (arrivalKey s.tick) with arrivals := s.arrivals ++ [
        { handle := f.imm.toNat % 1024, group := s.groupOf fr.tile, tile := fr.tile, elem := fr.elem, slot := fr.slot
          target := f.tgt0, tag := tag, round := fr.round, ctx := s.tileCtx fr.tile, at_ := fr.round, step := s.tick }] } ∧
      exec (.bararrRnd f) s = .next s

/-- `TRAP`, `ASSERT`, `RECONF`, `PROBE` and `SCALE` complete in each of their forms: `TRAP` records a fault with L and its
immediate and, with `MOD` 0, passes L, else halts the element; `ASSERT` passes a
value that is not 0, and records a fault and halts on 0; `RECONF` emits its immediate as a `RECONF` token; `PROBE` emits the
flags, which `MOD` 1 clears, the arrival counter or the occupancy word; `SCALE` sends 32 bits on the scale network with the
block tag, or multiplies the lanes of L by the scale R once (R113, R114, R115, R236). -/
def Obligations.ReportFirings : Prop :=
  ∀ (f : Form) (s : State) (fr : Firing) (tag : W64), s.unit = .slot fr → Evaluates fr f s tag →
    let x := s.elem fr.tile fr.elem
    let note := fun (code : Nat) (v : W64) => s.record { code := code, ukind := 0, unit := unitSlot s fr.tile fr.elem fr.slot
                                                         ctx := s.tileCtx fr.tile, tag := fr.tag, val := some v
                                                         aux := some (f.imm.setWidth 64) } (some (fr.tile, fr.elem))
    let halted := fun (s : State) => s.modElem fr.tile fr.elem fun x =>
      if x.state = .running then { x with state := .halted } else x
    let scaled := s.useScale fr.tile fr.elem f fr.tag
    let product := scaleValue f fr.l.value fr.r.value
    (f.mod = 0 → exec (.trap f) s = .next (emittedBoth fr f .data fr.l.value tag fr.sOr (note fcTrap fr.l.value))) ∧
    (f.mod ≠ 0 → exec (.trap f) s = .next (halted (note fcTrap fr.l.value))) ∧
    (fr.l.value ≠ 0 → exec (.assert f) s = .next (emittedBoth fr f .data fr.l.value tag fr.sOr s)) ∧
    (fr.l.value = 0 → exec (.assert f) s = .next (halted (note fcAssert 0))) ∧
    exec (.reconf f) s = .next (emittedBoth fr f .reconf (f.imm.setWidth 64) tag fr.sOr s) ∧
    (f.mod = 0 → exec (.probe f) s = .next (emittedBoth fr f .data (x.flags.setWidth 64) tag fr.sOr s)) ∧
    (f.mod = 1 → exec (.probe f) s = .next (emittedBoth fr f .data (x.flags.setWidth 64) tag fr.sOr
      (s.modElem fr.tile fr.elem fun x => { x with flags := 0 }))) ∧
    (f.mod = 2 → exec (.probe f) s = .next (emittedBoth fr f .data (BitVec.ofNat 64 x.arrival) tag fr.sOr s)) ∧
    (f.mod = 3 → exec (.probe f) s = .next (emittedBoth fr f .data x.occupancy tag fr.sOr s)) ∧
    exec (.scaleSend f) s = .next (emittedBoth fr f .scale (fr.l.value &&& 0xFFFFFFFF) (blockTag fr.tag) false s) ∧
    exec (.scaleApply f) s = .next (State.seekScale (if fr.l.s = f.imm.getLsbD 16 then
        emittedValue fr f product.1 tag (!f.imm.getLsbD 16)
          (scaled.modElem fr.tile fr.elem fun x => { x with flags := x.flags ||| product.2 })
      else faultedAs fr f tag fcScale none s) fr.tile fr.elem fr.slot)

/-- A firing of a request instruction sends one request to its unit, with its operands, its output tag and its own tag
as its wave; an `ERR` or a `STOP` operand travels on the request channel instead, and is not executed (R40, R41, R49,
R174). The table and full/empty requests send their request when their operands name an entry of the 128 and a run
inside the 4,096 granules, and else fault with `ILLEGAL`; `MMAS` sends its request with its coordinate vector; an access
that its predicate suppresses sends a notice to its chain when it is wave-ordered, and else nothing (R147, R179, R189,
R190, R232). -/
def Obligations.RequestFirings : Prop :=
  (∀ row ∈ requestRows ++ [Instr.ld, Instr.st, Instr.atom], ∀ (f : Form) (s : State) (fr : Firing), s.unit = .slot fr →
    (∀ tag, Evaluates fr f s tag → exec (row f) s = .next (requested fr (row f) .data fr.l.value tag s)) ∧
    (∀ v tag, fr.err? = some v → fr.tagOut s f = .ok tag → exec (row f) s = .next (requested fr (row f) .err v tag s)) ∧
    (∀ tag, fr.err? = none → fr.hasStop = true → fr.tagOut s f = .ok tag →
      exec (row f) s = .next (requested fr (row f) .stop fr.l.value tag s))) ∧
  (∀ (f : Form) (s : State) (fr : Firing) (tag : W64), s.unit = .slot fr →
    let illegal := faulted fr f fcIllegal (some (f.tagop.setWidth 64)) s
    let line := bitsOf fr.r.value.toNat 9 47
    let last := fr.l.value.toNat % 2 ^ 16 / 16 + f.imm.toNat
    (Evaluates fr f s tag →
      (exec (.ttset f) s = .next (if fr.l.value.toNat < 128 ∧ line ≠ 2 ^ 47 - 1 ∧ fr.r.value.toNat < 2 ^ 56 then
        requested fr (.ttset f) .data fr.l.value tag s else illegal)) ∧
      (exec (.ttinv f) s = .next (if f.mod = 0 ∧ 128 ≤ fr.l.value.toNat then illegal
        else requested fr (.ttinv f) .data fr.l.value tag s)) ∧
      (exec (.feq f) s = .next (if f.mod ≠ 0 ∧ 4096 < last then illegal
        else requested fr (.feq f) .data fr.l.value tag s)) ∧
      (exec (.feset f) s = .next (if 4096 < last then illegal
        else requested fr (.feset f) .data fr.l.value tag s)) ∧
      (fr.coords.length ≠ 1 → exec (.mmas f) s = .next (requested fr (.mmas f) .data fr.l.value tag s))) ∧
    (fr.err? = none → fr.hasStop = false → fr.suppressed f = true →
      ∀ i ∈ [Instr.ld f, .st f, .atom f], exec i s = .next (if waveOrdered i = true then
        emitted fr [.request { fr.request i .data fr.tag s with notice := true }] s else s)))


/-- The ring port: `RING` defines or deletes a ring that is not in use; `RCOMMIT.RSV` and `RSVW` reserve the slot at the
tail of a ring that has room, or take the slot that was kept for them while they waited, and give its address; on a full ring
`RSV` and `TAIL` fault with `RING_OVERFLOW`, and `RSVW` is no candidate; `PUB` makes a FILLING slot FULL, `TAIL` both at once;
`RPOP` retires a FULL slot; `RSTAT.RING` gives the ring's descriptor; an operation that does not apply replies `ERR` (R216, R218,
R228, R229, R230). That an element's operation acts in its firing, after the commands of cores that had reached the port, is the
model's choice (log 16). -/
def Obligations.RingFirings : Prop :=
  (∀ (f : Form) (s : State) (fr : Firing) (tag : W64), s.unit = .slot fr → Evaluates fr f s tag →
    let n := f.mod.toNat % 8
    let t := fr.tile
    let u := s.portServed t
    let r := u.ring t n
    let given := fun (v : W64) (s : State) => emittedBoth fr f .data v tag false s
    let failed := fun (code : Nat) => emittedBoth fr f .err (BitVec.ofNat 64 code) tag false (u.record
      { code := code, ukind := 2, unit := unitEngine u t 0, ctx := u.tileCtx t, tag := fr.tag } (some (t, fr.elem)))
    let key := fr.elem * 32 + fr.slot
    let addr := fun (k : Nat) => r.base + k * r.pb
    let taken := fun (kept : Option Nat) => u.modRing t n fun r => match kept with
      | none => r.reserve
      | some _ => { r with granted := mapSet 0 r.granted key 0 }
    (r.defined = false ∨ r.used = 0 →
      (f.mod.getLsbD 3 = true → exec (.ring f) s = .next (given fr.l.value (u.modRing t n fun r => { r with defined := false }))) ∧
      (let q := ringOfImm f.imm.toNat
       f.mod.getLsbD 3 = false → (u.tile t).ringOverlap n q.base q.size = false →
        exec (.ring f) s = .next (given fr.l.value (u.modRing t n fun _ => q)))) ∧
    (r.defined = true → 0 < r.used → exec (.ring f) s = .next (failed fcCfgBusy)) ∧
    (∀ k kept, r.defined = true → (mapGet 0 r.granted key = 0 ∧ r.used ≠ r.cnt + 1 ∧ k = r.tail ∧ kept = none) ∨
        (mapGet 0 r.granted key = k + 1 ∧ kept = some k) →
      (∀ i ∈ [Instr.rcommitRsv f, .rcommitRsvw f], exec i s = .next (given (BitVec.ofNat 64 (addr k)) (taken kept))) ∧
      exec (.rcommitTail f) s = .next (given (panelValue (addr k) 0) ((taken kept).publish t n k))) ∧
    (r.defined = true → mapGet 0 r.granted key = 0 → r.used = r.cnt + 1 →
      ∀ i ∈ [Instr.rcommitRsv f, .rcommitTail f], exec i s = .next (failed fcRing)) ∧
    (r.defined = false → ∀ i ∈ [Instr.rcommitRsv f, .rcommitRsvw f, .rcommitTail f], exec i s = .next (failed fcIllegal)) ∧
    (∀ k, r.slotOf fr.l.value = some k → (r.slot k = .filling → exec (.rcommitPub f) s =
      .next (given (panelValue (addr k) 0) (u.publish t n k)))
      ∧ (r.slot k ≠ .filling → exec (.rcommitPub f) s = .next (failed fcIllegal))
      ∧ (r.slot k = .full → exec (.rpop f) s = .next (given fr.l.value (u.modRing t n fun r => r.retire k)))
      ∧ (r.slot k ≠ .full → exec (.rpop f) s = .next (failed fcIllegal))) ∧
    (r.slotOf fr.l.value = none → ∀ i ∈ [Instr.rcommitPub f, .rpop f], exec i s = .next (failed fcIllegal)) ∧
    exec (.rstatRing f) s = .next (given r.word u)) ∧
  (∀ (f : Form) (s : State) (t e : Nat) (b : BufTok) (c : Cand), bitsOf f.mod.toNat 3 2 = 1 →
    let held := fun (k : Nat) => (s.slot t e k).word = some (.rcommitRsvw f) ∧
      (let r := s.ring t (f.mod.toNat % 8)
       r.defined = true ∧ r.used = r.cnt + 1 ∧ mapGet 0 r.granted (e * 32 + k) = 0)
    let fr := c.firing t e (s.slot t e c.slot)
    (held b.slot → b.tok.kind = .data → s.fits t e b = false) ∧
    (held c.slot → fr.err? = none → fr.hasStop = false → fr.suppressed f = false → s.pairFits t e c = false))

/-- For a ring whose list of slot states is in its canonical form and on which no producer waits: a ring after a reservation holds one slot more, which is FILLING and at the old tail; publishing makes it FULL and
retiring it free; with nothing else in use the head then meets the tail (R216, R218). -/
def Obligations.RingSlotLife : Prop :=
  ∀ (r : Ring), mapWf .free r.slots = true → r.waiters = [] → r.used = 0 → r.full = 0 → r.head = r.tail → r.tail ≤ r.cnt →
    (∀ k, r.slot k = .free) →
    let r1 := r.reserve
    let r2 := r1.publish r.tail
    let r3 := r2.retire r.tail
    r1.slot r.tail = .filling ∧ r1.used = 1 ∧ r1.tail = (r.tail + 1) % (r.cnt + 1) ∧
    r2.slot r.tail = .full ∧ r2.full = 1 ∧ r2.used = 1 ∧
    r3.slot r.tail = .free ∧ r3.full = 0 ∧ r3.used = 0 ∧ r3.head = r3.tail ∧ ∀ k, r3.slot k = .free

/-! ## Requests at their units -/

/-- The scratchpad port serves the head of its queue when its granule allows it: `LDS` reads the aligned address of the
scratchpad and, with `CONS`, empties its granule; `STS` writes it and, with `PUT`, fills the granule; `FEQ` and `FESET` read
and set full/empty bits; `ATOM` on a scratchpad reads and writes; then what the change lets go is served. A request whose
granules do not allow it, of `LDS`, `STS.PUT`, `FEQ.WF` or `FEQ.WE`, joins the waiting list of 64 (R170, R172, R188, R190, R191). -/
def Obligations.ScratchpadUnit : Prop :=
  ∀ (f : Form) (s : State) (t : Nat) (r : Req), s.unit = .engine (.scratch t) r → r.kind = .data →
    let s0 := s.endHead (.scratch t)
    let q := bitsOf f.mod.toNat 3 2
    let done := fun (v : W64) (s : State) => (s.reply (.scratch t) r .data v).settle t
    let a := spAddress r
    let g := r.l.toNat % 2 ^ 16 / 16
    let w := accessWidth r.instr
    let waits := s0.modTile t fun x => { x with waiting := x.waiting ++ [r] }
    (r.instr = .lds f →
      (q = 0 → exec (.lds f) s = .next (done (loadValue (.lds f) (spRead pathE t a w s0).1) (spRead pathE t a w s0).2)) ∧
      (q ≠ 0 → s.isFull t (a / 16) = true →
        let x := spRead pathE t a w (s0.seeGranule t (a / 16))
        exec (.lds f) s = .next (done (loadValue (.lds f) x.1) (if q = 2 then x.2.setFull t (a / 16) 1 false else x.2))) ∧
      (q ≠ 0 → s.isFull t (a / 16) = false → (s.tile t).waiting.length < 64 →
        exec (.lds f) s = .next waits)) ∧
    (r.instr = .sts f → q ≠ 2 ∨ s.isFull t (a / 16) = false →
      let s1 := spWrite pathE t a (toBytes r.r.toNat w) s0
      exec (.sts f) s = .next (done 0 (if q = 0 then s1 else s1.setFull t (a / 16) 1 true))) ∧
    (r.instr = .sts f → q = 2 → s.isFull t (a / 16) = true → (s.tile t).waiting.length < 64 →
      exec (.sts f) s = .next waits) ∧
    (r.instr = .feq f →
      (f.mod = 0 → exec (.feq f) s = .next (done (s0.feqWord t g) (s0.seeFull t g 64))) ∧
      (f.mod = 1 → (∀ k, k < f.imm.toNat → s.isFull t (g + k) = true) →
        exec (.feq f) s = .next (done r.l (s0.seeFull t g f.imm.toNat))) ∧
      (f.mod = 2 → (∀ k, k < f.imm.toNat → s.isFull t (g + k) = false) → exec (.feq f) s = .next (done r.l s0)) ∧
      (f.mod = 1 → (∃ k, k < f.imm.toNat ∧ s.isFull t (g + k) = false) → (s.tile t).waiting.length < 64 →
        exec (.feq f) s = .next waits) ∧
      (f.mod = 2 → (∃ k, k < f.imm.toNat ∧ s.isFull t (g + k) = true) → (s.tile t).waiting.length < 64 →
        exec (.feq f) s = .next waits)) ∧
    (r.instr = .feset f → exec (.feset f) s = .next (done r.l (s0.setFull t g f.imm.toNat (f.mod == 1)))) ∧
    (r.instr = .atom f →
      let x := spRead pathE t a w s0
      exec (.atom f) s = .next (done (BitVec.ofNat 64 (ofBytes x.1))
        (spWrite pathE t a (toBytes (atomNew f w (ofBytes x.1) r.r r.c) w) x.2)))

/-- The tag-table port: `LKUP` replies the lowest of the 128 entries that names the line, or 0xFFFF; `TTSET` sets an entry to
a line, `TTINV` one entry or all to the invalid value, and both reply L; nothing else changes but the queue (R173, R189). -/
def Obligations.TagTableUnit : Prop :=
  ∀ (f : Form) (s : State) (t : Nat) (r : Req), s.unit = .engine (.tagTable t) r → r.kind = .data →
    let line := bitsOf r.l.toNat 9 47
    let entry := fun (i : Nat) => mapGet (2 ^ 47 - 1) (s.tile t).tags i
    let set := fun (i v : Nat) => s.modTile t fun x => { x with tags := mapSet (2 ^ 47 - 1) x.tags i v }
    (∀ i, i < 128 → entry i = line → (∀ j, j < i → entry j ≠ line) →
      exec (.lkup f) s = .next (answered s (.tagTable t) r (BitVec.ofNat 64 i))) ∧
    ((∀ i, i < 128 → entry i ≠ line) → exec (.lkup f) s = .next (answered s (.tagTable t) r 0xFFFF)) ∧
    exec (.ttset f) s = .next (answered (set (r.l.toNat % 128) (bitsOf r.r.toNat 9 47)) (.tagTable t) r r.l) ∧
    (f.mod = 0 → exec (.ttinv f) s = .next (answered (set (r.l.toNat % 128) (2 ^ 47 - 1)) (.tagTable t) r r.l)) ∧
    (f.mod = 1 → exec (.ttinv f) s = .next (answered (s.modTile t fun x => { x with tags := [] }) (.tagTable t) r r.l))

/-- The matrix engine: `ACCZ` zeroes an accumulator that has no owner or the request's tag as owner, and makes the tag its
owner; `ACCRD` writes an accumulator's values to the scratchpad, or to a slot of a ring, for which it waits, and, without
`KEEP`, clears the owner; `MMA` and `MMAS` make two FULL panels READING and then add the product to an accumulator that the tag
may use; `XSPLIT` makes its panel READING, reserves a slot of another ring, for which it waits, and writes the split there, while that
slot is FILLING, else it faults with `ILLEGAL`;
`RSTAT` reads; an accumulator owned otherwise faults with `ACC_CONFLICT`; and at the ring port `RING` defines a ring and
`RSTAT.RING` reads it (R217, R218, R223, R228, R230, R231, R232, R233, R235). How an operation divides into turns, between which
its slots are READING and FILLING, is the model's choice (log 48), and so is that the engine uses a ring after the commands
that had reached the ring port (log 16). -/
def Obligations.MatrixUnit : Prop :=
  (∀ (f : Form) (s : State) (t : Nat) (r : Req), s.unit = .engine (.ringPort t) r → r.kind = .data →
    (∀ s1, ringDefine f t s = .ok s1 → exec (.ring f) s = .next (answered s1 (.ringPort t) r 0)) ∧
    exec (.rstatRing f) s = .next (answered s (.ringPort t) r (s.ring t (f.mod.toNat % 8)).word)) ∧
  ∀ (f : Form) (s : State) (t : Nat) (r : Req), s.unit = .engine (.matrix t) r → r.kind = .data →
    let e := Engine.matrix t
    let u := s.portServed t
    let noted := fun (blk : List Byte) (s : State) => s.setQueue e ({ r with blk := blk } :: (s.queue e).tail)
    let begins := fun (i j : Nat) => noted [1] ((u.modRing t (mmaRingA f) fun x => x.setSlot i .reading).modRing t (mmaRingB f)
      fun x => x.setSlot j .reading)
    let n := f.imm.toNat % 4
    let acc := (s.tile t).acc n
    let zeroed := s.modAcc t n fun _ => { vals := [], owner := some r.wave }
    let conflict := fun (s : State) => s.failAt e r fcAcc none none
    let uacc := (u.tile t).acc n
    let out := accBytes (f.mod.getLsbD 0) uacc
    let a := bitsOf f.imm.toNat 16 12 * 16
    let size := if f.mod.getLsbD 0 then 128 else 256
    let read := fun (s : State) => (s.engFlags t out.2).modAcc t n fun x =>
      if f.mod.getLsbD 2 then x else { x with owner := none }
    (acc.owner = none ∨ acc.owner = some r.wave → exec (.accz f) s = .next (answered zeroed e r r.l)) ∧
    (∀ o, acc.owner = some o → o ≠ r.wave → exec (.accz f) s = .next (conflict s)) ∧
    (uacc.allows r.wave = false → exec (.accrd f) s = .next (conflict u)) ∧
    (uacc.allows r.wave = true → f.mod.getLsbD 1 = false → exec (.accrd f) s = .next (answered
      ((read ((spWrite pathM t a out.1 u).fillBytes t a size)).settle t) e r (BitVec.ofNat 64 a))) ∧
    (let k := bitsOf f.imm.toNat 2 3
     let ring := u.ring t k
     let d := (ring.takeSlot waitEngine).1
     uacc.allows r.wave = true → f.mod.getLsbD 1 = true → ring.defined = true → ring.pb = size →
      exec (.accrd f) s = .next (if ring.mayReserve waitEngine = true then answered
          ((read (spWrite pathM t (ring.addr d) out.1 (u.modRing t k fun x => (x.takeSlot waitEngine).2))).publish t k d)
          e r (panelValue (ring.addr d) 0)
        else u.modRing t k fun x => x.enqueue waitEngine)) ∧
    (∀ i j, r.blk = [] → mmaSlots f (if f.mod = 2 then 32 * mmaWA f + 16 else 512)
        (if f.mod = 2 then 32 * mmaWB f + 16 else 512) t r.l r.r r.wave u = .ok (i, j) →
      exec (.mma f) s = .next (begins i j)) ∧
    (∀ i j, r.instr = .mma f → r.blk ≠ [] → (u.ring t (mmaRingA f)).slotOf r.l = some i →
      (u.ring t (mmaRingB f)).slotOf r.r = some j → exec (.mma f) s =
        .next (answered (mmaRun f t i j (bitOf f.imm.toNat 14) (bitOf f.imm.toNat 15) (mmaSum f) u) e r r.l)) ∧
    (let m := 2 ^ (bitsOf f.imm.toNat 8 3 + 2)
     ∀ i j i0 i1, groupIndices m (coordGroups r.coords).1 = some i0 → groupIndices m (coordGroups r.coords).2 = some i1 →
      (r.blk = [] → mmaSlots f (4 * m) 512 t r.l r.r r.wave u = .ok (i, j) → exec (.mmas f) s = .next (begins i j)) ∧
      (r.instr = .mmas f → r.blk ≠ [] → (u.ring t (mmaRingA f)).slotOf r.l = some i →
        (u.ring t (mmaRingB f)).slotOf r.r = some j → exec (.mmas f) s = .next (answered (mmaRun f t i j false false
          (fun acc pa pb => mmaFloat acc (expandA (mmaFmt f) m [i0, i1] pa) (panelRows (mmaFmt f) pb)) u) e r r.l))) ∧
    (let src := bitsOf f.imm.toNat 0 3
     let dst := bitsOf f.imm.toNat 3 3
     let rs := u.ring t src
     ∀ k, rs.slotOf r.l = some k → rs.pb = 1024 → (u.ring t dst).pb = 512 → (u.ring t dst).defined = true →
      (r.blk = [] ∧ rs.slot k = .full ∨ r.blk = [1] →
        let u1 := u.modRing t src fun x => x.setSlot k .reading
        let rd := u1.ring t dst
        exec (.xsplit f) s = .next (if rd.mayReserve waitEngine = true then
            noted [1, BitVec.ofNat 8 (rd.takeSlot waitEngine).1] (u1.modRing t dst fun x => (x.takeSlot waitEngine).2)
          else noted [1] (u1.modRing t dst fun x => x.enqueue waitEngine))) ∧
      (∀ d : Byte, r.blk = [1, d] → (u.ring t dst).slot d.toNat ≠ .filling → exec (.xsplit f) s = .next
        ((u.modRing t src fun x => x.setSlot k .full).failAt e r fcIllegal none none)) ∧
      (∀ d : Byte, r.blk = [1, d] → (u.ring t dst).slot d.toNat = .filling →
        let bs := spRead pathM t (rs.addr k) 1024 u
        let terms := splitBytes (f.mod.toNat % 4) bs.1
        let addr := (u.ring t dst).addr d.toNat
        let s2 := spWrite pathM t addr terms.1 (bs.2.engFlags t terms.2)
        let tok := fun (v : W64) => ({ kind := .data, value := v, tag := r.tag, round := r.round, ctx := r.ctx } : Token)
        exec (.xsplit f) s = .next (((((s2.publish t dst d.toNat).readEnds t src k (!f.mod.getLsbD 2)).endHead e).answerTo
          (Req.source e) r f.tgt0 (tok (panelValue addr 0))).answerTo (Req.source e) r f.tgt1 (tok r.l)))) ∧
    exec (.rstatEng f) s = .next (answered s e r (engineStatus t s)) ∧
    exec (.rstatEngclr f) s = .next (answered (s.modTile t fun x => { x with engFlags := 0 }) e r (engineStatus t s))

/-- The scan unit: `NZSCAN` sends the indices of the elements that are not zero, eight to a token, with a `STOP` after
each group of 128 and one at the end, to target 0, and their number to target 1; with `WAIT` it reads the granules that are
full, up to the first that is not, sends the groups that it has read whole, and goes on later; a vector past the scratchpad
faults with `ILLEGAL` (R225, R234); how many granules a turn reads is the model's choice (log 48). A transfer reaches its circuit: `CIRC` and `CIRCX` join the queue of the circuit of their
immediate (R210). -/
def Obligations.ScanAndCircuitUnits : Prop :=
  (∀ (f : Form) (s : State) (t : Nat) (r : Req), s.unit = .engine (.scan t) r → r.kind = .data →
    let e := Engine.scan t
    let z := if typeOf f = 5 then 4 else 2
    let n := f.imm.toNat % 2 ^ 16
    let a := alignTo z (r.l.toNat % 2 ^ 16)
    let tok := fun (kind : Kind) (v : W64) => ({ kind := kind, value := v, tag := r.tag, round := r.round, ctx := r.ctx } : Token)
    let had := r.blk.length
    let more := if lowOf f = 1 then s.fullPrefix t (a + had) (n * z - had) else n * z - had
    let x := spRead pathM t (a + had) more (if lowOf f = 1 then s.seeRange 0x1FF pathM t (a + had) more s.tick else s)
    let read := r.blk ++ x.1
    let group := fun (g : Nat) => scanGroup (typeFmt (typeOf f)) z read n (128 * g)
    let sent := fun (gs : List Nat) (s : State) => (gs.drop (had / (128 * z))).foldl (fun s g =>
      ((laneWords 16 (group g)).map (tok .data) ++ [tok .stop 0]).foldl (fun s t => s.answerTo (Req.source e) r f.tgt0 t) s) s
    (65536 < a + n * z → exec (.nzscan f) s = .next (s.failAt e r fcIllegal none none)) ∧
    (a + n * z ≤ 65536 → read.length < n * z → exec (.nzscan f) s = .next (sent (List.range (read.length / (128 * z)))
      (x.2.setQueue e ({ r with blk := read } :: (x.2.queue e).tail)))) ∧
    (a + n * z ≤ 65536 → n * z ≤ read.length → exec (.nzscan f) s = .next
      (((sent (List.range ((n + 127) / 128)) (x.2.endHead e)).answerTo (Req.source e) r f.tgt0 (tok .stop 1)).answerTo
        (Req.source e) r f.tgt1 (tok .data (BitVec.ofNat 64 ((List.range ((n + 127) / 128)).map fun g =>
          (group g).length).sum))))) ∧
  (∀ (f : Form) (s : State) (t : Nat) (r : Req), r.kind ≠ .err → s.unit = .engine (.circuit t) r →
    ∀ i ∈ [Instr.circ f, .circx f], r.instr = i → exec i s = .next ((s.endHead (.circuit t)).modCircuit t (f.imm.toNat % 8)
      fun c => { c with queue := c.queue ++ [r] }))

/-- A stream port: an open command at an IDLE port whose waybill passes the checks, of which a core has made all but check
7 before, opens the port, which latches for `STRM` and runs for `GTHR` and `SCAT`, and one whose waybill does not is refused
with the check's number; `SWAIT` replies when the
rows are complete; `SCLOSE` replies the rows of an IDLE port at once and closes a DONE one; `CUT` cuts a stream that runs;
(R199, R200, R208, R212, R213). The stack that runs a gather whose index page is not there is the model's choice (log
141). -/
def Obligations.StreamUnit : Prop :=
  ∀ (f : Form) (s : State) (t p : Nat) (r : Req), r.kind = .data → r.instr ∈ [Instr.strm f, .gthr f, .scat f, .sclose f,
      .scloseCut f, .swait f] → s.unit = .engine (.stream t p) r →
    let e := Engine.stream t p
    let w := waybillOf r.blk
    let x := s.port t p
    let opc := opcodeOf r.instr
    let k := match r.origin with | .core _ => 0 | .slot _ _ _ => w.check opc (s.tile t) (openTag r)
    let rows := match r.origin with | .core _ => r.l.toNat | .slot _ _ _ => f.imm.toNat
    let shown := fun (s : State) (v : W64) => answered (s.showCounted t p) e r v
    let offset := match r.origin with | .core _ => r.r.toNat | .slot _ _ _ => r.l.toNat
    (r.instr ∈ [Instr.strm f, .gthr f, .scat f] → x.state = .idle →
      (k = 0 → w.check7 opc = false → exec r.instr s = .next ((((s.flushRelatch t p).forgetRows t p).takeHead e).modPort t p
        fun _ => { state := if r.instr = .strm f then .latching else .running, opener := some r
                   stack := s.stackOf r.ctx ((w.ibase + offset) % 2 ^ 56) })) ∧
      (k = 0 → w.check7 opc = true → exec r.instr s = .next (s.failAt e r fcIllegal none (some 7))) ∧
      (k ≠ 0 → k ≠ 8 → exec r.instr s = .next (s.failAt e r fcIllegal none (some (BitVec.ofNat 64 k))))) ∧
    (r.instr = .swait f → x.state = .idle ∨ x.state = .done ∨ (if rows = 0 then x.wb.rows else rows) ≤ x.rows →
      exec (.swait f) s = .next (shown s x.waitWord)) ∧
    (∀ i ∈ [Instr.sclose f, .scloseCut f], r.instr = i →
      (x.state = .idle → exec i s = .next (shown s (BitVec.ofNat 64 x.rows))) ∧
      (∀ s1, x.state = .done → x.unlatched = false → s.closePort t p = .ok s1 → exec i s = .next (shown s1 (BitVec.ofNat 64 x.rows)))) ∧
    (r.instr = .scloseCut f → x.state = .running → x.cut = false → exec (.scloseCut f) s = .next (s.cutPort t p)) ∧
    (r.instr = .sclose f → x.state = .running → exec (.sclose f) s = .next s)


/-- The summary unit and the boundary units execute the head of their queues unless it waits behind a parked request on the
same set or sequence: a result is replied, a fault is recorded and answered with `ERR`, and an absent page is recorded and
waited for; a marker, `STOP` or `ERR` is forwarded (R49, R256, R268, R272, R288, R289, R290). That a request waits behind a
parked one on the same set or sequence, and that a parked operation is executed again from its start, is the model's choice
(log 52). -/
def Obligations.TreeAndBoundaryUnits : Prop :=
  ∀ (e : Engine) (r : Req) (f : Form) (s0 s : State) (i : Instr) (m : Act W64),
    ((∃ t, e = .summary t ∧ s = s0.seeBoundary t r ∧ ∃ row ∈ summaryRows, i = row.1 f ∧ m = row.2 f t r) ∨
     (∃ d n, (e = .grammar d n ∨ e = .sampler d n ∨ e = .accept d n) ∧ s = s0 ∧
        ∃ row ∈ boundaryRows, i = row.1 f ∧ m = row.2 f d r)) →
    s0.unit = .engine e r →
    (r.kind = .data → s.behindParked e r = true → exec i s0 = .next s) ∧
    (r.kind = .data → s.behindParked e r = false →
      (∀ v s', m s = .ok (v, s') → exec i s0 = .next (answered s' e r v)) ∧
      (∀ code val aux, m s = .error (.fault code val aux) → exec i s0 = .next (s.failAt e r code val aux)) ∧
      (∀ va, m s = .error (.absent va) → exec i s0 = .next (s.notePark e r va))) ∧
    (r.kind = .mark ∨ r.kind = .stop ∨ r.kind = .err → exec i s0 = .next ((s.endHead e).forward e r))

/-- `TDESC` at its unit goes through four parts, between which other units go on: it checks its block and takes its root
reference, it runs and writes its output, it gives its reference up, and it updates the sequence record and replies its
status word (R256, R268, R280, R281). The four parts, between which other units go on, are the model's choice (log 52). -/
def Obligations.DescentUnit : Prop :=
  ∀ (f : Form) (s0 : State) (t : Nat) (r : Req), s0.unit = .engine (.summary t) r → r.kind = .data →
    let e := Engine.summary t
    let s := s0.seeBoundary t r
    s.behindParked e r = false →
    (∀ bs s', r.blk.length = 576 → descBegin t r s = .ok (bs, s') → exec (.tdesc f) s0 = .next (s'.noteHead e bs)) ∧
    (∀ code val aux, r.blk.length = 576 → descBegin t r s = .error (.fault code val aux) →
      exec (.tdesc f) s0 = .next (s.failAt e r code val aux)) ∧
    (∀ w s', r.blk.length = 595 → descRun t r s = .ok (w, s') →
      exec (.tdesc f) s0 = .next (s'.noteHead e (toBytes w.toNat 8))) ∧
    (∀ u s', r.blk.length = 603 → (descEnv t r).run (descRelease t r) s = .ok (u, s') →
      exec (.tdesc f) s0 = .next (s'.noteHead e [0])) ∧
    (∀ w s', 603 < r.blk.length → descUpdate t r (BitVec.ofNat 64 (natAt r.blk 595 8)) s = .ok (w, s') →
      exec (.tdesc f) s0 = .next (answered s' e r w))

/-- A handle has its state in bits 63:48, its depth in 42:32 and its top cell in 31:0, and one with a nonzero bit in 47:43
raises `GRAMMAR_STACK` (R296). -/
def Obligations.HandleFields : Prop :=
  ∀ (h : W64) (s : State),
    (h.extractLsb' 43 5 = 0 → splitHandle h s = .ok (⟨(h.extractLsb' 48 16).toNat, (h.extractLsb' 32 11).toNat,
      (h.extractLsb' 0 32).toNat⟩, s) ∧
      Handle.word ⟨(h.extractLsb' 48 16).toNat, (h.extractLsb' 32 11).toNat, (h.extractLsb' 0 32).toNat⟩ = h) ∧
    (h.extractLsb' 43 5 ≠ 0 → splitHandle h s = .error (.fault fcGrammarStack none none)) ∧ fcGrammarStack = 0x22

/-! ## Events -/

/-- The events of tokens: a token that is next on its channel and can cross the die edges enters the input queue of its
virtual network, which holds 8, and the placement stage then takes one token; a scale token is placed from its own network,
behind the queued tokens of its slot and port by the model's choice (log 116): a one-input instruction's into the buffer of 8,
and a two- or three-input instruction's into the free entry of its window; a reserved entry is pulled back and an overflow record
refilled, whose granules are cleared; one token of an element's output queue leaves, into its edge, or a request to its unit; a
mailbox of 4 takes a token, and a marker there is told once for a round; the controller counts a sink's notice; and a command
moves to its port (R10, R13, R25, R28, R31, R33, R38, R45, R120, R123, R388). That what the sender of a token or a command knows
of earlier writes is known where it arrives is the model's choice (log 7). -/
def Obligations.TokenEvents : Prop :=
  ∀ (s : State) (t e n pick : Nat),
    let x := s.elem t e
    let c := (s.tileCtx t).toNat
    let gone := fun (i : Nat) (fl : Flight) (who : Nat) (s : State) =>
      ({ s.learn (arrivalKey fl.step) who with net := dropNth s.net i } : State)
    (∀ i fl k p, (s.arriving t e)[pick]? = some (i, fl) → fl.dst = .slot t e k p →
      (fl.net = .vn1 → x.in1.length < 8 → exec (.tokenArrival t e pick) s = .next ((((gone i fl t s).modElem t e
        fun x => { x with in1 := x.in1 ++ [(k, p, fl.tok)] }).placeOne t e).settle t)) ∧
      (fl.net = .vn0 → x.in0.length < 8 → exec (.tokenArrival t e pick) s = .next ((((gone i fl t s).modElem t e
        fun x => { x with in0 := x.in0 ++ [(k, p, fl.tok)] }).placeOne t e).settle t)) ∧
      (fl.net = .scale → (∀ kv ∈ x.entries, kv.2.state ≠ .reserved) → (∀ q ∈ x.in0 ++ x.in1, q.1 = k → q.2.1 ≠ p) →
        ∀ s1, s.place t e k p fl.tok = .ok s1 → exec (.tokenArrival t e pick) s = .next (((gone i fl t s1).modElem t e
          fun x => { x with noted := x.noted.filter (· != Net.scale) }).settle t))) ∧
    (∀ k p tok rest i, s.arriving t e = [] → x.entries = [] → x.in1 = [] → x.in0 = (k, p, tok) :: rest →
      refusedArrival s t e k p tok = none → (s.slot t e k).word = some i → tok.kind = .data →
      opcodeOf i ∉ [0x76, 0x8A, 0x8D, 0xAD] →
      (inputCount (opcodeOf i) (formOf i) ≤ 1 → x.buf.length < 8 → exec (.tokenArrival t e pick) s = .next ((s.modElem t e fun x =>
        { x with in0 := rest, buf := x.buf ++ [{ slot := k, port := p, tok := tok, age := x.arrival + 1 }]
                 noted := x.noted.filter (· != Net.vn0), arrival := x.arrival + 1 }).settle t)) ∧
      (1 < inputCount (opcodeOf i) (formOf i) → exec (.tokenArrival t e pick) s = .next ((s.modElem t e fun x =>
        { x with in0 := rest, noted := x.noted.filter (· != Net.vn0), arrival := x.arrival + 1
                 entries := mapSet {} [] (entryIndex (formOf i) (innerSlot tok.tag))
                   ((newEntry i k tok.tag tok.round).fill p tok (x.arrival + 1)) }).settle t))) ∧
    (∀ kv, x.entries.find? (fun kv => kv.2.state == .reserved) = some kv →
      exec (.pullBack t e) s = .next ((s.pullInto t e kv.1).settle t)) ∧
    (∀ r rest, (x.bucket n).overflow = r :: rest → (x.bucket n).tile.length < x.depth →
      exec (.overflowRefill t e n) s = .next ((((s.modElem t e fun x => x.modBucket n fun b =>
        { b with tile := b.tile ++ [{ r with addr := 0 }], overflow := rest, regs := none }).clearOverflow t r).mirrorBucket
          t e n).settle t)) ∧
    (∀ o os it its, x.out = o :: os → o.items = it :: its →
      s.pend.any (fun p => p.elem == some (t, e) && p.rcd.ctx == s.tileCtx t) = false →
      (∀ field target tok d, it = .token field target tok none → s.resolve t target = some d →
        2 ≤ field ∨ s.edgeOpen t e o.slot field d = true → (s.ctx c).spawns = [] →
        exec (.outputQueueDrain t e) s = .next ((s.send (.slot t e o.slot field) d (s.slotChannel t e o.slot d tok) tok).modElem t e
          Element.sentItem)) ∧
      (∀ r s1, it = .request r → s.sendOut t r = some s1 → (s1.ctx (s1.tileCtx t).toNat).spawns = [] →
        exec (.outputQueueDrain t e) s = .next (s1.modElem t e Element.sentItem))) ∧
    (∀ i fl k, ((headsGo [] 0 s.net).filter fun q => match q.2.dst with
        | .mailbox m _ => m == n && s.crosses q.2
        | _ => false)[pick]? = some (i, fl) → fl.dst = .mailbox n k → refusedMail (s.core n) fl.tok = none →
      ((s.core n).mail k).length < 4 →
      let s1 := (gone i fl (16384 + n) s).modCore n fun c => { c with mbox := mapSet [] c.mbox k (c.mail k ++ [fl.tok]) }
      let g := (s.core n).group.getD 0
      let old := (s.group g).kernel.oldest
      let told := (mapGet [] (s.core n).marked k).filter fun r => (r - old).toNat < 128
      exec (.mailboxDeliver n pick) s = .next (
        if fl.tok.kind ≠ .mark ∨ fl.tok.round ∈ told ∨ 128 ≤ (fl.tok.round - old).toNat then s1
        else { s1.modCore n fun c => { c with marked := mapSet [] c.marked k (told ++ [fl.tok.round]) } with
          notices := s.notices ++ [{ group := g, round := fl.tok.round }] })) ∧
    (∀ m, s.notices[pick]? = some m → exec (.roundNotice pick) s = .next ({ s with notices := dropNth s.notices pick }.modGroup
      m.group fun g => { g with kernel := drainRounds 128 { g.kernel with
        notices := mapModify 0 g.kernel.notices m.round.toNat (· + 1) } })) ∧
    (∀ i cmd, (nextCommands [] 0 (s.core n).cmds)[pick]? = some (i, cmd) →
      (s.queue cmd.engine).length < queueSize cmd.engine →
      exec (.commandIssue n pick) s = .next (((s.setQueue cmd.engine (s.queue cmd.engine ++ [cmd.req])).learn (16384 + n)
        cmd.engine.unit).modCore n fun x => { x with cmds := setNth x.cmds i { cmd with issued := true } }))

/-- The events of an element and of a core: the chosen control stage acts, a pair at a breakpoint stays and breaks the
element, and a closed empty edge takes its new depth; a core that fetches a word that fails a check raises `ILLEGAL`, one
at an enabled breakpoint `BKPT`, the home core enters its handler for the head of the fault queue, and a `WAIT` whose cycles
have passed gives 1 (R47, R48, R63, R101, R103, R126, R127, R324, R339, R348). -/
def Obligations.ElementAndCoreEvents : Prop :=
  ∀ (s : State) (t e n : Nat),
    let x := s.elem t e
    let c := s.core n
    let y := s.ctx c.context.toNat
    let head := (y.reg 0x10A).toNat + 32 * ((y.reg 0x10C).toNat % max (y.reg 0x10B).toNat 1)
    let edge := mapGet {} (s.tile t).edges n
    (∀ k act, x.mayFire = true → s.firesFirst t e = false → s.elemChoice t e = .control k act → exec (.markerAction t e) s = .next
      (((s.modElem t e fun x => x.passOver (x.cands (s.fits t e) (s.pairFits t e)) none).controlAct t e k act).settle t)) ∧
    (∀ k, x.mayFire = true → s.firesFirst t e = false → s.elemChoice t e = .pair k → (s.slot t e k.slot).breaks k.ent.tag = true →
      exec (.slotBreakpointMatch t e) s = .next
        ((s.modElem t e fun x => { x with
          state := .broken, heldSlot := k.slot, heldAge := k.ent.age, skipBreak := true }).record
          { code := fcBkpt, ukind := 0, unit := unitSlot s t e k.slot, ctx := s.tileCtx t, tag := k.ent.tag })) ∧
    (∀ d later, edge.closing = d :: later → s.edgeLoad t (n / 64) (n / 2 % 32) (n % 2) = 0 → exec (.edgeResizeDone t n) s =
      .next (s.modTile t fun x => { x with edges := mapSet {} x.edges n { edge with depth := d, closing := later } })) ∧
    (c.running = true → c.hnd = false →
      (∀ b, decode .drover (mapGet 0 c.code c.pc.toNat) = .error b → exec (.illegalWord n) s =
        .next (handlerEntered (s.setCore n (fetched c)) n 0x2B none (some (BitVec.ofNat 64 b.number)))) ∧
      (c.atBreakpoint = true → c.bkctl.getLsbD 4 = false →
        exec (.addressBreakpoint n) s = .next (handlerEntered s n fcBkpt none none))) ∧
    (∀ bs s1, s.queuedFault n = true → vread (agentD n) c.context head 32 s = .ok (bs, s1) → exec (.handlerEntry n) s =
      .next ((s1.modCtx c.context.toNat fun x => x.setReg 0x10C (BitVec.ofNat 64 (((x.reg 0x10C).toNat + 1) % 2 ^ 32))).setCore n
        (({ c with dmem := memWrite c.dmem 0xFFE0 bs }).enter (natAt bs 0 1) c.pc))) ∧
    (∀ f, decode .drover (mapGet 0 c.code c.pc.toNat) = .ok (.wait f) → f.imm ≠ 0 → c.running = true → c.wait = .fetched →
      badCounter (xaOf s n f).toNat = false → s.counterMet c.context (xaOf s n f).toNat (xbOf s n f).toNat = false →
      exec (.waitTimeout n) s = .next (wordDone s n f 1))

/-- The events of a memory request: it is translated, and held in its wave or performed next, or parked at an absent page
with its fault recorded; a held one goes on when its wave allows it, a fence of a wave is passed, a wave link is recorded while
the chains have room; a notice of a suppressed access enters its chain as performed; and a request that may complete, an access
while what carries it serves it, is performed and replies, unless its memory has an uncorrectable error, which is the model's
free value, or it reads a line that a scrub has found to have one; a failed one replies once its record has been appended
(R175, R179, R180, R181, R182, R324, R388, R395, R410). -/
def Obligations.RequestEvents : Prop :=
  ∀ (s : State) (k : Nat) (m : MemReq), s.reqs[k]? = some m →
    let i := m.req.instr
    let c := m.req.ctx
    let own := (tripleOf (formOf i)).own
    let ended := fun (code : Nat) (s : State) => s.setReq k { m with state := .performing, failing := some code }
    (m.state = .translating → m.failing = none → s.parkTurn m = true → m.req.notice = true → s.waveRoom c m.req.wave = true →
      exec (.requestTranslate k) s = .next ((s.noteReq m true false).dropReq k)) ∧
    (m.state = .translating → m.failing = none → s.parkTurn m = true → m.req.notice = false → m.req.kind = .data →
      opcodeOf i ∈ [0x80, 0x81, 0x89] →
      (waveOrdered i = true → s.waveRoom c m.req.wave = true) →
      (∀ p, translate s c m.va (readsMemory i) (writesMemory i) = .ok p → writesMemory i = false ∨ bitOf p.e 7 = false →
        let m' := { m with state := if waveOrdered i then .held else .performing, leaf := p.e, lvl := p.lvl, epa := p.epa }
        exec (.requestTranslate k) s = .next ((s.noteReq m' false false).setReq k m')) ∧
      (∀ p, translate s c m.va (readsMemory i) (writesMemory i) = .ok p → writesMemory i = true → bitOf p.e 7 = true →
        exec (.requestTranslate k) s = .next s) ∧
      (∀ va, translate s c m.va (readsMemory i) (writesMemory i) = .error (.absent va) →
        opcodeOf i ≠ 0x80 ∨ bitsOf (formOf i).mod.toNat 3 2 ≠ 1 → s.parkedOn c (dieOf m.req.tile) < 1024 →
        exec (.requestTranslate k) s = .next (((s.noteReq m false true).setReq k { m with
          state := .parked, parkedAt := some s.tick }).faultAt
          m.req.interface m.req fcPageAbsent (some (BitVec.ofNat 64 va)) none)) ∧
      (∀ code val aux, translate s c m.va (readsMemory i) (writesMemory i) = .error (.fault code val aux) →
        exec (.requestTranslate k) s = .next (ended code (s.faultAt m.req.interface m.req code val aux)))) ∧
    (m.state = .held → s.chainClear c m.req.wave own = true →
      exec (.orderClear k) s = .next (s.setReq k { m with state := .performing })) ∧
    (opcodeOf i = 0x8B → waveOrdered i = true → m.state = .performing → s.chainClear c m.req.wave own = true →
      exec (.fenceWPassed k) s = .next (s.passPos c m.req.wave own)) ∧
    (∀ l, s.iterLinks[k]? = some l → s.waveRoom l.ctx l.dst = true →
      exec (.waveLinkAck k) s = .next { s.recordLink l with iterLinks := dropNth s.iterLinks k }) ∧
    (∀ code, m.failing = some code → s.recordWaits m.req.interface c = false → exec (.requestComplete k) s = .next (s.endErr k m code)) ∧
    (m.failing = none → s.mayComplete k m = true →
      (m.req.kind ≠ .data → exec (.requestComplete k) s = .next ((s.dropReq k).forward m.req.interface m.req)) ∧
      (m.req.kind = .data →
        let reads := readsMemory i || (opcodeOf i == 0x8E && (formOf i).mod == 1)
        let x := reqPerform m s
        let passed := if waveOrdered i then x.2.passPos c m.req.wave own else x.2
        exec (.requestComplete k) s = .next (
          if m.width ≠ 0 ∧ (Config.spoiled s.tick = true ∨ (reads = true ∧ s.pageBad m.page m.va m.width = true)) then
            ended fcMem (s.faultAt m.req.interface m.req fcMem (some (BitVec.ofNat 64 m.va)) none)
          else (passed.dropReq k).reply m.req.interface m.req .data x.1)))

/-- The events of a stream port and of a circuit: the window is latched, and the port runs, or parks at an absent page; the
next row of a stream and any row of a gather or scatter runs through its page, one outside the window faults, and one whose
index cannot be read faults too, which is recorded once for its page; a row that faults completes with its code once the record
has been appended; a re-latch drops
the latches of its page and goes to the port's targets; a granule of the head transfer is sent or lands, and which of the two
is the model's free value (R201, R202, R203, R208, R210, R324). Which stack a fault of an open names when the page of the index
array names none, and the unit of a row's record, are the model's choice (log 141). -/
def Obligations.StreamEvents : Prop :=
  ∀ (s : State) (t p n : Nat),
    let x := s.port t p
    let op := opcodeOf x.req.instr
    let ls := s.latchWindow t p
    (x.state = .latching → (ls.1.filter fun l => !l.failed).length ≤ 64 →
      (ls.2 = none → exec (.streamLatchDone t p) s = .next ((s.modPort t p fun x => { x with latches := ls.1 }).modPort t p
        fun x => { x with state := .running, wasRunning := true })) ∧
      (∀ va, ls.2 = some (.absent va) →
        exec (.streamLatchDone t p) s = .next ((s.modPort t p fun x => { x with latches := ls.1 }).parkPort t p va false))) ∧
    (op = 0xA0 → x.state = .running → x.failing = none → x.cut = false → s.saving x.req.ctx = false → x.relatching (x.rowAddr x.rows) = false →
      s.rowParked t p (x.rowAddr x.rows) = false → exec (.streamRowComplete t p x.rows) s =
        .next (s.runRow t p x.rows (x.rowAddr x.rows) fun a s => s.parkPort t p a true)) ∧
    (∀ tok rest, x.relatch = tok :: rest → x.state = .done →
      let base := bitsOf tok.value.toNat 16 40 * 65536
      let size := regionSize (3 - bitsOf tok.value.toNat 61 2)
      let s1 := s.modPort t p fun x => { x with relatch := rest, latches := x.latches.filter fun l =>
        !(l.va < base + size && base < l.va + l.size) }
      exec (.portRelatch t p) s = .next (s1.forwardRelatch t p tok)) ∧
    (∀ j s1, op ≠ 0xA0 → x.state = .running → x.failing = none → n < x.wb.rows → mapGet false x.doneRows n = false → mapGet 0 x.rowWait n = 0 →
      x.cut = false → s.saving x.req.ctx = false → s.readIndex t p n = .ok (j, s1) →
      let off : Int := (j : Int) * x.wb.stride
      let va := wrapInt 64 ((x.base : Int) + off)
      let w := x.wb
      (0 ≤ off → off + w.rlen ≤ w.wlen → exec (.gatherRowComplete t p n) s = .next (s1.runRow t p n va fun a s =>
        (s.portFault t p fcPageAbsent (x.rowTag n) (some (BitVec.ofNat 64 va)) (some (BitVec.ofNat 64 n))).rowWaits t p n a)) ∧
      (off < 0 ∨ off + w.rlen > w.wlen → exec (.gatherRowComplete t p n) s = .next
        ((s1.portFault t p fcPageProt (x.rowTag n) (some (BitVec.ofNat 64 va)) (some 3)).modPort t p fun x =>
          { x with failing := some (n, fcPageProt) }))) ∧
    (∀ code i, x.failing = some (i, code) → s.unitWaits (s.portUnit t p) x.req.ctx = false →
      ∀ j ∈ [Instr.streamRowComplete t p n, .gatherRowComplete t p n], exec j s = .next (s.rowEnds t p i 0 (some code))) ∧
    (∀ code val aux, op ≠ 0xA0 → x.state = .running → x.failing = none → n < x.wb.rows → mapGet false x.doneRows n = false →
      mapGet 0 x.rowWait n = 0 → x.cut = false → s.saving x.req.ctx = false → s.readIndex t p n = .error (.fault code val aux) →
      exec (.gatherRowComplete t p n) s = .next ((s.noteIndex t p code val aux).modPort t p fun x =>
        { x with failing := some (n, code) })) ∧
    (∀ r rs, let c := (s.tile t).circuit n
      let u := if opcodeOf r.instr = 0xA7 ∧ c.bound = true then s.portServed (s.circuitEnd t c) else s
      c.queue = r :: rs → r.kind = .data → c.slot = none → c.sent = 0 → u.circuitBad t r = false →
      exec (.circuitGranule t n) s = .next (if opcodeOf r.instr = 0xA7 then u.circuitReserve t n r
        else if Config.circuitSends s.tick then s.circuitSend t n r else s.circuitLand t n r))

/-- The events of a context: `BUILD`, `READY`, `KILL` and `RESUME` change its state, and have no effect in any other state;
a DEAD context without groups is FREE; a fault record goes to the tail of the fault queue, or to the management log when
there is no queue; a colour deadlock records the oldest `SPAWN` that waits, for a colour or, by the model's choice (log 61),
with its colour for a page; firmware raises the serai count, fails a page or sets the
budget, to values that are the model's free values; a drain or a hard save that is ready is saved, a drain whose budget runs
out is saved hard, and a restore that was asked for is tried once no copy waits (R155, R157, R317, R319, R320, R324, R325, R326, R327, R328). That
`RESUME` lets a held append be tried again is the model's choice (log 73), and so is that it ends a hard save that had begun and
that the scheduler then no longer counts the context as pre-empted by it (log 74). -/
def Obligations.ContextEvents : Prop :=
  ∀ (s : State) (c : Nat), c < 256 →
    let x := s.ctx c
    let cb := BitVec.ofNat 8 c
    let v := Config.firmwareValue s.tick
    (x.state = .free → exec (.ccmdBuild c) s = .next (s.setCtx c { x with state := .building })) ∧
    (x.state ≠ .free → exec (.ccmdBuild c) s = .next s) ∧
    (x.state = .building → x.readyFails = none → exec (.ccmdReady c) s =
      .next (s.setCtx c { x with state := .ready, seraiFree := List.range (x.reg 0x108).toNat })) ∧
    (x.state ≠ .building ∨ x.readyFails.isSome = true → exec (.ccmdReady c) s = .next s) ∧
    (x.state ≠ .free → x.state ≠ .dead → exec (.ccmdKill c) s = .next (s.kill c)) ∧
    (x.state = .free ∨ x.state = .dead → exec (.ccmdKill c) s = .next s) ∧
    (x.state = .faulted → exec (.ccmdResume c) s = .next ((s.resumeContext c).modCtx c fun x =>
      { x with state := .running, appendHeld := false, saving := none, bySched := none })) ∧
    (x.state ≠ .faulted → exec (.ccmdResume c) s = .next s) ∧
    (x.state = .dead → s.groupsOf cb = [] → exec (.contextReclaimed c) s = .next (s.setCtx c {})) ∧
    (∀ k p, s.pend[k]? = some p → p.rcd.ctx = cb → (s.pend.take k).any (fun q => q.rcd.from_ == p.rcd.from_) = false →
      (x.state = .free ∨ x.state = .building ∨ x.state = .dead →
        exec (.faultAppend k) s = .next ({ s with pend := dropNth s.pend k }.logFault p.rcd)) ∧
      (∀ s1, x.state = .running → x.appendHeld = false → x.queueFull = false → (x.reg 0x118).getLsbD 31 = true →
        vwrite agentSched cb ((x.reg 0x10A).toNat + 32 * ((x.reg 0x10D).toNat % max (x.reg 0x10B).toNat 1)) (p.rcd.bytes s.tick)
          { s with pend := dropNth s.pend k } = .ok ((), s1) →
        exec (.faultAppend k) s = .next (s1.modCtx c fun x =>
          x.setReg 0x10D (BitVec.ofNat 64 (((x.reg 0x10D).toNat + 1) % 2 ^ 32))))) ∧
    (∀ w, x.spawns.find? (fun w => w.failed.isNone) = some w → x.reg 0x119 ≠ 0 → x.freeColour = none →
      exec (.colourDeadlock c) s = .next (s.record
        { code := fcDeadlock, ukind := 0, unit := unitSlot s w.tile w.elem w.slot, ctx := cb, tag := w.tag })) ∧
    exec (.serain c) s = .next (if v.toNat < (x.reg 0x108).toNat then s else s.setCtx c { (x.setReg 0x108 v) with
      seraiFree := x.seraiFree ++ (if x.state = .free ∨ x.state = .building then [] else
        (List.range (v.toNat - (x.reg 0x108).toNat)).map (· + (x.reg 0x108).toNat)) }) ∧
    exec (.failpg c) s = .next (s.failPage cb (v.toNat % 2 ^ 56)) ∧
    exec (.dlbud c) s = .next (s.modCtx c fun x => x.setReg 0x119 v) ∧
    (x.state = .draining → x.saving = none →
      (s.drainDone cb = true → exec (.drainComplete c) s = .next (s.save c false false)) ∧
      (s.drainDone cb = false → exec (.drainTimeout c) s =
        .next ((s.drainFault c (if s.roundsDone cb then 1 else 0)).beginHard c false))) ∧
    (∀ faulted, x.saving = some faulted → s.hardReady cb = true → exec (.hardSave c) s = .next (s.save c true faulted)) ∧
    (x.jobs = [] → x.restoring.isSome = true → x.state = .saved → ∀ s1, s.restore? c = some s1 →
      exec (.restore c) s = .next s1 ∧ exec (.restoreRebind c) s = .next s1)

/-- The events of queues, kernels and barriers: a doorbell is carried out, and a bad one is logged; a WAITING head is tested
again; the priorities are served from the highest down; a bound group's image is loaded; a loaded kernel whose context and
colour admit it starts, its units see what the signals that met its wait had made known, and its queue goes on to the next
record; one that has retired with its group idle ends, its signal is performed, and its tiles are zeroed; a lower kernel's
context is pre-empted when a head's budget is over and placement, tried again head after head, does not place it; and an
arrival that crosses the die edges counts at its barrier (R331, R334, R335, R336, R337, R345, R347, R358, R362, R388). That the
arbiter performs the first signal that does not wait is the model's choice (log 88), and so is that an arrival that fails fails
at once, but in a SAVED context (log 95); a slot's replies `ERR` once its record has been appended. -/
def Obligations.KernelEvents : Prop :=
  ∀ (s : State) (g q n : Nat),
    let x := s.group g
    (∀ v, v < 2 ^ 64 → badDoorbell v = false → v % 1024 = q →
      (v / 1024 % 4 = 0 → exec (.doorbellRing v) s = .next (if s.qstate q = 1 then s.testQueue q else s)) ∧
      (v / 1024 % 4 = 1 → s.qstate q = 0 → exec (.doorbellEnable v) s =
        .next (((s.setQstate q 1).modQinf q fun _ => {}).ring? q)) ∧
      (v / 1024 % 4 = 2 → exec (.doorbellDisable v) s = .next (s.disableQueue q))) ∧
    (∀ v, v < 2 ^ 64 → badDoorbell v = true → ∀ i ∈ [Instr.doorbellRing v, .doorbellEnable v, .doorbellDisable v],
      exec i s = .next (s.logFault { code := fcIllegal, ukind := 3, unit := unitDie 0 192, ctx := s.qowner (v % 1024)
                                     val := some (BitVec.ofNat 64 v) })) ∧
    (q < 1024 → s.qstate q = 2 → exec (.queueHeadTest (s.qctx q) q) s = .next (s.testQueue q)) ∧
    exec .placement s = .next (tryPriorities 4 s) ∧
    (∀ v s1, x.state = .bound → x.kernel.state = .loading → s.load g x.roles = some (v, s1) →
      exec (.kernelLoad g) s = .next (if v = 0 then s1 else { s1 with signals := s1.signals ++ [
        { ctx := x.ctx, launcher := x.kernel.launcher, saddr := x.kernel.saddr, status := 0xC4, group := some g }] })) ∧
    (x.kernel.state = .loaded → (s.ctx x.ctx.toNat).state = .ready ∨ (s.ctx x.ctx.toNat).state = .running →
      ((s.ctx x.ctx.toNat).colour x.kernel.lcol).state = .free →
      let seen := match x.kernel.met with
        | some k => ((16384 + x.core) :: x.tiles).foldl (fun (s : State) u => s.showKnown k u) s
        | none => s
      exec (.kernelStart g) s = .next (match x.kernel.launcher with
        | .queue n _ => (seen.startKernel g).nextHead n (some g)
        | .core _ _ => seen.startKernel g)) ∧
    (x.kernel.state = .running → x.kernel.retired = true → s.groupIdle g = true →
      exec (.kernelEnd g) s = .next (s.endKernel g)) ∧
    (let u := placeAll 4096 s
     ∀ addr r met s1 c p st, q < 1024 → s.preempting = false → u.qstate q = 3 → (u.qinf q).counting = true →
      u.qpbud q ≠ 2 ^ 32 - 1 → u.preempting = false → u.readHead q = (.record addr r met, s1) →
      bestVictim (u.victims r.prio) = some (c, p, st) → exec (.preemptBudgetExpiry (u.qctx q) q) s =
        .next (({ u with seq := u.seq + 1 }.modCtx c fun x => { x with bySched := some (p, u.seq) }).preempt c false)) ∧
    (∀ m, s.signals.find? (fun m => !s.signalWaits m) = some m → m.group = some g → exec (.kernelSignal g) s =
      .next (performSignal (s.signals.findIdx fun m => !s.signalWaits m) 3 (s.signal m.ctx m.saddr))) ∧
    ((s.tile n).zeroing = true → (∀ p, p < 8 → (s.port n p).state = .idle) → exec (.zeroingDone n) s =
      .next ({ s.modTile n fun x => { elems := x.elems } with
        stale := s.stale.filter fun e => e.loc < spLoc n 0 || spLoc (n + 1) 0 ≤ e.loc }.freeGroups)) ∧
    (∀ a, s.arrivals[n]? = some a → firstArrival s.arrivals a = n → s.listFull (a.handle / 256) = false →
      s.edgesUp (unitDieOf a.unit) (a.handle / 256) = true →
      (∀ code, a.failed = some code → (s.ctx a.ctx.toNat).state ≠ .saved → s.unitWaits (3, unitDie (a.handle / 256) 64) a.ctx = false →
        exec (.barrierArrival n) s = .next ({ s with arrivals := dropNth s.arrivals n }.failedReply a code)) ∧
      (∀ b, a.failed = none → (s.barrier a.handle).arrive a = .ok b → s.barriersHeld b.ctx = false → s.releaseHeld b = false → exec (.barrierArrival n) s = .next (releaseRounds a.handle
        (b.records.length + 1) ({ s with arrivals := dropNth s.arrivals n }.setBarrier a.handle b))) ∧
      (∀ code, a.failed = none → (s.barrier a.handle).arrive a = .error code →
        ((s.ctx a.ctx.toNat).state = .saved → exec (.barrierArrival n) s = .next s) ∧
        (a.core = none → (s.ctx a.ctx.toNat).state ≠ .saved → exec (.barrierArrival n) s = .next
          ({ s with arrivals := setNth s.arrivals n { a with failed := some code } }.record
            { code := code, ukind := 3, unit := unitDie (a.handle / 256) 64, ctx := a.ctx, tag := a.tag })) ∧
        (∀ m, a.core = some m → (s.ctx a.ctx.toNat).state ≠ .saved → (s.core m).wait = .sent a.step →
          exec (.barrierArrival n) s = .next (wordFaults { s with arrivals := dropNth s.arrivals n } m code none none))))

/-- The events of links and lanes: a TRAINING link comes UP or fails, a RETRAINING one returns to UP or fails, a replay is
counted, and a failed replay and a recalibration retrain an UP link; a host and a peer reach device memory inside their
windows while their link is UP, and wait while what they access is not reached; a lane is lent, handshakes and is reclaimed; a refresh is postponed at most 8 times, and an
alert issues every one that waits; an adder's beat adds what arrives, and an abort ends it (R388, R389, R391, R392, R395,
R396, R398, R399, R410). When a bank is busy, how many refreshes it keeps, and which channels a unit's own accesses ask for
are the model's free values (log 128). That a handshake raises the retrain counter of its stack's lanes is the model's choice
(log 98). -/
def Obligations.LinkEvents : Prop :=
  ∀ (s : State) (l k n : Nat) (a : Access),
    let x := s.link l
    let y := s.lane k
    let d := mapGet {} s.adders n
    (l ≤ 12 →
      (x.state = .training → exec (.linkTrained l) s = .next (s.setLink l { x with state := .up, left := none })) ∧
      (x.state = .training ∨ x.state = .retraining → exec (.linkTrainFailed l) s = .next (s.dropLink l .failed)) ∧
      (x.state = .up → exec (.flitReplay l) s = .next (s.setLink l { x with replay := min (x.replay + 1) 65535 }) ∧
        (∀ i ∈ [Instr.replayFailed l, .linkRecalibration l], exec i s =
          .next ((s.setLink l { x with state := .retraining, retrain := min (x.retrain + 1) 65535, left := some s.tick }).adderStops
            l))) ∧
      (x.state = .retraining → exec (.retrainDone l) s = .next (s.setLink l { x with state := .up, left := none }))) ∧
    ((s.link 8).state = .up →
      (a.bar = 0 → a.write = true → a.addr = 0 → a.size = 8 →
        exec (.hostAccess a) s = .next (s.doorbell (a.data % 2 ^ 64))) ∧
      (a.bar = 2 → a.write = true → a.size ≤ 512 → s.reachesAll ⟨pathH, 32768⟩ a.addr a.size = true →
        exec (.hostAccess a) s = .next (outsideWrite ⟨pathH, 32768⟩ a.addr (toBytes a.data a.size) s)) ∧
      (a.bar = 2 → a.write = false → a.size ≤ 4096 → s.reachesAll ⟨pathH, 32768⟩ a.addr a.size = true →
        exec (.hostAccess a) s = .next (outsideRead ⟨pathH, 32768⟩ a.addr a.size s).2) ∧
      (a.bar = 2 → s.reachesAll ⟨pathH, 32768⟩ a.addr a.size = false → exec (.hostAccess a) s = .next s)) ∧
    ((s.link 8).state ≠ .up → exec (.hostAccess a) s = .next s) ∧
    (let w := mapGet (0, 0) s.apertures a.link
     let inside := a.link < 8 ∧ (s.link a.link).state = .up ∧ w.1 ≤ a.addr ∧ a.addr + a.size ≤ w.1 + w.2
     (inside → exec (.peerAccess a) s = .next (outsideAccess pathP (a.link / 2) a s)) ∧
     (¬ inside → exec (.peerAccess a) s = .next s)) ∧
    (k < 512 →
      exec (.laneLend k) s = .next (if y.state = .own ∧ y.lend = true ∧ (s.lane (neighbour k)).state = .own ∧
          s.channelAsked k = false ∧ s.channelAsked (neighbour k) = true then s.setLane k { y with state := .lending } else s) ∧
      exec (.laneReclaim k) s = .next (if y.state = .lent ∧ s.channelAsked k = true then
          s.setLane k { y with state := .reclaiming } else s) ∧
      (y.state = .lending → y.wants = [] → exec (.laneHandshakeDone k) s =
        .next ((s.setLane k { y with state := .lent }).laneRetrained k)) ∧
      (y.state = .reclaiming → y.wants = [] → exec (.laneHandshakeDone k) s =
        .next ((s.setLane k { y with state := .own }).laneRetrained k)) ∧
      exec (.activationAlert k n) s = .next (s.setLane k { y with postponed := mapSet 0 y.postponed n 0 }) ∧
      (let p := mapGet 0 y.postponed n
       exec (.refreshDue k n) s = .next (if Config.bankBusy s.tick = true then
          (if p < 8 then s.setLane k { y with postponed := mapSet 0 y.postponed n (p + 1) } else s)
        else s.setLane k { y with postponed := mapSet 0 y.postponed n (min p (Config.refreshesKept s.tick)) }))) ∧
    (∀ data loc s1 s2 inn, d.running = true → d.pageFailed = false → s.adderLink d.inn = true → s.adderLink d.out = true →
      s.beatCredit n d = true → vnat ⟨pathP, 32768 + adderDie n⟩ d.ctx (d.src + 64 * d.beats) 64 s = .ok (loc, s1) →
      s1.incoming n d data = some (inn, s2) →
      let v := match inn with | some b => addBeats d.type b loc | none => (loc, 0)
      (d.out ≠ 0xFF → exec (.chainBeat n data) s = .next ((s2.sendBeat d (adderDie n) false v.1).beatDone n d v.2)) ∧
      (∀ s3, d.out = 0xFF → vput ⟨pathP, 32768 + adderDie n⟩ d.ctx (d.dst + 64 * d.beats) 64 v.1 s2 = .ok ((), s3) →
        exec (.chainBeat n data) s = .next (s3.beatDone n d v.2))) ∧
    (d.running = true → d.inn < 8 → (s.link d.inn).state = .up → exec (.adderAbort n) s = .next (s.failAdder n))

/-- The events of the device: the start runs its steps in order, and a step that fails stops it; the loss of power leaves the
state of reset but for the start log; firmware clears its logs; the management port answers with the start log when the
start has stopped, else with an attestation report for a nonce or with telemetry counters, which have come on by what was
counted; a power sample limits firing; a patrol scrub changes no data and marks a line whose error it cannot correct; a
recalibration changes nothing, and a scrub of a tile with an uncorrectable error is recorded (R403, R405, R407, R409, R410,
R411, R430). The power, the errors of memory and what the counters count are the model's free values. What stays after the loss
of power (log 104), the form of a management request and its answers (log 105), that a line stays marked until it is written
(log 134) and the 100 samples of the power limit (log 107) are the model's choice. -/
def Obligations.DeviceEvents : Prop :=
  ∀ (s : State) (n : Nat) (a : Access),
    let m := s.mgmt
    let w := Config.power s.tick
    let high := if 2200 < w then m.overCount + 1 else 0
    (m.start = .cold → exec .powerUp s = .next (runSteps [1, 2, 3, 4, 5, 6, 7, 8, 9, 10]
      { s with mgmt := { m with boot := m.boot + 1 } })) ∧
    (m.start ≠ .cold → exec .powerUp s = .next s) ∧
    exec .powerLoss s = .next { State.reset with
      mgmt := { boot := m.boot, log := m.log, alternative := m.alternative }
      tick := s.tick } ∧
    exec .startLogClear s = .next { s with mgmt := { m with log := [], alternative := [] } } ∧
    exec .managementFaultLogClear s = .next { s with mgmt := { m with faults := [], lost := 0 } } ∧
    (m.start = .cold → exec (.managementPortRequest a) s = .next { s with mgmt := { m with answer := [] } }) ∧
    (m.start = .stopped → exec (.managementPortRequest a) s =
      .next { s with mgmt := { m with answer := m.log.flatMap StartRec.bytes } }) ∧
    (m.start = .serving →
      (a.write = true → exec (.managementPortRequest a) s =
        .next { s with mgmt := { m with answer := attestation s.tick m a.data } }) ∧
      (a.write = false → ∃ t : State, exec (.managementPortRequest a) s = .next t ∧
        t = { s with mgmt := { m with counters := t.mgmt.counters, answer := t.mgmt.answer } } ∧
        t.mgmt.answer = (List.range a.size).map fun i =>
          (toBytes (mapGet 0 t.mgmt.counters ((a.addr + i) / 8)) 8).getD ((a.addr + i) % 8) 0)) ∧
    exec .powerSample s = .next { s with mgmt := { m with
      overCount := high
      limit := if w < 2050 then 0 else if 100 ≤ high then 2 else if 2150 < w then max m.limit 1 else m.limit } } ∧
    exec (.patrolScrub n) s = .next (if n < 2 ^ 39 ∧ s.stackFailed n = false ∧ Config.spoiled s.tick = true then
      { s with badLines := mapSet false s.badLines (n / 64) true } else s) ∧
    exec (.memoryRecalibration n) s = .next s ∧
    exec (.sramScrub n) s = .next (if Config.spoiled s.tick = true ∧ (s.tile n).group.isSome = true then
      s.record { code := fcMem, ukind := 2, unit := unitEngine s n 2, ctx := s.tileCtx n } else s)

/-! ## Values -/

/-- The integer arithmetic of whole values wraps and sets no flag, and that of packed lanes is the same in each lane;
saturating addition gives the nearest value of the format and sets `OF` exactly when the sum does not fit; the shifts and the
rotation of 64 bits take their count from R[7:0] (R53, R75, R76, R134, R137). -/
def Obligations.IntegerValues : Prop :=
  ∀ (f : Form) (l r c : W64),
    let n := r.toNat % 256
    (f.mod = 16 ∨ f.mod = 24 → addValue f l r c = (l + r, 0) ∧ subValue f l r c = (l - r, 0) ∧ mulValue f l r c = (l * r, 0) ∧
      madValue f l r c = (l * r + c, 0) ∧ negValue f l r c = (-l, 0)) ∧
    (f.mod = 0 ∨ f.mod = 8 → addValue f l r c = ((l + r) &&& 0xFFFFFFFF, 0) ∧ subValue f l r c = ((l - r) &&& 0xFFFFFFFF, 0) ∧
      mulValue f l r c = ((l * r) &&& 0xFFFFFFFF, 0)) ∧
    (f.mod = 72 ∨ f.mod = 80 → ∀ k, k < 4 →
      (addValue f l r c).1.extractLsb' (16 * k) 16 = l.extractLsb' (16 * k) 16 + r.extractLsb' (16 * k) 16 ∧
      (mulValue f l r c).1.extractLsb' (16 * k) 16 = l.extractLsb' (16 * k) 16 * r.extractLsb' (16 * k) 16) ∧
    (f.mod = 88 ∨ f.mod = 96 → ∀ k, k < 8 →
      (subValue f l r c).1.extractLsb' (8 * k) 8 = l.extractLsb' (8 * k) 8 - r.extractLsb' (8 * k) 8) ∧
    (f.mod = 20 → (addValue f l r c).1.toInt = max (-2 ^ 63) (min (2 ^ 63 - 1) (l.toInt + r.toInt)) ∧
      ((addValue f l r c).2 = if (l + r).toInt = l.toInt + r.toInt then 0 else flagOF)) ∧
    (f.mod = 32 → shlValue f l r c = (l <<< n, 0) ∧ shrValue f l r c = (l >>> n, 0) ∧ sarValue f l r c = (l.sshiftRight n, 0) ∧
      rotValue f l r c = (l.rotateLeft (n % 64), 0))
end

