-- ==== Sys2Proof/Laws/FMap.lean ====
section
/-! SUPPORT. The laws of the finite maps: a read after a write, and that every operation keeps the
canonical form. -/

namespace Sys2Proof.Machine

variable {α : Type}

@[simp] theorem mapGet_nil (d : α) (i : Nat) : mapGet d [] i = d := rfl

/-- The value at a key that was put. -/
@[simp] theorem mapGet_mapPut (d : α) (m : FMap α) (i j : Nat) (v : α) :
    mapGet d (mapPut i v m) j = if j = i then v else mapGet d m j := by
  induction m with
  | nil => simp only [mapPut, mapGet]; split <;> simp
  | cons kv m ih =>
    obtain ⟨k, w⟩ := kv
    simp only [mapPut]
    split
    · subst i; simp only [mapGet]; split <;> simp
    · split
      · simp only [mapGet]; split
        · simp
        · split
          · split
            · omega
            · split <;> first | rfl | omega
          · rfl
      · simp only [mapGet, ih]; split
        · split
          · omega
          · rfl
        · split
          · split
            · omega
            · rfl
          · rfl

/-- Below the bound of a canonical map every key reads as unlisted. -/
theorem mapGet_below [DecidableEq α] (d : α) (m : FMap α) (b i : Nat) (h : mapWfFrom d b m = true) (hi : i < b) :
    mapGet d m i = d := by
  cases m with
  | nil => rfl
  | cons kv m =>
    obtain ⟨k, w⟩ := kv
    simp only [mapWfFrom, Bool.and_eq_true, decide_eq_true_eq] at h
    simp only [mapGet]
    rw [if_neg (by omega), if_pos (by omega)]

/-- A bound may be lowered. -/
theorem mapWfFrom_mono [DecidableEq α] (d : α) (m : FMap α) (b c : Nat) (h : mapWfFrom d b m = true) (hc : c ≤ b) :
    mapWfFrom d c m = true := by
  cases m with
  | nil => rfl
  | cons kv m =>
    obtain ⟨k, w⟩ := kv
    simp only [mapWfFrom, Bool.and_eq_true, decide_eq_true_eq] at h ⊢
    exact ⟨⟨by omega, h.1.2⟩, h.2⟩

/-- The value at a key after a removal, in a canonical map. -/
theorem mapGet_mapDel_from [DecidableEq α] (d : α) (m : FMap α) (b i j : Nat) (h : mapWfFrom d b m = true) :
    mapGet d (mapDel i m) j = if j = i then d else mapGet d m j := by
  induction m generalizing b with
  | nil => simp [mapDel]
  | cons kv m ih =>
    obtain ⟨k, w⟩ := kv
    simp only [mapWfFrom, Bool.and_eq_true, decide_eq_true_eq] at h
    simp only [mapDel]
    split
    · subst i
      by_cases hj : j = k
      · rw [if_pos hj]; exact mapGet_below d m (k + 1) j h.2 (by omega)
      · rw [if_neg hj]; simp only [mapGet]; rw [if_neg hj]
        split
        · exact mapGet_below d m (k + 1) j h.2 (by omega)
        · rfl
    · split
      · by_cases hj : j = i
        · rw [if_pos hj]; simp only [mapGet]; rw [if_neg (by omega), if_pos (by omega)]
        · rw [if_neg hj]
      · simp only [mapGet, ih (k + 1) h.2]; split
        · split
          · omega
          · rfl
        · split
          · split <;> rfl
          · rfl

/-- Removing an unlisted key changes nothing that is read. -/
theorem mapGet_mapDel [DecidableEq α] (d : α) (m : FMap α) (i j : Nat) (h : mapWf d m = true) :
    mapGet d (mapDel i m) j = if j = i then d else mapGet d m j := mapGet_mapDel_from d m 0 i j h

/-- The value at a key after a write, in a canonical map. -/
theorem mapGet_mapSet [DecidableEq α] (d : α) (m : FMap α) (i j : Nat) (v : α) (h : mapWf d m = true) :
    mapGet d (mapSet d m i v) j = if j = i then v else mapGet d m j := by
  unfold mapSet
  split
  · rename_i hv; rw [mapGet_mapDel d m i j h, hv]
  · exact mapGet_mapPut d m i j v

/-- A write reads back, whatever the map. -/
theorem mapGet_mapSet_ne [DecidableEq α] (d : α) (m : FMap α) (i : Nat) (v : α) (hv : v ≠ d) :
    mapGet d (mapSet d m i v) i = v := by simp [mapSet, hv]

theorem mapPut_wf_from [DecidableEq α] (d : α) (m : FMap α) (b i : Nat) (v : α) (hv : v ≠ d) (hb : b ≤ i)
    (h : mapWfFrom d b m = true) : mapWfFrom d b (mapPut i v m) = true := by
  induction m generalizing b with
  | nil => simp [mapPut, mapWfFrom, hv, hb]
  | cons kv m ih =>
    obtain ⟨k, w⟩ := kv
    have h' := h
    simp only [mapWfFrom, Bool.and_eq_true, decide_eq_true_eq, Bool.not_eq_true', decide_eq_false_iff_not] at h
    simp only [mapPut]
    split
    · subst i; simp only [mapWfFrom, Bool.and_eq_true, decide_eq_true_eq, Bool.not_eq_true', decide_eq_false_iff_not]
      exact ⟨⟨hb, hv⟩, h.2⟩
    · split
      · rename_i h1 h2
        simp only [mapWfFrom, Bool.and_eq_true, decide_eq_true_eq, Bool.not_eq_true', decide_eq_false_iff_not]
        exact ⟨⟨hb, hv⟩, ⟨by omega, h.1.2⟩, h.2⟩
      · simp only [mapWfFrom, Bool.and_eq_true, decide_eq_true_eq, Bool.not_eq_true', decide_eq_false_iff_not]
        exact ⟨h.1, ih (k + 1) (by omega) h.2⟩

theorem mapDel_wf_from [DecidableEq α] (d : α) (m : FMap α) (b i : Nat) (h : mapWfFrom d b m = true) :
    mapWfFrom d b (mapDel i m) = true := by
  induction m generalizing b with
  | nil => rfl
  | cons kv m ih =>
    obtain ⟨k, w⟩ := kv
    have h' := h
    simp only [mapWfFrom, Bool.and_eq_true, decide_eq_true_eq] at h
    simp only [mapDel]
    split
    · exact mapWfFrom_mono d m (k + 1) b h.2 (by omega)
    · split
      · exact h'
      · simp only [mapWfFrom, Bool.and_eq_true, decide_eq_true_eq]
        exact ⟨h.1, ih (k + 1) h.2⟩

/-- A write keeps the canonical form. -/
theorem mapSet_wf [DecidableEq α] (d : α) (m : FMap α) (i : Nat) (v : α) (h : mapWf d m = true) :
    mapWf d (mapSet d m i v) = true := by
  unfold mapSet
  split
  · exact mapDel_wf_from d m 0 i h
  · exact mapPut_wf_from d m 0 i v ‹_› (Nat.zero_le i) h

/-- A change of one value keeps the canonical form. -/
theorem mapModify_wf [DecidableEq α] (d : α) (m : FMap α) (i : Nat) (f : α → α) (h : mapWf d m = true) :
    mapWf d (mapModify d m i f) = true := mapSet_wf d m i _ h

/-- A map of some of the entries of a canonical map is canonical. -/
theorem filter_wf_from [DecidableEq α] (d : α) (p : Nat × α → Bool) (m : FMap α) (b : Nat)
    (h : mapWfFrom d b m = true) : mapWfFrom d b (m.filter p) = true := by
  induction m generalizing b with
  | nil => rfl
  | cons kv m ih =>
    obtain ⟨k, w⟩ := kv
    simp only [mapWfFrom, Bool.and_eq_true, decide_eq_true_eq] at h
    simp only [List.filter_cons]
    split
    · simp only [mapWfFrom, Bool.and_eq_true, decide_eq_true_eq]; exact ⟨h.1, ih (k + 1) h.2⟩
    · exact mapWfFrom_mono d _ (k + 1) b (ih (k + 1) h.2) (by omega)

/-- Keeping some entries keeps the canonical form. -/
theorem filter_wf [DecidableEq α] (d : α) (p : Nat × α → Bool) (m : FMap α) (h : mapWf d m = true) :
    mapWf d (m.filter p) = true := filter_wf_from d p m 0 h

theorem mapVals_wf_from [DecidableEq α] (d : α) (f : α → α) (m : FMap α) (b : Nat) (h : mapWfFrom d b m = true) :
    mapWfFrom d b (mapVals d f m) = true := by
  induction m generalizing b with
  | nil => rfl
  | cons kv m ih =>
    obtain ⟨k, w⟩ := kv
    simp only [mapWfFrom, Bool.and_eq_true, decide_eq_true_eq] at h
    have ih' := ih (k + 1) h.2
    unfold mapVals at ih' ⊢
    simp only [List.filterMap_cons]
    split
    · exact mapWfFrom_mono d _ (k + 1) b ih' (by omega)
    · rename_i e
      split at e
      · simp at e
      · rename_i hd
        simp only [Option.some.injEq] at e
        subst e
        simp only [mapWfFrom, Bool.and_eq_true, decide_eq_true_eq, Bool.not_eq_true', decide_eq_false_iff_not]
        exact ⟨⟨h.1.1, hd⟩, ih'⟩

/-- Changing every value keeps the canonical form. -/
theorem mapVals_wf [DecidableEq α] (d : α) (f : α → α) (m : FMap α) (h : mapWf d m = true) :
    mapWf d (mapVals d f m) = true := mapVals_wf_from d f m 0 h

/-- A normalised map is canonical. -/
theorem mapNorm_wf [DecidableEq α] (d : α) (m : FMap α) : mapWf d (mapNorm d m) = true := by
  unfold mapNorm
  split
  · assumption
  · have h : ∀ (l y : FMap α), mapWf d y = true →
        mapWf d (l.foldl (fun y kv => mapSet d y kv.1 kv.2) y) = true := by
      intro l
      induction l with
      | nil => exact fun _ h => h
      | cons kv l ih => exact fun y h => ih _ (mapSet_wf d y kv.1 kv.2 h)
    exact h m [] rfl

end Sys2Proof.Machine
end

