-- ==== Sys2Proof/Laws/State.lean ====
section
/-! SUPPORT. One lemma for every field of the state and every update of it. -/

namespace Sys2Proof.Machine

open Sys2Proof

/-! ## The fields of the state after an update -/

@[simp] theorem State.setTile_mem (s : State) (t : Nat) (x : Tile) : (s.setTile t x).mem = s.mem := rfl
@[simp] theorem State.setTile_tiles (s : State) (t : Nat) (x : Tile) : (s.setTile t x).tiles = mapSet {} s.tiles t x := rfl
@[simp] theorem State.setTile_cores (s : State) (t : Nat) (x : Tile) : (s.setTile t x).cores = s.cores := rfl
@[simp] theorem State.setTile_ctxs (s : State) (t : Nat) (x : Tile) : (s.setTile t x).ctxs = s.ctxs := rfl
@[simp] theorem State.setTile_groups (s : State) (t : Nat) (x : Tile) : (s.setTile t x).groups = s.groups := rfl
@[simp] theorem State.setTile_net (s : State) (t : Nat) (x : Tile) : (s.setTile t x).net = s.net := rfl
@[simp] theorem State.setTile_reqs (s : State) (t : Nat) (x : Tile) : (s.setTile t x).reqs = s.reqs := rfl
@[simp] theorem State.setTile_queues (s : State) (t : Nat) (x : Tile) : (s.setTile t x).queues = s.queues := rfl
@[simp] theorem State.setTile_parked (s : State) (t : Nat) (x : Tile) : (s.setTile t x).parked = s.parked := rfl
@[simp] theorem State.setTile_waves (s : State) (t : Nat) (x : Tile) : (s.setTile t x).waves = s.waves := rfl
@[simp] theorem State.setTile_iterLinks (s : State) (t : Nat) (x : Tile) : (s.setTile t x).iterLinks = s.iterLinks := rfl
@[simp] theorem State.setTile_stale (s : State) (t : Nat) (x : Tile) : (s.setTile t x).stale = s.stale := rfl
@[simp] theorem State.setTile_badLines (s : State) (t : Nat) (x : Tile) : (s.setTile t x).badLines = s.badLines := rfl
@[simp] theorem State.setTile_late (s : State) (t : Nat) (x : Tile) : (s.setTile t x).late = s.late := rfl
@[simp] theorem State.setTile_pend (s : State) (t : Nat) (x : Tile) : (s.setTile t x).pend = s.pend := rfl
@[simp] theorem State.setTile_notices (s : State) (t : Nat) (x : Tile) : (s.setTile t x).notices = s.notices := rfl
@[simp] theorem State.setTile_barriers (s : State) (t : Nat) (x : Tile) : (s.setTile t x).barriers = s.barriers := rfl
@[simp] theorem State.setTile_arrivals (s : State) (t : Nat) (x : Tile) : (s.setTile t x).arrivals = s.arrivals := rfl
@[simp] theorem State.setTile_gtab (s : State) (t : Nat) (x : Tile) : (s.setTile t x).gtab = s.gtab := rfl
@[simp] theorem State.setTile_qtab (s : State) (t : Nat) (x : Tile) : (s.setTile t x).qtab = s.qtab := rfl
@[simp] theorem State.setTile_qinfo (s : State) (t : Nat) (x : Tile) : (s.setTile t x).qinfo = s.qinfo := rfl
@[simp] theorem State.setTile_signals (s : State) (t : Nat) (x : Tile) : (s.setTile t x).signals = s.signals := rfl
@[simp] theorem State.setTile_lastQueue (s : State) (t : Nat) (x : Tile) : (s.setTile t x).lastQueue = s.lastQueue := rfl
@[simp] theorem State.setTile_links (s : State) (t : Nat) (x : Tile) : (s.setTile t x).links = s.links := rfl
@[simp] theorem State.setTile_lanes (s : State) (t : Nat) (x : Tile) : (s.setTile t x).lanes = s.lanes := rfl
@[simp] theorem State.setTile_adders (s : State) (t : Nat) (x : Tile) : (s.setTile t x).adders = s.adders := rfl
@[simp] theorem State.setTile_beats (s : State) (t : Nat) (x : Tile) : (s.setTile t x).beats = s.beats := rfl
@[simp] theorem State.setTile_apertures (s : State) (t : Nat) (x : Tile) : (s.setTile t x).apertures = s.apertures := rfl
@[simp] theorem State.setTile_mgmt (s : State) (t : Nat) (x : Tile) : (s.setTile t x).mgmt = s.mgmt := rfl
@[simp] theorem State.setTile_seq (s : State) (t : Nat) (x : Tile) : (s.setTile t x).seq = s.seq := rfl
@[simp] theorem State.setTile_tick (s : State) (t : Nat) (x : Tile) : (s.setTile t x).tick = s.tick := rfl
@[simp] theorem State.setTile_turn (s : State) (t : Nat) (x : Tile) : (s.setTile t x).turn = s.turn := rfl
@[simp] theorem State.setTile_unit (s : State) (t : Nat) (x : Tile) : (s.setTile t x).unit = s.unit := rfl

@[simp] theorem State.modTile_mem (s : State) (t : Nat) (f : Tile → Tile) : (s.modTile t f).mem = s.mem := rfl
@[simp] theorem State.modTile_tiles (s : State) (t : Nat) (f : Tile → Tile) : (s.modTile t f).tiles = mapSet {} s.tiles t (f (s.tile t)) := rfl
@[simp] theorem State.modTile_cores (s : State) (t : Nat) (f : Tile → Tile) : (s.modTile t f).cores = s.cores := rfl
@[simp] theorem State.modTile_ctxs (s : State) (t : Nat) (f : Tile → Tile) : (s.modTile t f).ctxs = s.ctxs := rfl
@[simp] theorem State.modTile_groups (s : State) (t : Nat) (f : Tile → Tile) : (s.modTile t f).groups = s.groups := rfl
@[simp] theorem State.modTile_net (s : State) (t : Nat) (f : Tile → Tile) : (s.modTile t f).net = s.net := rfl
@[simp] theorem State.modTile_reqs (s : State) (t : Nat) (f : Tile → Tile) : (s.modTile t f).reqs = s.reqs := rfl
@[simp] theorem State.modTile_queues (s : State) (t : Nat) (f : Tile → Tile) : (s.modTile t f).queues = s.queues := rfl
@[simp] theorem State.modTile_parked (s : State) (t : Nat) (f : Tile → Tile) : (s.modTile t f).parked = s.parked := rfl
@[simp] theorem State.modTile_waves (s : State) (t : Nat) (f : Tile → Tile) : (s.modTile t f).waves = s.waves := rfl
@[simp] theorem State.modTile_iterLinks (s : State) (t : Nat) (f : Tile → Tile) : (s.modTile t f).iterLinks = s.iterLinks := rfl
@[simp] theorem State.modTile_stale (s : State) (t : Nat) (f : Tile → Tile) : (s.modTile t f).stale = s.stale := rfl
@[simp] theorem State.modTile_badLines (s : State) (t : Nat) (f : Tile → Tile) : (s.modTile t f).badLines = s.badLines := rfl
@[simp] theorem State.modTile_late (s : State) (t : Nat) (f : Tile → Tile) : (s.modTile t f).late = s.late := rfl
@[simp] theorem State.modTile_pend (s : State) (t : Nat) (f : Tile → Tile) : (s.modTile t f).pend = s.pend := rfl
@[simp] theorem State.modTile_notices (s : State) (t : Nat) (f : Tile → Tile) : (s.modTile t f).notices = s.notices := rfl
@[simp] theorem State.modTile_barriers (s : State) (t : Nat) (f : Tile → Tile) : (s.modTile t f).barriers = s.barriers := rfl
@[simp] theorem State.modTile_arrivals (s : State) (t : Nat) (f : Tile → Tile) : (s.modTile t f).arrivals = s.arrivals := rfl
@[simp] theorem State.modTile_gtab (s : State) (t : Nat) (f : Tile → Tile) : (s.modTile t f).gtab = s.gtab := rfl
@[simp] theorem State.modTile_qtab (s : State) (t : Nat) (f : Tile → Tile) : (s.modTile t f).qtab = s.qtab := rfl
@[simp] theorem State.modTile_qinfo (s : State) (t : Nat) (f : Tile → Tile) : (s.modTile t f).qinfo = s.qinfo := rfl
@[simp] theorem State.modTile_signals (s : State) (t : Nat) (f : Tile → Tile) : (s.modTile t f).signals = s.signals := rfl
@[simp] theorem State.modTile_lastQueue (s : State) (t : Nat) (f : Tile → Tile) : (s.modTile t f).lastQueue = s.lastQueue := rfl
@[simp] theorem State.modTile_links (s : State) (t : Nat) (f : Tile → Tile) : (s.modTile t f).links = s.links := rfl
@[simp] theorem State.modTile_lanes (s : State) (t : Nat) (f : Tile → Tile) : (s.modTile t f).lanes = s.lanes := rfl
@[simp] theorem State.modTile_adders (s : State) (t : Nat) (f : Tile → Tile) : (s.modTile t f).adders = s.adders := rfl
@[simp] theorem State.modTile_beats (s : State) (t : Nat) (f : Tile → Tile) : (s.modTile t f).beats = s.beats := rfl
@[simp] theorem State.modTile_apertures (s : State) (t : Nat) (f : Tile → Tile) : (s.modTile t f).apertures = s.apertures := rfl
@[simp] theorem State.modTile_mgmt (s : State) (t : Nat) (f : Tile → Tile) : (s.modTile t f).mgmt = s.mgmt := rfl
@[simp] theorem State.modTile_seq (s : State) (t : Nat) (f : Tile → Tile) : (s.modTile t f).seq = s.seq := rfl
@[simp] theorem State.modTile_tick (s : State) (t : Nat) (f : Tile → Tile) : (s.modTile t f).tick = s.tick := rfl
@[simp] theorem State.modTile_turn (s : State) (t : Nat) (f : Tile → Tile) : (s.modTile t f).turn = s.turn := rfl
@[simp] theorem State.modTile_unit (s : State) (t : Nat) (f : Tile → Tile) : (s.modTile t f).unit = s.unit := rfl

@[simp] theorem State.modElem_mem (s : State) (t e : Nat) (f : Element → Element) : (s.modElem t e f).mem = s.mem := rfl
@[simp] theorem State.modElem_tiles (s : State) (t e : Nat) (f : Element → Element) : (s.modElem t e f).tiles = mapSet {} s.tiles t ((s.tile t).modElem e f) := rfl
@[simp] theorem State.modElem_cores (s : State) (t e : Nat) (f : Element → Element) : (s.modElem t e f).cores = s.cores := rfl
@[simp] theorem State.modElem_ctxs (s : State) (t e : Nat) (f : Element → Element) : (s.modElem t e f).ctxs = s.ctxs := rfl
@[simp] theorem State.modElem_groups (s : State) (t e : Nat) (f : Element → Element) : (s.modElem t e f).groups = s.groups := rfl
@[simp] theorem State.modElem_net (s : State) (t e : Nat) (f : Element → Element) : (s.modElem t e f).net = s.net := rfl
@[simp] theorem State.modElem_reqs (s : State) (t e : Nat) (f : Element → Element) : (s.modElem t e f).reqs = s.reqs := rfl
@[simp] theorem State.modElem_queues (s : State) (t e : Nat) (f : Element → Element) : (s.modElem t e f).queues = s.queues := rfl
@[simp] theorem State.modElem_parked (s : State) (t e : Nat) (f : Element → Element) : (s.modElem t e f).parked = s.parked := rfl
@[simp] theorem State.modElem_waves (s : State) (t e : Nat) (f : Element → Element) : (s.modElem t e f).waves = s.waves := rfl
@[simp] theorem State.modElem_iterLinks (s : State) (t e : Nat) (f : Element → Element) : (s.modElem t e f).iterLinks = s.iterLinks := rfl
@[simp] theorem State.modElem_stale (s : State) (t e : Nat) (f : Element → Element) : (s.modElem t e f).stale = s.stale := rfl
@[simp] theorem State.modElem_badLines (s : State) (t e : Nat) (f : Element → Element) : (s.modElem t e f).badLines = s.badLines := rfl
@[simp] theorem State.modElem_late (s : State) (t e : Nat) (f : Element → Element) : (s.modElem t e f).late = s.late := rfl
@[simp] theorem State.modElem_pend (s : State) (t e : Nat) (f : Element → Element) : (s.modElem t e f).pend = s.pend := rfl
@[simp] theorem State.modElem_notices (s : State) (t e : Nat) (f : Element → Element) : (s.modElem t e f).notices = s.notices := rfl
@[simp] theorem State.modElem_barriers (s : State) (t e : Nat) (f : Element → Element) : (s.modElem t e f).barriers = s.barriers := rfl
@[simp] theorem State.modElem_arrivals (s : State) (t e : Nat) (f : Element → Element) : (s.modElem t e f).arrivals = s.arrivals := rfl
@[simp] theorem State.modElem_gtab (s : State) (t e : Nat) (f : Element → Element) : (s.modElem t e f).gtab = s.gtab := rfl
@[simp] theorem State.modElem_qtab (s : State) (t e : Nat) (f : Element → Element) : (s.modElem t e f).qtab = s.qtab := rfl
@[simp] theorem State.modElem_qinfo (s : State) (t e : Nat) (f : Element → Element) : (s.modElem t e f).qinfo = s.qinfo := rfl
@[simp] theorem State.modElem_signals (s : State) (t e : Nat) (f : Element → Element) : (s.modElem t e f).signals = s.signals := rfl
@[simp] theorem State.modElem_lastQueue (s : State) (t e : Nat) (f : Element → Element) : (s.modElem t e f).lastQueue = s.lastQueue := rfl
@[simp] theorem State.modElem_links (s : State) (t e : Nat) (f : Element → Element) : (s.modElem t e f).links = s.links := rfl
@[simp] theorem State.modElem_lanes (s : State) (t e : Nat) (f : Element → Element) : (s.modElem t e f).lanes = s.lanes := rfl
@[simp] theorem State.modElem_adders (s : State) (t e : Nat) (f : Element → Element) : (s.modElem t e f).adders = s.adders := rfl
@[simp] theorem State.modElem_beats (s : State) (t e : Nat) (f : Element → Element) : (s.modElem t e f).beats = s.beats := rfl
@[simp] theorem State.modElem_apertures (s : State) (t e : Nat) (f : Element → Element) : (s.modElem t e f).apertures = s.apertures := rfl
@[simp] theorem State.modElem_mgmt (s : State) (t e : Nat) (f : Element → Element) : (s.modElem t e f).mgmt = s.mgmt := rfl
@[simp] theorem State.modElem_seq (s : State) (t e : Nat) (f : Element → Element) : (s.modElem t e f).seq = s.seq := rfl
@[simp] theorem State.modElem_tick (s : State) (t e : Nat) (f : Element → Element) : (s.modElem t e f).tick = s.tick := rfl
@[simp] theorem State.modElem_turn (s : State) (t e : Nat) (f : Element → Element) : (s.modElem t e f).turn = s.turn := rfl
@[simp] theorem State.modElem_unit (s : State) (t e : Nat) (f : Element → Element) : (s.modElem t e f).unit = s.unit := rfl

@[simp] theorem State.modSlot_mem (s : State) (t e k : Nat) (f : SlotState → SlotState) : (s.modSlot t e k f).mem = s.mem := rfl
@[simp] theorem State.modSlot_tiles (s : State) (t e k : Nat) (f : SlotState → SlotState) : (s.modSlot t e k f).tiles = mapSet {} s.tiles t ((s.tile t).modElem e fun x => x.modSlot k f) := rfl
@[simp] theorem State.modSlot_cores (s : State) (t e k : Nat) (f : SlotState → SlotState) : (s.modSlot t e k f).cores = s.cores := rfl
@[simp] theorem State.modSlot_ctxs (s : State) (t e k : Nat) (f : SlotState → SlotState) : (s.modSlot t e k f).ctxs = s.ctxs := rfl
@[simp] theorem State.modSlot_groups (s : State) (t e k : Nat) (f : SlotState → SlotState) : (s.modSlot t e k f).groups = s.groups := rfl
@[simp] theorem State.modSlot_net (s : State) (t e k : Nat) (f : SlotState → SlotState) : (s.modSlot t e k f).net = s.net := rfl
@[simp] theorem State.modSlot_reqs (s : State) (t e k : Nat) (f : SlotState → SlotState) : (s.modSlot t e k f).reqs = s.reqs := rfl
@[simp] theorem State.modSlot_queues (s : State) (t e k : Nat) (f : SlotState → SlotState) : (s.modSlot t e k f).queues = s.queues := rfl
@[simp] theorem State.modSlot_parked (s : State) (t e k : Nat) (f : SlotState → SlotState) : (s.modSlot t e k f).parked = s.parked := rfl
@[simp] theorem State.modSlot_waves (s : State) (t e k : Nat) (f : SlotState → SlotState) : (s.modSlot t e k f).waves = s.waves := rfl
@[simp] theorem State.modSlot_iterLinks (s : State) (t e k : Nat) (f : SlotState → SlotState) : (s.modSlot t e k f).iterLinks = s.iterLinks := rfl
@[simp] theorem State.modSlot_stale (s : State) (t e k : Nat) (f : SlotState → SlotState) : (s.modSlot t e k f).stale = s.stale := rfl
@[simp] theorem State.modSlot_badLines (s : State) (t e k : Nat) (f : SlotState → SlotState) : (s.modSlot t e k f).badLines = s.badLines := rfl
@[simp] theorem State.modSlot_late (s : State) (t e k : Nat) (f : SlotState → SlotState) : (s.modSlot t e k f).late = s.late := rfl
@[simp] theorem State.modSlot_pend (s : State) (t e k : Nat) (f : SlotState → SlotState) : (s.modSlot t e k f).pend = s.pend := rfl
@[simp] theorem State.modSlot_notices (s : State) (t e k : Nat) (f : SlotState → SlotState) : (s.modSlot t e k f).notices = s.notices := rfl
@[simp] theorem State.modSlot_barriers (s : State) (t e k : Nat) (f : SlotState → SlotState) : (s.modSlot t e k f).barriers = s.barriers := rfl
@[simp] theorem State.modSlot_arrivals (s : State) (t e k : Nat) (f : SlotState → SlotState) : (s.modSlot t e k f).arrivals = s.arrivals := rfl
@[simp] theorem State.modSlot_gtab (s : State) (t e k : Nat) (f : SlotState → SlotState) : (s.modSlot t e k f).gtab = s.gtab := rfl
@[simp] theorem State.modSlot_qtab (s : State) (t e k : Nat) (f : SlotState → SlotState) : (s.modSlot t e k f).qtab = s.qtab := rfl
@[simp] theorem State.modSlot_qinfo (s : State) (t e k : Nat) (f : SlotState → SlotState) : (s.modSlot t e k f).qinfo = s.qinfo := rfl
@[simp] theorem State.modSlot_signals (s : State) (t e k : Nat) (f : SlotState → SlotState) : (s.modSlot t e k f).signals = s.signals := rfl
@[simp] theorem State.modSlot_lastQueue (s : State) (t e k : Nat) (f : SlotState → SlotState) : (s.modSlot t e k f).lastQueue = s.lastQueue := rfl
@[simp] theorem State.modSlot_links (s : State) (t e k : Nat) (f : SlotState → SlotState) : (s.modSlot t e k f).links = s.links := rfl
@[simp] theorem State.modSlot_lanes (s : State) (t e k : Nat) (f : SlotState → SlotState) : (s.modSlot t e k f).lanes = s.lanes := rfl
@[simp] theorem State.modSlot_adders (s : State) (t e k : Nat) (f : SlotState → SlotState) : (s.modSlot t e k f).adders = s.adders := rfl
@[simp] theorem State.modSlot_beats (s : State) (t e k : Nat) (f : SlotState → SlotState) : (s.modSlot t e k f).beats = s.beats := rfl
@[simp] theorem State.modSlot_apertures (s : State) (t e k : Nat) (f : SlotState → SlotState) : (s.modSlot t e k f).apertures = s.apertures := rfl
@[simp] theorem State.modSlot_mgmt (s : State) (t e k : Nat) (f : SlotState → SlotState) : (s.modSlot t e k f).mgmt = s.mgmt := rfl
@[simp] theorem State.modSlot_seq (s : State) (t e k : Nat) (f : SlotState → SlotState) : (s.modSlot t e k f).seq = s.seq := rfl
@[simp] theorem State.modSlot_tick (s : State) (t e k : Nat) (f : SlotState → SlotState) : (s.modSlot t e k f).tick = s.tick := rfl
@[simp] theorem State.modSlot_turn (s : State) (t e k : Nat) (f : SlotState → SlotState) : (s.modSlot t e k f).turn = s.turn := rfl
@[simp] theorem State.modSlot_unit (s : State) (t e k : Nat) (f : SlotState → SlotState) : (s.modSlot t e k f).unit = s.unit := rfl

@[simp] theorem State.setCore_mem (s : State) (n : Nat) (x : Core) : (s.setCore n x).mem = s.mem := rfl
@[simp] theorem State.setCore_tiles (s : State) (n : Nat) (x : Core) : (s.setCore n x).tiles = s.tiles := rfl
@[simp] theorem State.setCore_cores (s : State) (n : Nat) (x : Core) : (s.setCore n x).cores = mapSet {} s.cores n x := rfl
@[simp] theorem State.setCore_ctxs (s : State) (n : Nat) (x : Core) : (s.setCore n x).ctxs = s.ctxs := rfl
@[simp] theorem State.setCore_groups (s : State) (n : Nat) (x : Core) : (s.setCore n x).groups = s.groups := rfl
@[simp] theorem State.setCore_net (s : State) (n : Nat) (x : Core) : (s.setCore n x).net = s.net := rfl
@[simp] theorem State.setCore_reqs (s : State) (n : Nat) (x : Core) : (s.setCore n x).reqs = s.reqs := rfl
@[simp] theorem State.setCore_queues (s : State) (n : Nat) (x : Core) : (s.setCore n x).queues = s.queues := rfl
@[simp] theorem State.setCore_parked (s : State) (n : Nat) (x : Core) : (s.setCore n x).parked = s.parked := rfl
@[simp] theorem State.setCore_waves (s : State) (n : Nat) (x : Core) : (s.setCore n x).waves = s.waves := rfl
@[simp] theorem State.setCore_iterLinks (s : State) (n : Nat) (x : Core) : (s.setCore n x).iterLinks = s.iterLinks := rfl
@[simp] theorem State.setCore_stale (s : State) (n : Nat) (x : Core) : (s.setCore n x).stale = s.stale := rfl
@[simp] theorem State.setCore_badLines (s : State) (n : Nat) (x : Core) : (s.setCore n x).badLines = s.badLines := rfl
@[simp] theorem State.setCore_late (s : State) (n : Nat) (x : Core) : (s.setCore n x).late = s.late := rfl
@[simp] theorem State.setCore_pend (s : State) (n : Nat) (x : Core) : (s.setCore n x).pend = s.pend := rfl
@[simp] theorem State.setCore_notices (s : State) (n : Nat) (x : Core) : (s.setCore n x).notices = s.notices := rfl
@[simp] theorem State.setCore_barriers (s : State) (n : Nat) (x : Core) : (s.setCore n x).barriers = s.barriers := rfl
@[simp] theorem State.setCore_arrivals (s : State) (n : Nat) (x : Core) : (s.setCore n x).arrivals = s.arrivals := rfl
@[simp] theorem State.setCore_gtab (s : State) (n : Nat) (x : Core) : (s.setCore n x).gtab = s.gtab := rfl
@[simp] theorem State.setCore_qtab (s : State) (n : Nat) (x : Core) : (s.setCore n x).qtab = s.qtab := rfl
@[simp] theorem State.setCore_qinfo (s : State) (n : Nat) (x : Core) : (s.setCore n x).qinfo = s.qinfo := rfl
@[simp] theorem State.setCore_signals (s : State) (n : Nat) (x : Core) : (s.setCore n x).signals = s.signals := rfl
@[simp] theorem State.setCore_lastQueue (s : State) (n : Nat) (x : Core) : (s.setCore n x).lastQueue = s.lastQueue := rfl
@[simp] theorem State.setCore_links (s : State) (n : Nat) (x : Core) : (s.setCore n x).links = s.links := rfl
@[simp] theorem State.setCore_lanes (s : State) (n : Nat) (x : Core) : (s.setCore n x).lanes = s.lanes := rfl
@[simp] theorem State.setCore_adders (s : State) (n : Nat) (x : Core) : (s.setCore n x).adders = s.adders := rfl
@[simp] theorem State.setCore_beats (s : State) (n : Nat) (x : Core) : (s.setCore n x).beats = s.beats := rfl
@[simp] theorem State.setCore_apertures (s : State) (n : Nat) (x : Core) : (s.setCore n x).apertures = s.apertures := rfl
@[simp] theorem State.setCore_mgmt (s : State) (n : Nat) (x : Core) : (s.setCore n x).mgmt = s.mgmt := rfl
@[simp] theorem State.setCore_seq (s : State) (n : Nat) (x : Core) : (s.setCore n x).seq = s.seq := rfl
@[simp] theorem State.setCore_tick (s : State) (n : Nat) (x : Core) : (s.setCore n x).tick = s.tick := rfl
@[simp] theorem State.setCore_turn (s : State) (n : Nat) (x : Core) : (s.setCore n x).turn = s.turn := rfl
@[simp] theorem State.setCore_unit (s : State) (n : Nat) (x : Core) : (s.setCore n x).unit = s.unit := rfl

@[simp] theorem State.modCore_mem (s : State) (n : Nat) (f : Core → Core) : (s.modCore n f).mem = s.mem := rfl
@[simp] theorem State.modCore_tiles (s : State) (n : Nat) (f : Core → Core) : (s.modCore n f).tiles = s.tiles := rfl
@[simp] theorem State.modCore_cores (s : State) (n : Nat) (f : Core → Core) : (s.modCore n f).cores = mapSet {} s.cores n (f (s.core n)) := rfl
@[simp] theorem State.modCore_ctxs (s : State) (n : Nat) (f : Core → Core) : (s.modCore n f).ctxs = s.ctxs := rfl
@[simp] theorem State.modCore_groups (s : State) (n : Nat) (f : Core → Core) : (s.modCore n f).groups = s.groups := rfl
@[simp] theorem State.modCore_net (s : State) (n : Nat) (f : Core → Core) : (s.modCore n f).net = s.net := rfl
@[simp] theorem State.modCore_reqs (s : State) (n : Nat) (f : Core → Core) : (s.modCore n f).reqs = s.reqs := rfl
@[simp] theorem State.modCore_queues (s : State) (n : Nat) (f : Core → Core) : (s.modCore n f).queues = s.queues := rfl
@[simp] theorem State.modCore_parked (s : State) (n : Nat) (f : Core → Core) : (s.modCore n f).parked = s.parked := rfl
@[simp] theorem State.modCore_waves (s : State) (n : Nat) (f : Core → Core) : (s.modCore n f).waves = s.waves := rfl
@[simp] theorem State.modCore_iterLinks (s : State) (n : Nat) (f : Core → Core) : (s.modCore n f).iterLinks = s.iterLinks := rfl
@[simp] theorem State.modCore_stale (s : State) (n : Nat) (f : Core → Core) : (s.modCore n f).stale = s.stale := rfl
@[simp] theorem State.modCore_badLines (s : State) (n : Nat) (f : Core → Core) : (s.modCore n f).badLines = s.badLines := rfl
@[simp] theorem State.modCore_late (s : State) (n : Nat) (f : Core → Core) : (s.modCore n f).late = s.late := rfl
@[simp] theorem State.modCore_pend (s : State) (n : Nat) (f : Core → Core) : (s.modCore n f).pend = s.pend := rfl
@[simp] theorem State.modCore_notices (s : State) (n : Nat) (f : Core → Core) : (s.modCore n f).notices = s.notices := rfl
@[simp] theorem State.modCore_barriers (s : State) (n : Nat) (f : Core → Core) : (s.modCore n f).barriers = s.barriers := rfl
@[simp] theorem State.modCore_arrivals (s : State) (n : Nat) (f : Core → Core) : (s.modCore n f).arrivals = s.arrivals := rfl
@[simp] theorem State.modCore_gtab (s : State) (n : Nat) (f : Core → Core) : (s.modCore n f).gtab = s.gtab := rfl
@[simp] theorem State.modCore_qtab (s : State) (n : Nat) (f : Core → Core) : (s.modCore n f).qtab = s.qtab := rfl
@[simp] theorem State.modCore_qinfo (s : State) (n : Nat) (f : Core → Core) : (s.modCore n f).qinfo = s.qinfo := rfl
@[simp] theorem State.modCore_signals (s : State) (n : Nat) (f : Core → Core) : (s.modCore n f).signals = s.signals := rfl
@[simp] theorem State.modCore_lastQueue (s : State) (n : Nat) (f : Core → Core) : (s.modCore n f).lastQueue = s.lastQueue := rfl
@[simp] theorem State.modCore_links (s : State) (n : Nat) (f : Core → Core) : (s.modCore n f).links = s.links := rfl
@[simp] theorem State.modCore_lanes (s : State) (n : Nat) (f : Core → Core) : (s.modCore n f).lanes = s.lanes := rfl
@[simp] theorem State.modCore_adders (s : State) (n : Nat) (f : Core → Core) : (s.modCore n f).adders = s.adders := rfl
@[simp] theorem State.modCore_beats (s : State) (n : Nat) (f : Core → Core) : (s.modCore n f).beats = s.beats := rfl
@[simp] theorem State.modCore_apertures (s : State) (n : Nat) (f : Core → Core) : (s.modCore n f).apertures = s.apertures := rfl
@[simp] theorem State.modCore_mgmt (s : State) (n : Nat) (f : Core → Core) : (s.modCore n f).mgmt = s.mgmt := rfl
@[simp] theorem State.modCore_seq (s : State) (n : Nat) (f : Core → Core) : (s.modCore n f).seq = s.seq := rfl
@[simp] theorem State.modCore_tick (s : State) (n : Nat) (f : Core → Core) : (s.modCore n f).tick = s.tick := rfl
@[simp] theorem State.modCore_turn (s : State) (n : Nat) (f : Core → Core) : (s.modCore n f).turn = s.turn := rfl
@[simp] theorem State.modCore_unit (s : State) (n : Nat) (f : Core → Core) : (s.modCore n f).unit = s.unit := rfl

@[simp] theorem State.coreResult_mem (s : State) (n : Nat) (f : Form) (v : W64) : (s.coreResult n f v).mem = s.mem := rfl
@[simp] theorem State.coreResult_tiles (s : State) (n : Nat) (f : Form) (v : W64) : (s.coreResult n f v).tiles = s.tiles := rfl
@[simp] theorem State.coreResult_cores (s : State) (n : Nat) (f : Form) (v : W64) : (s.coreResult n f v).cores = mapSet {} s.cores n ((s.core n).setReg (Form.xd f) v).next := rfl
@[simp] theorem State.coreResult_ctxs (s : State) (n : Nat) (f : Form) (v : W64) : (s.coreResult n f v).ctxs = s.ctxs := rfl
@[simp] theorem State.coreResult_groups (s : State) (n : Nat) (f : Form) (v : W64) : (s.coreResult n f v).groups = s.groups := rfl
@[simp] theorem State.coreResult_net (s : State) (n : Nat) (f : Form) (v : W64) : (s.coreResult n f v).net = s.net := rfl
@[simp] theorem State.coreResult_reqs (s : State) (n : Nat) (f : Form) (v : W64) : (s.coreResult n f v).reqs = s.reqs := rfl
@[simp] theorem State.coreResult_queues (s : State) (n : Nat) (f : Form) (v : W64) : (s.coreResult n f v).queues = s.queues := rfl
@[simp] theorem State.coreResult_parked (s : State) (n : Nat) (f : Form) (v : W64) : (s.coreResult n f v).parked = s.parked := rfl
@[simp] theorem State.coreResult_waves (s : State) (n : Nat) (f : Form) (v : W64) : (s.coreResult n f v).waves = s.waves := rfl
@[simp] theorem State.coreResult_iterLinks (s : State) (n : Nat) (f : Form) (v : W64) : (s.coreResult n f v).iterLinks = s.iterLinks := rfl
@[simp] theorem State.coreResult_stale (s : State) (n : Nat) (f : Form) (v : W64) : (s.coreResult n f v).stale = s.stale := rfl
@[simp] theorem State.coreResult_badLines (s : State) (n : Nat) (f : Form) (v : W64) : (s.coreResult n f v).badLines = s.badLines := rfl
@[simp] theorem State.coreResult_late (s : State) (n : Nat) (f : Form) (v : W64) : (s.coreResult n f v).late = s.late := rfl
@[simp] theorem State.coreResult_pend (s : State) (n : Nat) (f : Form) (v : W64) : (s.coreResult n f v).pend = s.pend := rfl
@[simp] theorem State.coreResult_notices (s : State) (n : Nat) (f : Form) (v : W64) : (s.coreResult n f v).notices = s.notices := rfl
@[simp] theorem State.coreResult_barriers (s : State) (n : Nat) (f : Form) (v : W64) : (s.coreResult n f v).barriers = s.barriers := rfl
@[simp] theorem State.coreResult_arrivals (s : State) (n : Nat) (f : Form) (v : W64) : (s.coreResult n f v).arrivals = s.arrivals := rfl
@[simp] theorem State.coreResult_gtab (s : State) (n : Nat) (f : Form) (v : W64) : (s.coreResult n f v).gtab = s.gtab := rfl
@[simp] theorem State.coreResult_qtab (s : State) (n : Nat) (f : Form) (v : W64) : (s.coreResult n f v).qtab = s.qtab := rfl
@[simp] theorem State.coreResult_qinfo (s : State) (n : Nat) (f : Form) (v : W64) : (s.coreResult n f v).qinfo = s.qinfo := rfl
@[simp] theorem State.coreResult_signals (s : State) (n : Nat) (f : Form) (v : W64) : (s.coreResult n f v).signals = s.signals := rfl
@[simp] theorem State.coreResult_lastQueue (s : State) (n : Nat) (f : Form) (v : W64) : (s.coreResult n f v).lastQueue = s.lastQueue := rfl
@[simp] theorem State.coreResult_links (s : State) (n : Nat) (f : Form) (v : W64) : (s.coreResult n f v).links = s.links := rfl
@[simp] theorem State.coreResult_lanes (s : State) (n : Nat) (f : Form) (v : W64) : (s.coreResult n f v).lanes = s.lanes := rfl
@[simp] theorem State.coreResult_adders (s : State) (n : Nat) (f : Form) (v : W64) : (s.coreResult n f v).adders = s.adders := rfl
@[simp] theorem State.coreResult_beats (s : State) (n : Nat) (f : Form) (v : W64) : (s.coreResult n f v).beats = s.beats := rfl
@[simp] theorem State.coreResult_apertures (s : State) (n : Nat) (f : Form) (v : W64) : (s.coreResult n f v).apertures = s.apertures := rfl
@[simp] theorem State.coreResult_mgmt (s : State) (n : Nat) (f : Form) (v : W64) : (s.coreResult n f v).mgmt = s.mgmt := rfl
@[simp] theorem State.coreResult_seq (s : State) (n : Nat) (f : Form) (v : W64) : (s.coreResult n f v).seq = s.seq := rfl
@[simp] theorem State.coreResult_tick (s : State) (n : Nat) (f : Form) (v : W64) : (s.coreResult n f v).tick = s.tick := rfl
@[simp] theorem State.coreResult_turn (s : State) (n : Nat) (f : Form) (v : W64) : (s.coreResult n f v).turn = s.turn := rfl
@[simp] theorem State.coreResult_unit (s : State) (n : Nat) (f : Form) (v : W64) : (s.coreResult n f v).unit = s.unit := rfl

@[simp] theorem State.coreDone_mem (s : State) (n : Nat) : (s.coreDone n).mem = s.mem := rfl
@[simp] theorem State.coreDone_tiles (s : State) (n : Nat) : (s.coreDone n).tiles = s.tiles := rfl
@[simp] theorem State.coreDone_cores (s : State) (n : Nat) : (s.coreDone n).cores = mapSet {} s.cores n (s.core n).next := rfl
@[simp] theorem State.coreDone_ctxs (s : State) (n : Nat) : (s.coreDone n).ctxs = s.ctxs := rfl
@[simp] theorem State.coreDone_groups (s : State) (n : Nat) : (s.coreDone n).groups = s.groups := rfl
@[simp] theorem State.coreDone_net (s : State) (n : Nat) : (s.coreDone n).net = s.net := rfl
@[simp] theorem State.coreDone_reqs (s : State) (n : Nat) : (s.coreDone n).reqs = s.reqs := rfl
@[simp] theorem State.coreDone_queues (s : State) (n : Nat) : (s.coreDone n).queues = s.queues := rfl
@[simp] theorem State.coreDone_parked (s : State) (n : Nat) : (s.coreDone n).parked = s.parked := rfl
@[simp] theorem State.coreDone_waves (s : State) (n : Nat) : (s.coreDone n).waves = s.waves := rfl
@[simp] theorem State.coreDone_iterLinks (s : State) (n : Nat) : (s.coreDone n).iterLinks = s.iterLinks := rfl
@[simp] theorem State.coreDone_stale (s : State) (n : Nat) : (s.coreDone n).stale = s.stale := rfl
@[simp] theorem State.coreDone_badLines (s : State) (n : Nat) : (s.coreDone n).badLines = s.badLines := rfl
@[simp] theorem State.coreDone_late (s : State) (n : Nat) : (s.coreDone n).late = s.late := rfl
@[simp] theorem State.coreDone_pend (s : State) (n : Nat) : (s.coreDone n).pend = s.pend := rfl
@[simp] theorem State.coreDone_notices (s : State) (n : Nat) : (s.coreDone n).notices = s.notices := rfl
@[simp] theorem State.coreDone_barriers (s : State) (n : Nat) : (s.coreDone n).barriers = s.barriers := rfl
@[simp] theorem State.coreDone_arrivals (s : State) (n : Nat) : (s.coreDone n).arrivals = s.arrivals := rfl
@[simp] theorem State.coreDone_gtab (s : State) (n : Nat) : (s.coreDone n).gtab = s.gtab := rfl
@[simp] theorem State.coreDone_qtab (s : State) (n : Nat) : (s.coreDone n).qtab = s.qtab := rfl
@[simp] theorem State.coreDone_qinfo (s : State) (n : Nat) : (s.coreDone n).qinfo = s.qinfo := rfl
@[simp] theorem State.coreDone_signals (s : State) (n : Nat) : (s.coreDone n).signals = s.signals := rfl
@[simp] theorem State.coreDone_lastQueue (s : State) (n : Nat) : (s.coreDone n).lastQueue = s.lastQueue := rfl
@[simp] theorem State.coreDone_links (s : State) (n : Nat) : (s.coreDone n).links = s.links := rfl
@[simp] theorem State.coreDone_lanes (s : State) (n : Nat) : (s.coreDone n).lanes = s.lanes := rfl
@[simp] theorem State.coreDone_adders (s : State) (n : Nat) : (s.coreDone n).adders = s.adders := rfl
@[simp] theorem State.coreDone_beats (s : State) (n : Nat) : (s.coreDone n).beats = s.beats := rfl
@[simp] theorem State.coreDone_apertures (s : State) (n : Nat) : (s.coreDone n).apertures = s.apertures := rfl
@[simp] theorem State.coreDone_mgmt (s : State) (n : Nat) : (s.coreDone n).mgmt = s.mgmt := rfl
@[simp] theorem State.coreDone_seq (s : State) (n : Nat) : (s.coreDone n).seq = s.seq := rfl
@[simp] theorem State.coreDone_tick (s : State) (n : Nat) : (s.coreDone n).tick = s.tick := rfl
@[simp] theorem State.coreDone_turn (s : State) (n : Nat) : (s.coreDone n).turn = s.turn := rfl
@[simp] theorem State.coreDone_unit (s : State) (n : Nat) : (s.coreDone n).unit = s.unit := rfl

@[simp] theorem State.setCtx_mem (s : State) (c : Nat) (x : Ctx) : (s.setCtx c x).mem = s.mem := rfl
@[simp] theorem State.setCtx_tiles (s : State) (c : Nat) (x : Ctx) : (s.setCtx c x).tiles = s.tiles := rfl
@[simp] theorem State.setCtx_cores (s : State) (c : Nat) (x : Ctx) : (s.setCtx c x).cores = s.cores := rfl
@[simp] theorem State.setCtx_ctxs (s : State) (c : Nat) (x : Ctx) : (s.setCtx c x).ctxs = mapSet {} s.ctxs c x := rfl
@[simp] theorem State.setCtx_groups (s : State) (c : Nat) (x : Ctx) : (s.setCtx c x).groups = s.groups := rfl
@[simp] theorem State.setCtx_net (s : State) (c : Nat) (x : Ctx) : (s.setCtx c x).net = s.net := rfl
@[simp] theorem State.setCtx_reqs (s : State) (c : Nat) (x : Ctx) : (s.setCtx c x).reqs = s.reqs := rfl
@[simp] theorem State.setCtx_queues (s : State) (c : Nat) (x : Ctx) : (s.setCtx c x).queues = s.queues := rfl
@[simp] theorem State.setCtx_parked (s : State) (c : Nat) (x : Ctx) : (s.setCtx c x).parked = s.parked := rfl
@[simp] theorem State.setCtx_waves (s : State) (c : Nat) (x : Ctx) : (s.setCtx c x).waves = s.waves := rfl
@[simp] theorem State.setCtx_iterLinks (s : State) (c : Nat) (x : Ctx) : (s.setCtx c x).iterLinks = s.iterLinks := rfl
@[simp] theorem State.setCtx_stale (s : State) (c : Nat) (x : Ctx) : (s.setCtx c x).stale = s.stale := rfl
@[simp] theorem State.setCtx_badLines (s : State) (c : Nat) (x : Ctx) : (s.setCtx c x).badLines = s.badLines := rfl
@[simp] theorem State.setCtx_late (s : State) (c : Nat) (x : Ctx) : (s.setCtx c x).late = s.late := rfl
@[simp] theorem State.setCtx_pend (s : State) (c : Nat) (x : Ctx) : (s.setCtx c x).pend = s.pend := rfl
@[simp] theorem State.setCtx_notices (s : State) (c : Nat) (x : Ctx) : (s.setCtx c x).notices = s.notices := rfl
@[simp] theorem State.setCtx_barriers (s : State) (c : Nat) (x : Ctx) : (s.setCtx c x).barriers = s.barriers := rfl
@[simp] theorem State.setCtx_arrivals (s : State) (c : Nat) (x : Ctx) : (s.setCtx c x).arrivals = s.arrivals := rfl
@[simp] theorem State.setCtx_gtab (s : State) (c : Nat) (x : Ctx) : (s.setCtx c x).gtab = s.gtab := rfl
@[simp] theorem State.setCtx_qtab (s : State) (c : Nat) (x : Ctx) : (s.setCtx c x).qtab = s.qtab := rfl
@[simp] theorem State.setCtx_qinfo (s : State) (c : Nat) (x : Ctx) : (s.setCtx c x).qinfo = s.qinfo := rfl
@[simp] theorem State.setCtx_signals (s : State) (c : Nat) (x : Ctx) : (s.setCtx c x).signals = s.signals := rfl
@[simp] theorem State.setCtx_lastQueue (s : State) (c : Nat) (x : Ctx) : (s.setCtx c x).lastQueue = s.lastQueue := rfl
@[simp] theorem State.setCtx_links (s : State) (c : Nat) (x : Ctx) : (s.setCtx c x).links = s.links := rfl
@[simp] theorem State.setCtx_lanes (s : State) (c : Nat) (x : Ctx) : (s.setCtx c x).lanes = s.lanes := rfl
@[simp] theorem State.setCtx_adders (s : State) (c : Nat) (x : Ctx) : (s.setCtx c x).adders = s.adders := rfl
@[simp] theorem State.setCtx_beats (s : State) (c : Nat) (x : Ctx) : (s.setCtx c x).beats = s.beats := rfl
@[simp] theorem State.setCtx_apertures (s : State) (c : Nat) (x : Ctx) : (s.setCtx c x).apertures = s.apertures := rfl
@[simp] theorem State.setCtx_mgmt (s : State) (c : Nat) (x : Ctx) : (s.setCtx c x).mgmt = s.mgmt := rfl
@[simp] theorem State.setCtx_seq (s : State) (c : Nat) (x : Ctx) : (s.setCtx c x).seq = s.seq := rfl
@[simp] theorem State.setCtx_tick (s : State) (c : Nat) (x : Ctx) : (s.setCtx c x).tick = s.tick := rfl
@[simp] theorem State.setCtx_turn (s : State) (c : Nat) (x : Ctx) : (s.setCtx c x).turn = s.turn := rfl
@[simp] theorem State.setCtx_unit (s : State) (c : Nat) (x : Ctx) : (s.setCtx c x).unit = s.unit := rfl

@[simp] theorem State.modCtx_mem (s : State) (c : Nat) (f : Ctx → Ctx) : (s.modCtx c f).mem = s.mem := rfl
@[simp] theorem State.modCtx_tiles (s : State) (c : Nat) (f : Ctx → Ctx) : (s.modCtx c f).tiles = s.tiles := rfl
@[simp] theorem State.modCtx_cores (s : State) (c : Nat) (f : Ctx → Ctx) : (s.modCtx c f).cores = s.cores := rfl
@[simp] theorem State.modCtx_ctxs (s : State) (c : Nat) (f : Ctx → Ctx) : (s.modCtx c f).ctxs = mapSet {} s.ctxs c (f (s.ctx c)) := rfl
@[simp] theorem State.modCtx_groups (s : State) (c : Nat) (f : Ctx → Ctx) : (s.modCtx c f).groups = s.groups := rfl
@[simp] theorem State.modCtx_net (s : State) (c : Nat) (f : Ctx → Ctx) : (s.modCtx c f).net = s.net := rfl
@[simp] theorem State.modCtx_reqs (s : State) (c : Nat) (f : Ctx → Ctx) : (s.modCtx c f).reqs = s.reqs := rfl
@[simp] theorem State.modCtx_queues (s : State) (c : Nat) (f : Ctx → Ctx) : (s.modCtx c f).queues = s.queues := rfl
@[simp] theorem State.modCtx_parked (s : State) (c : Nat) (f : Ctx → Ctx) : (s.modCtx c f).parked = s.parked := rfl
@[simp] theorem State.modCtx_waves (s : State) (c : Nat) (f : Ctx → Ctx) : (s.modCtx c f).waves = s.waves := rfl
@[simp] theorem State.modCtx_iterLinks (s : State) (c : Nat) (f : Ctx → Ctx) : (s.modCtx c f).iterLinks = s.iterLinks := rfl
@[simp] theorem State.modCtx_stale (s : State) (c : Nat) (f : Ctx → Ctx) : (s.modCtx c f).stale = s.stale := rfl
@[simp] theorem State.modCtx_badLines (s : State) (c : Nat) (f : Ctx → Ctx) : (s.modCtx c f).badLines = s.badLines := rfl
@[simp] theorem State.modCtx_late (s : State) (c : Nat) (f : Ctx → Ctx) : (s.modCtx c f).late = s.late := rfl
@[simp] theorem State.modCtx_pend (s : State) (c : Nat) (f : Ctx → Ctx) : (s.modCtx c f).pend = s.pend := rfl
@[simp] theorem State.modCtx_notices (s : State) (c : Nat) (f : Ctx → Ctx) : (s.modCtx c f).notices = s.notices := rfl
@[simp] theorem State.modCtx_barriers (s : State) (c : Nat) (f : Ctx → Ctx) : (s.modCtx c f).barriers = s.barriers := rfl
@[simp] theorem State.modCtx_arrivals (s : State) (c : Nat) (f : Ctx → Ctx) : (s.modCtx c f).arrivals = s.arrivals := rfl
@[simp] theorem State.modCtx_gtab (s : State) (c : Nat) (f : Ctx → Ctx) : (s.modCtx c f).gtab = s.gtab := rfl
@[simp] theorem State.modCtx_qtab (s : State) (c : Nat) (f : Ctx → Ctx) : (s.modCtx c f).qtab = s.qtab := rfl
@[simp] theorem State.modCtx_qinfo (s : State) (c : Nat) (f : Ctx → Ctx) : (s.modCtx c f).qinfo = s.qinfo := rfl
@[simp] theorem State.modCtx_signals (s : State) (c : Nat) (f : Ctx → Ctx) : (s.modCtx c f).signals = s.signals := rfl
@[simp] theorem State.modCtx_lastQueue (s : State) (c : Nat) (f : Ctx → Ctx) : (s.modCtx c f).lastQueue = s.lastQueue := rfl
@[simp] theorem State.modCtx_links (s : State) (c : Nat) (f : Ctx → Ctx) : (s.modCtx c f).links = s.links := rfl
@[simp] theorem State.modCtx_lanes (s : State) (c : Nat) (f : Ctx → Ctx) : (s.modCtx c f).lanes = s.lanes := rfl
@[simp] theorem State.modCtx_adders (s : State) (c : Nat) (f : Ctx → Ctx) : (s.modCtx c f).adders = s.adders := rfl
@[simp] theorem State.modCtx_beats (s : State) (c : Nat) (f : Ctx → Ctx) : (s.modCtx c f).beats = s.beats := rfl
@[simp] theorem State.modCtx_apertures (s : State) (c : Nat) (f : Ctx → Ctx) : (s.modCtx c f).apertures = s.apertures := rfl
@[simp] theorem State.modCtx_mgmt (s : State) (c : Nat) (f : Ctx → Ctx) : (s.modCtx c f).mgmt = s.mgmt := rfl
@[simp] theorem State.modCtx_seq (s : State) (c : Nat) (f : Ctx → Ctx) : (s.modCtx c f).seq = s.seq := rfl
@[simp] theorem State.modCtx_tick (s : State) (c : Nat) (f : Ctx → Ctx) : (s.modCtx c f).tick = s.tick := rfl
@[simp] theorem State.modCtx_turn (s : State) (c : Nat) (f : Ctx → Ctx) : (s.modCtx c f).turn = s.turn := rfl
@[simp] theorem State.modCtx_unit (s : State) (c : Nat) (f : Ctx → Ctx) : (s.modCtx c f).unit = s.unit := rfl

@[simp] theorem State.modGroup_mem (s : State) (g : Nat) (f : Group → Group) : (s.modGroup g f).mem = s.mem := rfl
@[simp] theorem State.modGroup_tiles (s : State) (g : Nat) (f : Group → Group) : (s.modGroup g f).tiles = s.tiles := rfl
@[simp] theorem State.modGroup_cores (s : State) (g : Nat) (f : Group → Group) : (s.modGroup g f).cores = s.cores := rfl
@[simp] theorem State.modGroup_ctxs (s : State) (g : Nat) (f : Group → Group) : (s.modGroup g f).ctxs = s.ctxs := rfl
@[simp] theorem State.modGroup_groups (s : State) (g : Nat) (f : Group → Group) : (s.modGroup g f).groups = mapSet {} s.groups g (f (s.group g)) := rfl
@[simp] theorem State.modGroup_net (s : State) (g : Nat) (f : Group → Group) : (s.modGroup g f).net = s.net := rfl
@[simp] theorem State.modGroup_reqs (s : State) (g : Nat) (f : Group → Group) : (s.modGroup g f).reqs = s.reqs := rfl
@[simp] theorem State.modGroup_queues (s : State) (g : Nat) (f : Group → Group) : (s.modGroup g f).queues = s.queues := rfl
@[simp] theorem State.modGroup_parked (s : State) (g : Nat) (f : Group → Group) : (s.modGroup g f).parked = s.parked := rfl
@[simp] theorem State.modGroup_waves (s : State) (g : Nat) (f : Group → Group) : (s.modGroup g f).waves = s.waves := rfl
@[simp] theorem State.modGroup_iterLinks (s : State) (g : Nat) (f : Group → Group) : (s.modGroup g f).iterLinks = s.iterLinks := rfl
@[simp] theorem State.modGroup_stale (s : State) (g : Nat) (f : Group → Group) : (s.modGroup g f).stale = s.stale := rfl
@[simp] theorem State.modGroup_badLines (s : State) (g : Nat) (f : Group → Group) : (s.modGroup g f).badLines = s.badLines := rfl
@[simp] theorem State.modGroup_late (s : State) (g : Nat) (f : Group → Group) : (s.modGroup g f).late = s.late := rfl
@[simp] theorem State.modGroup_pend (s : State) (g : Nat) (f : Group → Group) : (s.modGroup g f).pend = s.pend := rfl
@[simp] theorem State.modGroup_notices (s : State) (g : Nat) (f : Group → Group) : (s.modGroup g f).notices = s.notices := rfl
@[simp] theorem State.modGroup_barriers (s : State) (g : Nat) (f : Group → Group) : (s.modGroup g f).barriers = s.barriers := rfl
@[simp] theorem State.modGroup_arrivals (s : State) (g : Nat) (f : Group → Group) : (s.modGroup g f).arrivals = s.arrivals := rfl
@[simp] theorem State.modGroup_gtab (s : State) (g : Nat) (f : Group → Group) : (s.modGroup g f).gtab = s.gtab := rfl
@[simp] theorem State.modGroup_qtab (s : State) (g : Nat) (f : Group → Group) : (s.modGroup g f).qtab = s.qtab := rfl
@[simp] theorem State.modGroup_qinfo (s : State) (g : Nat) (f : Group → Group) : (s.modGroup g f).qinfo = s.qinfo := rfl
@[simp] theorem State.modGroup_signals (s : State) (g : Nat) (f : Group → Group) : (s.modGroup g f).signals = s.signals := rfl
@[simp] theorem State.modGroup_lastQueue (s : State) (g : Nat) (f : Group → Group) : (s.modGroup g f).lastQueue = s.lastQueue := rfl
@[simp] theorem State.modGroup_links (s : State) (g : Nat) (f : Group → Group) : (s.modGroup g f).links = s.links := rfl
@[simp] theorem State.modGroup_lanes (s : State) (g : Nat) (f : Group → Group) : (s.modGroup g f).lanes = s.lanes := rfl
@[simp] theorem State.modGroup_adders (s : State) (g : Nat) (f : Group → Group) : (s.modGroup g f).adders = s.adders := rfl
@[simp] theorem State.modGroup_beats (s : State) (g : Nat) (f : Group → Group) : (s.modGroup g f).beats = s.beats := rfl
@[simp] theorem State.modGroup_apertures (s : State) (g : Nat) (f : Group → Group) : (s.modGroup g f).apertures = s.apertures := rfl
@[simp] theorem State.modGroup_mgmt (s : State) (g : Nat) (f : Group → Group) : (s.modGroup g f).mgmt = s.mgmt := rfl
@[simp] theorem State.modGroup_seq (s : State) (g : Nat) (f : Group → Group) : (s.modGroup g f).seq = s.seq := rfl
@[simp] theorem State.modGroup_tick (s : State) (g : Nat) (f : Group → Group) : (s.modGroup g f).tick = s.tick := rfl
@[simp] theorem State.modGroup_turn (s : State) (g : Nat) (f : Group → Group) : (s.modGroup g f).turn = s.turn := rfl
@[simp] theorem State.modGroup_unit (s : State) (g : Nat) (f : Group → Group) : (s.modGroup g f).unit = s.unit := rfl

@[simp] theorem State.setQueue_mem (s : State) (e : Engine) (q : List Req) : (s.setQueue e q).mem = s.mem := rfl
@[simp] theorem State.setQueue_tiles (s : State) (e : Engine) (q : List Req) : (s.setQueue e q).tiles = s.tiles := rfl
@[simp] theorem State.setQueue_cores (s : State) (e : Engine) (q : List Req) : (s.setQueue e q).cores = s.cores := rfl
@[simp] theorem State.setQueue_ctxs (s : State) (e : Engine) (q : List Req) : (s.setQueue e q).ctxs = s.ctxs := rfl
@[simp] theorem State.setQueue_groups (s : State) (e : Engine) (q : List Req) : (s.setQueue e q).groups = s.groups := rfl
@[simp] theorem State.setQueue_net (s : State) (e : Engine) (q : List Req) : (s.setQueue e q).net = s.net := rfl
@[simp] theorem State.setQueue_reqs (s : State) (e : Engine) (q : List Req) : (s.setQueue e q).reqs = s.reqs := rfl
@[simp] theorem State.setQueue_queues (s : State) (e : Engine) (q : List Req) : (s.setQueue e q).queues = mapSet [] s.queues (engineKey e) q := rfl
@[simp] theorem State.setQueue_parked (s : State) (e : Engine) (q : List Req) : (s.setQueue e q).parked = s.parked := rfl
@[simp] theorem State.setQueue_waves (s : State) (e : Engine) (q : List Req) : (s.setQueue e q).waves = s.waves := rfl
@[simp] theorem State.setQueue_iterLinks (s : State) (e : Engine) (q : List Req) : (s.setQueue e q).iterLinks = s.iterLinks := rfl
@[simp] theorem State.setQueue_stale (s : State) (e : Engine) (q : List Req) : (s.setQueue e q).stale = s.stale := rfl
@[simp] theorem State.setQueue_badLines (s : State) (e : Engine) (q : List Req) : (s.setQueue e q).badLines = s.badLines := rfl
@[simp] theorem State.setQueue_late (s : State) (e : Engine) (q : List Req) : (s.setQueue e q).late = s.late := rfl
@[simp] theorem State.setQueue_pend (s : State) (e : Engine) (q : List Req) : (s.setQueue e q).pend = s.pend := rfl
@[simp] theorem State.setQueue_notices (s : State) (e : Engine) (q : List Req) : (s.setQueue e q).notices = s.notices := rfl
@[simp] theorem State.setQueue_barriers (s : State) (e : Engine) (q : List Req) : (s.setQueue e q).barriers = s.barriers := rfl
@[simp] theorem State.setQueue_arrivals (s : State) (e : Engine) (q : List Req) : (s.setQueue e q).arrivals = s.arrivals := rfl
@[simp] theorem State.setQueue_gtab (s : State) (e : Engine) (q : List Req) : (s.setQueue e q).gtab = s.gtab := rfl
@[simp] theorem State.setQueue_qtab (s : State) (e : Engine) (q : List Req) : (s.setQueue e q).qtab = s.qtab := rfl
@[simp] theorem State.setQueue_qinfo (s : State) (e : Engine) (q : List Req) : (s.setQueue e q).qinfo = s.qinfo := rfl
@[simp] theorem State.setQueue_signals (s : State) (e : Engine) (q : List Req) : (s.setQueue e q).signals = s.signals := rfl
@[simp] theorem State.setQueue_lastQueue (s : State) (e : Engine) (q : List Req) : (s.setQueue e q).lastQueue = s.lastQueue := rfl
@[simp] theorem State.setQueue_links (s : State) (e : Engine) (q : List Req) : (s.setQueue e q).links = s.links := rfl
@[simp] theorem State.setQueue_lanes (s : State) (e : Engine) (q : List Req) : (s.setQueue e q).lanes = s.lanes := rfl
@[simp] theorem State.setQueue_adders (s : State) (e : Engine) (q : List Req) : (s.setQueue e q).adders = s.adders := rfl
@[simp] theorem State.setQueue_beats (s : State) (e : Engine) (q : List Req) : (s.setQueue e q).beats = s.beats := rfl
@[simp] theorem State.setQueue_apertures (s : State) (e : Engine) (q : List Req) : (s.setQueue e q).apertures = s.apertures := rfl
@[simp] theorem State.setQueue_mgmt (s : State) (e : Engine) (q : List Req) : (s.setQueue e q).mgmt = s.mgmt := rfl
@[simp] theorem State.setQueue_seq (s : State) (e : Engine) (q : List Req) : (s.setQueue e q).seq = s.seq := rfl
@[simp] theorem State.setQueue_tick (s : State) (e : Engine) (q : List Req) : (s.setQueue e q).tick = s.tick := rfl
@[simp] theorem State.setQueue_turn (s : State) (e : Engine) (q : List Req) : (s.setQueue e q).turn = s.turn := rfl
@[simp] theorem State.setQueue_unit (s : State) (e : Engine) (q : List Req) : (s.setQueue e q).unit = s.unit := rfl

@[simp] theorem State.send_mem (s : State) (src : Source) (dst : Dest) (net : Net) (tok : Token) : (s.send src dst net tok).mem = s.mem := rfl
@[simp] theorem State.send_tiles (s : State) (src : Source) (dst : Dest) (net : Net) (tok : Token) : (s.send src dst net tok).tiles = s.tiles := rfl
@[simp] theorem State.send_cores (s : State) (src : Source) (dst : Dest) (net : Net) (tok : Token) : (s.send src dst net tok).cores = s.cores := rfl
@[simp] theorem State.send_ctxs (s : State) (src : Source) (dst : Dest) (net : Net) (tok : Token) : (s.send src dst net tok).ctxs = s.ctxs := rfl
@[simp] theorem State.send_groups (s : State) (src : Source) (dst : Dest) (net : Net) (tok : Token) : (s.send src dst net tok).groups = s.groups := rfl
@[simp] theorem State.send_net (s : State) (src : Source) (dst : Dest) (net : Net) (tok : Token) : (s.send src dst net tok).net = s.net ++ [{ src, dst, net, tok, step := s.tick }] := rfl
@[simp] theorem State.send_reqs (s : State) (src : Source) (dst : Dest) (net : Net) (tok : Token) : (s.send src dst net tok).reqs = s.reqs := rfl
@[simp] theorem State.send_queues (s : State) (src : Source) (dst : Dest) (net : Net) (tok : Token) : (s.send src dst net tok).queues = s.queues := rfl
@[simp] theorem State.send_parked (s : State) (src : Source) (dst : Dest) (net : Net) (tok : Token) : (s.send src dst net tok).parked = s.parked := rfl
@[simp] theorem State.send_waves (s : State) (src : Source) (dst : Dest) (net : Net) (tok : Token) : (s.send src dst net tok).waves = s.waves := rfl
@[simp] theorem State.send_iterLinks (s : State) (src : Source) (dst : Dest) (net : Net) (tok : Token) : (s.send src dst net tok).iterLinks = s.iterLinks := rfl
@[simp] theorem State.send_stale (s : State) (src : Source) (dst : Dest) (net : Net) (tok : Token) : (s.send src dst net tok).stale = (s.learn src.who (arrivalKey s.tick)).stale := rfl
@[simp] theorem State.send_badLines (s : State) (src : Source) (dst : Dest) (net : Net) (tok : Token) : (s.send src dst net tok).badLines = s.badLines := rfl
@[simp] theorem State.send_late (s : State) (src : Source) (dst : Dest) (net : Net) (tok : Token) : (s.send src dst net tok).late = s.late := rfl
@[simp] theorem State.send_pend (s : State) (src : Source) (dst : Dest) (net : Net) (tok : Token) : (s.send src dst net tok).pend = s.pend := rfl
@[simp] theorem State.send_notices (s : State) (src : Source) (dst : Dest) (net : Net) (tok : Token) : (s.send src dst net tok).notices = s.notices := rfl
@[simp] theorem State.send_barriers (s : State) (src : Source) (dst : Dest) (net : Net) (tok : Token) : (s.send src dst net tok).barriers = s.barriers := rfl
@[simp] theorem State.send_arrivals (s : State) (src : Source) (dst : Dest) (net : Net) (tok : Token) : (s.send src dst net tok).arrivals = s.arrivals := rfl
@[simp] theorem State.send_gtab (s : State) (src : Source) (dst : Dest) (net : Net) (tok : Token) : (s.send src dst net tok).gtab = s.gtab := rfl
@[simp] theorem State.send_qtab (s : State) (src : Source) (dst : Dest) (net : Net) (tok : Token) : (s.send src dst net tok).qtab = s.qtab := rfl
@[simp] theorem State.send_qinfo (s : State) (src : Source) (dst : Dest) (net : Net) (tok : Token) : (s.send src dst net tok).qinfo = s.qinfo := rfl
@[simp] theorem State.send_signals (s : State) (src : Source) (dst : Dest) (net : Net) (tok : Token) : (s.send src dst net tok).signals = s.signals := rfl
@[simp] theorem State.send_lastQueue (s : State) (src : Source) (dst : Dest) (net : Net) (tok : Token) : (s.send src dst net tok).lastQueue = s.lastQueue := rfl
@[simp] theorem State.send_links (s : State) (src : Source) (dst : Dest) (net : Net) (tok : Token) : (s.send src dst net tok).links = s.links := rfl
@[simp] theorem State.send_lanes (s : State) (src : Source) (dst : Dest) (net : Net) (tok : Token) : (s.send src dst net tok).lanes = s.lanes := rfl
@[simp] theorem State.send_adders (s : State) (src : Source) (dst : Dest) (net : Net) (tok : Token) : (s.send src dst net tok).adders = s.adders := rfl
@[simp] theorem State.send_beats (s : State) (src : Source) (dst : Dest) (net : Net) (tok : Token) : (s.send src dst net tok).beats = s.beats := rfl
@[simp] theorem State.send_apertures (s : State) (src : Source) (dst : Dest) (net : Net) (tok : Token) : (s.send src dst net tok).apertures = s.apertures := rfl
@[simp] theorem State.send_mgmt (s : State) (src : Source) (dst : Dest) (net : Net) (tok : Token) : (s.send src dst net tok).mgmt = s.mgmt := rfl
@[simp] theorem State.send_seq (s : State) (src : Source) (dst : Dest) (net : Net) (tok : Token) : (s.send src dst net tok).seq = s.seq := rfl
@[simp] theorem State.send_tick (s : State) (src : Source) (dst : Dest) (net : Net) (tok : Token) : (s.send src dst net tok).tick = s.tick := rfl
@[simp] theorem State.send_turn (s : State) (src : Source) (dst : Dest) (net : Net) (tok : Token) : (s.send src dst net tok).turn = s.turn := rfl
@[simp] theorem State.send_unit (s : State) (src : Source) (dst : Dest) (net : Net) (tok : Token) : (s.send src dst net tok).unit = s.unit := rfl

@[simp] theorem State.record_mem (s : State) (r : FaultRec) (el : Option (Nat × Nat)) : (s.record r el).mem = s.mem := rfl
@[simp] theorem State.record_tiles (s : State) (r : FaultRec) (el : Option (Nat × Nat)) : (s.record r el).tiles = s.tiles := rfl
@[simp] theorem State.record_cores (s : State) (r : FaultRec) (el : Option (Nat × Nat)) : (s.record r el).cores = s.cores := rfl
@[simp] theorem State.record_ctxs (s : State) (r : FaultRec) (el : Option (Nat × Nat)) : (s.record r el).ctxs = s.ctxs := rfl
@[simp] theorem State.record_groups (s : State) (r : FaultRec) (el : Option (Nat × Nat)) : (s.record r el).groups = s.groups := rfl
@[simp] theorem State.record_net (s : State) (r : FaultRec) (el : Option (Nat × Nat)) : (s.record r el).net = s.net := rfl
@[simp] theorem State.record_reqs (s : State) (r : FaultRec) (el : Option (Nat × Nat)) : (s.record r el).reqs = s.reqs := rfl
@[simp] theorem State.record_queues (s : State) (r : FaultRec) (el : Option (Nat × Nat)) : (s.record r el).queues = s.queues := rfl
@[simp] theorem State.record_parked (s : State) (r : FaultRec) (el : Option (Nat × Nat)) : (s.record r el).parked = s.parked := rfl
@[simp] theorem State.record_waves (s : State) (r : FaultRec) (el : Option (Nat × Nat)) : (s.record r el).waves = s.waves := rfl
@[simp] theorem State.record_iterLinks (s : State) (r : FaultRec) (el : Option (Nat × Nat)) : (s.record r el).iterLinks = s.iterLinks := rfl
@[simp] theorem State.record_stale (s : State) (r : FaultRec) (el : Option (Nat × Nat)) : (s.record r el).stale = s.stale := rfl
@[simp] theorem State.record_badLines (s : State) (r : FaultRec) (el : Option (Nat × Nat)) : (s.record r el).badLines = s.badLines := rfl
@[simp] theorem State.record_late (s : State) (r : FaultRec) (el : Option (Nat × Nat)) : (s.record r el).late = s.late := rfl
@[simp] theorem State.record_pend (s : State) (r : FaultRec) (el : Option (Nat × Nat)) : (s.record r el).pend = s.pend ++ [{ rcd := r, elem := el }] := rfl
@[simp] theorem State.record_notices (s : State) (r : FaultRec) (el : Option (Nat × Nat)) : (s.record r el).notices = s.notices := rfl
@[simp] theorem State.record_barriers (s : State) (r : FaultRec) (el : Option (Nat × Nat)) : (s.record r el).barriers = s.barriers := rfl
@[simp] theorem State.record_arrivals (s : State) (r : FaultRec) (el : Option (Nat × Nat)) : (s.record r el).arrivals = s.arrivals := rfl
@[simp] theorem State.record_gtab (s : State) (r : FaultRec) (el : Option (Nat × Nat)) : (s.record r el).gtab = s.gtab := rfl
@[simp] theorem State.record_qtab (s : State) (r : FaultRec) (el : Option (Nat × Nat)) : (s.record r el).qtab = s.qtab := rfl
@[simp] theorem State.record_qinfo (s : State) (r : FaultRec) (el : Option (Nat × Nat)) : (s.record r el).qinfo = s.qinfo := rfl
@[simp] theorem State.record_signals (s : State) (r : FaultRec) (el : Option (Nat × Nat)) : (s.record r el).signals = s.signals := rfl
@[simp] theorem State.record_lastQueue (s : State) (r : FaultRec) (el : Option (Nat × Nat)) : (s.record r el).lastQueue = s.lastQueue := rfl
@[simp] theorem State.record_links (s : State) (r : FaultRec) (el : Option (Nat × Nat)) : (s.record r el).links = s.links := rfl
@[simp] theorem State.record_lanes (s : State) (r : FaultRec) (el : Option (Nat × Nat)) : (s.record r el).lanes = s.lanes := rfl
@[simp] theorem State.record_adders (s : State) (r : FaultRec) (el : Option (Nat × Nat)) : (s.record r el).adders = s.adders := rfl
@[simp] theorem State.record_beats (s : State) (r : FaultRec) (el : Option (Nat × Nat)) : (s.record r el).beats = s.beats := rfl
@[simp] theorem State.record_apertures (s : State) (r : FaultRec) (el : Option (Nat × Nat)) : (s.record r el).apertures = s.apertures := rfl
@[simp] theorem State.record_mgmt (s : State) (r : FaultRec) (el : Option (Nat × Nat)) : (s.record r el).mgmt = s.mgmt := rfl
@[simp] theorem State.record_seq (s : State) (r : FaultRec) (el : Option (Nat × Nat)) : (s.record r el).seq = s.seq := rfl
@[simp] theorem State.record_tick (s : State) (r : FaultRec) (el : Option (Nat × Nat)) : (s.record r el).tick = s.tick := rfl
@[simp] theorem State.record_turn (s : State) (r : FaultRec) (el : Option (Nat × Nat)) : (s.record r el).turn = s.turn := rfl
@[simp] theorem State.record_unit (s : State) (r : FaultRec) (el : Option (Nat × Nat)) : (s.record r el).unit = s.unit := rfl

@[simp] theorem State.notify_mem (s : State) (g : Nat) (round : BitVec 8) : (s.notify g round).mem = s.mem := rfl
@[simp] theorem State.notify_tiles (s : State) (g : Nat) (round : BitVec 8) : (s.notify g round).tiles = s.tiles := rfl
@[simp] theorem State.notify_cores (s : State) (g : Nat) (round : BitVec 8) : (s.notify g round).cores = s.cores := rfl
@[simp] theorem State.notify_ctxs (s : State) (g : Nat) (round : BitVec 8) : (s.notify g round).ctxs = s.ctxs := rfl
@[simp] theorem State.notify_groups (s : State) (g : Nat) (round : BitVec 8) : (s.notify g round).groups = s.groups := rfl
@[simp] theorem State.notify_net (s : State) (g : Nat) (round : BitVec 8) : (s.notify g round).net = s.net := rfl
@[simp] theorem State.notify_reqs (s : State) (g : Nat) (round : BitVec 8) : (s.notify g round).reqs = s.reqs := rfl
@[simp] theorem State.notify_queues (s : State) (g : Nat) (round : BitVec 8) : (s.notify g round).queues = s.queues := rfl
@[simp] theorem State.notify_parked (s : State) (g : Nat) (round : BitVec 8) : (s.notify g round).parked = s.parked := rfl
@[simp] theorem State.notify_waves (s : State) (g : Nat) (round : BitVec 8) : (s.notify g round).waves = s.waves := rfl
@[simp] theorem State.notify_iterLinks (s : State) (g : Nat) (round : BitVec 8) : (s.notify g round).iterLinks = s.iterLinks := rfl
@[simp] theorem State.notify_stale (s : State) (g : Nat) (round : BitVec 8) : (s.notify g round).stale = s.stale := rfl
@[simp] theorem State.notify_badLines (s : State) (g : Nat) (round : BitVec 8) : (s.notify g round).badLines = s.badLines := rfl
@[simp] theorem State.notify_late (s : State) (g : Nat) (round : BitVec 8) : (s.notify g round).late = s.late := rfl
@[simp] theorem State.notify_pend (s : State) (g : Nat) (round : BitVec 8) : (s.notify g round).pend = s.pend := rfl
@[simp] theorem State.notify_notices (s : State) (g : Nat) (round : BitVec 8) : (s.notify g round).notices = s.notices ++ [{ group := g, round := round }] := rfl
@[simp] theorem State.notify_barriers (s : State) (g : Nat) (round : BitVec 8) : (s.notify g round).barriers = s.barriers := rfl
@[simp] theorem State.notify_arrivals (s : State) (g : Nat) (round : BitVec 8) : (s.notify g round).arrivals = s.arrivals := rfl
@[simp] theorem State.notify_gtab (s : State) (g : Nat) (round : BitVec 8) : (s.notify g round).gtab = s.gtab := rfl
@[simp] theorem State.notify_qtab (s : State) (g : Nat) (round : BitVec 8) : (s.notify g round).qtab = s.qtab := rfl
@[simp] theorem State.notify_qinfo (s : State) (g : Nat) (round : BitVec 8) : (s.notify g round).qinfo = s.qinfo := rfl
@[simp] theorem State.notify_signals (s : State) (g : Nat) (round : BitVec 8) : (s.notify g round).signals = s.signals := rfl
@[simp] theorem State.notify_lastQueue (s : State) (g : Nat) (round : BitVec 8) : (s.notify g round).lastQueue = s.lastQueue := rfl
@[simp] theorem State.notify_links (s : State) (g : Nat) (round : BitVec 8) : (s.notify g round).links = s.links := rfl
@[simp] theorem State.notify_lanes (s : State) (g : Nat) (round : BitVec 8) : (s.notify g round).lanes = s.lanes := rfl
@[simp] theorem State.notify_adders (s : State) (g : Nat) (round : BitVec 8) : (s.notify g round).adders = s.adders := rfl
@[simp] theorem State.notify_beats (s : State) (g : Nat) (round : BitVec 8) : (s.notify g round).beats = s.beats := rfl
@[simp] theorem State.notify_apertures (s : State) (g : Nat) (round : BitVec 8) : (s.notify g round).apertures = s.apertures := rfl
@[simp] theorem State.notify_mgmt (s : State) (g : Nat) (round : BitVec 8) : (s.notify g round).mgmt = s.mgmt := rfl
@[simp] theorem State.notify_seq (s : State) (g : Nat) (round : BitVec 8) : (s.notify g round).seq = s.seq := rfl
@[simp] theorem State.notify_tick (s : State) (g : Nat) (round : BitVec 8) : (s.notify g round).tick = s.tick := rfl
@[simp] theorem State.notify_turn (s : State) (g : Nat) (round : BitVec 8) : (s.notify g round).turn = s.turn := rfl
@[simp] theorem State.notify_unit (s : State) (g : Nat) (round : BitVec 8) : (s.notify g round).unit = s.unit := rfl

@[simp] theorem State.advance_mem (s : State) : (s.advance).mem = s.mem := rfl
@[simp] theorem State.advance_tiles (s : State) : (s.advance).tiles = s.tiles := rfl
@[simp] theorem State.advance_cores (s : State) : (s.advance).cores = s.cores := rfl
@[simp] theorem State.advance_ctxs (s : State) : (s.advance).ctxs = s.ctxs := rfl
@[simp] theorem State.advance_groups (s : State) : (s.advance).groups = s.groups := rfl
@[simp] theorem State.advance_net (s : State) : (s.advance).net = s.net := rfl
@[simp] theorem State.advance_reqs (s : State) : (s.advance).reqs = s.reqs := rfl
@[simp] theorem State.advance_queues (s : State) : (s.advance).queues = s.queues := rfl
@[simp] theorem State.advance_parked (s : State) : (s.advance).parked = s.parked := rfl
@[simp] theorem State.advance_waves (s : State) : (s.advance).waves = s.waves := rfl
@[simp] theorem State.advance_iterLinks (s : State) : (s.advance).iterLinks = s.iterLinks := rfl
@[simp] theorem State.advance_stale (s : State) : (s.advance).stale = s.stale := rfl
@[simp] theorem State.advance_badLines (s : State) : (s.advance).badLines = s.badLines := rfl
@[simp] theorem State.advance_late (s : State) : (s.advance).late = s.late := rfl
@[simp] theorem State.advance_pend (s : State) : (s.advance).pend = s.pend := rfl
@[simp] theorem State.advance_notices (s : State) : (s.advance).notices = s.notices := rfl
@[simp] theorem State.advance_barriers (s : State) : (s.advance).barriers = s.barriers := rfl
@[simp] theorem State.advance_arrivals (s : State) : (s.advance).arrivals = s.arrivals := rfl
@[simp] theorem State.advance_gtab (s : State) : (s.advance).gtab = s.gtab := rfl
@[simp] theorem State.advance_qtab (s : State) : (s.advance).qtab = s.qtab := rfl
@[simp] theorem State.advance_qinfo (s : State) : (s.advance).qinfo = s.qinfo := rfl
@[simp] theorem State.advance_signals (s : State) : (s.advance).signals = s.signals := rfl
@[simp] theorem State.advance_lastQueue (s : State) : (s.advance).lastQueue = s.lastQueue := rfl
@[simp] theorem State.advance_links (s : State) : (s.advance).links = s.links := rfl
@[simp] theorem State.advance_lanes (s : State) : (s.advance).lanes = s.lanes := rfl
@[simp] theorem State.advance_adders (s : State) : (s.advance).adders = s.adders := rfl
@[simp] theorem State.advance_beats (s : State) : (s.advance).beats = s.beats := rfl
@[simp] theorem State.advance_apertures (s : State) : (s.advance).apertures = s.apertures := rfl
@[simp] theorem State.advance_mgmt (s : State) : (s.advance).mgmt = s.mgmt := rfl
@[simp] theorem State.advance_seq (s : State) : (s.advance).seq = s.seq := rfl
@[simp] theorem State.advance_tick (s : State) : (s.advance).tick = s.tick + 1 := rfl
@[simp] theorem State.advance_turn (s : State) : (s.advance).turn = Config.nextTurn s.tick := rfl
@[simp] theorem State.advance_unit (s : State) : (s.advance).unit = .idle := rfl

/-! ## The fields of a core after an update -/

/-- A write of a register changes the registers only. -/
theorem Core.setReg_eq (c : Core) (n : Nat) (v : W64) :
    c.setReg n v = { c with x := if n % 32 = 0 then c.x else mapSet 0 c.x (n % 32) v } := by
  unfold Core.setReg; split <;> simp_all

@[simp] theorem Core.setReg_pc (c : Core) (n : Nat) (v : W64) : (c.setReg n v).pc = c.pc := by simp [Core.setReg_eq]
@[simp] theorem Core.setReg_dmem (c : Core) (n : Nat) (v : W64) : (c.setReg n v).dmem = c.dmem := by simp [Core.setReg_eq]
@[simp] theorem Core.setReg_code (c : Core) (n : Nat) (v : W64) : (c.setReg n v).code = c.code := by simp [Core.setReg_eq]
@[simp] theorem Core.setReg_status (c : Core) (n : Nat) (v : W64) : (c.setReg n v).status = c.status := by simp [Core.setReg_eq]
@[simp] theorem Core.setReg_flags (c : Core) (n : Nat) (v : W64) : (c.setReg n v).flags = c.flags := by simp [Core.setReg_eq]
@[simp] theorem Core.setReg_epc (c : Core) (n : Nat) (v : W64) : (c.setReg n v).epc = c.epc := by simp [Core.setReg_eq]
@[simp] theorem Core.setReg_ecause (c : Core) (n : Nat) (v : W64) : (c.setReg n v).ecause = c.ecause := by simp [Core.setReg_eq]
@[simp] theorem Core.setReg_evec (c : Core) (n : Nat) (v : W64) : (c.setReg n v).evec = c.evec := by simp [Core.setReg_eq]
@[simp] theorem Core.setReg_erec (c : Core) (n : Nat) (v : W64) : (c.setReg n v).erec = c.erec := by simp [Core.setReg_eq]
@[simp] theorem Core.setReg_cycle (c : Core) (n : Nat) (v : W64) : (c.setReg n v).cycle = c.cycle := by simp [Core.setReg_eq]
@[simp] theorem Core.setReg_ctxid (c : Core) (n : Nat) (v : W64) : (c.setReg n v).ctxid = c.ctxid := by simp [Core.setReg_eq]
@[simp] theorem Core.setReg_exitw (c : Core) (n : Nat) (v : W64) : (c.setReg n v).exitw = c.exitw := by simp [Core.setReg_eq]
@[simp] theorem Core.setReg_bkpc (c : Core) (n : Nat) (v : W64) : (c.setReg n v).bkpc = c.bkpc := by simp [Core.setReg_eq]
@[simp] theorem Core.setReg_bkctl (c : Core) (n : Nat) (v : W64) : (c.setReg n v).bkctl = c.bkctl := by simp [Core.setReg_eq]
@[simp] theorem Core.setReg_mbox (c : Core) (n : Nat) (v : W64) : (c.setReg n v).mbox = c.mbox := by simp [Core.setReg_eq]
@[simp] theorem Core.setReg_cmds (c : Core) (n : Nat) (v : W64) : (c.setReg n v).cmds = c.cmds := by simp [Core.setReg_eq]
@[simp] theorem Core.setReg_group (c : Core) (n : Nat) (v : W64) : (c.setReg n v).group = c.group := by simp [Core.setReg_eq]
@[simp] theorem Core.setReg_running (c : Core) (n : Nat) (v : W64) : (c.setReg n v).running = c.running := by simp [Core.setReg_eq]
@[simp] theorem Core.setReg_active (c : Core) (n : Nat) (v : W64) : (c.setReg n v).active = c.active := by simp [Core.setReg_eq]
@[simp] theorem Core.setReg_wait (c : Core) (n : Nat) (v : W64) : (c.setReg n v).wait = c.wait := by simp [Core.setReg_eq]

@[simp] theorem Core.next_pc (c : Core) : c.next.pc = c.pc + 1 := rfl
@[simp] theorem Core.next_x (c : Core) : c.next.x = c.x := rfl
@[simp] theorem Core.next_dmem (c : Core) : c.next.dmem = c.dmem := rfl
@[simp] theorem Core.next_code (c : Core) : c.next.code = c.code := rfl
@[simp] theorem Core.next_status (c : Core) : c.next.status = c.status := rfl
@[simp] theorem Core.next_flags (c : Core) : c.next.flags = c.flags := rfl
@[simp] theorem Core.next_epc (c : Core) : c.next.epc = c.epc := rfl
@[simp] theorem Core.next_ecause (c : Core) : c.next.ecause = c.ecause := rfl
@[simp] theorem Core.next_evec (c : Core) : c.next.evec = c.evec := rfl
@[simp] theorem Core.next_erec (c : Core) : c.next.erec = c.erec := rfl
@[simp] theorem Core.next_cycle (c : Core) : c.next.cycle = c.cycle := rfl
@[simp] theorem Core.next_ctxid (c : Core) : c.next.ctxid = c.ctxid := rfl
@[simp] theorem Core.next_exitw (c : Core) : c.next.exitw = c.exitw := rfl
@[simp] theorem Core.next_bkpc (c : Core) : c.next.bkpc = c.bkpc := rfl
@[simp] theorem Core.next_bkctl (c : Core) : c.next.bkctl = c.bkctl := rfl
@[simp] theorem Core.next_mbox (c : Core) : c.next.mbox = c.mbox := rfl
@[simp] theorem Core.next_cmds (c : Core) : c.next.cmds = c.cmds := rfl
@[simp] theorem Core.next_group (c : Core) : c.next.group = c.group := rfl
@[simp] theorem Core.next_running (c : Core) : c.next.running = c.running := rfl
@[simp] theorem Core.next_active (c : Core) : c.next.active = c.active := rfl
@[simp] theorem Core.next_wait (c : Core) : c.next.wait = .none := rfl
@[simp] theorem Core.next_marked (c : Core) : c.next.marked = c.marked := rfl
@[simp] theorem Core.next_discard (c : Core) : c.next.discard = c.discard := rfl

@[simp] theorem Core.enter_pc (c : Core) (code : Nat) (pc : BitVec 12) : (c.enter code pc).pc = c.evec.setWidth 12 := rfl
@[simp] theorem Core.enter_x (c : Core) (code : Nat) (pc : BitVec 12) : (c.enter code pc).x = c.x := rfl
@[simp] theorem Core.enter_dmem (c : Core) (code : Nat) (pc : BitVec 12) : (c.enter code pc).dmem = c.dmem := rfl
@[simp] theorem Core.enter_code (c : Core) (code : Nat) (pc : BitVec 12) : (c.enter code pc).code = c.code := rfl
@[simp] theorem Core.enter_status (c : Core) (code : Nat) (pc : BitVec 12) : (c.enter code pc).status = statusOf false c.priv true c.priv := rfl
@[simp] theorem Core.enter_flags (c : Core) (code : Nat) (pc : BitVec 12) : (c.enter code pc).flags = c.flags := rfl
@[simp] theorem Core.enter_epc (c : Core) (code : Nat) (pc : BitVec 12) : (c.enter code pc).epc = pc.setWidth 64 := rfl
@[simp] theorem Core.enter_ecause (c : Core) (code : Nat) (pc : BitVec 12) : (c.enter code pc).ecause = BitVec.ofNat 64 code := rfl
@[simp] theorem Core.enter_evec (c : Core) (code : Nat) (pc : BitVec 12) : (c.enter code pc).evec = c.evec := rfl
@[simp] theorem Core.enter_erec (c : Core) (code : Nat) (pc : BitVec 12) : (c.enter code pc).erec = BitVec.ofNat 64 recAddr := rfl
@[simp] theorem Core.enter_cycle (c : Core) (code : Nat) (pc : BitVec 12) : (c.enter code pc).cycle = c.cycle := rfl
@[simp] theorem Core.enter_ctxid (c : Core) (code : Nat) (pc : BitVec 12) : (c.enter code pc).ctxid = c.ctxid := rfl
@[simp] theorem Core.enter_exitw (c : Core) (code : Nat) (pc : BitVec 12) : (c.enter code pc).exitw = c.exitw := rfl
@[simp] theorem Core.enter_bkpc (c : Core) (code : Nat) (pc : BitVec 12) : (c.enter code pc).bkpc = c.bkpc := rfl
@[simp] theorem Core.enter_bkctl (c : Core) (code : Nat) (pc : BitVec 12) : (c.enter code pc).bkctl = c.bkctl := rfl
@[simp] theorem Core.enter_mbox (c : Core) (code : Nat) (pc : BitVec 12) : (c.enter code pc).mbox = c.mbox := rfl
@[simp] theorem Core.enter_cmds (c : Core) (code : Nat) (pc : BitVec 12) : (c.enter code pc).cmds = c.cmds := rfl
@[simp] theorem Core.enter_group (c : Core) (code : Nat) (pc : BitVec 12) : (c.enter code pc).group = c.group := rfl
@[simp] theorem Core.enter_running (c : Core) (code : Nat) (pc : BitVec 12) : (c.enter code pc).running = c.running := rfl
@[simp] theorem Core.enter_active (c : Core) (code : Nat) (pc : BitVec 12) : (c.enter code pc).active = c.active := rfl
@[simp] theorem Core.enter_wait (c : Core) (code : Nat) (pc : BitVec 12) : (c.enter code pc).wait = .none := rfl
@[simp] theorem Core.enter_marked (c : Core) (code : Nat) (pc : BitVec 12) : (c.enter code pc).marked = c.marked := rfl
@[simp] theorem Core.enter_discard (c : Core) (code : Nat) (pc : BitVec 12) :
    (c.enter code pc).discard = (match c.wait with | .timed k => some (c.pc, k) | _ => c.discard) := rfl

@[simp] theorem Core.leave_pc (c : Core) : c.leave.pc = c.epc.setWidth 12 := rfl
@[simp] theorem Core.leave_x (c : Core) : c.leave.x = c.x := rfl
@[simp] theorem Core.leave_dmem (c : Core) : c.leave.dmem = c.dmem := rfl
@[simp] theorem Core.leave_code (c : Core) : c.leave.code = c.code := rfl
@[simp] theorem Core.leave_status (c : Core) : c.leave.status = statusOf false c.ppriv false c.ppriv := rfl
@[simp] theorem Core.leave_flags (c : Core) : c.leave.flags = c.flags := rfl
@[simp] theorem Core.leave_epc (c : Core) : c.leave.epc = c.epc := rfl
@[simp] theorem Core.leave_ecause (c : Core) : c.leave.ecause = c.ecause := rfl
@[simp] theorem Core.leave_evec (c : Core) : c.leave.evec = c.evec := rfl
@[simp] theorem Core.leave_erec (c : Core) : c.leave.erec = c.erec := rfl
@[simp] theorem Core.leave_cycle (c : Core) : c.leave.cycle = c.cycle := rfl
@[simp] theorem Core.leave_ctxid (c : Core) : c.leave.ctxid = c.ctxid := rfl
@[simp] theorem Core.leave_exitw (c : Core) : c.leave.exitw = c.exitw := rfl
@[simp] theorem Core.leave_bkpc (c : Core) : c.leave.bkpc = c.bkpc := rfl
@[simp] theorem Core.leave_bkctl (c : Core) : c.leave.bkctl = c.bkctl := rfl
@[simp] theorem Core.leave_mbox (c : Core) : c.leave.mbox = c.mbox := rfl
@[simp] theorem Core.leave_cmds (c : Core) : c.leave.cmds = c.cmds := rfl
@[simp] theorem Core.leave_group (c : Core) : c.leave.group = c.group := rfl
@[simp] theorem Core.leave_running (c : Core) : c.leave.running = c.running := rfl
@[simp] theorem Core.leave_active (c : Core) : c.leave.active = c.active := rfl
@[simp] theorem Core.leave_wait (c : Core) : c.leave.wait = .none := rfl
@[simp] theorem Core.leave_marked (c : Core) : c.leave.marked = c.marked := rfl
@[simp] theorem Core.leave_discard (c : Core) : c.leave.discard = c.discard := rfl

/-! ## What one unit sends reaches another (R426) -/

@[simp] theorem State.learn_mem (s : State) (src dst : Nat) : (s.learn src dst).mem = s.mem := rfl
@[simp] theorem State.showKnown_mem (s : State) (src dst : Nat) : (s.showKnown src dst).mem = s.mem := rfl
@[simp] theorem State.learn_tiles (s : State) (src dst : Nat) : (s.learn src dst).tiles = s.tiles := rfl
@[simp] theorem State.showKnown_tiles (s : State) (src dst : Nat) : (s.showKnown src dst).tiles = s.tiles := rfl
@[simp] theorem State.learn_cores (s : State) (src dst : Nat) : (s.learn src dst).cores = s.cores := rfl
@[simp] theorem State.showKnown_cores (s : State) (src dst : Nat) : (s.showKnown src dst).cores = s.cores := rfl
@[simp] theorem State.learn_ctxs (s : State) (src dst : Nat) : (s.learn src dst).ctxs = s.ctxs := rfl
@[simp] theorem State.showKnown_ctxs (s : State) (src dst : Nat) : (s.showKnown src dst).ctxs = s.ctxs := rfl
@[simp] theorem State.learn_groups (s : State) (src dst : Nat) : (s.learn src dst).groups = s.groups := rfl
@[simp] theorem State.showKnown_groups (s : State) (src dst : Nat) : (s.showKnown src dst).groups = s.groups := rfl
@[simp] theorem State.learn_net (s : State) (src dst : Nat) : (s.learn src dst).net = s.net := rfl
@[simp] theorem State.showKnown_net (s : State) (src dst : Nat) : (s.showKnown src dst).net = s.net := rfl
@[simp] theorem State.learn_reqs (s : State) (src dst : Nat) : (s.learn src dst).reqs = s.reqs := rfl
@[simp] theorem State.showKnown_reqs (s : State) (src dst : Nat) : (s.showKnown src dst).reqs = s.reqs := rfl
@[simp] theorem State.learn_queues (s : State) (src dst : Nat) : (s.learn src dst).queues = s.queues := rfl
@[simp] theorem State.showKnown_queues (s : State) (src dst : Nat) : (s.showKnown src dst).queues = s.queues := rfl
@[simp] theorem State.learn_parked (s : State) (src dst : Nat) : (s.learn src dst).parked = s.parked := rfl
@[simp] theorem State.showKnown_parked (s : State) (src dst : Nat) : (s.showKnown src dst).parked = s.parked := rfl
@[simp] theorem State.learn_waves (s : State) (src dst : Nat) : (s.learn src dst).waves = s.waves := rfl
@[simp] theorem State.showKnown_waves (s : State) (src dst : Nat) : (s.showKnown src dst).waves = s.waves := rfl
@[simp] theorem State.learn_iterLinks (s : State) (src dst : Nat) : (s.learn src dst).iterLinks = s.iterLinks := rfl
@[simp] theorem State.showKnown_iterLinks (s : State) (src dst : Nat) : (s.showKnown src dst).iterLinks = s.iterLinks := rfl
@[simp] theorem State.learn_badLines (s : State) (src dst : Nat) : (s.learn src dst).badLines = s.badLines := rfl
@[simp] theorem State.showKnown_badLines (s : State) (src dst : Nat) : (s.showKnown src dst).badLines = s.badLines := rfl
@[simp] theorem State.learn_late (s : State) (src dst : Nat) : (s.learn src dst).late = s.late := rfl
@[simp] theorem State.showKnown_late (s : State) (src dst : Nat) : (s.showKnown src dst).late = s.late := rfl
@[simp] theorem State.learn_pend (s : State) (src dst : Nat) : (s.learn src dst).pend = s.pend := rfl
@[simp] theorem State.showKnown_pend (s : State) (src dst : Nat) : (s.showKnown src dst).pend = s.pend := rfl
@[simp] theorem State.learn_notices (s : State) (src dst : Nat) : (s.learn src dst).notices = s.notices := rfl
@[simp] theorem State.showKnown_notices (s : State) (src dst : Nat) : (s.showKnown src dst).notices = s.notices := rfl
@[simp] theorem State.learn_barriers (s : State) (src dst : Nat) : (s.learn src dst).barriers = s.barriers := rfl
@[simp] theorem State.showKnown_barriers (s : State) (src dst : Nat) : (s.showKnown src dst).barriers = s.barriers := rfl
@[simp] theorem State.learn_arrivals (s : State) (src dst : Nat) : (s.learn src dst).arrivals = s.arrivals := rfl
@[simp] theorem State.showKnown_arrivals (s : State) (src dst : Nat) : (s.showKnown src dst).arrivals = s.arrivals := rfl
@[simp] theorem State.learn_signals (s : State) (src dst : Nat) : (s.learn src dst).signals = s.signals := rfl
@[simp] theorem State.showKnown_signals (s : State) (src dst : Nat) : (s.showKnown src dst).signals = s.signals := rfl
@[simp] theorem State.learn_links (s : State) (src dst : Nat) : (s.learn src dst).links = s.links := rfl
@[simp] theorem State.showKnown_links (s : State) (src dst : Nat) : (s.showKnown src dst).links = s.links := rfl
@[simp] theorem State.learn_lanes (s : State) (src dst : Nat) : (s.learn src dst).lanes = s.lanes := rfl
@[simp] theorem State.showKnown_lanes (s : State) (src dst : Nat) : (s.showKnown src dst).lanes = s.lanes := rfl
@[simp] theorem State.learn_adders (s : State) (src dst : Nat) : (s.learn src dst).adders = s.adders := rfl
@[simp] theorem State.showKnown_adders (s : State) (src dst : Nat) : (s.showKnown src dst).adders = s.adders := rfl
@[simp] theorem State.learn_beats (s : State) (src dst : Nat) : (s.learn src dst).beats = s.beats := rfl
@[simp] theorem State.showKnown_beats (s : State) (src dst : Nat) : (s.showKnown src dst).beats = s.beats := rfl
@[simp] theorem State.learn_mgmt (s : State) (src dst : Nat) : (s.learn src dst).mgmt = s.mgmt := rfl
@[simp] theorem State.showKnown_mgmt (s : State) (src dst : Nat) : (s.showKnown src dst).mgmt = s.mgmt := rfl
@[simp] theorem State.learn_seq (s : State) (src dst : Nat) : (s.learn src dst).seq = s.seq := rfl
@[simp] theorem State.showKnown_seq (s : State) (src dst : Nat) : (s.showKnown src dst).seq = s.seq := rfl
@[simp] theorem State.learn_tick (s : State) (src dst : Nat) : (s.learn src dst).tick = s.tick := rfl
@[simp] theorem State.showKnown_tick (s : State) (src dst : Nat) : (s.showKnown src dst).tick = s.tick := rfl
@[simp] theorem State.learn_turn (s : State) (src dst : Nat) : (s.learn src dst).turn = s.turn := rfl
@[simp] theorem State.showKnown_turn (s : State) (src dst : Nat) : (s.showKnown src dst).turn = s.turn := rfl
@[simp] theorem State.learn_unit (s : State) (src dst : Nat) : (s.learn src dst).unit = s.unit := rfl
@[simp] theorem State.showKnown_unit (s : State) (src dst : Nat) : (s.showKnown src dst).unit = s.unit := rfl

/-! What is visible changes, and nothing else -/

@[simp] theorem State.clear_mem (s : State) (p : Stale → Bool) (f : Stale → Stale) : (s.clear p f).mem = s.mem := rfl
@[simp] theorem State.clear_tiles (s : State) (p : Stale → Bool) (f : Stale → Stale) : (s.clear p f).tiles = s.tiles := rfl
@[simp] theorem State.clear_cores (s : State) (p : Stale → Bool) (f : Stale → Stale) : (s.clear p f).cores = s.cores := rfl
@[simp] theorem State.clear_ctxs (s : State) (p : Stale → Bool) (f : Stale → Stale) : (s.clear p f).ctxs = s.ctxs := rfl
@[simp] theorem State.clear_groups (s : State) (p : Stale → Bool) (f : Stale → Stale) : (s.clear p f).groups = s.groups := rfl
@[simp] theorem State.clear_net (s : State) (p : Stale → Bool) (f : Stale → Stale) : (s.clear p f).net = s.net := rfl
@[simp] theorem State.clear_reqs (s : State) (p : Stale → Bool) (f : Stale → Stale) : (s.clear p f).reqs = s.reqs := rfl
@[simp] theorem State.clear_queues (s : State) (p : Stale → Bool) (f : Stale → Stale) : (s.clear p f).queues = s.queues := rfl
@[simp] theorem State.clear_parked (s : State) (p : Stale → Bool) (f : Stale → Stale) : (s.clear p f).parked = s.parked := rfl
@[simp] theorem State.clear_waves (s : State) (p : Stale → Bool) (f : Stale → Stale) : (s.clear p f).waves = s.waves := rfl
@[simp] theorem State.clear_iterLinks (s : State) (p : Stale → Bool) (f : Stale → Stale) : (s.clear p f).iterLinks = s.iterLinks := rfl
@[simp] theorem State.clear_badLines (s : State) (p : Stale → Bool) (f : Stale → Stale) : (s.clear p f).badLines = s.badLines := rfl
@[simp] theorem State.clear_late (s : State) (p : Stale → Bool) (f : Stale → Stale) : (s.clear p f).late = s.late := rfl
@[simp] theorem State.clear_pend (s : State) (p : Stale → Bool) (f : Stale → Stale) : (s.clear p f).pend = s.pend := rfl
@[simp] theorem State.clear_notices (s : State) (p : Stale → Bool) (f : Stale → Stale) : (s.clear p f).notices = s.notices := rfl
@[simp] theorem State.clear_barriers (s : State) (p : Stale → Bool) (f : Stale → Stale) : (s.clear p f).barriers = s.barriers := rfl
@[simp] theorem State.clear_arrivals (s : State) (p : Stale → Bool) (f : Stale → Stale) : (s.clear p f).arrivals = s.arrivals := rfl
@[simp] theorem State.clear_signals (s : State) (p : Stale → Bool) (f : Stale → Stale) : (s.clear p f).signals = s.signals := rfl
@[simp] theorem State.clear_links (s : State) (p : Stale → Bool) (f : Stale → Stale) : (s.clear p f).links = s.links := rfl
@[simp] theorem State.clear_lanes (s : State) (p : Stale → Bool) (f : Stale → Stale) : (s.clear p f).lanes = s.lanes := rfl
@[simp] theorem State.clear_adders (s : State) (p : Stale → Bool) (f : Stale → Stale) : (s.clear p f).adders = s.adders := rfl
@[simp] theorem State.clear_beats (s : State) (p : Stale → Bool) (f : Stale → Stale) : (s.clear p f).beats = s.beats := rfl
@[simp] theorem State.clear_mgmt (s : State) (p : Stale → Bool) (f : Stale → Stale) : (s.clear p f).mgmt = s.mgmt := rfl
@[simp] theorem State.clear_seq (s : State) (p : Stale → Bool) (f : Stale → Stale) : (s.clear p f).seq = s.seq := rfl
@[simp] theorem State.clear_tick (s : State) (p : Stale → Bool) (f : Stale → Stale) : (s.clear p f).tick = s.tick := rfl
@[simp] theorem State.clear_turn (s : State) (p : Stale → Bool) (f : Stale → Stale) : (s.clear p f).turn = s.turn := rfl
@[simp] theorem State.clear_unit (s : State) (p : Stale → Bool) (f : Stale → Stale) : (s.clear p f).unit = s.unit := rfl
@[simp] theorem State.observe_mem (s : State) (a : Agent) (loc view : Nat) : (s.observe a loc view).mem = s.mem := rfl
@[simp] theorem State.observe_tiles (s : State) (a : Agent) (loc view : Nat) : (s.observe a loc view).tiles = s.tiles := rfl
@[simp] theorem State.observe_cores (s : State) (a : Agent) (loc view : Nat) : (s.observe a loc view).cores = s.cores := rfl
@[simp] theorem State.observe_ctxs (s : State) (a : Agent) (loc view : Nat) : (s.observe a loc view).ctxs = s.ctxs := rfl
@[simp] theorem State.observe_groups (s : State) (a : Agent) (loc view : Nat) : (s.observe a loc view).groups = s.groups := rfl
@[simp] theorem State.observe_net (s : State) (a : Agent) (loc view : Nat) : (s.observe a loc view).net = s.net := rfl
@[simp] theorem State.observe_reqs (s : State) (a : Agent) (loc view : Nat) : (s.observe a loc view).reqs = s.reqs := rfl
@[simp] theorem State.observe_queues (s : State) (a : Agent) (loc view : Nat) : (s.observe a loc view).queues = s.queues := rfl
@[simp] theorem State.observe_parked (s : State) (a : Agent) (loc view : Nat) : (s.observe a loc view).parked = s.parked := rfl
@[simp] theorem State.observe_waves (s : State) (a : Agent) (loc view : Nat) : (s.observe a loc view).waves = s.waves := rfl
@[simp] theorem State.observe_iterLinks (s : State) (a : Agent) (loc view : Nat) : (s.observe a loc view).iterLinks = s.iterLinks := rfl
@[simp] theorem State.observe_badLines (s : State) (a : Agent) (loc view : Nat) : (s.observe a loc view).badLines = s.badLines := rfl
@[simp] theorem State.observe_late (s : State) (a : Agent) (loc view : Nat) : (s.observe a loc view).late = s.late := rfl
@[simp] theorem State.observe_pend (s : State) (a : Agent) (loc view : Nat) : (s.observe a loc view).pend = s.pend := rfl
@[simp] theorem State.observe_notices (s : State) (a : Agent) (loc view : Nat) : (s.observe a loc view).notices = s.notices := rfl
@[simp] theorem State.observe_barriers (s : State) (a : Agent) (loc view : Nat) : (s.observe a loc view).barriers = s.barriers := rfl
@[simp] theorem State.observe_arrivals (s : State) (a : Agent) (loc view : Nat) : (s.observe a loc view).arrivals = s.arrivals := rfl
@[simp] theorem State.observe_signals (s : State) (a : Agent) (loc view : Nat) : (s.observe a loc view).signals = s.signals := rfl
@[simp] theorem State.observe_links (s : State) (a : Agent) (loc view : Nat) : (s.observe a loc view).links = s.links := rfl
@[simp] theorem State.observe_lanes (s : State) (a : Agent) (loc view : Nat) : (s.observe a loc view).lanes = s.lanes := rfl
@[simp] theorem State.observe_adders (s : State) (a : Agent) (loc view : Nat) : (s.observe a loc view).adders = s.adders := rfl
@[simp] theorem State.observe_beats (s : State) (a : Agent) (loc view : Nat) : (s.observe a loc view).beats = s.beats := rfl
@[simp] theorem State.observe_mgmt (s : State) (a : Agent) (loc view : Nat) : (s.observe a loc view).mgmt = s.mgmt := rfl
@[simp] theorem State.observe_seq (s : State) (a : Agent) (loc view : Nat) : (s.observe a loc view).seq = s.seq := rfl
@[simp] theorem State.observe_tick (s : State) (a : Agent) (loc view : Nat) : (s.observe a loc view).tick = s.tick := rfl
@[simp] theorem State.observe_turn (s : State) (a : Agent) (loc view : Nat) : (s.observe a loc view).turn = s.turn := rfl
@[simp] theorem State.observe_unit (s : State) (a : Agent) (loc view : Nat) : (s.observe a loc view).unit = s.unit := rfl
@[simp] theorem State.knowWrites_mem (s : State) (p : Stale → Bool) (u : Nat) : (s.knowWrites p u).mem = s.mem := rfl
@[simp] theorem State.knowWrites_tiles (s : State) (p : Stale → Bool) (u : Nat) : (s.knowWrites p u).tiles = s.tiles := rfl
@[simp] theorem State.knowWrites_cores (s : State) (p : Stale → Bool) (u : Nat) : (s.knowWrites p u).cores = s.cores := rfl
@[simp] theorem State.knowWrites_ctxs (s : State) (p : Stale → Bool) (u : Nat) : (s.knowWrites p u).ctxs = s.ctxs := rfl
@[simp] theorem State.knowWrites_groups (s : State) (p : Stale → Bool) (u : Nat) : (s.knowWrites p u).groups = s.groups := rfl
@[simp] theorem State.knowWrites_net (s : State) (p : Stale → Bool) (u : Nat) : (s.knowWrites p u).net = s.net := rfl
@[simp] theorem State.knowWrites_reqs (s : State) (p : Stale → Bool) (u : Nat) : (s.knowWrites p u).reqs = s.reqs := rfl
@[simp] theorem State.knowWrites_queues (s : State) (p : Stale → Bool) (u : Nat) : (s.knowWrites p u).queues = s.queues := rfl
@[simp] theorem State.knowWrites_parked (s : State) (p : Stale → Bool) (u : Nat) : (s.knowWrites p u).parked = s.parked := rfl
@[simp] theorem State.knowWrites_waves (s : State) (p : Stale → Bool) (u : Nat) : (s.knowWrites p u).waves = s.waves := rfl
@[simp] theorem State.knowWrites_iterLinks (s : State) (p : Stale → Bool) (u : Nat) : (s.knowWrites p u).iterLinks = s.iterLinks := rfl
@[simp] theorem State.knowWrites_badLines (s : State) (p : Stale → Bool) (u : Nat) : (s.knowWrites p u).badLines = s.badLines := rfl
@[simp] theorem State.knowWrites_late (s : State) (p : Stale → Bool) (u : Nat) : (s.knowWrites p u).late = s.late := rfl
@[simp] theorem State.knowWrites_pend (s : State) (p : Stale → Bool) (u : Nat) : (s.knowWrites p u).pend = s.pend := rfl
@[simp] theorem State.knowWrites_notices (s : State) (p : Stale → Bool) (u : Nat) : (s.knowWrites p u).notices = s.notices := rfl
@[simp] theorem State.knowWrites_barriers (s : State) (p : Stale → Bool) (u : Nat) : (s.knowWrites p u).barriers = s.barriers := rfl
@[simp] theorem State.knowWrites_arrivals (s : State) (p : Stale → Bool) (u : Nat) : (s.knowWrites p u).arrivals = s.arrivals := rfl
@[simp] theorem State.knowWrites_signals (s : State) (p : Stale → Bool) (u : Nat) : (s.knowWrites p u).signals = s.signals := rfl
@[simp] theorem State.knowWrites_links (s : State) (p : Stale → Bool) (u : Nat) : (s.knowWrites p u).links = s.links := rfl
@[simp] theorem State.knowWrites_lanes (s : State) (p : Stale → Bool) (u : Nat) : (s.knowWrites p u).lanes = s.lanes := rfl
@[simp] theorem State.knowWrites_adders (s : State) (p : Stale → Bool) (u : Nat) : (s.knowWrites p u).adders = s.adders := rfl
@[simp] theorem State.knowWrites_beats (s : State) (p : Stale → Bool) (u : Nat) : (s.knowWrites p u).beats = s.beats := rfl
@[simp] theorem State.knowWrites_mgmt (s : State) (p : Stale → Bool) (u : Nat) : (s.knowWrites p u).mgmt = s.mgmt := rfl
@[simp] theorem State.knowWrites_seq (s : State) (p : Stale → Bool) (u : Nat) : (s.knowWrites p u).seq = s.seq := rfl
@[simp] theorem State.knowWrites_tick (s : State) (p : Stale → Bool) (u : Nat) : (s.knowWrites p u).tick = s.tick := rfl
@[simp] theorem State.knowWrites_turn (s : State) (p : Stale → Bool) (u : Nat) : (s.knowWrites p u).turn = s.turn := rfl
@[simp] theorem State.knowWrites_unit (s : State) (p : Stale → Bool) (u : Nat) : (s.knowWrites p u).unit = s.unit := rfl
@[simp] theorem State.markCommand_mem (s : State) (n : Nat) (p : Stale → Bool) : (s.markCommand n p).mem = s.mem := rfl
@[simp] theorem State.markCommand_tiles (s : State) (n : Nat) (p : Stale → Bool) : (s.markCommand n p).tiles = s.tiles := rfl
@[simp] theorem State.markCommand_cores (s : State) (n : Nat) (p : Stale → Bool) : (s.markCommand n p).cores = s.cores := rfl
@[simp] theorem State.markCommand_ctxs (s : State) (n : Nat) (p : Stale → Bool) : (s.markCommand n p).ctxs = s.ctxs := rfl
@[simp] theorem State.markCommand_groups (s : State) (n : Nat) (p : Stale → Bool) : (s.markCommand n p).groups = s.groups := rfl
@[simp] theorem State.markCommand_net (s : State) (n : Nat) (p : Stale → Bool) : (s.markCommand n p).net = s.net := rfl
@[simp] theorem State.markCommand_reqs (s : State) (n : Nat) (p : Stale → Bool) : (s.markCommand n p).reqs = s.reqs := rfl
@[simp] theorem State.markCommand_queues (s : State) (n : Nat) (p : Stale → Bool) : (s.markCommand n p).queues = s.queues := rfl
@[simp] theorem State.markCommand_parked (s : State) (n : Nat) (p : Stale → Bool) : (s.markCommand n p).parked = s.parked := rfl
@[simp] theorem State.markCommand_waves (s : State) (n : Nat) (p : Stale → Bool) : (s.markCommand n p).waves = s.waves := rfl
@[simp] theorem State.markCommand_iterLinks (s : State) (n : Nat) (p : Stale → Bool) : (s.markCommand n p).iterLinks = s.iterLinks := rfl
@[simp] theorem State.markCommand_badLines (s : State) (n : Nat) (p : Stale → Bool) : (s.markCommand n p).badLines = s.badLines := rfl
@[simp] theorem State.markCommand_late (s : State) (n : Nat) (p : Stale → Bool) : (s.markCommand n p).late = s.late := rfl
@[simp] theorem State.markCommand_pend (s : State) (n : Nat) (p : Stale → Bool) : (s.markCommand n p).pend = s.pend := rfl
@[simp] theorem State.markCommand_notices (s : State) (n : Nat) (p : Stale → Bool) : (s.markCommand n p).notices = s.notices := rfl
@[simp] theorem State.markCommand_barriers (s : State) (n : Nat) (p : Stale → Bool) : (s.markCommand n p).barriers = s.barriers := rfl
@[simp] theorem State.markCommand_arrivals (s : State) (n : Nat) (p : Stale → Bool) : (s.markCommand n p).arrivals = s.arrivals := rfl
@[simp] theorem State.markCommand_signals (s : State) (n : Nat) (p : Stale → Bool) : (s.markCommand n p).signals = s.signals := rfl
@[simp] theorem State.markCommand_links (s : State) (n : Nat) (p : Stale → Bool) : (s.markCommand n p).links = s.links := rfl
@[simp] theorem State.markCommand_lanes (s : State) (n : Nat) (p : Stale → Bool) : (s.markCommand n p).lanes = s.lanes := rfl
@[simp] theorem State.markCommand_adders (s : State) (n : Nat) (p : Stale → Bool) : (s.markCommand n p).adders = s.adders := rfl
@[simp] theorem State.markCommand_beats (s : State) (n : Nat) (p : Stale → Bool) : (s.markCommand n p).beats = s.beats := rfl
@[simp] theorem State.markCommand_mgmt (s : State) (n : Nat) (p : Stale → Bool) : (s.markCommand n p).mgmt = s.mgmt := rfl
@[simp] theorem State.markCommand_seq (s : State) (n : Nat) (p : Stale → Bool) : (s.markCommand n p).seq = s.seq := rfl
@[simp] theorem State.markCommand_tick (s : State) (n : Nat) (p : Stale → Bool) : (s.markCommand n p).tick = s.tick := rfl
@[simp] theorem State.markCommand_turn (s : State) (n : Nat) (p : Stale → Bool) : (s.markCommand n p).turn = s.turn := rfl
@[simp] theorem State.markCommand_unit (s : State) (n : Nat) (p : Stale → Bool) : (s.markCommand n p).unit = s.unit := rfl

end Sys2Proof.Machine
end

