-- ==== Sys2Proof/Laws/Memory.lean ====
section
/-! SUPPORT. The laws of the memories: what a byte reads as after a write, and that every operation on a
memory keeps its canonical form. -/

namespace Sys2Proof.Machine

open Sys2Proof

/-! ## Byte maps -/

/-- A run of writes keeps the canonical form. -/
theorem memWrite_wf (m : FMap Byte) (a : Nat) (bs : List Byte) (h : Memory.wf m = true) :
    Memory.wf (memWrite m a bs) = true := by
  induction bs generalizing m a with
  | nil => exact h
  | cons b bs ih => exact ih _ _ (mapSet_wf 0 m a b h)

/-- A byte after a run of writes: inside the run the byte written, outside it the byte before. -/
theorem mapGet_memWrite (m : FMap Byte) (a j : Nat) (bs : List Byte) (h : Memory.wf m = true) :
    mapGet 0 (memWrite m a bs) j = if a ≤ j ∧ j < a + bs.length then bs.getD (j - a) 0 else mapGet 0 m j := by
  induction bs generalizing m a with
  | nil => rw [if_neg (by simp only [List.length_nil]; omega)]; rfl
  | cons b bs ih =>
    simp only [memWrite, List.length_cons]
    rw [ih _ _ (mapSet_wf 0 m a b h), mapGet_mapSet 0 m a j b h]
    by_cases h1 : j = a
    · subst j; simp
    · by_cases h2 : a + 1 ≤ j ∧ j < a + 1 + bs.length
      · rw [if_pos h2, if_pos (by omega)]
        obtain ⟨k, hk⟩ : ∃ k, j - a = k + 1 := ⟨j - a - 1, by omega⟩
        rw [hk, show j - (a + 1) = k by omega]; simp
      · rw [if_neg h2, if_neg h1, if_neg (by omega)]

/-- Reading the bytes that a run of writes stored gives them. -/
theorem memRead_memWrite (m : FMap Byte) (a : Nat) (bs : List Byte) (h : Memory.wf m = true) :
    memRead (memWrite m a bs) a bs.length = bs := by
  apply List.ext_getElem
  · simp [memRead]
  · intro i h1 h2
    simp only [memRead, List.getElem_map, List.getElem_range]
    rw [mapGet_memWrite m a (a + i) bs h, if_pos (by omega)]
    simp [h2]

/-- Reads outside a run of writes give what they gave. -/
theorem memRead_memWrite_of_disjoint (m : FMap Byte) (a b n : Nat) (bs : List Byte) (h : Memory.wf m = true)
    (hd : b + n ≤ a ∨ a + bs.length ≤ b) : memRead (memWrite m a bs) b n = memRead m b n := by
  apply List.ext_getElem
  · simp [memRead]
  · intro i h1 h2
    have hi : i < n := by simpa [memRead] using h2
    simp only [memRead, List.getElem_map, List.getElem_range]
    rw [mapGet_memWrite m a (b + i) bs h, if_neg (by omega)]

/-! ## Main memory -/

@[simp] theorem State.noteWrite_mem (s : State) (a : Agent) (c : BitVec 8) (loc : Nat) (old : Byte) :
    (s.noteWrite a c loc old).mem = s.mem := rfl
@[simp] theorem State.noteWrite_tiles (s : State) (a : Agent) (c : BitVec 8) (loc : Nat) (old : Byte) :
    (s.noteWrite a c loc old).tiles = s.tiles := rfl
@[simp] theorem State.noteWrite_cores (s : State) (a : Agent) (c : BitVec 8) (loc : Nat) (old : Byte) :
    (s.noteWrite a c loc old).cores = s.cores := rfl
@[simp] theorem State.readVisible_mem (s : State) (a : Agent) (loc : Nat) (cur : Byte) :
    (s.readVisible a loc cur).2.mem = s.mem := by unfold State.readVisible; split <;> rfl
@[simp] theorem State.readVisible_tiles (s : State) (a : Agent) (loc : Nat) (cur : Byte) :
    (s.readVisible a loc cur).2.tiles = s.tiles := by unfold State.readVisible; split <;> rfl
/-- The versions that a translation point reads leave main memory as it is (R381). -/
@[simp] theorem cachedBytes_mem (a : Agent) (pa n : Nat) (s : State) : (cachedBytes a pa n s).2.mem = s.mem := by
  induction n generalizing pa s with
  | zero => rfl
  | succ n ih => simp [cachedBytes, ih]
theorem versionGo_mem (a : Agent) (c : BitVec 8) (n buf : Nat) (s t : State) (v : Nat)
    (h : versionGo a c n buf s = .ok (v, t)) : t.mem = s.mem := by
  induction n generalizing buf s t v with
  | zero => simp only [versionGo, Except.ok.injEq, Prod.mk.injEq] at h; rw [h.2]
  | succ n ih =>
    simp only [versionGo] at h
    split at h
    · simp at h
    · simp at h
    · split at h
      · simp only [Except.ok.injEq, Prod.mk.injEq] at h; rw [h.2]
      · split at h
        · simp only [Except.ok.injEq, Prod.mk.injEq] at h; rw [← h.2]; simp
        · split at h
          · simp at h
          · rename_i e
            simp only [Except.ok.injEq, Prod.mk.injEq] at h
            rw [← h.2, ih _ _ _ _ e]; simp
@[simp] theorem State.keyByte_mem (s : State) (a : Agent) (c : BitVec 8) (p : Page) (va : Nat) :
    (s.keyByte a c p va).2.mem = s.mem := by
  unfold State.keyByte; split
  · split
    · rename_i h; exact versionGo_mem _ _ _ _ _ _ _ h
    · rfl
  · rfl
@[simp] theorem State.pageByte_mem (s : State) (a : Agent) (c : BitVec 8) (p : Page) (va : Nat) :
    (s.pageByte a c p va).2.mem = s.mem := by unfold State.pageByte; split <;> simp

/-- A write of a physical byte stores it at that address. -/
@[simp] theorem State.physWrite_mem (s : State) (a : Agent) (c : BitVec 8) (pa : Nat) (b : Byte) :
    (s.physWrite a c pa b).mem = mapSet 0 s.mem pa b := by simp [State.physWrite]

/-- A write of a physical byte keeps the canonical form. -/
theorem State.physWrite_wf (s : State) (a : Agent) (c : BitVec 8) (pa : Nat) (b : Byte) (h : Memory.wf s.mem = true) :
    Memory.wf (s.physWrite a c pa b).mem = true := by
  rw [s.physWrite_mem]; exact mapSet_wf 0 s.mem pa b h

/-- Setting `D` of a leaf keeps the canonical form. -/
theorem State.markDirty_wf (s : State) (path : Nat) (p : Page) (h : Memory.wf s.mem = true) :
    Memory.wf (s.markDirty path p).mem = true := by
  unfold State.markDirty; split
  · exact mapSet_wf 0 s.mem _ _ h
  · exact h

/-- A write of a translated byte keeps the canonical form. -/
theorem State.pageWrite_wf (s : State) (a : Agent) (c : BitVec 8) (p : Page) (va : Nat) (b : Byte)
    (h : Memory.wf s.mem = true) : Memory.wf (s.pageWrite a c p va b).mem = true := by
  have hd := s.markDirty_wf a.path p h
  unfold State.pageWrite; split
  · exact State.physWrite_wf ((s.markDirty a.path p).keyByte a c p va).2 _ _ _ _ (by rwa [State.keyByte_mem])
  · exact hd

/-- Writes in one page keep the canonical form. -/
theorem pageWrites_wf (a : Agent) (c : BitVec 8) (p : Page) (va : Nat) (bs : List Byte) (s : State)
    (h : Memory.wf s.mem = true) : Memory.wf (pageWrites a c p va bs s).mem = true := by
  induction bs generalizing va s with
  | nil => exact h
  | cons b bs ih => exact ih _ _ (s.pageWrite_wf a c p va b h)

/-- Reads in one page leave main memory as it is. -/
@[simp] theorem pageRead_mem (a : Agent) (c : BitVec 8) (p : Page) (va n : Nat) (s : State) :
    (pageRead a c p va n s).2.mem = s.mem := by
  induction n generalizing va s with
  | zero => rfl
  | succ n ih => simp [pageRead, ih]

/-- A read of virtual memory leaves main memory as it is. -/
theorem vread_mem (a : Agent) (c : BitVec 8) (va n : Nat) (s t : State) (bs : List Byte)
    (h : vread a c va n s = .ok (bs, t)) : t.mem = s.mem := by
  induction n generalizing va s bs with
  | zero => simp only [vread, Act.ret, Except.ok.injEq, Prod.mk.injEq] at h; rw [h.2]
  | succ n ih =>
    simp only [vread] at h
    split at h
    · simp at h
    · split at h
      · simp at h
      · split at h
        · rename_i e
          simp only [Except.ok.injEq, Prod.mk.injEq] at h
          obtain ⟨-, rfl⟩ := h
          simpa using ih _ _ _ e
        · simp at h

/-- A write of virtual memory keeps the canonical form. -/
theorem vwrite_wf (a : Agent) (c : BitVec 8) (va : Nat) (bs : List Byte) (s t : State)
    (h : vwrite a c va bs s = .ok ((), t)) (hs : Memory.wf s.mem = true) : Memory.wf t.mem = true := by
  induction bs generalizing va s with
  | nil => simp only [vwrite, Act.ret, Except.ok.injEq, Prod.mk.injEq, true_and] at h; rwa [← h]
  | cons b bs ih =>
    simp only [vwrite] at h
    split at h
    · simp at h
    · split at h
      · simp at h
      · split at h
        · simp at h
        · exact ih _ _ h (s.pageWrite_wf _ _ _ _ _ hs)

/-- A write that a unit makes by itself, performed or kept, keeps the canonical form (R377). -/
theorem State.writeLate_wf (s : State) (a : Agent) (c : BitVec 8) (va : Nat) (bs : List Byte)
    (noted : Bool) (h : Memory.wf s.mem = true) : Memory.wf (s.writeLate a c va bs noted).mem = true := by
  unfold State.writeLate
  split
  · exact h
  · split
    · rename_i e; exact vwrite_wf a c va bs s _ e h
    · exact h
    · exact h
    · dsimp only; split <;> exact h
    · exact h

/-- And so do the kept writes, tried again. -/
theorem State.retryLate_wf (s : State) (h : Memory.wf s.mem = true) : Memory.wf s.retryLate.mem = true := by
  unfold State.retryLate
  suffices ∀ (ws : List LateWrite) (t : State), Memory.wf t.mem = true →
      Memory.wf (ws.foldl (fun (s : State) w => s.writeLate ⟨w.path, w.unit⟩ w.ctx w.va w.bytes w.noted) t).mem = true from
    this s.late _ h
  intro ws
  induction ws with
  | nil => exact fun _ ht => ht
  | cons w ws ih => exact fun t ht => ih _ (t.writeLate_wf _ _ _ _ _ ht)

/-! ## Scratchpads -/

@[simp] theorem spWrite_mem (path t a : Nat) (bs : List Byte) (s : State) : (spWrite path t a bs s).mem = s.mem := by
  induction bs generalizing a s with
  | nil => rfl
  | cons b bs ih => simp [spWrite, ih]

@[simp] theorem spRead_mem (path t a n : Nat) (s : State) : (spRead path t a n s).2.mem = s.mem := by
  induction n generalizing a s with
  | zero => rfl
  | succ n ih => simp [spRead, ih]

/-- A property of every value of a map, kept by a write of a value that has it. -/
theorem all_mapSet {α : Type} [DecidableEq α] (d : α) (p : Nat × α → Bool) (m : FMap α) (i : Nat) (v : α)
    (hm : m.all p = true) (hv : p (i, v) = true) : (mapSet d m i v).all p = true := by
  unfold mapSet
  split
  · clear hv
    induction m with
    | nil => rfl
    | cons kv m ih =>
      obtain ⟨k, w⟩ := kv
      simp only [List.all_cons, Bool.and_eq_true] at hm
      simp only [mapDel]
      split
      · exact hm.2
      · split
        · simp [hm.1, hm.2]
        · simp [hm.1, ih hm.2]
  · induction m with
    | nil => simpa [mapPut] using hv
    | cons kv m ih =>
      obtain ⟨k, w⟩ := kv
      simp only [List.all_cons, Bool.and_eq_true] at hm
      simp only [mapPut]
      split
      · simp [hv, hm.2]
      · split
        · simp [hv, hm.1, hm.2]
        · simp [hm.1, ih hm.2]

/-- A property of every value of a map holds of what is read, if it holds of the unlisted value. -/
theorem mapGet_all {α : Type} (d : α) (p : α → Bool) (m : FMap α) (i : Nat)
    (hm : m.all (fun kv => p kv.2) = true) (hd : p d = true) : p (mapGet d m i) = true := by
  induction m with
  | nil => exact hd
  | cons kv m ih =>
    obtain ⟨k, w⟩ := kv
    simp only [List.all_cons, Bool.and_eq_true] at hm
    simp only [mapGet]
    split
    · exact hm.1
    · split
      · exact hd
      · exact ih hm.2

/-- Replacing a tile by one whose scratchpad is canonical keeps the memories' canonical form. -/
theorem State.setTile_wf (s : State) (t : Nat) (x : Tile) (h : s.wf = true) (hx : Memory.wf x.mem = true) :
    (s.setTile t x).wf = true := by
  simp only [State.wf, Bool.and_eq_true] at h ⊢
  refine ⟨⟨h.1.1, ?_⟩, h.2⟩
  exact all_mapSet {} (fun kv => Memory.wf kv.2.mem) s.tiles t x h.1.2 hx

/-- Replacing a core by one whose data memory is canonical keeps the memories' canonical form. -/
theorem State.setCore_wf (s : State) (n : Nat) (x : Core) (h : s.wf = true) (hx : Memory.wf x.dmem = true) :
    (s.setCore n x).wf = true := by
  simp only [State.wf, Bool.and_eq_true] at h ⊢
  refine ⟨h.1, ?_⟩
  exact all_mapSet {} (fun kv => Memory.wf kv.2.dmem) s.cores n x h.2 hx

/-- A tile's scratchpad is canonical. -/
theorem State.tile_wf (s : State) (t : Nat) (h : s.wf = true) : Memory.wf (s.tile t).mem = true := by
  simp only [State.wf, Bool.and_eq_true] at h
  exact mapGet_all {} (fun x : Tile => Memory.wf x.mem) s.tiles t h.1.2 rfl

/-- A core's data memory is canonical. -/
theorem State.core_wf (s : State) (n : Nat) (h : s.wf = true) : Memory.wf (s.core n).dmem = true := by
  simp only [State.wf, Bool.and_eq_true] at h
  exact mapGet_all {} (fun x : Core => Memory.wf x.dmem) s.cores n h.2 rfl

/-- Writes of a scratchpad keep the memories' canonical form. -/
theorem spWrite_wf (path t a : Nat) (bs : List Byte) (s : State) (h : s.wf = true) :
    (spWrite path t a bs s).wf = true := by
  induction bs generalizing a s with
  | nil => exact h
  | cons b bs ih =>
    simp only [spWrite]
    apply ih
    have hn : (s.noteWrite ⟨path, t⟩ (s.tileCtx t) (spLoc t a) (mapGet 0 (s.tile t).mem (a % 2 ^ 16))).wf = true := h
    exact State.setTile_wf _ _ _ hn (mapSet_wf 0 _ _ _ (State.tile_wf _ _ hn))

/-- The memories after reset are in canonical form. -/
theorem reset_memories_wf : State.reset.wf = true := rfl

end Sys2Proof.Machine
end

