-- ==== Sys2Proof/Laws/Operations.lean ====
section
/-! SUPPORT. One lemma for each shared operation of the meanings, which says what it does: the unit that executes, a
firing, a request at its unit, a word of a drover core, and taking an exception. -/

namespace Sys2Proof.Machine

open Sys2Proof

/-! ## The unit that executes -/

theorem onSlot_slot {s : State} {fr : Firing} (go : Firing → State → State) (h : s.unit = .slot fr) :
    onSlot s go = .next (go fr s) := by simp [onSlot, h]
theorem onSlot_core {s : State} {n : Nat} (go : Firing → State → State) (h : s.unit = .core n) :
    onSlot s go = .next (s.enterHandler n fcIllegal none (some 3)) := by simp [onSlot, h]
theorem onCore_core {s : State} {n : Nat} (go : Nat → State → State) (h : s.unit = .core n) :
    onCore s go = .next (go n s) := by simp [onCore, h]
theorem onBoth_slot {s : State} {fr : Firing} (a : Firing → State → State) (b : Nat → State → State)
    (h : s.unit = .slot fr) : onBoth s a b = .next (a fr s) := by simp [onBoth, h]
theorem onBoth_core {s : State} {n : Nat} (a : Firing → State → State) (b : Nat → State → State)
    (h : s.unit = .core n) : onBoth s a b = .next (b n s) := by simp [onBoth, h]
theorem onRequest_slot {s : State} {fr : Firing} (a : Firing → State → State) (u : Engine → Req → State → State)
    (h : s.unit = .slot fr) : onRequest s a u = .next (a fr s) := by simp [onRequest, h]
theorem onRequest_engine {s : State} {e : Engine} {r : Req} (a : Firing → State → State) (u : Engine → Req → State → State)
    (h : s.unit = .engine e r) : onRequest s a u = .next (u e r s) := by simp [onRequest, h]
theorem onAll_slot {s : State} {fr : Firing} (a : Firing → State → State) (b : Nat → State → State)
    (u : Engine → Req → State → State) (h : s.unit = .slot fr) : onAll s a b u = .next (a fr s) := by simp [onAll, h]
theorem onAll_core {s : State} {n : Nat} (a : Firing → State → State) (b : Nat → State → State)
    (u : Engine → Req → State → State) (h : s.unit = .core n) : onAll s a b u = .next (b n s) := by simp [onAll, h]
theorem onAll_engine {s : State} {e : Engine} {r : Req} (a : Firing → State → State) (b : Nat → State → State)
    (u : Engine → Req → State → State) (h : s.unit = .engine e r) : onAll s a b u = .next (u e r s) := by simp [onAll, h]

/-! ## A firing (R38 to R41, R55, R147) -/

/-- What a firing puts into the output queue is one entry, unless there is nothing. -/
theorem Firing.push_eq (fr : Firing) (items : List OutItem) (s : State) :
    fr.push items s = if items = [] then s
      else s.modElem fr.tile fr.elem fun x => { x with out := x.out ++ [{ slot := fr.slot, items := items }] } := by
  simp [Firing.push, State.pushOut]
theorem Firing.emit_both (fr : Firing) (f : Form) (kind : Kind) (v tag : W64) (b : Bool) (s : State) :
    fr.emit f [0, 1] kind v tag b s = fr.push (fr.item f 0 (fr.token s kind v tag b) ++ fr.item f 1 (fr.token s kind v tag b)) s := by
  simp [Firing.emit]
theorem Firing.emit_one (fr : Firing) (f : Form) (k : Nat) (kind : Kind) (v tag : W64) (b : Bool) (s : State) :
    fr.emit f [k] kind v tag b s = fr.push (fr.item f k (fr.token s kind v tag b)) s := by
  simp [Firing.emit]
/-- With `PRED` 11 the predicate chooses the target, else both targets get the value (R55). -/
theorem Firing.fields_pred (fr : Firing) (f : Form) (h : f.pred = 3) :
    fr.fields f = if fr.predicate f then [0] else [1] := by simp [Firing.fields, h]
theorem Firing.fields_plain (fr : Firing) (f : Form) (h : f.pred ≠ 3) : fr.fields f = [0, 1] := if_neg h

/-- An evaluated firing. -/
theorem Firing.run_eval {fr : Firing} {f : Form} {s : State} {tag : W64} (eval : W64 → State → State)
    (he : fr.err? = none) (hs : fr.hasStop = false) (hp : fr.suppressed f = false) (ht : fr.tagOut s f = .ok tag) :
    fr.run f eval s = eval tag s := by simp [Firing.run, he, hs, hp, ht]
/-- An `ERR` operand goes to both targets (R41). -/
theorem Firing.run_err {fr : Firing} {f : Form} {s : State} {tag v : W64} (eval : W64 → State → State)
    (he : fr.err? = some v) (ht : fr.tagOut s f = .ok tag) : fr.run f eval s = fr.emit f [0, 1] .err v tag false s := by
  simp [Firing.run, he, ht]
theorem Firing.run_err_tag {fr : Firing} {f : Form} {s : State} {v : W64} {code : Nat} (eval : W64 → State → State)
    (he : fr.err? = some v) (ht : fr.tagOut s f = .error code) :
    fr.run f eval s = fr.emit f [0, 1] .err v fr.tag false s := by simp [Firing.run, he, ht]
/-- A `STOP` operand goes to both targets (R40). -/
theorem Firing.run_stop {fr : Firing} {f : Form} {s : State} {tag : W64} (eval : W64 → State → State)
    (he : fr.err? = none) (hs : fr.hasStop = true) (ht : fr.tagOut s f = .ok tag) :
    fr.run f eval s = fr.emit f [0, 1] .stop (Config.stopValue s.tick) tag false s := by simp [Firing.run, he, hs, ht]
/-- A suppressed firing does nothing (R55). -/
theorem Firing.run_suppressed {fr : Firing} {f : Form} {s : State} (eval : W64 → State → State)
    (he : fr.err? = none) (hs : fr.hasStop = false) (hp : fr.suppressed f = true) : fr.run f eval s = s := by
  simp [Firing.run, he, hs, hp]
/-- A `TAGOP` that does not apply faults (R147). -/
theorem Firing.run_tag {fr : Firing} {f : Form} {s : State} {code : Nat} (eval : W64 → State → State)
    (he : fr.err? = none) (hp : fr.suppressed f = false) (ht : fr.tagOut s f = .error code) :
    fr.run f eval s = fr.raise f code (some (f.tagop.setWidth 64)) s := by
  cases h : fr.hasStop <;> simp [Firing.run, he, h, hp, ht]

/-- A firing that sends a request. -/
theorem Firing.send_eval {fr : Firing} {i : Instr} {s : State} {tag : W64}
    (he : fr.err? = none) (hs : fr.hasStop = false) (hp : fr.suppressed (formOf i) = false)
    (ht : fr.tagOut s (formOf i) = .ok tag) :
    fr.sendRequest i s = fr.push [.request (fr.request i .data tag s)] s := by
  simp [Firing.sendRequest, he, hs, hp, ht]
theorem Firing.send_err {fr : Firing} {i : Instr} {s : State} {tag v : W64}
    (he : fr.err? = some v) (ht : fr.tagOut s (formOf i) = .ok tag) :
    fr.sendRequest i s = fr.push [.request { fr.request i .err tag s with l := v }] s := by
  simp [Firing.sendRequest, he, ht]
theorem Firing.send_stop {fr : Firing} {i : Instr} {s : State} {tag : W64}
    (he : fr.err? = none) (hs : fr.hasStop = true) (ht : fr.tagOut s (formOf i) = .ok tag) :
    fr.sendRequest i s = fr.push [.request (fr.request i .stop tag s)] s := by
  simp [Firing.sendRequest, he, hs, ht]
theorem Firing.send_suppressed {fr : Firing} {i : Instr} {s : State}
    (he : fr.err? = none) (hs : fr.hasStop = false) (hp : fr.suppressed (formOf i) = true) :
    fr.sendRequest i s = s := by simp [Firing.sendRequest, he, hs, hp]

/-- An access sends its request where it is not suppressed, and its notice where it is (R179). -/
theorem Firing.sendAccess_live {fr : Firing} {i : Instr} {s : State}
    (h : fr.err?.isSome = true ∨ fr.hasStop = true ∨ fr.suppressed (formOf i) = false) :
    fr.sendAccess i s = fr.sendRequest i s := by
  refine if_neg ?_
  simp only [Bool.and_eq_true, Option.isNone_iff_eq_none, Bool.not_eq_true', not_and]
  intro h1 h2
  obtain ⟨⟨_, h1⟩, h3⟩ := h1
  rcases h with h | h | h <;> simp_all
theorem Firing.sendAccess_suppressed {fr : Firing} {i : Instr} {s : State}
    (he : fr.err? = none) (hs : fr.hasStop = false) (hp : fr.suppressed (formOf i) = true) :
    fr.sendAccess i s = if waveOrdered i then
      fr.push [.request { fr.request i .data fr.tag s with notice := true }] s else s := by
  unfold Firing.sendAccess
  cases hw : waveOrdered i <;> simp [he, hs, hp, Firing.send_suppressed]

/-! ## A request at its unit (R49, R174) -/

theorem State.serve_data {s s' : State} {e : Engine} {r : Req} {m : Act (W64 × Bool)} {v : W64}
    (hk : r.kind = .data) (hm : m s = .ok ((v, true), s')) : s.serve e r m = (s'.endHead e).reply e r .data v := by
  simp [State.serve, hk, hm]
theorem State.serve_fault {s : State} {e : Engine} {r : Req} {m : Act (W64 × Bool)} {code : Nat} {val aux : Option W64}
    (hk : r.kind = .data) (hm : m s = .error (.fault code val aux)) :
    s.serve e r m = s.failAt e r code val aux := by simp [State.serve, hk, hm]
theorem State.serve_absent {s : State} {e : Engine} {r : Req} {m : Act (W64 × Bool)} {va : Nat}
    (hk : r.kind = .data) (hm : m s = .error (.absent va)) : s.serve e r m = s.notePark e r va := by
  simp [State.serve, hk, hm]
theorem State.serve_wait {s : State} {e : Engine} {r : Req} {m : Act (W64 × Bool)}
    (hk : r.kind = .data) (hm : m s = .error .wait) : s.serve e r m = s := by simp [State.serve, hk, hm]
theorem State.serve_forward {s : State} {e : Engine} {r : Req} {m : Act (W64 × Bool)}
    (hk : r.kind = .mark ∨ r.kind = .stop ∨ r.kind = .err) : s.serve e r m = (s.endHead e).forward e r := by
  simp [State.serve, hk]

/-- A unit that serves in order executes a request that waits behind none. -/
theorem State.serveOrdered_data {s s' : State} {e : Engine} {r : Req} {m : Act W64} {v : W64}
    (hk : r.kind = .data) (hb : s.behindParked e r = false) (hm : m s = .ok (v, s')) :
    s.serveOrdered e r m = (s'.endHead e).reply e r .data v := by
  simp [State.serveOrdered, hk, hb, State.serve, Act.andThen, hm, Act.ret]
theorem State.serveOrdered_behind {s : State} {e : Engine} {r : Req} {m : Act W64}
    (hk : r.kind = .data) (hb : s.behindParked e r = true) : s.serveOrdered e r m = s := by
  simp [State.serveOrdered, hk, hb]
theorem State.serveOrdered_fault {s : State} {e : Engine} {r : Req} {m : Act W64} {code : Nat} {val aux : Option W64}
    (hk : r.kind = .data) (hb : s.behindParked e r = false) (hm : m s = .error (.fault code val aux)) :
    s.serveOrdered e r m = s.failAt e r code val aux := by
  simp [State.serveOrdered, hk, hb, State.serve, Act.andThen, hm]
theorem State.serveOrdered_absent {s : State} {e : Engine} {r : Req} {m : Act W64} {va : Nat}
    (hk : r.kind = .data) (hb : s.behindParked e r = false) (hm : m s = .error (.absent va)) :
    s.serveOrdered e r m = s.notePark e r va := by
  simp [State.serveOrdered, hk, hb, State.serve, Act.andThen, hm]
theorem State.serveOrdered_forward {s : State} {e : Engine} {r : Req} {m : Act W64}
    (hk : r.kind = .mark ∨ r.kind = .stop ∨ r.kind = .err) : s.serveOrdered e r m = (s.endHead e).forward e r := by
  have : r.kind ≠ .data := by rcases hk with h | h | h <;> simp [h]
  simp [State.serveOrdered, this, State.serve, hk]

/-! ## A word of a drover core (R116, R123, R127) -/

/-- A word writes its result to `xd` and the core goes on; `x0` discards it (R116). -/
theorem State.coreResult_eq (s : State) (n : Nat) (f : Form) (v : W64) :
    s.coreResult n f v = s.setCore n { s.core n with
      x := if f.tgt0.toNat % 32 = 0 then (s.core n).x else mapSet 0 (s.core n).x (f.tgt0.toNat % 32) v
      pc := (s.core n).pc + 1
      wait := .none } := by
  by_cases h : f.tgt0.toNat % 32 = 0 <;>
    simp [State.coreResult, State.modCore, Core.next, Core.setReg, Form.xd, h]
theorem State.coreDone_eq (s : State) (n : Nat) :
    s.coreDone n = s.setCore n { s.core n with pc := (s.core n).pc + 1, wait := .none } := rfl

/-- Taking an exception outside a handler (R127): the record, the saved registers, the status and the `PC`. -/
theorem State.enterHandler_enters {s : State} {n : Nat} (code : Nat) (val aux : Option W64) (h : (s.core n).hnd = false) :
    s.enterHandler n code val aux = s.setCore n (Core.enter { s.core n with
      dmem := memWrite (s.core n).dmem recAddr (FaultRec.bytes
        { code := code, own := true, ukind := 1, unit := unitCore (s.core n).pc.toNat n
          ctx := (s.core n).ctxid.setWidth 8
          val := val
          aux := aux } s.tick) } code (s.core n).pc) := by
  simp [State.enterHandler, State.ownFault, h]
theorem State.enterHandler_halts {s : State} {n : Nat} (code : Nat) (val aux : Option W64) (h : (s.core n).hnd = true) :
    s.enterHandler n code val aux = ((s.setCore n { s.core n with
      status := statusOf true (s.core n).ppriv true (s.core n).priv
      running := false }).recordFatal (s.ownFault n code val aux)).fatal (s.core n).ctxid.toNat := by
  simp [State.enterHandler, h]

theorem State.coreAct_ok {α : Type} {s s' : State} {n : Nat} {m : Act α} {a : α} (k : α → State → State)
    (h : m s = .ok (a, s')) : s.coreAct n m k = k a s' := by simp [State.coreAct, h]
theorem State.coreAct_fault {α : Type} {s : State} {n : Nat} {m : Act α} {code : Nat} {val aux : Option W64}
    (k : α → State → State) (h : m s = .error (.fault code val aux)) : s.coreAct n m k = s.enterHandler n code val aux := by
  simp [State.coreAct, h]
theorem State.coreAct_absent {α : Type} {s : State} {n : Nat} {m : Act α} {va : Nat} (k : α → State → State)
    (h : m s = .error (.absent va)) :
    s.coreAct n m k = s.enterHandler n fcPageAbsent (some (BitVec.ofNat 64 va)) none := by simp [State.coreAct, h]
theorem State.coreAct_wait {α : Type} {s : State} {n : Nat} {m : Act α} (k : α → State → State)
    (h : m s = .error .wait) : s.coreAct n m k = s := by simp [State.coreAct, h]

/-- A command enters the scoreboard, or a full one stalls the core (R123). -/
theorem State.command_room {s : State} {n : Nat} (port : Nat) (r : Req) (h : (s.core n).cmds.length < 32) :
    s.command n port r = (s.setCore n { s.core n with
      cmds := (s.core n).cmds ++ [{ req := r, port := port }] }).coreDone n := by simp [State.command, h]
theorem State.command_full {s : State} {n : Nat} (port : Nat) (r : Req) (h : ¬ (s.core n).cmds.length < 32) :
    s.command n port r = s := by simp [State.command, h]
theorem State.query_reply {s : State} {n : Nat} (f : Form) (port : Nat) (r : Req) {v : W64} (h : (s.core n).wait = .reply v) :
    s.query n f port r = s.coreResult n f v := by simp [State.query, h]
theorem State.query_waits {s : State} {n : Nat} (f : Form) (port : Nat) (r : Req) {k : Nat} (h : (s.core n).wait = .sent k) :
    s.query n f port r = s := by simp [State.query, h]
theorem State.query_sends {s : State} {n : Nat} (f : Form) (port : Nat) (r : Req) (h : (s.core n).wait = .fetched)
    (hl : (s.core n).cmds.length < 32) : s.query n f port r = s.setCore n { s.core n with
      cmds := (s.core n).cmds ++ [{ req := r, port := port }]
      wait := .sent r.seq } := by simp [State.query, h, hl]

/-- A jump inside the code memory (R124). -/
theorem State.jump_inside {s : State} {n : Nat} {target : Int} (link : Core → Core) (h : 0 ≤ target ∧ target < 4096) :
    s.jump n target link = s.modCore n fun c => { (link c) with pc := BitVec.ofNat 12 target.toNat, wait := .none } := by
  simp [State.jump, h]
theorem State.jump_outside {s : State} {n : Nat} {target : Int} (link : Core → Core) (h : ¬ (0 ≤ target ∧ target < 4096)) :
    s.jump n target link = s.coreFault n fcIllegal := by simp [State.jump, h]

/-! ## What a unit does by itself -/

/-- A unit's own write behind a kept one of its context is kept. -/
theorem State.writeLate_behind {s : State} {a : Agent} {c : BitVec 8} {va : Nat} {bs : List Byte} {noted : Bool}
    (h : s.lateFor c = true) : s.writeLate a c va bs noted =
      { s with late := s.late ++ [{ path := a.path, unit := a.unit, ctx := c, va, bytes := bs, noted }] } := by
  simp [State.writeLate, h]
/-- With none before it, it is performed, -/
theorem State.writeLate_done {s s' : State} {a : Agent} {c : BitVec 8} {va : Nat} {bs : List Byte} {noted : Bool}
    (h : s.lateFor c = false) (hw : vwrite a c va bs s = .ok ((), s')) : s.writeLate a c va bs noted = s' := by
  simp [State.writeLate, h, hw]
/-- or kept, while its page migrates or is not reached, or is absent, -/
theorem State.writeLate_waits {s : State} {a : Agent} {c : BitVec 8} {va : Nat} {bs : List Byte} {noted : Bool} {e : Stop}
    (h : s.lateFor c = false) (hw : vwrite a c va bs s = .error e) (he : e = .wait ∨ ∃ va', e = .absent va') :
    s.writeLate a c va bs noted =
      { s with late := s.late ++ [{ path := a.path, unit := a.unit, ctx := c, va, bytes := bs, noted }] } := by
  obtain rfl | ⟨va', rfl⟩ := he <;> simp [State.writeLate, h, hw]
/-- or it meets a fault, which is recorded for the entry of a colour. -/
theorem State.writeLate_fault {s : State} {a : Agent} {c : BitVec 8} {va code : Nat} {bs : List Byte} {noted : Bool}
    {val aux : Option W64} (h : s.lateFor c = false) (hw : vwrite a c va bs s = .error (.fault code val aux)) :
    s.writeLate a c va bs noted =
      if noted then s.record { code, ukind := 3, unit := unitDie 0 192, ctx := c, val, aux } else s := by
  simp [State.writeLate, h, hw]

/-- A copy of a save area that is started with none before it is done if it can be, -/
theorem State.startJob_done {s s' : State} {c : Nat} {j : CtxJob} (h : (s.ctx c).jobs = []) (hj : s.doJob c j = some s') :
    s.startJob c j = s' := by simp [State.startJob, h, hj]
/-- and else waits in its order. -/
theorem State.startJob_waits {s : State} {c : Nat} {j : CtxJob} (h : (s.ctx c).jobs ≠ [] ∨ s.doJob c j = none) :
    s.startJob c j = s.modCtx c fun x => { x with jobs := x.jobs ++ [j] } := by
  by_cases hj : (s.ctx c).jobs = []
  · simp [State.startJob, hj, h.resolve_left (absurd hj)]
  · simp [State.startJob, hj]

/-- A double fault of a DRAINING or FAULTED context is recorded, -/
theorem State.recordFatal_records {s : State} {r : FaultRec}
    (h : (s.ctx r.ctx.toNat).state = .draining ∨ (s.ctx r.ctx.toNat).state = .faulted) : s.recordFatal r = s.record r := by
  simp [State.recordFatal, h]
/-- and of another one it is not. -/
theorem State.recordFatal_fatal {s : State} {r : FaultRec}
    (h : ¬ ((s.ctx r.ctx.toNat).state = .draining ∨ (s.ctx r.ctx.toNat).state = .faulted)) : s.recordFatal r = s := by
  simp [State.recordFatal, h]

/-- A unit without a record that has yet to be appended does not wait. -/
theorem State.unitWaits_nil {s : State} (u : Nat × Nat) (c : BitVec 8) (h : s.pend = []) : s.unitWaits u c = false := by
  simp [State.unitWaits, h]

/-- Knowledge of a core's commands reaches its region, and nothing else changes. -/
theorem State.showCommands_keeps (s : State) (n : Nat) : ∃ es, s.showCommands n = { s with stale := es } := by
  unfold State.showCommands
  generalize (16384 + n) :: regionTiles n = us
  induction us generalizing s with
  | nil => exact ⟨s.stale, rfl⟩
  | cons u us ih => exact ih (s.showKnown (commandKey n) u)

/-- The ratio changes that waited are made, and no other field of the channel changes. -/
theorem Lane.change_keeps (x : Lane) : x.change.state = x.state ∧ x.change.postponed = x.postponed ∧ x.change.wants = [] := by
  unfold Lane.change
  generalize x.wants = ws
  induction ws generalizing x with
  | nil => exact ⟨rfl, rfl, rfl⟩
  | cons w ws ih => exact ih { x with ratio := w.2.1, lend := w.2.2 }

/-! ## The step (R426) -/

/-- A step without work only passes the turn on. -/
theorem step_idle {s : State} (h : s.nextWork = none) : step s = .next s.passTurn.advance := by simp [step, h]
/-- A step with work executes it. -/
theorem step_work {s s' : State} {i : Instr} (h : s.nextWork = some (i, s')) : step s = finish (exec i s') := by
  simp [step, h]
/-- What a step answers comes from nothing to do or from one execution. -/
theorem step_next {s t : State} (h : step s = .next t) :
    (s.nextWork = none ∧ t = s.passTurn.advance) ∨ ∃ i s' u, s.nextWork = some (i, s') ∧ exec i s' = .next u ∧ finish (.next u) = .next t := by
  unfold step at h
  split at h
  · rename_i hw; exact .inl ⟨hw, by simpa using h.symm⟩
  · rename_i i s' hw
    refine .inr ⟨i, s', ?_⟩
    cases he : exec i s' with
    | next u => exact ⟨u, hw, rfl, by rw [he] at h; exact h⟩
    | fault x => rw [he] at h; simp [finish] at h
    | refused x => rw [he] at h; simp [finish] at h

end Sys2Proof.Machine
end

