-- ==== Sys2Proof/Tests/Slice0.lean ====
section
/-! SUPPORT. The tests of the model: the words of each family decode, ill-formed terms are refused, single steps, and for each
statement a state and operands that meet its hypotheses. Expected values are written out from the spec's encodings and
rules. -/

namespace Sys2Proof.Tests

open Sys2Proof Sys2Proof.Machine Sys2Proof.Claims

set_option Elab.async false

/-! ## States for the tests -/

/-- Page tables of four levels from 0x2000 on: the page at 0 is readable and writable, at 0x20000. -/
def pages : FMap Byte := [(0x2000, 0x01), (0x2001, 0x40), (0x4000, 0x01), (0x4001, 0x60), (0x6000, 0x01), (0x6001, 0x80),
  (0x8000, 0x1B), (0x8002, 0x02)]
/-- A RUNNING context: its page tables, 4 colours and 8 event counters at 0x100. -/
def ctx1 : Ctx := { state := .running, regs := [(0x102, 0x2000), (0x106, 4), (0x112, 0x100), (0x113, 8)] }
/-- A RUNNING group of context 1 with tile 0 and drover core 0. -/
def group0 : Group := { state := .running, ctx := 1, gw := 1, gh := 1, roles := 1, manifest := [(0, 0x8000), (0x3FF, 0x8000)]
                        kernel := { state := .running } }
/-- Tile 0 in group 0, with a RUNNING element 0. -/
def tile0 : Tile := { group := some 0, elems := [(0, { state := .running })] }
/-- Core 0 of context 1 and group 0, which runs. -/
def core0 : Core := { ctxid := 1, group := some 0, running := true, active := true }
/-- A device that serves, with context 1, group 0, tile 0 and core 0. -/
def base : State := { State.reset with
  mem := pages, tiles := [(0, tile0)], cores := [(0, core0)], ctxs := [(1, ctx1)], groups := [(0, group0)],
  mgmt := { start := .serving } }
/-- Core 0 executes a word. -/
def atCore (c : Core) : State := { base with cores := [(0, c)], unit := .core 0 }
/-- A firing is executed. -/
def atSlot (fr : Firing) : State := { base with unit := .slot fr }
/-- A unit executes a request, the head of its queue. -/
def atEngine (e : Engine) (r : Req) : State := { base with queues := [(engineKey e, [r])], unit := .engine e r }
/-- A word without parameters. -/
def form0 : Form := ⟨0, 0, 0, 0, 0, 0, 0, 0, 0, 0, 0⟩
/-- A word with `xd` x4, `xa` x1, `xb` x2 and `xc` x3. -/
def form4 : Form := ⟨0, 0, 0, 0, 4, 0xC41, 0, 0, 0, 0, 0⟩
/-- A firing whose operands are three data tokens. -/
def fire (l r c : W64) : Firing :=
  { tile := 0, elem := 0, slot := 0, l := { kind := some .data, value := l }, r := { kind := some .data, value := r }
    c := { kind := some .data, value := c } }
/-- What succeeds has a result. -/
theorem result_of_ok {ε α : Type} {m : Except ε α} (h : m.toBool = true) : ∃ x, m = .ok x := by
  cases m with
  | ok x => exact ⟨x, rfl⟩
  | error e => cases h
/-- What fails has a reason. -/
theorem reason_of_error {ε α : Type} {m : Except ε α} (h : m.toBool = false) : ∃ e, m = .error e := by
  cases m with
  | ok x => cases h
  | error e => exact ⟨e, rfl⟩

/-- A choice of an element that meets a test. -/
theorem pair_of_choice {x : Choice} {p : Cand → Bool} (h : (match x with | .pair c => p c | _ => false) = true) :
    ∃ c, x = .pair c ∧ p c = true := by
  cases x with
  | pair c => exact ⟨c, rfl, h⟩
  | nothing => cases h
  | control k act => cases h

/-! ## Decoding: the fields of each word, read from its bits -/

/-- Words of the steering family, each field read from its bits in the encoding (R50). -/
theorem test_decode_steering :
  decode .fabric 0x01000000000008002200000000000000 = .ok (.pass ⟨0, 0, 0, 0, 0x200088, 0, 0, 0, 0, 0, 0⟩) ∧
  decode .fabric 0x02C10FFFFFFFF8002200000000000000 = .ok (.const ⟨3, 0, 0x10, 0xffffffff, 0x200088, 0, 0, 0, 0, 0, 0⟩) ∧
  decode .fabric 0x03400000000008002220008911000000 = .ok (.steer ⟨1, 0, 0, 0, 0x200088, 0x200089, 4, 2, 0, 0, 0⟩) ∧
  decode .fabric 0x04400000000008002200000000000000 = .ok (.merge ⟨1, 0, 0, 0, 0x200088, 0, 0, 0, 0, 0, 0⟩) ∧
  decode .fabric 0x05800000000008002200000000000000 = .ok (.select ⟨2, 0, 0, 0, 0x200088, 0, 0, 0, 0, 0, 0⟩) ∧
  decode .fabric 0x06400000000008002200000000000000 = .ok (.gate ⟨1, 0, 0, 0, 0x200088, 0, 0, 0, 0, 0, 0⟩) ∧
  decode .fabric 0x07000000000000000000000000000000 = .ok (.sink ⟨0, 0, 0, 0, 0, 0, 0, 0, 0, 0, 0⟩) ∧
  decode .fabric 0x08000000000008002200000000400000 = .ok (.mark ⟨0, 0, 0, 0, 0x200088, 0, 0, 0, 2, 0, 0⟩) ∧
  decode .fabric 0x0A000000000108002200000000400000 = .ok (.rndq ⟨0, 0, 0, 0x10, 0x200088, 0, 0, 0, 2, 0, 0⟩) ∧
  decode .fabric 0x0900000000004FFE0100000000200000 = .ok (.align ⟨0, 0, 0, 4, 0x3ff804, 0, 0, 0, 1, 0, 0⟩) ∧
  decode .fabric 0x0B001000000008002200000000200000 = .ok (.count ⟨0, 0, 1, 0, 0x200088, 0, 0, 0, 1, 0, 0⟩) ∧
  decode .fabric 0x0C000000000550000000000000000000 = .ok (.trap ⟨0, 0, 0, 0x55, 0, 0, 0, 0, 0, 0, 0⟩) ∧
  decode .fabric 0x0D000000000078002200000000000000 = .ok (.assert ⟨0, 0, 0, 7, 0x200088, 0, 0, 0, 0, 0, 0⟩) ∧
  decode .drover 0x0E00000E00088000000000A400000000 = .ok (.inj ⟨0, 0, 0, 0xe00088, 0, 0xa4, 0, 0, 0, 0, 0⟩) ∧
  decode .drover 0x0F0010000000000000C0000000000000 = .ok (.take ⟨0, 0, 1, 0, 3, 0, 0, 0, 0, 0, 0⟩) ∧
  decode .fabric 0x10000000002088002200000000000000 = .ok (.reconf ⟨0, 0, 0, 0x208, 0x200088, 0, 0, 0, 0, 0, 0⟩) ∧
  decode .fabric 0x11001000000008002200000000000000 = .ok (.probe ⟨0, 0, 1, 0, 0x200088, 0, 0, 0, 0, 0, 0⟩) := by decide

/-- Words of the tag space family, each field read from its bits in the encoding (R50). -/
theorem test_decode_tag_space :
  decode .fabric 0x20001000010F08006000000000200000 = .ok (.alloc ⟨0, 0, 1, 0x10f0, 0x200180, 0, 0, 0, 1, 0, 0⟩) ∧
  decode .fabric 0x21000000000408006020010800400000 = .ok (.iter ⟨0, 0, 0, 0x40, 0x200180, 0x200108, 0, 0, 2, 0, 0⟩) ∧
  decode .fabric 0x22500000000018002200000000000000 = .ok (.free ⟨1, 2, 0, 1, 0x200088, 0, 0, 0, 0, 0, 0⟩) ∧
  decode .fabric 0x23000000000008002220008900000000 = .ok (.popt ⟨0, 0, 0, 0, 0x200088, 0x200089, 0, 0, 0, 0, 0⟩) ∧
  decode .fabric 0x24000000000038002200000000000000 = .ok (.pusht ⟨0, 0, 0, 3, 0x200088, 0, 0, 0, 0, 0, 0⟩) ∧
  decode .fabric 0x25400000000008002200000000000000 = .ok (.setit ⟨1, 0, 0, 0, 0x200088, 0, 0, 0, 0, 0, 0⟩) ∧
  decode .fabric 0x26001000000008002200000000000000 = .ok (.gettag ⟨0, 0, 1, 0, 0x200088, 0, 0, 0, 0, 0, 0⟩) ∧
  decode .fabric 0x27400000000028002200000000000000 = .ok (.mktag ⟨1, 0, 0, 2, 0x200088, 0, 0, 0, 0, 0, 0⟩) ∧
  decode .fabric 0x28000012000898002200000000200000 = .ok (.spawn ⟨0, 0, 0, 0x1200089, 0x200088, 0, 0, 0, 1, 0, 0⟩) ∧
  decode .fabric 0x29000000000000000000000000400000 = .ok (.returnTok ⟨0, 0, 0, 0, 0, 0, 0, 0, 2, 0, 0⟩) ∧
  decode .fabric 0x2A000000000018002200000000000000 = .ok (.tsize ⟨0, 0, 0, 1, 0x200088, 0, 0, 0, 0, 0, 0⟩) ∧
  decode .drover 0x2B0000000000000001C0000000000000 = .ok (.colq ⟨0, 0, 0, 0, 7, 0, 0, 0, 0, 0, 0⟩) := by decide

/-- Words of the integer family, each field read from its bits in the encoding (R50). -/
theorem test_decode_integer :
  decode .fabric 0x40404000000008002200000000000000 = .ok (.add ⟨1, 0, 4, 0, 0x200088, 0, 0, 0, 0, 0, 0⟩) ∧
  decode .fabric 0x41410000000018002200000000020000 = .ok (.sub ⟨1, 0, 0x10, 1, 0x200088, 0, 0, 0, 0, 0, 2⟩) ∧
  decode .fabric 0x42448000000008002200000000000000 = .ok (.mul ⟨1, 0, 0x48, 0, 0x200088, 0, 0, 0, 0, 0, 0⟩) ∧
  decode .fabric 0x43418000000008002200000000000000 = .ok (.mulh ⟨1, 0, 0x18, 0, 0x200088, 0, 0, 0, 0, 0, 0⟩) ∧
  decode .fabric 0x44800000000008002200000000000000 = .ok (.mad ⟨2, 0, 0, 0, 0x200088, 0, 0, 0, 0, 0, 0⟩) ∧
  decode .fabric 0x45400000000008002200000000000000 = .ok (.div ⟨1, 0, 0, 0, 0x200088, 0, 0, 0, 0, 0, 0⟩) ∧
  decode .fabric 0x46408000000008002200000000000000 = .ok (.rem ⟨1, 0, 8, 0, 0x200088, 0, 0, 0, 0, 0, 0⟩) ∧
  decode .fabric 0x47004000000008002200000000000000 = .ok (.neg ⟨0, 0, 4, 0, 0x200088, 0, 0, 0, 0, 0, 0⟩) ∧
  decode .fabric 0x48058000000008002200000000000000 = .ok (.abs ⟨0, 0, 0x58, 0, 0x200088, 0, 0, 0, 0, 0, 0⟩) ∧
  decode .fabric 0x49460000000008002200000000000000 = .ok (.min ⟨1, 0, 0x60, 0, 0x200088, 0, 0, 0, 0, 0, 0⟩) ∧
  decode .fabric 0x4A410000000008002200000000000000 = .ok (.max ⟨1, 0, 0x10, 0, 0x200088, 0, 0, 0, 0, 0, 0⟩) ∧
  decode .fabric 0x4B402000000008002200000000000000 = .ok (.cmp ⟨1, 0, 2, 0, 0x200088, 0, 0, 0, 0, 0, 0⟩) ∧
  decode .fabric 0x4C420000000FF8002200000000020000 = .ok (.and ⟨1, 0, 0x20, 0xff, 0x200088, 0, 0, 0, 0, 0, 2⟩) ∧
  decode .fabric 0x4D420000000008002200000000000000 = .ok (.or ⟨1, 0, 0x20, 0, 0x200088, 0, 0, 0, 0, 0, 0⟩) ∧
  decode .fabric 0x4E420000000008002200000000000000 = .ok (.xor ⟨1, 0, 0x20, 0, 0x200088, 0, 0, 0, 0, 0, 0⟩) ∧
  decode .fabric 0x4F020000000008002200000000000000 = .ok (.not ⟨0, 0, 0x20, 0, 0x200088, 0, 0, 0, 0, 0, 0⟩) ∧
  decode .fabric 0x50408000000048002200000000020000 = .ok (.shl ⟨1, 0, 8, 4, 0x200088, 0, 0, 0, 0, 0, 2⟩) ∧
  decode .fabric 0x51418000000008002200000000000000 = .ok (.shr ⟨1, 0, 0x18, 0, 0x200088, 0, 0, 0, 0, 0, 0⟩) ∧
  decode .fabric 0x52448000000038002200000000020000 = .ok (.sar ⟨1, 0, 0x48, 3, 0x200088, 0, 0, 0, 0, 0, 2⟩) ∧
  decode .fabric 0x53420000000008002200000000000000 = .ok (.rot ⟨1, 0, 0x20, 0, 0x200088, 0, 0, 0, 0, 0, 0⟩) ∧
  decode .fabric 0x54008000000008002200000000000000 = .ok (.clz ⟨0, 0, 8, 0, 0x200088, 0, 0, 0, 0, 0, 0⟩) ∧
  decode .fabric 0x55020000000008002200000000000000 = .ok (.popc ⟨0, 0, 0x20, 0, 0x200088, 0, 0, 0, 0, 0, 0⟩) ∧
  decode .fabric 0x56410000008108002200000000020000 = .ok (.bfx ⟨1, 0, 0x10, 0x810, 0x200088, 0, 0, 0, 0, 0, 2⟩) ∧
  decode .fabric 0x57820000004048002200000000030000 = .ok (.bfi ⟨2, 0, 0x20, 0x404, 0x200088, 0, 0, 0, 0, 0, 3⟩) ∧
  decode .fabric 0x58011000000008002200000000000000 = .ok (.ext ⟨0, 0, 0x11, 0, 0x200088, 0, 0, 0, 0, 0, 0⟩) ∧
  decode .fabric 0x5941B000000408002200000000050000 = .ok (.agen ⟨1, 0, 0x1b, 0x40, 0x200088, 0, 0, 0, 0, 0, 5⟩) ∧
  decode .fabric 0x5A013000000008002200000000000000 = .ok (.sat ⟨0, 0, 0x13, 0, 0x200088, 0, 0, 0, 0, 0, 0⟩) := by decide

/-- Words of the floating family, each field read from its bits in the encoding (R50). -/
theorem test_decode_floating :
  decode .fabric 0x60428000000008002200000000000000 = .ok (.fadd ⟨1, 0, 0x28, 0, 0x200088, 0, 0, 0, 0, 0, 0⟩) ∧
  decode .fabric 0x61439000000008002200000000000000 = .ok (.fsub ⟨1, 0, 0x39, 0, 0x200088, 0, 0, 0, 0, 0, 0⟩) ∧
  decode .fabric 0x62444000000008002200000000000000 = .ok (.fmul ⟨1, 0, 0x44, 0, 0x200088, 0, 0, 0, 0, 0, 0⟩) ∧
  decode .fabric 0x63828000000008002200000000000000 = .ok (.fma ⟨2, 0, 0x28, 0, 0x200088, 0, 0, 0, 0, 0, 0⟩) ∧
  decode .fabric 0x6E42B000000008002200000000000000 = .ok (.fdiv ⟨1, 0, 0x2b, 0, 0x200088, 0, 0, 0, 0, 0, 0⟩) ∧
  decode .fabric 0x64430000000008002200000000000000 = .ok (.fmin ⟨1, 0, 0x30, 0, 0x200088, 0, 0, 0, 0, 0, 0⟩) ∧
  decode .fabric 0x65428000000008002200000000020000 = .ok (.fmax ⟨1, 0, 0x28, 0, 0x200088, 0, 0, 0, 0, 0, 2⟩) ∧
  decode .fabric 0x66038000000008002200000000000000 = .ok (.fabs ⟨0, 0, 0x38, 0, 0x200088, 0, 0, 0, 0, 0, 0⟩) ∧
  decode .fabric 0x67028000000008002200000000000000 = .ok (.fneg ⟨0, 0, 0x28, 0, 0x200088, 0, 0, 0, 0, 0, 0⟩) ∧
  decode .fabric 0x6842D000000008002200000000000000 = .ok (.fcmp ⟨1, 0, 0x2d, 0, 0x200088, 0, 0, 0, 0, 0, 0⟩) ∧
  decode .fabric 0x77028000000008002200000000000000 = .ok (.fclass ⟨0, 0, 0x28, 0, 0x200088, 0, 0, 0, 0, 0, 0⟩) ∧
  decode .fabric 0x69028000000008002200000000000000 = .ok (.frcp ⟨0, 0, 0x28, 0, 0x200088, 0, 0, 0, 0, 0, 0⟩) ∧
  decode .fabric 0x6A02A000000008002200000000000000 = .ok (.frsq ⟨0, 0, 0x2a, 0, 0x200088, 0, 0, 0, 0, 0, 0⟩) ∧
  decode .fabric 0x6B030000000008002200000000000000 = .ok (.fsqrt ⟨0, 0, 0x30, 0, 0x200088, 0, 0, 0, 0, 0, 0⟩) ∧
  decode .fabric 0x6C028000000008002200000000000000 = .ok (.fexp2 ⟨0, 0, 0x28, 0, 0x200088, 0, 0, 0, 0, 0, 0⟩) ∧
  decode .fabric 0x6D028000000008002200000000000000 = .ok (.flog2 ⟨0, 0, 0x28, 0, 0x200088, 0, 0, 0, 0, 0, 0⟩) ∧
  decode .fabric 0x6F030000000278002200000000000000 = .ok (.cvt ⟨0, 0, 0x30, 0x27, 0x200088, 0, 0, 0, 0, 0, 0⟩) ∧
  decode .fabric 0x7002B000000008002200000000000000 = .ok (.frnd ⟨0, 0, 0x2b, 0, 0x200088, 0, 0, 0, 0, 0, 0⟩) ∧
  decode .fabric 0x71838000000008002200000000000000 = .ok (.vdot ⟨2, 0, 0x38, 0, 0x200088, 0, 0, 0, 0, 0, 0⟩) ∧
  decode .fabric 0x72040000000008002200000000000000 = .ok (.vsum ⟨0, 0, 0x40, 0, 0x200088, 0, 0, 0, 0, 0, 0⟩) ∧
  decode .fabric 0x73438000000008002200000000000000 = .ok (.vpack ⟨1, 0, 0x38, 0, 0x200088, 0, 0, 0, 0, 0, 0⟩) ∧
  decode .fabric 0x74031000000018002200000000000000 = .ok (.vunpk ⟨0, 0, 0x31, 1, 0x200088, 0, 0, 0, 0, 0, 0⟩) ∧
  decode .fabric 0x75458012345678002200000000000000 = .ok (.vshuf ⟨1, 0, 0x58, 0x1234567, 0x200088, 0, 0, 0, 0, 0, 0⟩) ∧
  decode .fabric 0x76028000000008002240000000000000 = .ok (.scaleSend ⟨0, 0, 0x28, 0, 0x200089, 0, 0, 0, 0, 0, 0⟩) ∧
  decode .fabric 0x76428000000108002200000000000000 = .ok (.scaleApply ⟨1, 0, 0x28, 0x10, 0x200088, 0, 0, 0, 0, 0, 0⟩) := by decide

/-- Words of the request family, each field read from its bits in the encoding (R50). -/
theorem test_decode_request :
  decode .fabric 0x80003000004028002200000000060000 = .ok (.ld ⟨0, 0, 3, 0x402, 0x200088, 0, 0, 0, 0, 0, 6⟩) ∧
  decode .fabric 0x81402000000088002200000000050000 = .ok (.st ⟨1, 0, 2, 8, 0x200088, 0, 0, 0, 0, 0, 5⟩) ∧
  decode .fabric 0x8200A000000008002200000000000000 = .ok (.lds ⟨0, 0, 0xa, 0, 0x200088, 0, 0, 0, 0, 0, 0⟩) ∧
  decode .fabric 0x83413000000000000000000000000000 = .ok (.sts ⟨1, 0, 0x13, 0, 0, 0, 0, 0, 0, 0, 0⟩) ∧
  decode .fabric 0x84000000000008002200000000000000 = .ok (.lkup ⟨0, 0, 0, 0, 0x200088, 0, 0, 0, 0, 0, 0⟩) ∧
  decode .fabric 0x85400000000058002200000000010000 = .ok (.ttset ⟨1, 0, 0, 5, 0x200088, 0, 0, 0, 0, 0, 1⟩) ∧
  decode .fabric 0x86001000000008002200000000000000 = .ok (.ttinv ⟨0, 0, 1, 0, 0x200088, 0, 0, 0, 0, 0, 0⟩) ∧
  decode .fabric 0x87001000000048002200000000000000 = .ok (.feq ⟨0, 0, 1, 4, 0x200088, 0, 0, 0, 0, 0, 0⟩) ∧
  decode .fabric 0x88000000000208002200000000000000 = .ok (.feset ⟨0, 0, 0, 0x20, 0x200088, 0, 0, 0, 0, 0, 0⟩) ∧
  decode .fabric 0x89410000000008002200000000000000 = .ok (.atom ⟨1, 0, 0x10, 0, 0x200088, 0, 0, 0, 0, 0, 0⟩) ∧
  decode .fabric 0x8A428000000108002200000001020000 = .ok (.red ⟨1, 0, 0x28, 0x10, 0x200088, 0, 0, 2, 0, 0, 2⟩) ∧
  decode .fabric 0x8B002000000008002200000000000000 = .ok (.fence ⟨0, 0, 2, 0, 0x200088, 0, 0, 0, 0, 0, 0⟩) ∧
  decode .fabric 0x8C000000010048002200000000000000 = .ok (.xfence ⟨0, 0, 0, 0x1004, 0x200088, 0, 0, 0, 0, 0, 0⟩) ∧
  decode .fabric 0x8D402000000008002200000001220000 = .ok (.reord ⟨1, 0, 2, 0, 0x200088, 0, 0, 2, 1, 0, 2⟩) ∧
  decode .fabric 0x8E001000000038002200000000000000 = .ok (.pref ⟨0, 0, 1, 3, 0x200088, 0, 0, 0, 0, 0, 0⟩) := by decide

/-- Words of the stream family, each field read from its bits in the encoding (R50). -/
theorem test_decode_stream :
  decode .fabric 0xA0002000004008002200000000000000 = .ok (.strm ⟨0, 0, 2, 0x400, 0x200088, 0, 0, 0, 0, 0, 0⟩) ∧
  decode .fabric 0xA1000000004408002200000000000000 = .ok (.gthr ⟨0, 0, 0, 0x440, 0x200088, 0, 0, 0, 0, 0, 0⟩) ∧
  decode .fabric 0xA2003000004808002200000000000000 = .ok (.scat ⟨0, 0, 3, 0x480, 0x200088, 0, 0, 0, 0, 0, 0⟩) ∧
  decode .fabric 0xA3002000000008002200000000000000 = .ok (.sclose ⟨0, 0, 2, 0, 0x200088, 0, 0, 0, 0, 0, 0⟩) ∧
  decode .fabric 0xA300A000000008002200000000000000 = .ok (.scloseCut ⟨0, 0, 0xa, 0, 0x200088, 0, 0, 0, 0, 0, 0⟩) ∧
  decode .fabric 0xA4002000000108002200000000000000 = .ok (.swait ⟨0, 0, 2, 0x10, 0x200088, 0, 0, 0, 0, 0, 0⟩) ∧
  decode .drover 0xA5000000000000000000000000000000 = .ok (.sbar ⟨0, 0, 0, 0, 0, 0, 0, 0, 0, 0, 0⟩) ∧
  decode .fabric 0xA6402000000218002200000000000000 = .ok (.circ ⟨1, 0, 2, 0x21, 0x200088, 0, 0, 0, 0, 0, 0⟩) ∧
  decode .fabric 0xA7000080680118002200000000000000 = .ok (.circx ⟨0, 0, 0, 0x8068011, 0x200088, 0, 0, 0, 0, 0, 0⟩) := by decide

/-- Words of the ring family, each field read from its bits in the encoding (R50). -/
theorem test_decode_ring :
  decode .fabric 0xA8002003202008002200000000000000 = .ok (.ring ⟨0, 0, 2, 0x320200, 0x200088, 0, 0, 0, 0, 0, 0⟩) ∧
  decode .fabric 0xA9001000000008002200000000000000 = .ok (.rcommitRsv ⟨0, 0, 1, 0, 0x200088, 0, 0, 0, 0, 0, 0⟩) ∧
  decode .fabric 0xA9009000000008002200000000000000 = .ok (.rcommitRsvw ⟨0, 0, 9, 0, 0x200088, 0, 0, 0, 0, 0, 0⟩) ∧
  decode .fabric 0xA9011000000008002200000000000000 = .ok (.rcommitPub ⟨0, 0, 0x11, 0, 0x200088, 0, 0, 0, 0, 0, 0⟩) ∧
  decode .fabric 0xA9019000000008002200000000000000 = .ok (.rcommitTail ⟨0, 0, 0x19, 0, 0x200088, 0, 0, 0, 0, 0, 0⟩) ∧
  decode .fabric 0xAA003000000008002200000000000000 = .ok (.rpop ⟨0, 0, 3, 0, 0x200088, 0, 0, 0, 0, 0, 0⟩) ∧
  decode .fabric 0xAB001000000008002200000000000000 = .ok (.rstatRing ⟨0, 0, 1, 0, 0x200088, 0, 0, 0, 0, 0, 0⟩) ∧
  decode .fabric 0xAB008000000008002200000000000000 = .ok (.rstatEng ⟨0, 0, 8, 0, 0x200088, 0, 0, 0, 0, 0, 0⟩) ∧
  decode .fabric 0xAB010000000008002200000000000000 = .ok (.rstatEngclr ⟨0, 0, 0x10, 0, 0x200088, 0, 0, 0, 0, 0, 0⟩) ∧
  decode .fabric 0xAC402000032888002200000000000000 = .ok (.mma ⟨1, 0, 2, 0x3288, 0x200088, 0, 0, 0, 0, 0, 0⟩) ∧
  decode .fabric 0xAD800000001088002200000000000000 = .ok (.mmas ⟨2, 0, 0, 0x108, 0x200088, 0, 0, 0, 0, 0, 0⟩) ∧
  decode .fabric 0xAE000000000018002200000000000000 = .ok (.accz ⟨0, 0, 0, 1, 0x200088, 0, 0, 0, 0, 0, 0⟩) ∧
  decode .fabric 0xAF003000000108002200000000000000 = .ok (.accrd ⟨0, 0, 3, 0x10, 0x200088, 0, 0, 0, 0, 0, 0⟩) ∧
  decode .fabric 0xB0039000000408002220008900000000 = .ok (.nzscan ⟨0, 0, 0x39, 0x40, 0x200088, 0x200089, 0, 0, 0, 0, 0⟩) ∧
  decode .fabric 0xB1001000000358002220008900000000 = .ok (.xsplit ⟨0, 0, 1, 0x35, 0x200088, 0x200089, 0, 0, 0, 0, 0⟩) := by decide

/-- Words of the tree family, each field read from its bits in the encoding (R50). -/
theorem test_decode_tree :
  decode .fabric 0xC0401000000008002200000000000000 = .ok (.tapp ⟨1, 0, 1, 0, 0x200088, 0, 0, 0, 0, 0, 0⟩) ∧
  decode .fabric 0xC1400000000008002200000000000000 = .ok (.tfork ⟨1, 0, 0, 0, 0x200088, 0, 0, 0, 0, 0, 0⟩) ∧
  decode .fabric 0xC2400000000008002200000000000000 = .ok (.tckpt ⟨1, 0, 0, 0, 0x200088, 0, 0, 0, 0, 0, 0⟩) ∧
  decode .fabric 0xC3400000000008002200000000000000 = .ok (.tcommit ⟨1, 0, 0, 0, 0x200088, 0, 0, 0, 0, 0, 0⟩) ∧
  decode .fabric 0xC4400000000008002200000000000000 = .ok (.ttrunc ⟨1, 0, 0, 0, 0x200088, 0, 0, 0, 0, 0, 0⟩) ∧
  decode .fabric 0xC5400000000008002200000000000000 = .ok (.tevict ⟨1, 0, 0, 0, 0x200088, 0, 0, 0, 0, 0, 0⟩) ∧
  decode .fabric 0xC6000000000008002200000000000000 = .ok (.tdesc ⟨0, 0, 0, 0, 0x200088, 0, 0, 0, 0, 0, 0⟩) ∧
  decode .fabric 0xC7400000000008002200000000000000 = .ok (.tmask ⟨1, 0, 0, 0, 0x200088, 0, 0, 0, 0, 0, 0⟩) ∧
  decode .fabric 0xC8400000000008002200000000000000 = .ok (.tstatLen ⟨1, 0, 0, 0, 0x200088, 0, 0, 0, 0, 0, 0⟩) ∧
  decode .fabric 0xC8002000000008002200000000000000 = .ok (.tstatPool ⟨0, 0, 2, 0, 0x200088, 0, 0, 0, 0, 0, 0⟩) ∧
  decode .fabric 0xC9400000000008002200000000000000 = .ok (.rope3Rot ⟨1, 0, 0, 0, 0x200088, 0, 0, 0, 0, 0, 0⟩) ∧
  decode .fabric 0xC9001000000008002200000000000000 = .ok (.rope3Set ⟨0, 0, 1, 0, 0x200088, 0, 0, 0, 0, 0, 0⟩) ∧
  decode .fabric 0xC9002000000008002200000000000000 = .ok (.rope3Getlo ⟨0, 0, 2, 0, 0x200088, 0, 0, 0, 0, 0, 0⟩) ∧
  decode .fabric 0xC9003000000008002200000000000000 = .ok (.rope3Gethi ⟨0, 0, 3, 0, 0x200088, 0, 0, 0, 0, 0, 0⟩) ∧
  decode .fabric 0xCA000000000008002200000000000000 = .ok (.tfree ⟨0, 0, 0, 0, 0x200088, 0, 0, 0, 0, 0, 0⟩) := by decide

/-- Words of the sequence family, each field read from its bits in the encoding (R50). -/
theorem test_decode_sequence :
  decode .fabric 0xD0400000000008002200000000000000 = .ok (.gmask ⟨1, 0, 0, 0, 0x200088, 0, 0, 0, 0, 0, 0⟩) ∧
  decode .fabric 0xD0801000000008002200000000000000 = .ok (.gmaskH ⟨2, 0, 1, 0, 0x200088, 0, 0, 0, 0, 0, 0⟩) ∧
  decode .fabric 0xD1400000000008002200000000000000 = .ok (.gstep ⟨1, 0, 0, 0, 0x200088, 0, 0, 0, 0, 0, 0⟩) ∧
  decode .fabric 0xD1801000000008002200000000000000 = .ok (.gstepH ⟨2, 0, 1, 0, 0x200088, 0, 0, 0, 0, 0, 0⟩) ∧
  decode .fabric 0xD2000000000008002200000000000000 = .ok (.gsnap ⟨0, 0, 0, 0, 0x200088, 0, 0, 0, 0, 0, 0⟩) ∧
  decode .fabric 0xD3400000000008002200000000000000 = .ok (.grest ⟨1, 0, 0, 0, 0x200088, 0, 0, 0, 0, 0, 0⟩) ∧
  decode .fabric 0xD4000000000008002200000000000000 = .ok (.gfork ⟨0, 0, 0, 0, 0x200088, 0, 0, 0, 0, 0, 0⟩) ∧
  decode .fabric 0xD5000000000008002200000000000000 = .ok (.gdrop ⟨0, 0, 0, 0, 0x200088, 0, 0, 0, 0, 0, 0⟩) ∧
  decode .fabric 0xD6000000001008002200000000000000 = .ok (.samp ⟨0, 0, 0, 0x100, 0x200088, 0, 0, 0, 0, 0, 0⟩) ∧
  decode .fabric 0xD7000000000008002220000000000000 = .ok (.lstat ⟨0, 0, 0, 0, 0x200088, 0x200000, 0, 0, 0, 0, 0⟩) ∧
  decode .fabric 0xD8000000001008002200000000000000 = .ok (.penal ⟨0, 0, 0, 0x100, 0x200088, 0, 0, 0, 0, 0, 0⟩) ∧
  decode .fabric 0xD9401000000008002200000000000000 = .ok (.acceptOpen ⟨1, 0, 1, 0, 0x200088, 0, 0, 0, 0, 0, 0⟩) ∧
  decode .fabric 0xD9400000000008002200000000000000 = .ok (.acceptWalk ⟨1, 0, 0, 0, 0x200088, 0, 0, 0, 0, 0, 0⟩) ∧
  decode .fabric 0xD9002000000008002200000000000000 = .ok (.acceptAbort ⟨0, 0, 2, 0, 0x200088, 0, 0, 0, 0, 0, 0⟩) ∧
  decode .fabric 0xDA400000000008002200000000000000 = .ok (.commit ⟨1, 0, 0, 0, 0x200088, 0, 0, 0, 0, 0, 0⟩) ∧
  decode .fabric 0xDA001000000008002200000000000000 = .ok (.commitFree ⟨0, 0, 1, 0, 0x200088, 0, 0, 0, 0, 0, 0⟩) ∧
  decode .fabric 0xDB801000000008002200000000000000 = .ok (.rng ⟨2, 0, 1, 0, 0x200088, 0, 0, 0, 0, 0, 0⟩) := by decide

/-- Words of the drover family, each field read from its bits in the encoding (R50). -/
theorem test_decode_drover :
  decode .drover 0xE0000FFFFFFFD0000000000000000000 = .ok (.jmp ⟨0, 0, 0, 0xfffffffd, 0, 0, 0, 0, 0, 0, 0⟩) ∧
  decode .drover 0xE1002000000050000000008300000000 = .ok (.br ⟨0, 0, 2, 5, 0, 0x83, 0, 0, 0, 0, 0⟩) ∧
  decode .drover 0xE20000000000A0000040000000000000 = .ok (.call ⟨0, 0, 0, 0xa, 1, 0, 0, 0, 0, 0, 0⟩) ∧
  decode .drover 0xE3000000000000000000000100000000 = .ok (.ret ⟨0, 0, 0, 0, 0, 1, 0, 0, 0, 0, 0⟩) ∧
  decode .drover 0xE40000000000300001C0000000000000 = .ok (.sysrd ⟨0, 0, 0, 3, 7, 0, 0, 0, 0, 0, 0⟩) ∧
  decode .drover 0xE5000000000040000000000900000000 = .ok (.syswr ⟨0, 0, 0, 4, 0, 9, 0, 0, 0, 0, 0⟩) ∧
  decode .drover 0xE6000000000000000000000000000000 = .ok (.eret ⟨0, 0, 0, 0, 0, 0, 0, 0, 0, 0, 0⟩) ∧
  decode .drover 0xE7000000000000000000000100000000 = .ok (.exit ⟨0, 0, 0, 0, 0, 1, 0, 0, 0, 0, 0⟩) ∧
  decode .drover 0xE7001000000000000000000200000000 = .ok (.exitDiscard ⟨0, 0, 1, 0, 0, 2, 0, 0, 0, 0, 0⟩) := by decide

/-- Words of the queue family, each field read from its bits in the encoding (R50). -/
theorem test_decode_queue :
  decode .drover 0xE8000000003E800000C000A400000000 = .ok (.wait ⟨0, 0, 0, 0x3e8, 3, 0xa4, 0, 0, 0, 0, 0⟩) ∧
  decode .drover 0xE90000000000000001C0012800000000 = .ok (.qpost ⟨0, 0, 0, 0, 7, 0x128, 0, 0, 0, 0, 0⟩) ∧
  decode .drover 0xEA0000000000000000C000A400000000 = .ok (.evsigAdd ⟨0, 0, 0, 0, 3, 0xa4, 0, 0, 0, 0, 0⟩) ∧
  decode .drover 0xEA0010000000000000C000A400000000 = .ok (.evsigSet ⟨0, 0, 1, 0, 3, 0xa4, 0, 0, 0, 0, 0⟩) ∧
  decode .drover 0xEB0000000000000000C000A400000000 = .ok (.launch ⟨0, 0, 0, 0, 3, 0xa4, 0, 0, 0, 0, 0⟩) := by decide

/-- Words of the configure family, each field read from its bits in the encoding (R50). -/
theorem test_decode_configure :
  decode .drover 0xEC0000000000000000C018A400000000 = .ok (.cfgw ⟨0, 0, 0, 0, 3, 0x18a4, 0, 0, 0, 0, 0⟩) ∧
  decode .drover 0xED0010000000000001C0000400000000 = .ok (.cfgr ⟨0, 0, 1, 0, 7, 4, 0, 0, 0, 0, 0⟩) ∧
  decode .drover 0xEE0000000000000000C0000400000000 = .ok (.cfgclrTile ⟨0, 0, 0, 0, 3, 4, 0, 0, 0, 0, 0⟩) ∧
  decode .drover 0xEE0010000000000000C0000400000000 = .ok (.cfgclrElem ⟨0, 0, 1, 0, 3, 4, 0, 0, 0, 0, 0⟩) := by decide

/-- Words of the group family, each field read from its bits in the encoding (R50). -/
theorem test_decode_group :
  decode .drover 0xEF0000000000000000C000A400000000 = .ok (.gbind ⟨0, 0, 0, 0, 3, 0xa4, 0, 0, 0, 0, 0⟩) ∧
  decode .drover 0xF00000000000000000C0000400000000 = .ok (.grel ⟨0, 0, 0, 0, 3, 4, 0, 0, 0, 0, 0⟩) ∧
  decode .drover 0xF00010000000000000C0000400000000 = .ok (.grelForce ⟨0, 0, 1, 0, 3, 4, 0, 0, 0, 0, 0⟩) ∧
  decode .drover 0xF10000000000000000C000A400000000 = .ok (.barinitAlloc ⟨0, 0, 0, 0, 3, 0xa4, 0, 0, 0, 0, 0⟩) ∧
  decode .drover 0xF10010000000000000C0000400000000 = .ok (.barinitFree ⟨0, 0, 1, 0, 3, 4, 0, 0, 0, 0, 0⟩) ∧
  decode .drover 0xF10020000000000000C0000400000000 = .ok (.barinitQuery ⟨0, 0, 2, 0, 3, 4, 0, 0, 0, 0, 0⟩) ∧
  decode .fabric 0xF2000000001058002200000000000000 = .ok (.bararrTok ⟨0, 0, 0, 0x105, 0x200088, 0, 0, 0, 0, 0, 0⟩) ∧
  decode .fabric 0xF2001000001058002200000000200000 = .ok (.bararrRnd ⟨0, 0, 1, 0x105, 0x200088, 0, 0, 0, 1, 0, 0⟩) ∧
  decode .drover 0xF2000000000000000180000300000000 = .ok (.bararr ⟨0, 0, 0, 0, 6, 3, 0, 0, 0, 0, 0⟩) := by decide

/-- Words of the context family, each field read from its bits in the encoding (R50). -/
theorem test_decode_context :
  decode .drover 0xF50000000000200000C0000400000000 = .ok (.preemptSoft ⟨0, 0, 0, 2, 3, 4, 0, 0, 0, 0, 0⟩) ∧
  decode .drover 0xF50010000000200000C0000400000000 = .ok (.preemptHard ⟨0, 0, 1, 2, 3, 4, 0, 0, 0, 0, 0⟩) ∧
  decode .drover 0xF30000000000000000C000A400000000 = .ok (.ctxsave ⟨0, 0, 0, 0, 3, 0xa4, 0, 0, 0, 0, 0⟩) ∧
  decode .drover 0xF40000000000100000C000A400000000 = .ok (.ctxrestRun ⟨0, 0, 0, 1, 3, 0xa4, 0, 0, 0, 0, 0⟩) ∧
  decode .drover 0xF40010000000100000C000A400000000 = .ok (.ctxrestLoad ⟨0, 0, 1, 1, 3, 0xa4, 0, 0, 0, 0, 0⟩) := by decide

/-- Words of the page family, each field read from its bits in the encoding (R50). -/
theorem test_decode_page :
  decode .drover 0xF60000000000600000C000A400000000 = .ok (.mapPa ⟨0, 0, 0, 6, 3, 0xa4, 0, 0, 0, 0, 0⟩) ∧
  decode .drover 0xF60010000000000000C000A400000000 = .ok (.mapZero ⟨0, 0, 1, 0, 3, 0xa4, 0, 0, 0, 0, 0⟩) ∧
  decode .drover 0xF60020000000000000C018A400000000 = .ok (.mapCopy ⟨0, 0, 2, 0, 3, 0x18a4, 0, 0, 0, 0, 0⟩) ∧
  decode .drover 0xF70000000000000000C0000400000000 = .ok (.unmap ⟨0, 0, 0, 0, 3, 4, 0, 0, 0, 0, 0⟩) ∧
  decode .drover 0xF70010000000000000C0000400000000 = .ok (.unmapDclr ⟨0, 0, 1, 0, 3, 4, 0, 0, 0, 0, 0⟩) ∧
  decode .drover 0xF80000000000000000C000A400000000 = .ok (.migr ⟨0, 0, 0, 0, 3, 0xa4, 0, 0, 0, 0, 0⟩) := by decide

/-- Words of the link family, each field read from its bits in the encoding (R50). -/
theorem test_decode_link :
  decode .drover 0xF90000000000000000C0000400000000 = .ok (.lnkcfgQuery ⟨0, 0, 0, 0, 3, 4, 0, 0, 0, 0, 0⟩) ∧
  decode .drover 0xF90010000000000000C0000400000000 = .ok (.lnkcfgTrain ⟨0, 0, 1, 0, 3, 4, 0, 0, 0, 0, 0⟩) ∧
  decode .drover 0xF90020000000000000C0000400000000 = .ok (.lnkcfgDown ⟨0, 0, 2, 0, 3, 4, 0, 0, 0, 0, 0⟩) ∧
  decode .drover 0xF90030000000000000C000A400000000 = .ok (.lnkcfgRatio ⟨0, 0, 3, 0, 3, 0xa4, 0, 0, 0, 0, 0⟩) ∧
  decode .drover 0xFA0000000000200000C0000400000000 = .ok (.lnkaddStart ⟨0, 0, 0, 2, 3, 4, 0, 0, 0, 0, 0⟩) ∧
  decode .drover 0xFA0010000000000000C0000400000000 = .ok (.lnkaddStat ⟨0, 0, 1, 0, 3, 4, 0, 0, 0, 0, 0⟩) ∧
  decode .drover 0xFA0020000000000000C0000400000000 = .ok (.lnkaddCancel ⟨0, 0, 2, 0, 3, 4, 0, 0, 0, 0, 0⟩) := by decide

/-- Words of the verify family, each field read from its bits in the encoding (R50). -/
theorem test_decode_verify :
  decode .drover 0xFE0000000000000000C018A400000000 = .ok (.bkptSet ⟨0, 0, 0, 0, 3, 0x18a4, 0, 0, 0, 0, 0⟩) ∧
  decode .drover 0xFE0010000000000000C018A400000000 = .ok (.bkptClr ⟨0, 0, 1, 0, 3, 0x18a4, 0, 0, 0, 0, 0⟩) ∧
  decode .drover 0xFE0020000000000000C018A400000000 = .ok (.bkptRes ⟨0, 0, 2, 0, 3, 0x18a4, 0, 0, 0, 0, 0⟩) ∧
  decode .drover 0xFB0000000000F00000C000A400000000 = .ok (.sigchk ⟨0, 0, 0, 0xf, 3, 0xa4, 0, 0, 0, 0, 0⟩) ∧
  decode .drover 0xFC0000000000000000C018A400000000 = .ok (.dgst ⟨0, 0, 0, 0, 3, 0x18a4, 0, 0, 0, 0, 0⟩) ∧
  decode .drover 0xFD0000000000000000C0000400000000 = .ok (.crcMem ⟨0, 0, 0, 0, 3, 4, 0, 0, 0, 0, 0⟩) ∧
  decode .drover 0xFD0010000000000000C0000400000000 = .ok (.crcTile ⟨0, 0, 1, 0, 3, 4, 0, 0, 0, 0, 0⟩) := by decide

/-! ## Well-formed terms: an ill-formed one for each check (R61, R63) -/

/-- `PASS` to a slot. -/
def passForm : Form := ⟨0, 0, 0, 0, 0x200088, 0, 0, 0, 0, 0, 0⟩
theorem test_wf_ok : (Instr.pass passForm).wf .fabric = true := by decide
/-- Check 3: a fabric instruction on a core, and a sequential one in a slot. -/
theorem test_wf_marking : fieldCheck .drover 0x01 passForm = 3 ∧ (Instr.pass passForm).wf .drover = false ∧
    (Instr.eret form0).wf .fabric = false := by decide
/-- Check 4: `PASS` with two ports. -/
theorem test_wf_arity : fieldCheck .fabric 0x01 { passForm with arity := 1 } = 4 ∧
    (Instr.pass { passForm with arity := 1 }).wf .fabric = false := by decide
/-- Check 5: the `TAGOP` 7, which is reserved. -/
theorem test_wf_tagop : fieldCheck .fabric 0x01 { passForm with tagop := 7 } = 5 ∧
    (Instr.pass { passForm with tagop := 7 }).wf .fabric = false := by decide
/-- Check 6: a modifier that `PASS` has not. -/
theorem test_wf_modifier : fieldCheck .fabric 0x01 { passForm with mod := 1 } = 6 ∧
    (Instr.pass { passForm with mod := 1 }).wf .fabric = false := by decide
/-- Check 7: a window for an instruction of one input, and one that goes past entry 63. -/
theorem test_wf_window : fieldCheck .fabric 0x01 { passForm with msbase := 1 } = 7 ∧
    (Instr.steer ⟨1, 0, 0, 0, 0x200088, 0x200089, 61, 2, 0, 0, 0⟩).wf .fabric = false ∧
    (Instr.steer ⟨1, 0, 0, 0, 0x200088, 0x200089, 60, 2, 0, 0, 0⟩).wf .fabric = true := by decide
/-- Check 8: an immediate that `PASS` does not take. -/
theorem test_wf_parameter : fieldCheck .fabric 0x01 { passForm with immp := 1 } = 8 ∧
    (Instr.pass { passForm with immp := 1 }).wf .fabric = false := by decide
/-- Check 9: an invalid target with other bits set. -/
theorem test_wf_target : fieldCheck .fabric 0x01 { passForm with tgt1 := 1 } = 9 ∧
    (Instr.pass { passForm with tgt1 := 1 }).wf .fabric = false := by decide
/-- A form that belongs to another constructor: `BARINIT.ALLOC` with the modifier of `QUERY`. -/
theorem test_wf_form : (Instr.barinitAlloc ⟨0, 0, 2, 0, 3, 4, 0, 0, 0, 0, 0⟩).wf .drover = false ∧
    (Instr.barinitQuery ⟨0, 0, 2, 0, 3, 4, 0, 0, 0, 0, 0⟩).wf .drover = true := by decide
/-- An event is no word. -/
theorem test_wf_event : Instr.placement.wf .fabric = false := by decide
/-- Words that the decoder refuses by name: checks 1 and 2, the empty word, and too few bytes. -/
theorem test_decode_refused :
    decode .fabric 0x12000000000000000000000000000000 = .error .opcode ∧
    decode .fabric 0xFF000000000000000000000000000000 = .error .opcode ∧
    decode .fabric 0x01000000000008002200000000000001 = .error .lowBits ∧
    decode .fabric 0 = .error .void ∧ (decodeBytes .fabric (List.replicate 15 0)).toBool = false := by decide

/-! ## One step -/

/-- A fabric word and a core word run as the first instruction after reset: `PASS` leaves a token in the output queue, and
`BR.GEU x3, x2` with equal registers jumps by 5 words. -/
theorem test_step_pass :
    (match step (State.reset.withFetchWord 128 0x01000000000008002200000000000000) with
      | .next s => (s.elem 0 0).out.length
      | _ => 0) = 1 := by decide +kernel
theorem test_step_branch :
    (match step (State.reset.withFetchWord 128 0xE1005000000050000000008300000000) with
      | .next s => (s.core 0).pc.toNat
      | _ => 0) = 5 := by decide +kernel
/-- `add x4, x1, x2` wraps and keeps its sources. -/
theorem test_add_wraps :
    (match exec (.add { form4 with mod := 24 }) (atCore { core0 with x := [(1, 0xFFFFFFFFFFFFFFFF), (2, 2)] }) with
      | .next s => ((s.core 0).reg 4, (s.core 0).reg 1, (s.core 0).pc.toNat)
      | _ => (0, 0, 0)) = (1, 0xFFFFFFFFFFFFFFFF, 1) := by decide +kernel
/-- A write of x0 is discarded. -/
theorem test_x0_discards :
    (match exec (.add { form4 with mod := 24, tgt0 := 0 }) (atCore { core0 with x := [(1, 1), (2, 2)] }) with
      | .next s => (s.core 0).x
      | _ => []) = [(1, 1), (2, 2)] := by decide +kernel
/-- `ERET` restores `PC` and `PRIV`. -/
theorem test_eret :
    (match exec (.eret form0) (atCore { core0 with status := 2, epc := 7 }) with
      | .next s => ((s.core 0).pc.toNat, (s.core 0).priv, (s.core 0).hnd)
      | _ => (0, true, true)) = (7, false, false) := by decide +kernel
/-- 1.0 + 2.0 of `FADD` on F32: a value of the table of formats (R75). -/
theorem test_fadd :
    (match exec (.fadd { form4 with mod := 40 }) (atCore { core0 with x := [(1, 0x3F800000), (2, 0x40000000)] }) with
      | .next s => (s.core 0).reg 4
      | _ => 0) = 0x40400000 := by decide +kernel
/-- `PUSHT` of field 9 on an empty tag: depth 1 and the field. -/
theorem test_push : tagPush 0 9 = 0x0002000000000009 ∧ tagPop (tagPush 0 9) = 0 := by decide

/-! ## The hypotheses of the statements can be met -/

theorem witness_DecodeOfEncode : (Instr.pass ⟨0, 0, 0, 0, 0x200088, 0, 0, 0, 0, 0, 0⟩).wf .fabric = true ∧
    (Instr.br ⟨0, 0, 2, 5, 0, 0x83, 0, 0, 0, 0, 0⟩).wf .drover = true := by decide +kernel
theorem witness_EncodeOfDecode : ∃ i, decode .fabric 0x03400000000008002220008911000000 = .ok i :=
  result_of_ok (by decide +kernel)
theorem witness_UnassignedOpcodeRefused :
    let w : W128 := 0xDF000000000000000000000000000000
    let s := atCore { core0 with code := [(0, w)] }
    wordOpcode w ∈ unassigned ∧ (s.core 0).running = true ∧ (s.core 0).hnd = false ∧
    mapGet 0 (s.core 0).code (s.core 0).pc.toNat = w ∧ (s.elem 0 1).state ≠ .fused ∧ (s.elem 0 1).state ≠ .running ∧
    mapGet false s.mgmt.badSlots ((0 * 16 + 1) * 32 + 0) = false := by decide +kernel
/-- A core inside its handler, and one at a breakpoint that it skips. -/
theorem witness_UnassignedOpcodeRefused_handler :
    let w : W128 := 0xDF000000000000000000000000000000
    let s := atCore { core0 with code := [(0, w)], status := 3, bkctl := 0x11 }
    (s.core 0).running = true ∧ (s.core 0).hnd = true ∧ mapGet 0 (s.core 0).code (s.core 0).pc.toNat = w ∧
    (s.core 0).wait = .none ∧ (s.core 0).atBreakpoint = true := by decide +kernel
theorem witness_WindowRules :
    let f : Form := ⟨1, 0, 0, 0, 0x200088, 0x200089, 0, 6, 0, 0, 0⟩
    let g : Form := ⟨0, 0, 0, 0, 0x200088, 0, 0, 0, 0, 0, 0⟩
    decode .fabric (encode (.steer f)) = .ok (.steer f) ∧ (Instr.steer f).parts = some (3, f) ∧ inputCount 3 f = 2 ∧
    decode .fabric (encode (.pass g)) = .ok (.pass g) ∧ (Instr.pass g).parts = some (1, g) ∧ inputCount 1 g = 1 := by decide +kernel
theorem witness_ModeExcludes :
    let w : W128 := 0xE1002000000050000000008300000000
    let v : W128 := 0x01000000000008002200000000000000
    wordOpcode w ≠ 0 ∧ w.extractLsb' 0 16 = 0 ∧ (opSpec (wordOpcode w)).map OpSpec.marking = some .sequential ∧
    wordOpcode v ≠ 0 ∧ v.extractLsb' 0 16 = 0 ∧ (opSpec (wordOpcode v)).map OpSpec.marking = some .fabric := by decide +kernel
/-- A core that fetches the branch of its word 0. -/
theorem witness_StepRunsInstruction_core :
    let s := State.reset.withFetchWord 128 0xE1002000000050000000008300000000
    s.mgmt.start = .serving ∧ s.turn = .core 0 ∧ (s.core 0).running = true ∧ s.queuedFault 0 = false ∧
    s.draining (s.core 0).context = false ∧ (s.core 0).wait = .none ∧ (s.core 0).atBreakpoint = false ∧
    ∃ i, decode .drover (mapGet 0 (s.core 0).code (s.core 0).pc.toNat) = .ok i := by
  and_intros <;> first | exact result_of_ok (by decide +kernel) | decide +kernel
/-- A slot that is ready to fire. -/
theorem witness_StepRunsInstruction_slot :
    let s := State.reset.withFetchWord 128 0x01000000000008002200000000000000
    s.mgmt.start = .serving ∧ s.turn = .elem 0 0 ∧ (s.elem 0 0).mayFire = true ∧ s.heldPair 0 0 = none ∧
    (∀ k, k < 32 → (s.slot 0 0 k).start = true → s.startHeld 0 0 k = true) ∧
    ((s.noteAttempts 0 0).elem 0 0).skipBreak = false := by decide +kernel
/-- The pair that it fires. -/
theorem witness_StepRunsInstruction_pair :
    let s1 := (State.reset.withFetchWord 128 0x01000000000008002200000000000000).noteAttempts 0 0
    ∃ c, s1.elemChoice 0 0 = .pair c ∧ ((s1.slot 0 0 c.slot).breaks c.ent.tag == false &&
      ((((s1.takePair 0 0 (s1.candsOf 0 0) c).settle 0).slot 0 0 c.slot).word.isSome)) = true :=
  pair_of_choice (by decide +kernel)
/-- The last slot of an element starts: a `CONST` without inputs. -/
theorem witness_StepRunsInstruction_start :
    let x : Element := { state := .running, slots := [(31, { word := some (.const { form0 with arity := 3 }), start := true })] }
    let s : State := { base with turn := .elem 0 0, tiles := [(0, { tile0 with elems := [(0, x)] })] }
    s.mgmt.start = .serving ∧ (s.elem 0 0).mayFire = true ∧ s.heldPair 0 0 = none ∧ (s.slot 0 0 31).start = true ∧ s.startHeld 0 0 31 = false ∧
    (s.slot 0 0 31).word = some (.const { form0 with arity := 3 }) ∧ ∀ j, j < 31 → (s.slot 0 0 j).start = false := by
  decide +kernel
theorem witness_StepRunsInstruction_unit :
    let r : Req := { instr := .lkup form0, origin := .slot 0 0 0 }
    let s : State := { atEngine (.tagTable 0) r with turn := .engine (.tagTable 0) }
    s.mgmt.start = .serving ∧ s.turn = .engine (.tagTable 0) ∧ s.queue (.tagTable 0) = [r] ∧
    s.markerWaits (.tagTable 0) r = false ∧ s.recordWaits (.tagTable 0) r.ctx = false := by decide +kernel
theorem witness_StepRunsInstruction_event :
    let s : State := { base with turn := .event .placement }
    s.mgmt.start = .serving ∧ s.turn = .event .placement ∧ Instr.placement.parts = none := by decide +kernel
/-- The pair that a breakpoint held, which fires first. -/
theorem witness_StepRunsInstruction_held :
    let x : Element := { state := .running, slots := [(0, { word := some (.pass form0) })], latch := some (readyPair (.pass form0))
                         skipBreak := true, heldSlot := 0 }
    let s : State := { base with turn := .elem 0 0, tiles := [(0, { tile0 with elems := [(0, x)] })] }
    s.mgmt.start = .serving ∧ (s.elem 0 0).mayFire = true ∧ (s.heldPair 0 0).isSome = true := by decide +kernel
theorem witness_NothingBeforeStart :
    let s : State := { State.reset with turn := .core 0 }
    s.mgmt.start ≠ .serving ∧ s.turn ≠ .event .powerUp ∧ s.turn ≠ .event .powerLoss ∧
    ∀ a, s.turn ≠ .event (.managementPortRequest a) := by
  refine ⟨?_, ?_, ?_, fun _ h => nomatch h⟩ <;> decide +kernel
theorem witness_CoreAndEventTurnsGoOn : (∃ n, { base with turn := .core n }.turn = .core 0) ∧
    ∃ i, { base with turn := .event i }.turn = .event .placement := ⟨⟨0, rfl⟩, .placement, rfl⟩
theorem witness_StepKeepsMemoryCanonical : Memory.wf base.mem = true ∧
    ∃ t, step { base with turn := .event .placement } = .next t := ⟨by decide +kernel, _, rfl⟩
theorem witness_CanonicalMemoryUnique : Memory.wf pages = true := by decide +kernel
/-- Two bytes at the end of the page at 0. -/
theorem witness_PageStoreReadsBack :
    let p : Page := ⟨0x2001B, 3, 0x8000⟩
    Memory.wf base.mem = true ∧ p.tgt = 0 ∧ bitOf p.e 6 = false ∧ 0xFFFE % regionSize p.lvl + 2 ≤ regionSize p.lvl ∧
    (agentD 0).path < 9 ∧ ¬ (p.pa 0xFFFE ≤ p.epa ∧ p.epa < p.pa 0xFFFE + 2) := by decide +kernel
theorem witness_HandlerEntryAndReturn :
    ((atCore core0).core 0).hnd = false ∧ (atCore core0).unit = .core 0 ∧
    let s := atCore { core0 with status := 3 }
    (s.core 0).hnd = true ∧ (s.ctx (s.core 0).ctxid.toNat).state = .running := by decide +kernel
/-- User mode, a system register of control mode at each end of its range, and a group that is not FREE. -/
theorem witness_ControlWordsInUserMode :
    let s := atCore { core0 with status := 0 }
    s.unit = .core 0 ∧ (s.core 0).priv = false ∧ (s.core 0).hnd = false ∧
    (let f := { form4 with imm := 0x11F }
     0x100 ≤ f.imm.toNat % 4096 ∧ f.imm.toNat % 4096 ≤ 0x11F) ∧
    ({ form4 with imm := 0x008 } : Form).imm.toNat % 4096 ∈ [0x000, 0x002, 0x004, 0x008] ∧
    (xaOf s 0 form4).toNat < 2 ^ 20 ∧ (s.group ((xaOf s 0 form4).toNat % 4096)).state ≠ .free := by decide +kernel
theorem witness_ArithmeticWords : (0x40, Instr.add, addValue) ∈ arithRows ++ bitRows ∧ (atCore core0).unit = .core 0 :=
  ⟨List.mem_append_left _ List.mem_cons_self, rfl⟩
/-- The last word of the code; the conditions 0 and 5, which hold and do not hold. -/
theorem witness_ControlFlow :
    let s := atCore { core0 with pc := 4095, x := [(1, 1), (2, 2)] }
    s.unit = .core 0 ∧ (s.core 0).hnd = false ∧ form4.mod = 0 ∧ ({ form4 with mod := 1 } : Form).mod = 1 ∧
    ({ form4 with mod := 5 } : Form).mod.toNat = 5 ∧ ¬ (xbOf s 0 form4).toNat ≤ (xaOf s 0 form4).toNat ∧
    form4.mod.toNat = 0 ∧ xaOf s 0 form0 = xbOf s 0 form0 ∧
    (Instr.br ⟨0, 0, 5, 5, 0, 0x83, 0, 0, 0, 0, 0⟩).wf .drover = true ∧
    (Instr.jmp ⟨0, 0, 1, 5, 0, 0x3, 0, 0, 0, 0, 0⟩).wf .drover = true := by decide +kernel
/-- A token and an empty mailbox; an injection into the fabric. -/
theorem witness_MailboxWords :
    let s := atCore { core0 with mbox := [(31, [{ value := 7 }])] }
    let f : Form := { form4 with imm := 31 }
    s.unit = .core 0 ∧ (s.core 0).mail (f.imm.toNat % 32) = [{ value := 7 }] ∧ (Kind.data ≠ .mark) ∧ f.mod = 0 ∧
    ({ f with mod := 1 } : Form).mod = 1 ∧ ({ f with mod := 2 } : Form).mod = 2 ∧ ({ f with mod := 3 } : Form).mod = 3 ∧
    (s.core 0).mail 30 = [] ∧
    let g : Form := { form4 with imm := 0x200000 }
    (s.core 0).group = some 0 ∧ g.imm.getLsbD 21 = true ∧ (s.group 0).resolve (g.imm.setWidth 22) = some (.slot 0 0 0 0) ∧
    tagOk (xbOf s 0 g) = true ∧ s.ownsColour (s.core 0).context (tagColour (xbOf s 0 g)) = true ∧
    (s.ctx (s.core 0).context.toNat).state = .running ∧
    (s.group 0).kernel.tooFar (BitVec.ofNat 8 (bitsOf g.imm.toNat 22 8)) = false ∧ g.mod = 0 ∧ s.injRoom 0 (.slot 0 0 0 0) = true ∧
    s.injRoom 0 (.mailbox 0 31) = true ∧
    (∀ m ∈ [0, 1, 2, 4], ({ g with mod := BitVec.ofNat 7 m } : Form).mod.toNat = m) ∧
    (s.group 0).resolve (({ g with imm := 0x3FF87C } : Form).imm.setWidth 22) = some (.mailbox 0 31) := by decide +kernel
theorem witness_SystemRegisters :
    let s := atCore core0
    s.unit = .core 0 ∧ (s.core 0).priv = true ∧ (0x014, (s.core 0).bkctl) ∈ [(0x000, (s.core 0).status),
      (0x014, (s.core 0).bkctl)] ∧ ({ form4 with imm := 0x014 } : Form).imm.toNat = 0x014 ∧
    ({ form4 with imm := 0x008 } : Form).imm.toNat = 0x008 := by decide +kernel
theorem witness_SystemRegisters_context :
    let s := atCore core0
    let c := (s.core 0).context.toNat
    (s.core 0).priv = true ∧ ({ form4 with imm := 0x11F } : Form).imm.toNat = 0x11F ∧
    (s.contextWrite c 0x11F 5).toBool = true ∧ (s.contextWrite c 0x102 0).toBool = false ∧
    (0x11F : Nat) ∉ [0x100, 0x101, 0x109, 0x11C, 0x11D] ∧ buildRegister 0x117 = true ∧ (s.ctx c).state ≠ .building ∧
    (({ s with ctxs := [(1, { ctx1 with state := .building })] } : State).ctx c).state = .building ∧
    badValue 0x117 0x10 = false := by decide +kernel
theorem witness_ProgramEnds :
    let s := atCore { core0 with wait := .fetched }
    s.unit = .core 0 ∧ (s.core 0).group = some 0 ∧ (s.core 0).cmds = [] ∧ (s.core 0).wait = .fetched ∧
    let t := atCore { core0 with cmds := [{ req := { instr := .mma form0, origin := .core 0 }, port := 0 }] }
    ∀ x ∈ (t.core 0).cmds, x.issued = false := by decide +kernel
/-- Commands that are queued and issued, and an interrupted `EXIT.DISCARD` that dropped three. -/
theorem witness_ProgramEnds_discard :
    let m : Cmd := { req := { instr := .mma form0, origin := .core 0 }, port := 0 }
    let s := atCore { core0 with wait := .fetched, cmds := [m], discard := some (0, 3) }
    let t := atCore { core0 with wait := .fetched, cmds := [m, { m with issued := true }] }
    (∀ x ∈ (s.core 0).cmds, x.issued = false) ∧ (s.core 0).wait = .fetched ∧
    (∃ x ∈ (t.core 0).cmds, x.issued = true) ∧ (t.core 0).wait = .fetched :=
  ⟨by decide +kernel, by decide +kernel, ⟨_, List.mem_cons_of_mem _ List.mem_cons_self, rfl⟩, by decide +kernel⟩
/-- An access to the page at 0, and to the absent page after it. -/
theorem witness_CoreMemoryWords :
    let s := atCore core0
    let t := atCore { core0 with x := [(1, 0x10000)] }
    s.unit = .core 0 ∧ (s.core 0).hnd = false ∧ form4.immp ≠ 2 ∧ form4.immp ≠ 3 ∧ (s.core 0).cmds = [] ∧ s.reqs = [] ∧
    s.unserved = [] ∧ s.late = [] ∧
    (∀ i ∈ [Instr.ld form4, .st form4, .atom form4], alignTo (accessWidth i) (withOffset form4 (xaOf s 0 form4)).toNat = 0) ∧
    translate s (s.core 0).context 0 true false = .ok ⟨0x2001B, 3, 0x8000⟩ ∧
    translate s (s.core 0).context 0 false true = .ok ⟨0x2001B, 3, 0x8000⟩ ∧
    translate s (s.core 0).context 0 true true = .ok ⟨0x2001B, 3, 0x8000⟩ ∧ bitOf (Page.e ⟨0x2001B, 3, 0x8000⟩) 7 = false ∧
    translate t (t.core 0).context (alignTo (accessWidth (.ld form4)) (withOffset form4 (xaOf t 0 form4)).toNat) true false
      = .error (.absent 0x10000) ∧
    bitsOf form4.mod.toNat 3 2 ≠ 1 ∧ bitsOf ({ form4 with mod := 8 } : Form).mod.toNat 3 2 = 1 := by decide +kernel
/-- An address past the space, a page of a window whose link is down, lanes that do not serve, and a bad line. -/
theorem witness_CoreMemoryWords_stops :
    let s := atCore { core0 with x := [(1, 0x100000000000000)] }
    let t : State := { atCore core0 with mem := mapSet 0 pages 0x8001 0x01 }
    let p : Page := ⟨0x2001B, 3, 0x8000⟩
    let u : State := { atCore core0 with badLines := [(p.pa 0 / 64, true)] }
    translate s (s.core 0).context (alignTo (accessWidth (.ld form4)) (withOffset form4 (xaOf s 0 form4)).toNat) true false
      = .error (.fault fcPageProt (some 0x100000000000000) (some 1)) ∧
    translate t (t.core 0).context 0 true false = .error (.error fcLinkDown) ∧
    u.serves (agentD 0) p 0 true = .error (.fault fcMem (some 0) none) := by decide +kernel
/-- A page on die 1 while the edge to it is DOWN. -/
theorem witness_CoreMemoryWords_waits :
    let p : Page := ⟨2 ^ 37 + 0x1B, 3, 0x8000⟩
    p.tgt = 0 ∧ ∃ x, (atCore core0).serves (agentD 0) p 0 true = .error x := ⟨by decide, reason_of_error (by decide +kernel)⟩
/-- The last data memory address that a waybill fits at, a 16-byte row, and a core without a group. -/
theorem witness_CommandWords :
    let s := atCore { core0 with x := [(1, 0xFFC0)], wait := .fetched, dmem := [(0xFFD0, 16), (0xFFD4, 1)] }
    s.unit = .core 0 ∧ (s.core 0).cmds.length < 32 ∧ s.commandTile 0 (form4.imm.toNat % 1024) = some 0 ∧
    s.commandTile 0 ((xcOf s 0 form4).toNat % 1024) = some 0 ∧ (xaOf s 0 form4).toNat % 2 ^ 16 + 64 ≤ 2 ^ 16 ∧
    (∀ i ∈ [Instr.strm form4, .gthr form4], (waybillOf ((List.range 64).map fun i =>
      mapGet 0 (s.core 0).dmem ((xaOf s 0 form4).toNat % 2 ^ 16 + i))).check (opcodeOf i) (s.tile 0) (xcOf s 0 form4) = 0) ∧
    (s.core 0).wait = .fetched ∧ (atCore { core0 with wait := .reply 1 }).unit = .core 0 ∧
    ((atCore { core0 with wait := .reply 1 }).core 0).wait = .reply 1 ∧
    let t := atCore { core0 with group := none }
    (t.core 0).hnd = false ∧ t.commandTile 0 (form4.imm.toNat % 1024) = none := by decide +kernel
/-- A scatter's waybill leaves the tile. -/
theorem witness_CommandWords_scatter :
    let s := atCore { core0 with dmem := [(16, 16), (20, 1), (34, 1)] }
    s.commandTile 0 (form4.imm.toNat % 1024) = some 0 ∧ (waybillOf ((List.range 64).map fun i =>
      mapGet 0 (s.core 0).dmem ((xaOf s 0 form4).toNat % 2 ^ 16 + i))).check (opcodeOf (.scat form4)) (s.tile 0)
        (xcOf s 0 form4) = 0 := by decide +kernel
/-- Context 255 in the states that the words act on, with the last event counter of the caller. -/
theorem witness_ContextWords : ∀ st ∈ [CtxState.ready, .running, .draining, .saved, .faulted, .free],
    let f : Form := { form4 with imm := 7 }
    let s : State := { atCore { core0 with x := [(1, 255)] } with ctxs := [(1, ctx1), (255, { ctx1 with state := st })] }
    let t : State := { atCore { core0 with x := [(1, 255), (2, 64)] } with ctxs := [(1, ctx1), (255, { ctx1 with state := st })] }
    s.unit = .core 0 ∧ (s.core 0).priv = true ∧ (xaOf s 0 f).toNat < 256 ∧
    (xaOf s 0 f).toNat ≠ (s.core 0).context.toNat ∧ bitsOf f.imm.toNat 12 20 = 0 ∧
    f.imm.toNat % 4096 < ((s.ctx (s.core 0).context.toNat).reg 0x113).toNat ∧ (s.ctx 255).state = st ∧
    (xbOf s 0 f).toNat = 0 ∧ (t.ctx 255).state = st ∧ (xbOf t 0 f).toNat ≠ 0 := by decide +kernel
/-- A save area of 64 bytes at 0 is copied to a buffer at 64 of the caller's page, or waits while the page moves, or the buffer
is at an absent page; the buffer is copied back where it holds a save area, waits, or does not hold one. -/
theorem witness_ContextWords_copies :
    let x : Ctx := { ctx1 with state := .saved, save := some { hard := false, fsave := false, len := 64 }, regs := ctx1.regs ++ [(0x115, 64)] }
    let s : State := { atCore { core0 with x := [(1, 255), (2, 64)] } with ctxs := [(1, ctx1), (255, x)] }
    let area := mapSet 0 (mapSet 0 pages 0x20041 255) 0x20078 64
    let t : State := { s with mem := area }
    let moving : State := { s with mem := mapSet 0 area 0x8000 0x9B }
    let queued : State := { s with ctxs := [(1, ctx1), (255, { x with jobs := [{ save := true, run := false, event := (1, 7), buffer := 64 }] })] }
    (s.ctx 255).jobs = [] ∧ (queued.ctx 255).jobs ≠ [] ∧ (saveCopy 255 (1, 7) 64 s).toBool = true ∧
    saveCopy 255 (1, 7) 64 moving = .error .wait ∧ saveCopy 255 (1, 7) 0x10000 s = .error (.absent 0x10000) ∧
    (restCopy 255 (1, 7) 64 t).toBool = true ∧ restCopy 255 (1, 7) 64 moving = .error .wait ∧
    restCopy 255 (1, 7) 64 s = .error (.error fcIllegal) := by decide +kernel
/-- A counter that has and has not reached its value. -/
theorem witness_QueueWords_wait :
    let s := atCore core0
    let t := atCore { core0 with x := [(2, 1)] }
    s.unit = .core 0 ∧ badCounter (xaOf s 0 form4).toNat = false ∧
    vnat agentSched (s.core 0).context 0 8 s.schedSees = .ok (0, s.schedSees) ∧ (xbOf s 0 form4).toNat ≤ 0 ∧
    vnat agentSched (t.core 0).context 0 8 t.schedSees = .ok (0, t.schedSees) ∧ 0 < (xbOf t 0 form4).toNat := by decide +kernel
theorem witness_QueueWords_evsig :
    badCounter (xaOf (atCore core0) 0 form4).toNat = false ∧ (vnat agentSched 1 0 8 (atCore core0).schedSees).toBool = true ∧
    (vput agentSched 1 0 8 0 (atCore core0).schedSees).toBool = true := by
  decide +kernel
/-- The table of queues is at 0; queue 1023 of context 1 is enabled, and its ring of 2 records is at 0x40. -/
def queueState : State := { atCore { core0 with x := [(1, 1023), (2, 0xFFC0)] } with
  mem := mapSet 0 (mapSet 0 (mapSet 0 (mapSet 0 pages (32 * 1023) 1) (32 * 1023 + 2) 1) (32 * 1023 + 4) 1) (32 * 1023 + 24) 0x40 }
theorem witness_QueueWords_qpost :
    (xaOf queueState 0 form4).toNat = 1023 ∧ (xbOf queueState 0 form4).toNat = 0xFFC0 ∧ (0xFFC0 : Nat) % 16 = 0 ∧
    queueState.draining 1 = false ∧ queueState.qowner 1023 = (queueState.core 0).context ∧ queueState.qstate 1023 ≠ 0 ∧
    queueState.qused 1023 ≠ queueState.qlen 1023 ∧
    ∃ x, vwrite (agentD 0) 1 (queueState.qbase 1023 + 64 * (queueState.qtail 1023 % queueState.qlen 1023))
      (memRead (queueState.core 0).dmem 0xFFC0 64) queueState = .ok x := by
  and_intros <;> first | exact result_of_ok (by decide +kernel) | decide +kernel
/-- A bound group of one tile, at the last address that a record fits at. -/
theorem witness_QueueWords_launch :
    let s : State := { atCore { core0 with x := [(1, 0xFFC0), (2, 4097)], dmem := [(0xFFD0, 1), (0xFFD1, 1), (0xFFD2, 1)] } with
      groups := [(0, group0), (1, { group0 with state := .bound, kernel := {} })] }
    let a := (xaOf s 0 form4).toNat
    let v := (xbOf s 0 form4).toNat
    let c := (s.core 0).context
    let r : QRec := ⟨memNat (s.core 0).dmem a 64⟩
    a % 64 = 0 ∧ a ≤ 0xFFC0 ∧ v < 2 ^ 20 ∧ (s.ctx c.toNat).state.holds = false ∧ s.recordFails c r = 0 ∧ r.waddr = 0 ∧
    v / 4096 = c.toNat ∧ s.mayLaunch c (v % 4096) = true ∧ s.colourBusy c r.lcol = false ∧
    r.shape.roles ≤ (s.group (v % 4096)).roles ∧
    ((s.modGroup (v % 4096) fun x => { x with kernel := r.kernel (.core 0 a) }).load (v % 4096) r.shape.roles).isSome = true := by
  decide +kernel
/-- A slot word, the empty word and an unassigned opcode. -/
theorem witness_ConfigurationWords :
    let s := atCore { core0 with x := [(1, 0x40000000000)] }
    let a := cfgFields (xaOf s 0 form4).toNat
    s.unit = .core 0 ∧ a.ok = true ∧ s.mayConfigure 0 (s.cfgGroup a) = true ∧ a = ⟨0, 0, 1, 0, 0⟩ ∧
    (∃ t, s.cfgWrite a 0 = .ok t) ∧ (∃ r, s.cfgWrite a (0xDF * 2 ^ 120) = .error r) ∧
    (s.elem a.tile a.elem).clearBusy = false ∧ (s.elem a.tile a.elem).state ≠ .fused := by
  and_intros <;> first
    | exact result_of_ok (by decide +kernel)
    | exact reason_of_error (by decide +kernel)
    | decide +kernel
/-- A whole tile, and elements in BREAK and HALTED. -/
theorem witness_ConfigurationWords_tile :
    let s : State := { atCore core0 with tiles := [(0, { group := some 0, elems := [(0, { state := .broken })] })] }
    let t : State := { atCore core0 with tiles := [(0, { group := some 0, elems := [(0, { state := .halted })] })] }
    let u : State := { atCore core0 with tiles := [(0, { group := some 0 })] }
    let a := cfgFields (xaOf s 0 form4).toNat
    a.ok = true ∧ s.mayConfigure 0 (s.cfgGroup a) = true ∧ a.space = 0 ∧ a.elem = 0 ∧ a.slot = 0 ∧
    (s.elem a.tile a.elem).state = .broken ∧ (t.elem a.tile a.elem).state = .halted ∧
    ((List.range 16).any fun e => (u.elem a.tile e).clearBusy) = false := by decide +kernel
/-- The last addresses of data memory that the operands fit at. -/
theorem witness_ConfigurationWords_verify :
    let s := atCore { core0 with x := [(1, 65472), (2, 65392)] }
    let t := atCore { core0 with x := [(2, 1), (3, 65472)] }
    let u := atCore { core0 with x := [(1, 65535), (2, 1)] }
    s.unit = .core 0 ∧ (xaOf s 0 form4).toNat + 64 ≤ 65536 ∧ (xbOf s 0 form4).toNat + 144 ≤ 65536 ∧
    (xbOf s 0 form4).toNat % 16 = 0 ∧ (xbOf t 0 form4).toNat < 2 ^ 32 ∧ (xcOf t 0 form4).toNat + 64 ≤ 65536 ∧
    (xcOf t 0 form4).toNat % 16 = 0 ∧ (xaOf u 0 form4).toNat + (xbOf u 0 form4).toNat ≤ 65536 ∧
    (vread (agentD 0) (t.core 0).context (xaOf t 0 form4).toNat (xbOf t 0 form4).toNat t).toBool = true := by decide +kernel
/-- A group of one tile is bound; a group of a whole die has no place; a BOUND group is released. -/
theorem witness_GroupAndBarrierWords_groups :
    let s := atCore { core0 with x := [(1, 0x1010001)] }
    let t : State := { atCore { core0 with x := [(1, 0x40400001)] } with
      tiles := [(0, tile0), (4096, tile0), (8192, tile0), (12288, tile0)] }
    let u : State := { atCore core0 with groups := [(0, { group0 with state := .bound })] }
    s.unit = .core 0 ∧ (s.ctx (s.core 0).context.toNat).state = .running ∧ s.freeGroup? = some 1 ∧ xbOf s 0 form4 = 0 ∧
    gbindShape (xaOf s 0 form4).toNat (xbOf s 0 form4).toNat = some ⟨1, 1, 1⟩ ∧
    (s.place? ⟨1, 1, 1⟩ (0 / 64)).isSome = true ∧ t.freeGroup? = some 1 ∧
    gbindShape (xaOf t 0 form4).toNat (xbOf t 0 form4).toNat = some ⟨1, 64, 64⟩ ∧ t.place? ⟨1, 64, 64⟩ (0 / 64) = none ∧
    (xaOf u 0 form4).toNat < 2 ^ 20 ∧ (u.group ((xaOf u 0 form4).toNat % 4096)).state = .bound ∧
    (u.group ((xaOf u 0 form4).toNat % 4096)).ctx = (u.core 0).context ∧ (u.core 0).priv = true := by decide +kernel
/-- The first free entry is the second; an entry of the context; an arrival for the last round, and its reply. -/
theorem witness_GroupAndBarrierWords_barriers :
    let s : State := { atCore { core0 with x := [(1, 1024)] } with barriers := [(0, { n := 1, ctx := 1 })] }
    let u : State := { atCore { core0 with x := [(2, 255)], wait := .fetched } with barriers := [(0, { n := 1, ctx := 1 })] }
    s.unit = .core 0 ∧ 1 ≤ (xaOf s 0 form4).toNat ∧ (xaOf s 0 form4).toNat ≤ 1024 ∧ (xbOf s 0 form4).toNat = 0 ∧
    s.barriersHeld (s.core 0).context = false ∧ (s.barrier (0 / 64 * 256 + 1)).n = 0 ∧ (∀ j, j < 1 → (s.barrier (0 / 64 * 256 + j)).n ≠ 0) ∧
    (xaOf u 0 form4).toNat < 1024 ∧ (u.barrier 0).n ≠ 0 ∧ (u.barrier 0).ctx = (u.core 0).context ∧
    (u.barrier 0).bstate ≠ 2 ∧ (xbOf u 0 form4).toNat < 256 ∧ (u.core 0).wait = .fetched ∧
    ((atCore { core0 with wait := .released 5 1 0 }).core 0).wait = .released 5 1 0 := by decide +kernel
/-- Every entry of the die is in use. -/
theorem witness_GroupAndBarrierWords_full :
    let s : State := { atCore { core0 with x := [(1, 1)] } with barriers := (List.range 256).map fun k => (k, { n := 1 }) }
    1 ≤ (xaOf s 0 form4).toNat ∧ (xaOf s 0 form4).toNat ≤ 1024 ∧ (xbOf s 0 form4).toNat = 0 ∧
    ∀ j, j < 256 → (s.barrier (0 / 64 * 256 + j)).n ≠ 0 := by decide +kernel
/-- A place that `xb` names, and barrier words of a FAULTED context. -/
theorem witness_GroupAndBarrierWords_named :
    let s := atCore { core0 with x := [(1, 0x1010001), (2, 0x8000000000000020)] }
    let t : State := { atCore { core0 with x := [(1, 1)] } with
      ctxs := [(1, { ctx1 with state := .faulted })], barriers := [(1, { n := 1, ctx := 1 })] }
    (xbOf s 0 form4).toNat % 2 ^ 14 = 32 ∧ (xbOf s 0 form4).toNat ≠ 0 ∧
    gbindShape (xaOf s 0 form4).toNat (xbOf s 0 form4).toNat = some ⟨1, 1, 1⟩ ∧ s.freeGroup? = some 1 ∧
    (s.placeAt ⟨1, 1, 1⟩ (32 / 4096) (32 % 64) (32 / 64 % 64)).isSome = true ∧
    t.barriersHeld (t.core 0).context = true ∧ (t.barrier (xaOf t 0 form4).toNat).n ≠ 0 ∧
    (t.barrier (xaOf t 0 form4).toNat).bstate ≠ 2 ∧ 1 ≤ (xaOf t 0 form4).toNat ∧ (xbOf t 0 form4).toNat = 0 := by decide +kernel
/-- The entry of the page at 0x10000 is absent, and that of the page at 0 present. -/
theorem witness_PageWords_map :
    let s := atCore { core0 with x := [(1, 0x10000), (2, 0x3001B)] }
    let t := atCore core0
    let f : Form := { form4 with imm := 3 }
    s.unit = .core 0 ∧ (s.core 0).priv = true ∧ (xaOf s 0 f).toNat < 2 ^ 56 ∧ f.imm.toNat < 8 ∧
    (if f.imm.getLsbD 2 then f.imm.toNat % 4 ≠ 3 else f.imm.toNat % 4 ≠ 0) ∧
    s.pageBusy 0 (s.core 0).context (0x10000 / regionSize 3 * regionSize 3) (regionSize 3) = false ∧
    s.walkTo (s.core 0).context 0x10000 3 = .entry 0 0x8008 ∧ bitOf 0 0 = false ∧
    badImage 3 (xbOf s 0 f).toNat (f.imm.getLsbD 2) = false ∧
    t.pageBusy 0 (t.core 0).context 0 (regionSize 3) = false ∧
    t.walkTo (t.core 0).context 0 3 = .entry 0x2001B 0x8000 ∧ bitOf 0x2001B 0 = true := by decide +kernel
/-- The pool of frames is empty, or has one frame, the number of which is at 0x8010. -/
theorem witness_PageWords_frame :
    let s := atCore { core0 with x := [(1, 0x10000), (2, 0x18)] }
    let x : Ctx := { ctx1 with regs := ctx1.regs ++ [(0x11E, 0x8010), (0x11F, 1)] }
    let t : State := { s with ctxs := [(1, x)] }
    s.unit = .core 0 ∧ form4.imm = 0 ∧ badFrameImage (xbOf s 0 form4).toNat = false ∧ ((s.ctx 1).reg 0x11F).toNat = 0 ∧
    s.walkTo (s.core 0).context 0x10000 3 = .entry 0 0x8008 ∧ t.walkTo (t.core 0).context 0x10000 3 = .entry 0 0x8008 ∧
    ((t.ctx 1).reg 0x11F).toNat ≠ 0 ∧
    ∃ p, t.checkLeaf (t.core 0).context ⟨0x18 + 3 + memNat t.mem (((t.ctx 1).reg 0x11E).toNat + 4 * (1 - 1)) 4 * 2 ^ 16, 3, 0x8008⟩
      (0x10000 / 65536 * 65536) false false = .ok p := by
  and_intros <;> first | exact result_of_ok (by decide +kernel) | decide +kernel
/-- The leaf at 0 is cleared, its `D` bit is cleared, and its page is moved to 0x30000; the words that wait for it. -/
theorem witness_PageWords_unmap :
    let s := atCore { core0 with x := [(2, 0x3001B)], wait := .fetched }
    let c := (s.core 0).context
    s.walk c (xaOf s 0 form4).toNat = .leaf 0x2001B 3 0x8000 ∧ s.pageBusy 0 c 0 (regionSize 3) = false ∧
    (s.core 0).wait = .fetched ∧ s.accessing c 0x8000 = false ∧ (s.core 0).priv = true ∧ Page.tgt ⟨0x2001B, 3, 0x8000⟩ = 0 ∧
    withPa 0x2001B 0 = withPa (xbOf s 0 form4).toNat 0 ∧ entryBad 3 (xbOf s 0 form4).toNat = false ∧
    bitOf (xbOf s 0 form4).toNat 7 = false ∧
    let t : State := { atCore { core0 with x := [(2, 0x3001B)], wait := .reply 0x2001B } with mem := mapSet 0 pages 0x8000 0x9B }
    let u : State := { t with mem := mapSet 0 pages 0x8000 0x1A }
    (t.core 0).wait = .reply 0x2001B ∧ t.walk c 0 = .leaf 0x2009B 3 0x8000 ∧ bitOf 0x2009B 7 = true ∧
    t.accessing c 0x8000 = false ∧ t.relatching c (relatchValue 0 3) = false ∧
    (atCore { core0 with wait := .reply 0x2001B }).walk c 0 = .leaf 0x2001B 3 0x8000 ∧ bitOf 0x2001B 7 = false ∧
    u.walk c 0 = .absent 3 0x8000 ∧ u.accessing c 0x8000 = false ∧ u.relatching c (relatchValue 0 3) = false := by decide +kernel
/-- Core 0 waits in a state of its word; core 1 of the context may be in an `UNMAP` of the same page, and the entry may be
absent. -/
def pageWait (w other : Pending) (mem : FMap Byte) : State :=
  { atCore { core0 with x := [(2, 0x3001B)], wait := w } with
    cores := [(0, { core0 with x := [(2, 0x3001B)], wait := w }),
      (1, { core0 with code := [(0, 0xF7 * 2 ^ 120)], wait := other })]
    mem := mem }
/-- A request under way through the old leaf of a page that moves, and a `RELATCH` of a port, hold the words. -/
theorem witness_PageWords_waits :
    let gone := mapSet 0 pages 0x8000 0x1A
    let busy := pageWait .fetched (.reply 0) gone
    let idle := pageWait .fetched .fetched gone
    let c := (idle.core 0).context
    busy.walk c 0 = .absent 3 0x8000 ∧ (busy.core 0).wait = .fetched ∧ busy.pageBusy 0 c 0 (regionSize 3) = true ∧
    idle.walk c 0 = .absent 3 0x8000 ∧ (idle.core 0).wait = .fetched ∧ idle.pageBusy 0 c 0 (regionSize 3) = false ∧
    (let u := pageWait (.reply 0x2001B) .none gone
     (u.core 0).wait = .reply 0x2001B ∧ u.walk c 0 = .absent 3 0x8000 ∧ u.accessing c 0x8000 = false) ∧
    (let u := pageWait (.late 0x2001B) .none gone
     (u.core 0).wait = .late 0x2001B ∧ u.relatching c (relatchValue 0 3) = false) ∧
    (let m := pageWait (.reply 0x2001B) .none (mapSet 0 pages 0x8000 0x9B)
     (m.core 0).priv = true ∧ m.walk c 0 = .leaf 0x2009B 3 0x8000 ∧ m.accessingOld c 0x8000 (leafPa 0x2001B) true = false) ∧
    (let m := pageWait (.late 0x2001B) .none (mapSet 0 pages 0x8002 0x03)
     m.walk c 0 = .leaf 0x3001B 3 0x8000 ∧ m.accessingOld c 0x8000 (leafPa 0x2001B) false = false ∧
     m.relatching c (relatchValue 0 3) = false) := by decide +kernel
/-- Every state of link 0, the first of die 0. -/
theorem witness_LinkWords_links : ∀ st ∈ [LinkState.down, .training, .up, .retraining, .failed],
    let s : State := { atCore core0 with links := mapSet {} [] 0 { state := st } }
    s.unit = .core 0 ∧ isLink (xaOf s 0 form4).toNat = true ∧ (s.core 0).priv = true ∧ (s.core 0).hnd = false ∧
    (xaOf s 0 form4).toNat < 9 ∧ (portDies 0).contains (0 / 64) = true ∧ (s.link 0).state = st := by decide +kernel
/-- A number past the last link; a ratio that the first lane of die 0 has, and one that it has not. -/
theorem witness_LinkWords_lanes :
    let s := atCore { core0 with x := [(1, 0x40), (2, 0x100)], wait := .fetched }
    let t := atCore { core0 with x := [(1, 0x40), (2, 0x200)], wait := .late 0 }
    (s.core 0).wait = .fetched ∧ (t.core 0).wait = .late 0 ∧
    isLink 13 = false ∧ isLink 0x48 = false ∧ 0x40 ≤ (xaOf s 0 form4).toNat ∧ (xaOf s 0 form4).toNat ≤ 0x47 ∧
    ((xaOf s 0 form4).toNat - 0x40) / 2 = 0 / 64 ∧ badRatio (xbOf s 0 form4).toNat = false ∧
    (s.lane 0).ratio = bitsOf (xbOf s 0 form4).toNat 8 2 ∧ badRatio (xbOf t 0 form4).toNat = false ∧
    (t.lane 0).ratio ≠ bitsOf (xbOf t 0 form4).toNat 8 2 := by decide +kernel
/-- A chain record of 16 values from peer link 0, which is UP; the adders are all free, or all in use. -/
def chainState (adders : FMap Adder) : State :=
  { atCore { core0 with dmem := [(0xFFE8, 0xFF), (0xFFEA, 1), (0xFFEC, 16)], x := [(1, 0xFFC0)] } with
    links := mapSet {} [] 0 { state := .up }
    adders := adders }
theorem witness_LinkWords_adders : ∀ l ∈ [[], (List.range 4).map fun k => (k * 256, ({ running := true } : Adder))],
    let s := chainState l
    let h := memNat (s.core 0).dmem (xaOf s 0 form4).toNat 64
    let a := adderOf h (s.core 0).context 0
    (xaOf s 0 form4).toNat ≤ 0xFFC0 ∧ (xaOf s 0 form4).toNat % 16 = 0 ∧ form4.imm.toNat < 4096 ∧
    form4.imm.toNat % 4096 < ((s.ctx (s.core 0).context.toNat).reg 0x113).toNat ∧ badChain h (0 / 64) a = false ∧
    (if a.out = 0xFF then a.inn else a.out) = 0 ∧ s.adderLink a.inn = true ∧ s.adderLink a.out = true := by decide +kernel
theorem witness_LinkWords_adder_free :
    (mapGet {} (chainState []).adders (0 + 0 / 64 * 1024 + 0 * 256)).running = false ∧
    (mapGet {} (chainState [(0, { running := true })]).adders (0 + 0 / 64 * 1024 + 1 * 256)).running = false ∧
    ∀ k, k < 4 → (mapGet {} (chainState ((List.range 4).map fun k => (k * 256, { running := true }))).adders
      (0 + 0 / 64 * 1024 + k * 256)).running = true := by decide +kernel
theorem witness_LinkWords_status :
    let s : State := { atCore { core0 with x := [(1, 4095)] } with adders := [(4095, { used := true, ctx := 1 })] }
    (xaOf s 0 form4).toNat < 4096 ∧ (mapGet {} s.adders (xaOf s 0 form4).toNat).used = true ∧
    (mapGet {} s.adders (xaOf s 0 form4).toNat).ctx = (s.core 0).context := by decide +kernel

/-- A pool of one frame, the number of which is at 0x8010, or an empty one. -/
def copyState (some : Bool) : State := { atCore { core0 with x := [(1, 0x10000), (2, 0x18)] } with
  ctxs := [(1, { ctx1 with regs := ctx1.regs ++ [(0x11E, 0x8010), (0x11F, if some then 1 else 0)] })] }
theorem regionSize_le (lvl : Nat) (h : lvl ≤ 3) : 65536 ≤ regionSize lvl := by
  unfold regionSize; exact Nat.pow_le_pow_right (n := 2) (i := 16) (by decide) (by omega)
/-- The addresses of the first page take one walk. -/
theorem walkGo_first_page (m : FMap Byte) (gone : Nat → Bool) (va : Nat) (h : va < 65536) :
    ∀ n lvl table, n + lvl ≤ 4 → walkGo m gone va n lvl table = walkGo m gone 0 n lvl table
  | 0, _, _, _ => rfl
  | n + 1, lvl, table, hl => by
    have hr := regionSize_le lvl (by omega)
    simp only [walkGo, Nat.div_eq_of_lt (show va < regionSize lvl by omega), Nat.zero_div,
      walkGo_first_page m gone va h n (lvl + 1) _ (by omega)]
/-- The physical address of an address of the first page. -/
theorem pa_first_page (va : Nat) (h : va < 65536) : (⟨0x2001B, 3, 0x8000⟩ : Page).pa va = 0x20000 + va := by
  have : (⟨0x2001B, 3, 0x8000⟩ : Page).pa va = 0x20000 + va % 65536 := rfl
  omega
theorem translate_first_page (k : Bool) (va : Nat) (h : va < 65536) :
    translate (copyState k) 1 va true false = .ok ⟨0x2001B, 3, 0x8000⟩ := by
  have hg : walkGo (copyState k).mem (copyState k).stackFailed 0 4 0 0x2000 = .leaf 0x2001B 3 0x8000 := by
    revert k; decide +kernel
  have hr : (((copyState k).ctx (1 : BitVec 8).toNat).reg 0x102).toNat = 0x2000 := by revert k; decide +kernel
  have hu : (copyState k).unmappable ((⟨0x2001B, 3, 0x8000⟩ : Page).pa va) = false := by
    rw [pa_first_page va h]
    have ht : (copyState k).gtab = 2 ^ 39 - 4096 * 2112 := rfl
    have hs : (copyState k).stackFailed (0x20000 + va) = false := rfl
    simp [State.unmappable, State.inGroupTable, ht, hs]
    omega
  have hw : (copyState k).walk 1 va = .leaf 0x2001B 3 0x8000 := by
    have hb : ¬ (0x2000 ≠ bitsOf 0x2000 13 39 * 8192) := by decide
    simp only [State.walk, hr, if_neg hb, walkGo_first_page _ _ va h 4 0 _ (by decide), hg, hu, and_false,
      Bool.false_eq_true, if_false]
  have hv : ¬ va ≥ 2 ^ 56 := by omega
  simp only [Machine.translate, if_neg hv, hw]
  rfl
/-- The first page lies on the core's die, on lanes that serve it. -/
theorem serves_first_page (k : Bool) (va : Nat) (h : va < 65536) :
    (copyState k).serves (agentD 0) ⟨0x2001B, 3, 0x8000⟩ va true = .ok () := by
  have hd : (⟨0x2001B, 3, 0x8000⟩ : Page).pa va / 2 ^ 37 = 0 := Nat.div_eq_of_lt (by
    rw [pa_first_page va h]
    omega)
  have hr : (copyState k).reaches (agentD 0) ((⟨0x2001B, 3, 0x8000⟩ : Page).pa va) = true := by
    simp only [State.reaches, hd]
    rfl
  simp only [State.serves, hr]
  rfl
/-- A plain page that no older value hides is read as it is. -/
theorem vread_first_page (k : Bool) (n va : Nat) (h : va + n ≤ 65536) :
    ∃ bs, vread (agentD 0) 1 va n (copyState k) = .ok (bs, copyState k) := by
  induction n generalizing va with
  | zero => exact ⟨[], rfl⟩
  | succ n ih =>
    obtain ⟨bs, hb⟩ := ih (va + 1) (by omega)
    simp only [vread, translate_first_page k va (by omega)]
    have hp : (((copyState k).pageByte (agentD 0) 1 ⟨0x2001B, 3, 0x8000⟩ va)).2 = copyState k := rfl
    simp only [serves_first_page k va (by omega), hp, hb]
    exact ⟨_, rfl⟩
/-- The page at 0 is copied to the page at 0x10000, with a frame in the pool and with none. -/
theorem witness_PageWords_copy (k : Bool) : (∃ bs, vread (agentD 0) 1 0 65536 (copyState k) = .ok (bs, copyState k)) ∧
    (((copyState k).ctx 1).reg 0x11F = if k then 1 else 0) :=
  ⟨vread_first_page k 65536 0 (by decide), by cases k <;> rfl⟩
/-- The last table is on die 1, the edge to which is DOWN, and the leaf at 0 is there; a leaf of level 2 covers 0x10000. -/
theorem witness_PageWords_far :
    let far := mapSet 0 (mapSet 0 (mapSet 0 pages 0x6004 0x20) (2 ^ 37 + 0x8000) 0x1B) (2 ^ 37 + 0x8002) 2
    let s : State := { atCore { core0 with x := [(1, 0x10000)], wait := .fetched } with mem := far }
    let t : State := { atCore core0 with mem := far }
    let u : State := { s with mem := mapSet 0 (mapSet 0 pages 0x6000 0x1B) 0x6001 0 }
    let c := (s.core 0).context
    s.walkTo c 0x10000 3 = .entry 0 (2 ^ 37 + 0x8008) ∧ s.pageBusy 0 c 0x10000 (regionSize 3) = false ∧
    s.reachesAll (agentD 0) (2 ^ 37 + 0x8008) 8 = false ∧ s.reachesAll (agentD 0) 0x8008 8 = true ∧
    t.walk c 0 = .leaf 0x2001B 3 (2 ^ 37 + 0x8000) ∧ t.reachesAll (agentD 0) (2 ^ 37 + 0x8000) 8 = false ∧
    u.walkTo c 0x10000 3 = .mapped ∧ u.pageBusy 0 c 0x10000 (regionSize 3) = false := by decide +kernel
/-- The leaf is present, and core 1 moves its page. -/
theorem witness_PageWords_moving :
    let s : State := { pageWait .fetched .none (mapSet 0 pages 0x8000 0x9B) with
      cores := [(0, { core0 with x := [(2, 0x3001B)], wait := .fetched }),
        (1, { core0 with code := [(0, 0xF8 * 2 ^ 120)], wait := .reply 0x2001B })] }
    s.walk (s.core 0).context 0 = .leaf 0x2009B 3 0x8000 ∧ (s.core 0).wait = .fetched ∧ (s.core 0).priv = true ∧
    s.pageBusy 0 (s.core 0).context 0 (regionSize 3) = true := by decide +kernel
/-- A firing whose operands are tokens of one kind, with a tag. -/
def fireTag (kind : Kind) (tag : W64) : Firing :=
  { fire 1 0 0 with l := { kind := some kind, value := 1 }, tag := tag }
/-- The slot 0 of element 0 of tile 0 holds a word, and the tile's scratchpad holds bytes. -/
def slotState (fr : Firing) (i : Instr) (bs : FMap Byte) : State :=
  { atSlot fr with tiles := [(0, { tile0 with
    elems := [(0, { state := .running, slots := [(0, { word := some i })] })]
    mem := bs })] }

theorem witness_SteeringFirings : Evaluates (fire 1 1 0) form0 (atSlot (fire 1 1 0)) 0 := by unfold Evaluates; decide +kernel
theorem witness_ArithmeticFirings : Evaluates (fire 1 2 3) form0 (atSlot (fire 1 2 3)) 0 ∧
    (0x5A, Instr.sat, satValue) ∈ arithRows ∧ (0x75, Instr.vshuf, vshufValue) ∈ bitRows :=
  ⟨by unfold Evaluates; decide +kernel, by simp [arithRows], by simp [bitRows]⟩
/-- `ERR`, `STOP`, a predicate that suppresses, and a `TAGOP` that pops a tag of depth 0. -/
theorem witness_FiringWithoutEvaluation :
    let pop : Form := { form0 with tagop := 2 }
    let pred : Form := { form0 with pred := 1 }
    let s := atSlot (fire 0 0 0)
    Instr.bararrTok ∈ firingRows ∧ (fireTag .err 0).err? = some 1 ∧ (fireTag .err 0).tagOut s form0 = .ok 0 ∧
    (fireTag .err 0).tagOut s pop = .error fcTagDepth ∧ (fireTag .stop 0).err? = none ∧ (fireTag .stop 0).hasStop = true ∧
    (fireTag .stop 0).tagOut s form0 = .ok 0 ∧ (fire 1 1 0).err? = none ∧ (fire 1 1 0).hasStop = false ∧
    (fire 1 1 0).suppressed pred = true ∧ (fire 1 1 0).suppressed pop = false ∧
    (fire 1 1 0).tagOut s pop = .error fcTagDepth :=
  ⟨by simp [firingRows], by decide +kernel⟩
/-- Tags of the depths 0, 1, 5 and 6, and the last colour of the context and the first that it does not own. -/
theorem witness_TagOperations :
    (∀ d ∈ [0, 1, 5, 6], tagOk (BitVec.ofNat 64 (d * 2 ^ 49)) = true ∧ tagDepth (BitVec.ofNat 64 (d * 2 ^ 49)) = d) ∧
    tagOut base 1 5 0 3 = .ok (colourTag 3) ∧ (3#64).toNat % 4096 < ((base.ctx (1#8).toNat).reg 0x106).toNat ∧
    ((base.ctx (1#8).toNat).reg 0x106).toNat ≤ (4#64).toNat % 4096 := by decide +kernel
/-- The tag source of `REST`: a tag of the context, one of another context's colour, and one that breaks R21. -/
theorem witness_TagOperations_rest :
    tagOk (colourTag 3) = true ∧ tagColour (colourTag 3) < ((base.ctx (1#8).toNat).reg 0x106).toNat ∧
    ¬ tagColour (colourTag 4) < ((base.ctx (1#8).toNat).reg 0x106).toNat ∧
    tagOk (BitVec.ofNat 64 (7 * 2 ^ 49)) = false := by decide +kernel
theorem witness_TagFirings : ∀ d ∈ [0, 1, 5, 6], ∀ m ∈ [0, 1, 2, 3],
    let fr := fireTag .data (BitVec.ofNat 64 (d * 2 ^ 49))
    let f : Form := { form0 with mod := m }
    fr.err? = none ∧ fr.hasStop = false ∧ fr.suppressed f = false ∧ fr.tagOut (atSlot fr) f = .ok fr.tag ∧
    tagDepth fr.tag = d := by decide +kernel
/-- Depth 6 and all 48 bits of the fields; depth 1 and a field too wide; a colour that the context does not own. -/
theorem witness_TagWords :
    let f : Form := { form4 with imm := 6 }
    let g : Form := { form4 with imm := 1 }
    f.imm.toNat ≤ 6 ∧ Evaluates (fire 3 0xFFFFFFFFFFFF 0) f (atSlot (fire 3 0xFFFFFFFFFFFF 0)) 0 ∧
    (0xFFFFFFFFFFFF#64).toNat % 2 ^ 48 < 2 ^ (8 * f.imm.toNat) ∧
    (3#64).toNat % 4096 < ((base.ctx (base.tileCtx 0).toNat).reg 0x106).toNat ∧
    ¬ (256#64).toNat % 2 ^ 48 < 2 ^ (8 * g.imm.toNat) ∧
    ¬ (4#64).toNat % 4096 < ((base.ctx (base.tileCtx 0).toNat).reg 0x106).toNat ∧
    let s := atCore { core0 with x := [(1, 3), (2, 0xFFFFFFFFFFFF)] }
    let t := atCore { core0 with x := [(1, 4)] }
    s.unit = .core 0 ∧ xaOf s 0 f = 3 ∧ xbOf s 0 f = 0xFFFFFFFFFFFF ∧ (s.core 0).context = base.tileCtx 0 ∧
    (t.core 0).hnd = false ∧ xaOf t 0 f = 4 := by unfold Evaluates; decide +kernel

/-- A share of one entry at 0x1000, with K 2: the entry is free, or holds the instance of tag 0 with slot 0 in use. -/
def allocWord : Form := { form0 with mod := 1, imm := 0x1100 }
theorem witness_LoopFirings :
    let free := slotState (fireTag .data 0) (.alloc allocWord) []
    let live := slotState (fireTag .data 0) (.alloc allocWord) [(0x1000, 0x81), (0x1001, 1), (0x1020, 1)]
    let fr := fireTag .data (tagPush 0 0)
    let used := slotState fr (.alloc allocWord) [(0x1000, 0x81), (0x1001, 2), (0x1020, 3)]
    Evaluates (fireTag .data 0) allocWord free 0 ∧ tagDepth 0 ≠ 6 ∧ free.findLoop 0 (shareOf allocWord) 0 = none ∧
    free.freeLoop 0 (shareOf allocWord) = some 0 ∧ live.findLoop 0 (shareOf allocWord) 0 = some 0 ∧
    Evaluates fr form0 live fr.tag ∧ tagDepth fr.tag ≠ 0 ∧ live.loopShare 0 form0 = some (shareOf allocWord) ∧
    live.findLoop 0 (shareOf allocWord) (tagPop fr.tag) = some 0 ∧
    bitOf (live.loopEntry 0 (shareOf allocWord) 0).use (innerSlot fr.tag) = true ∧
    (live.loopEntry 0 (shareOf allocWord) 0).genOf (innerSlot fr.tag) = tagInner fr.tag / 64 ∧
    ((used.loopEntry 0 (shareOf allocWord) 0).release (tagInner fr.tag)).isSome = true := by unfold Evaluates; decide +kernel
/-- The last slot of 64, with the last generation. -/
theorem witness_LoopSlotTakenBack :
    let en : LoopEntry := { use := 1, gen := 3 * 4 ^ 63, used := 1, v := true, next := 63 }
    en.v = true ∧ en.next < 64 ∧ 0 < en.used ∧ en.used < 128 ∧ en.use < 2 ^ 64 ∧ en.gen < 2 ^ 128 ∧ en.canTake = true := by decide +kernel
/-- The context's colours are all held, or all free; its table is at 0. A return of a held colour, and of a free one. -/
def spawnWord : Form := { form0 with imm := 0x400000, arity := 1 }
theorem witness_CallFirings_spawn :
    let fr := fire 1 2 0
    let held : Colour := { state := .held }
    let s : State := { slotState fr (.spawn spawnWord) [] with
      ctxs := [(1, { ctx1 with colours := [(0, held), (1, held), (2, held), (3, held)] })] }
    Evaluates fr spawnWord s 0 ∧ (s.ctx (s.tileCtx 0).toNat).freeColour = none ∧ (s.ctx (s.tileCtx 0).toNat).spawns = [] ∧
    let t := slotState fr (.returnTok form0) []
    Evaluates fr form0 t 0 ∧ ((s.ctx (s.tileCtx 0).toNat).colour (tagColour fr.tag)).state = .held ∧
    ((t.ctx (t.tileCtx 0).toNat).colour (tagColour fr.tag)).state ≠ .held := by unfold Evaluates; decide +kernel
/-- A `SPAWN` that draws colour 0. -/
def spawnState : State := slotState (fire 1 2 0) (.spawn spawnWord) []
/-- The `SPAWN` at the controller. -/
def spawnQueued : State := spawnState.modCtx (spawnState.tileCtx 0).toNat fun x => { x with
  spawns := x.spawns ++ [{ tile := 0, elem := 0, slot := 0, tag := 0, round := 0
                           l := tokenOf (fire 1 2 0) spawnState .data 1 0 false
                           r := some (tokenOf (fire 1 2 0) spawnState .data 2 0 false) }] }
/-- The colour that it draws. -/
def spawnDrawn : Colour := { state := .held, ret := spawnWord.imm.setWidth 22 }
theorem witness_CallFirings_draw :
    Evaluates (fire 1 2 0) spawnWord spawnState 0 ∧ (spawnState.ctx 1).spawns = [] ∧
    (spawnState.slot 0 0 0).form = spawnWord ∧ (spawnState.ctx 1).freeColour = some 0 ∧
    spawnState.lateFor 1 = false ∧ (spawnState.ctx 1).heldBy 0 0 0 < bitsOf spawnWord.imm.toNat 22 10 ∧ (spawnState.elem 0 0).out.length < 4 ∧
    (vwrite agentSched (BitVec.ofNat 8 1) ((spawnState.ctx 1).colourAddr 0) spawnDrawn.bytes spawnQueued).toBool = true := by
  unfold Evaluates; decide +kernel

/-- A round quota of one, which the firing reaches, and of two, which it does not. -/
theorem witness_RoundFirings :
    let s := atSlot (fire 1 0 0)
    s.unit = .slot (fire 1 0 0) ∧ (fire 1 0 0).single.kind = some .data ∧ Evaluates (fire 1 0 0) form0 s 0 ∧
    (s.slot 0 0 0).count + 1 = ({ form0 with imm := 1 } : Form).imm.setWidth 64 ∧
    (s.slot 0 0 0).count + 1 ≠ ({ form0 with imm := 2 } : Form).imm.setWidth 64 := by unfold Evaluates; decide +kernel
/-- An output queue with room for the `MARK`, and a full one. -/
theorem witness_RoundFirings_room :
    let full : Element := { state := .running, out := List.replicate 4 { slot := 0, items := [] } }
    (base.elem 0 0).out.length < 4 ∧
    ¬ ({ base with tiles := [(0, { tile0 with elems := [(0, full)] })] }.elem 0 0).out.length < 4 := by decide +kernel
theorem witness_ReportFirings :
    Evaluates (fire 0 1 0) form0 (atSlot (fire 0 1 0)) 0 ∧ Evaluates (fire 1 1 0) form0 (atSlot (fire 1 1 0)) 0 ∧
    Evaluates (fire 1 1 0) { form0 with mod := 1 } (atSlot (fire 1 1 0)) 0 ∧
    Evaluates (fire 1 1 0) { form0 with mod := 2 } (atSlot (fire 1 1 0)) 0 ∧
    Evaluates (fire 1 1 0) { form0 with mod := 3 } (atSlot (fire 1 1 0)) 0 := by unfold Evaluates; decide +kernel
/-- The last entry of the table and the first past it; a suppressed access; a coordinate vector. -/
theorem witness_RequestFirings :
    let s := atSlot (fire 127 0 0)
    let f : Form := { form0 with imm := 4089 }
    Instr.rng ∈ requestRows ∧ s.unit = .slot (fire 127 0 0) ∧ Evaluates (fire 127 0 0) form0 s 0 ∧
    (fireTag .err 0).err? = some 1 ∧ (fireTag .err 0).tagOut s form0 = .ok 0 ∧ (fireTag .stop 0).err? = none ∧
    (fireTag .stop 0).hasStop = true ∧ (fireTag .stop 0).tagOut s form0 = .ok 0 ∧
    (fire 127 0 0).coords.length ≠ 1 ∧ Evaluates (fire 127 0 0) f s 0 ∧ 4096 < 127 % 2 ^ 16 / 16 + 4090 ∧
    (fire 127 0 0).suppressed { form0 with pred := 1 } = true :=
  ⟨by simp [requestRows], by unfold Evaluates; decide +kernel⟩
/-- A ring of two slots at 0x100: not defined, empty, with its tail FILLING, FULL, or both slots in use. -/
def ringState (r : Ring) : State := { atSlot (fire 0x100 0 0) with tiles := [(0, { tile0 with rings := mapSet {} [] 0 r })] }
/-- Two slots of 16 bytes. -/
def ring2 : Ring := { defined := true, base := 0x100, pb := 16, cnt := 1 }
theorem witness_RingFirings :
    Evaluates (fire 0x100 0 0) form0 (ringState {}) 0 ∧ ((ringState {}).ring 0 0).defined = false ∧
    ((ringState ring2).ring 0 0).used = 0 ∧ ({ form0 with mod := 8 } : Form).mod.getLsbD 3 = true ∧
    form0.mod.getLsbD 3 = false ∧
    ((ringState {}).tile 0).ringOverlap 0 (ringOfImm form0.imm.toNat).base (ringOfImm form0.imm.toNat).size = false ∧
    ((ringState ring2.reserve).ring 0 0).defined = true ∧ 0 < ((ringState ring2.reserve).ring 0 0).used ∧
    ((ringState ring2.reserve).ring 0 0).used ≠ ((ringState ring2.reserve).ring 0 0).cnt + 1 ∧
    ((ringState ring2.reserve.reserve).ring 0 0).used = ((ringState ring2.reserve.reserve).ring 0 0).cnt + 1 ∧
    ((ringState ring2.reserve).ring 0 0).slotOf 0x100 = some 0 ∧ ((ringState ring2.reserve).ring 0 0).slot 0 = .filling ∧
    ((ringState (ring2.reserve.publish 0)).ring 0 0).slotOf 0x100 = some 0 ∧
    ((ringState (ring2.reserve.publish 0)).ring 0 0).slot 0 = .full := by unfold Evaluates; decide +kernel
/-- A full ring on which `RSVW` waits, and one that has kept its slot. -/
theorem witness_RingFirings_wait :
    let f : Form := { form0 with mod := 8, arity := 3 }
    let x : Element := { state := .running, slots := [(0, { word := some (.rcommitRsvw f) })] }
    let s := fun (r : Ring) => ({ base with tiles := [(0, { tile0 with rings := mapSet {} [] 0 r, elems := [(0, x)] })] } : State)
    let full := ring2.reserve.reserve
    let r := (s full).ring 0 (f.mod.toNat % 8)
    bitsOf f.mod.toNat 3 2 = 1 ∧ ((s full).slot 0 0 0).word = some (.rcommitRsvw f) ∧ r.defined = true ∧ r.used = r.cnt + 1 ∧
    mapGet 0 r.granted (0 * 32 + 0) = 0 ∧ (fire 0 0 0).err? = none ∧ (fire 0 0 0).hasStop = false ∧
    (fire 0 0 0).suppressed f = false ∧
    mapGet 0 ((s { full with granted := [(0, 2)] }).ring 0 0).granted (0 * 32 + 0) = 1 + 1 := by decide +kernel
/-- The last slot of a ring. -/
theorem witness_RingSlotLife :
    let r : Ring := { ring2 with head := 1, tail := 1 }
    (mapWf .free r.slots = true ∧ r.waiters = [] ∧ r.used = 0 ∧ r.full = 0 ∧ r.head = r.tail ∧ r.tail ≤ r.cnt) ∧ ∀ k, r.slot k = .free :=
  ⟨by decide +kernel, fun _ => rfl⟩

/-- A request of a slot of tile 0. -/
def reqOf (i : Instr) (l r : W64) : Req := { instr := i, origin := .slot 0 0 0, ctx := 1, l := l, r := r }
/-- An access with `CONS`, a write with `PUT`, and the last granule of the scratchpad, which is full or empty. -/
def consForm : Form := { form0 with mod := 16 }
theorem witness_ScratchpadUnit :
    let s := atEngine (.scratch 0) (reqOf (.lds consForm) 0xFFF0 0)
    let full : State := { s with tiles := [(0, { tile0 with full := [(4095, true)] })] }
    s.unit = .engine (.scratch 0) (reqOf (.lds consForm) 0xFFF0 0) ∧ (reqOf (.lds consForm) 0xFFF0 0).kind = .data ∧
    bitsOf form0.mod.toNat 3 2 = 0 ∧ bitsOf consForm.mod.toNat 3 2 = 2 ∧
    spAddress (reqOf (.lds consForm) 0xFFF0 0) / 16 = 4095 ∧ full.isFull 0 4095 = true ∧ s.isFull 0 4095 = false ∧
    (s.tile 0).waiting.length < 64 ∧ ({ form0 with mod := 1 } : Form).mod = 1 ∧ ({ form0 with mod := 2 } : Form).mod = 2 ∧
    (∀ k, k < 1 → full.isFull 0 (4095 + k) = true) ∧ (∀ k, k < 1 → s.isFull 0 (4095 + k) = false) := by decide +kernel
/-- Requests that wait at the last granule, which is empty or full. -/
theorem witness_ScratchpadUnit_waits :
    let s := atEngine (.scratch 0) (reqOf (.sts consForm) 0xFFF0 0)
    let full : State := { s with tiles := [(0, { tile0 with full := [(4095, true)] })] }
    let f : Form := { form0 with mod := 1, imm := 1 }
    (reqOf (.sts consForm) 0xFFF0 0).instr = .sts consForm ∧ bitsOf consForm.mod.toNat 3 2 = 2 ∧
    full.isFull 0 (spAddress (reqOf (.sts consForm) 0xFFF0 0) / 16) = true ∧ (full.tile 0).waiting.length < 64 ∧
    (∃ k, k < f.imm.toNat ∧ s.isFull 0 (0xFFF0 / 16 + k) = false) ∧
    (∃ k, k < ({ f with mod := 2 } : Form).imm.toNat ∧ full.isFull 0 (0xFFF0 / 16 + k) = true) := by
  refine ⟨?_, ?_, ?_, ?_, ⟨0, ?_⟩, ⟨0, ?_⟩⟩ <;> decide +kernel
/-- The last entry names line 0, or no entry does. -/
theorem witness_TagTableUnit :
    let s : State := { atEngine (.tagTable 0) (reqOf (.lkup form0) 0 0) with tiles := [(0, { tile0 with tags := [(127, 0)] })] }
    s.unit = .engine (.tagTable 0) (reqOf (.lkup form0) 0 0) ∧ (reqOf (.lkup form0) 0 0).kind = .data ∧
    mapGet (2 ^ 47 - 1) (s.tile 0).tags 127 = 0 ∧ (∀ j, j < 127 → mapGet (2 ^ 47 - 1) (s.tile 0).tags j ≠ 0) ∧
    ∀ i, i < 128 → mapGet (2 ^ 47 - 1) (base.tile 0).tags i ≠ 0 := by decide +kernel
/-- A matrix engine whose ring 0 has a FULL slot for A, ring 1 one for B, and ring 2 a free slot; accumulator 0 has an owner. -/
def matrixState (i : Instr) (pa pb pc : Nat) (owner : Option W64) : State :=
  { atEngine (.matrix 0) (reqOf i 0 0x4000) with tiles := [(0, { tile0 with
    rings := [(0, ((Ring.reserve { defined := true, base := 0, pb := pa, cnt := 1 }).publish 0)),
      (1, ((Ring.reserve { defined := true, base := 0x4000, pb := pb, cnt := 1 }).publish 0)),
      (2, { defined := true, base := 0x8000, pb := pc, cnt := 1 })]
    accs := mapSet {} [] 0 { owner := owner } })] }
theorem witness_MatrixUnit_accumulators :
    let s := matrixState (.accrd { form0 with mod := 2, imm := 8 }) 512 512 256 (some 0)
    s.unit = .engine (.matrix 0) (reqOf (.accrd { form0 with mod := 2, imm := 8 }) 0 0x4000) ∧
    ((matrixState (.accz form0) 512 512 256 none).tile 0).acc 0 = {} ∧ ((s.tile 0).acc 0).owner = some 0 ∧
    ((matrixState (.accz form0) 512 512 256 (some 1)).tile 0).acc 0 = { owner := some 1 } ∧
    ((s.tile 0).acc 0).allows 0 = true ∧ Acc.allows {} 0 = false ∧ form0.mod.getLsbD 1 = false ∧
    ({ form0 with mod := 2 } : Form).mod.getLsbD 1 = true ∧ bitsOf ({ form0 with imm := 8 } : Form).imm.toNat 2 3 = 2 ∧
    (s.ring 0 2).defined = true ∧ (s.ring 0 2).pb = 256 ∧ (s.ring 0 2).mayReserve waitEngine = true := by decide +kernel
/-- Panels of 512 bytes; of split values of the width 2; and a compressed A panel of 16 bytes with its index vectors. -/
theorem witness_MatrixUnit_products :
    let f : Form := { form0 with imm := 8 }
    let g : Form := { f with mod := 2 }
    let toks : List Token := [{ value := 0xFFFFFFFF03020100 }, { kind := .stop }, { value := 0xFFFFFFFF03020100 }, { kind := .stop }]
    mmaSlots f 512 512 0 0 0x4000 0 (matrixState (.mma f) 512 512 0 (some 0)) = .ok (0, 0) ∧
    (if g.mod = 2 then 32 * mmaWA g + 16 else 512) = 80 ∧
    mmaSlots g 80 80 0 0 0x4000 0 (matrixState (.mma g) 80 80 0 (some 0)) = .ok (0, 0) ∧
    groupIndices 4 (coordGroups toks).1 = some [0, 1, 2, 3] ∧ groupIndices 4 (coordGroups toks).2 = some [0, 1, 2, 3] ∧
    2 ^ (bitsOf f.imm.toNat 8 3 + 2) = 4 ∧
    mmaSlots f 16 512 0 0 0x4000 0 (matrixState (.mmas f) 16 512 0 (some 0)) = .ok (0, 0) := by decide +kernel
theorem witness_MatrixUnit_split :
    let f : Form := { form0 with imm := 0x10 }
    let s := matrixState (.xsplit f) 1024 512 512 none
    bitsOf f.imm.toNat 0 3 = 0 ∧ bitsOf f.imm.toNat 3 3 = 2 ∧ (s.ring 0 0).slotOf 0 = some 0 ∧ (s.ring 0 0).slot 0 = .full ∧
    (s.ring 0 0).pb = 1024 ∧ (s.ring 0 2).pb = 512 ∧ (s.ring 0 2).defined = true ∧
    ((s.modRing 0 0 fun x => x.setSlot 0 .reading).ring 0 2).mayReserve waitEngine = true := by decide +kernel
/-- A ring that is defined at the ring port. -/
theorem witness_MatrixUnit_ringPort :
    let r := reqOf (.ring form0) 0 0
    (atEngine (.ringPort 0) r).unit = .engine (.ringPort 0) r ∧ r.kind = .data ∧
    (ringDefine form0 0 (atEngine (.ringPort 0) r)).toBool = true := by decide +kernel
/-- A product in its second turn: its panels are named by the operands, and the request notes the first turn. -/
theorem witness_MatrixUnit_turns : ∀ i ∈ [Instr.mma form0, .mmas form0], ∀ b ∈ [[], [1]],
    let f : Form := { form0 with imm := 8 }
    let s := matrixState i 512 512 0 (some 0)
    ({ reqOf i 0 0x4000 with blk := b } : Req).instr = i ∧ (s.ring 0 (mmaRingA f)).slotOf (reqOf i 0 0x4000).l = some 0 ∧
    (s.ring 0 (mmaRingB f)).slotOf (reqOf i 0 0x4000).r = some 0 := by decide +kernel
/-- A split in its two turns, and a read to the slot that the engine has been given. -/
theorem witness_MatrixUnit_kept :
    let f : Form := { form0 with imm := 0x10 }
    let s := matrixState (.xsplit f) 1024 512 512 none
    ({ reqOf (.xsplit f) 0 0 with blk := [] } : Req).blk = [] ∧ (s.ring 0 0).slot 0 = .full ∧
    (s.ring 0 2).mayReserve waitEngine = true ∧ ({ reqOf (.xsplit f) 0 0 with blk := [1] } : Req).blk = [1] ∧
    ((s.portServed 0).ring 0 2).slot 0 ≠ .filling ∧ (((s.modRing 0 2 Ring.reserve).portServed 0).ring 0 2).slot 0 = .filling ∧
    ({ reqOf (.xsplit f) 0 0 with blk := [1, 0] } : Req).blk = [1, 0] ∧
    ({ (s.ring 0 2) with used := 2, granted := [(waitEngine, 1)] } : Ring).mayReserve waitEngine = true ∧
    ({ (s.ring 0 2) with used := 2 } : Ring).mayReserve waitEngine = false := by decide +kernel
/-- A vector that ends with the scratchpad, and one that goes past it; a transfer. -/
theorem witness_ScanAndCircuitUnits :
    let f : Form := { form0 with mod := 56, imm := 8 }
    let r := reqOf (.nzscan f) 0xFFF0 0
    (atEngine (.scan 0) r).unit = .engine (.scan 0) r ∧ r.kind = .data ∧
    (if typeOf f = 5 then 4 else 2) = 2 ∧ lowOf f ≠ 1 ∧ alignTo 2 (r.l.toNat % 2 ^ 16) + f.imm.toNat % 2 ^ 16 * 2 ≤ 65536 ∧
    65536 < alignTo 2 (r.l.toNat % 2 ^ 16) + ({ f with imm := 9 } : Form).imm.toNat % 2 ^ 16 * 2 ∧
    (atEngine (.circuit 0) (reqOf (.circ f) 0 0)).unit = .engine (.circuit 0) (reqOf (.circ f) 0 0) ∧
    (reqOf (.circ f) 0 0).kind ≠ .err ∧ (reqOf (.circ f) 0 0).instr = .circ f := by decide +kernel
/-- A scan that waits: the first of two groups' granules are full, or all are. -/
theorem witness_ScanAndCircuitUnits_wait :
    let f : Form := { form0 with mod := 57, imm := 256 }
    let r := reqOf (.nzscan f) 0 0
    let s := fun (n : Nat) => { atEngine (.scan 0) r with tiles := [(0, { tile0 with full := (List.range n).map fun k => (k, true) })] }
    lowOf f = 1 ∧ (if typeOf f = 5 then 4 else 2) = 2 ∧ (s 16).fullPrefix 0 0 512 = 256 ∧ (s 32).fullPrefix 0 0 512 = 512 ∧
    ((spRead pathM 0 0 256 ((s 16).seeRange 0x1FF pathM 0 0 256 0)).1).length = 256 := by decide +kernel
/-- A scan that has read its vector, and one that has not. -/
theorem witness_ScanAndCircuitUnits_read :
    let f : Form := { form0 with mod := 57, imm := 8 }
    let r := reqOf (.nzscan f) 0 0
    (r.blk ++ (spRead pathM 0 0 ((atEngine (.scan 0) r).fullPrefix 0 0 16) (atEngine (.scan 0) r)).1).length < 16 ∧
    16 ≤ (({ r with blk := List.replicate 16 0 } : Req).blk ++ ([] : List Byte)).length := by decide +kernel
/-- A waybill of one row of 16 bytes; with a window length, which `STRM` does not take; with a reserved bit; and none. -/
def wayBytes (k : Nat) : List Byte := toBytes (2 ^ 160 + 16 * 2 ^ 128 + k) 64
/-- Port 0 of tile 0 in a state of a stream that has two rows. -/
def portState (st : PortState) (i : Instr) (k : Nat) : State :=
  { atEngine (.stream 0 0) { reqOf i 0 0 with blk := wayBytes k } with tiles := [(0, { tile0 with
    ports := mapSet {} [] 0 { state := st, rows := 2, opener := some { reqOf (.strm form0) 0 0 with blk := wayBytes 0 } } })] }
theorem witness_StreamUnit :
    (∀ i ∈ [Instr.strm form0, .gthr form0, .scat form0, .sclose form0, .scloseCut form0, .swait form0],
      (portState .idle i 0).unit = .engine (.stream 0 0) { reqOf i 0 0 with blk := wayBytes 0 }) ∧
    ((portState .idle (.strm form0) 0).port 0 0).state = .idle ∧ ((portState .done (.swait form0) 0).port 0 0).state = .done ∧
    (waybillOf (wayBytes 0)).check 0xA0 tile0 0 = 0 ∧ (waybillOf (wayBytes 0)).check7 0xA0 = false ∧
    (waybillOf (wayBytes (2 ^ 384))).check 0xA0 tile0 0 = 0 ∧ (waybillOf (wayBytes (2 ^ 384))).check7 0xA0 = true ∧
    (waybillOf (wayBytes (2 ^ 384 + 2 ^ 64 * 16))).check 0xA1 tile0 0 = 0 ∧
    (waybillOf (wayBytes (2 ^ 384 + 2 ^ 64 * 16))).check7 0xA1 = false ∧
    (waybillOf (wayBytes (2 ^ 511))).check 0xA0 tile0 0 = 1 ∧
    ((portState .running (.scloseCut form0) 0).port 0 0).cut = false ∧
    ((portState .done (.sclose form0) 0).port 0 0).unlatched = false ∧
    ((portState .done (.sclose form0) 0).closePort 0 0).toBool = true := by decide +kernel
/-- An open command of a core at an idle port. -/
theorem witness_StreamUnit_core :
    let r : Req := { reqOf (.strm form0) 2 0 with origin := .core 0, blk := wayBytes 0 }
    let s : State := { portState .idle (.strm form0) 0 with unit := .engine (.stream 0 0) r, queues := [(engineKey (.stream 0 0), [r])] }
    s.unit = .engine (.stream 0 0) r ∧ r.kind = .data ∧ (s.port 0 0).state = .idle ∧
    (waybillOf r.blk).check7 0xA0 = false ∧ (({ r with blk := wayBytes (2 ^ 384) } : Req).blk.length = 64) ∧
    (waybillOf (wayBytes (2 ^ 384))).check7 0xA0 = true := by decide +kernel
/-- A checkpoint of a set: at a bad address, at an absent page, and behind a parked one; and a reply. -/
theorem witness_TreeAndBoundaryUnits :
    let r := reqOf (.rope3Getlo form0) 0 0
    let k := reqOf (.tckpt form0) 0x10000 0
    let s := (atEngine (.summary 0) r).seeBoundary 0 r
    let t : State := { atEngine (.summary 0) k with
      queues := [(engineKey (.summary 0), [k]), (engineKey (.summary 1), [k])], parked := [(.summary 1, 0x10000)] }
    let ckpt := fun (r : Req) => onSet 0 r fun v => TreeOp.of (v.checkpoint r.r.toNat)
    (atEngine (.summary 0) r).unit = .engine (.summary 0) r ∧ r.kind = .data ∧ s.behindParked (.summary 0) r = false ∧
    ((Act.look fun s => (s.tile 0).part.setWidth 64 : Act W64) s).toBool = true ∧
    ckpt k base = .error (.absent 0x10000) ∧ ckpt { k with l := 8 } base = .error (.fault fcTreeHandle none none) ∧
    t.behindParked (.summary 0) k = true ∧ { r with kind := .stop }.kind = .stop := by decide +kernel
/-- An accept unit: a handle with a bit of the zero field is a fault. -/
theorem witness_TreeAndBoundaryUnits_boundary :
    let r := reqOf (.gfork form0) (2 ^ 43) 0
    (atEngine (.grammar 0 0) r).unit = .engine (.grammar 0 0) r ∧
    (atEngine (.grammar 0 0) r).behindParked (.grammar 0 0) r = false ∧
    ((splitHandle r.l).andThen fun h => (cellRef 0 r.ctx h.top).andThen fun _ => Act.ret r.l) base
      = .error (.fault fcGrammarStack none none) := by decide +kernel
/-- The four parts of a descent, on a block that names no tree, and one that fails its check. -/
def descReq (n : Nat) : Req := { reqOf (.tdesc form0) 0 0 with blk := List.replicate n 0 }
/-- A block whose first bytes break the checks of its fields. -/
def descBad : Req := { reqOf (.tdesc form0) 0 0 with blk := List.replicate 576 0xFF }
theorem witness_DescentUnit :
    (atEngine (.summary 0) (descReq 576)).unit = .engine (.summary 0) (descReq 576) ∧ (descReq 576).kind = .data ∧
    ((atEngine (.summary 0) (descReq 576)).seeBoundary 0 (descReq 576)).behindParked (.summary 0) (descReq 576) = false ∧
    (descReq 576).blk.length = 576 ∧ (descReq 595).blk.length = 595 ∧ (descReq 603).blk.length = 603 ∧
    603 < (descReq 604).blk.length ∧ descBegin 0 descBad base = .error (.fault fcIllegal none (some 3)) ∧
    ((descEnv 0 (descReq 603)).run (descRelease 0 (descReq 603)) base).toBool = true ∧
    (descUpdate 0 (descReq 604) (BitVec.ofNat 64 (natAt (descReq 604).blk 595 8)) base).toBool = true := by decide +kernel
/-- A block of budget 1 and scale 1.0 whose set is at an absent page. -/
def descAway : Req := { reqOf (.tdesc form0) 0 0 with blk := toBytes (2 ^ 16 + 0x3F800000 * 2 ^ 64 + 0x10000 * 2 ^ 128) 576 }
theorem witness_DescentUnit_begin : descAway.blk.length = 576 ∧ ∃ x, descBegin 0 descAway base = .ok x :=
  ⟨by decide +kernel, result_of_ok (by decide +kernel)⟩
theorem witness_DescentUnit_run : ∃ x, descRun 0 (descReq 595) base = .ok x := result_of_ok (by decide +kernel)
theorem witness_HandleFields : (0#64).extractLsb' 43 5 = 0 ∧ (0x0000080000000000#64).extractLsb' 43 5 ≠ 0 := by decide

/-- A device on which tokens of context 1 travel to slot 0 of element 0 of tile 0. -/
def tokenState (i : Instr) (net : List Flight) (x : Element) : State :=
  { base with net := net, tiles := [(0, { tile0 with
    elems := [(0, { x with state := .running, slots := [(0, { word := some i })] })] })] }
/-- A token of context 1. -/
def tok1 : Token := { value := 5, ctx := 1 }
/-- A valid target: slot 0 of element 0 of role 0. -/
def to00 : BitVec 22 := 0x200000
/-- An arrival on each network, with seven tokens queued. -/
theorem witness_TokenEvents_arrival :
    let q : List (Nat × Nat × Token) := List.replicate 7 (0, 0, tok1)
    let s := tokenState (.pass form0) [⟨.core 0, .slot 0 0 0 0, .vn1, tok1, 0⟩, ⟨.slot 0 0 1 0, .slot 0 0 0 0, .vn0, tok1, 0⟩]
      { in0 := q, in1 := q }
    (s.arriving 0 0)[0]? = some (0, ⟨.core 0, .slot 0 0 0 0, .vn1, tok1, 0⟩) ∧
    (s.arriving 0 0)[1]? = some (1, ⟨.slot 0 0 1 0, .slot 0 0 0 0, .vn0, tok1, 0⟩) ∧
    (s.elem 0 0).in1.length < 8 ∧ (s.elem 0 0).in0.length < 8 := by decide +kernel
/-- A scale for an element whose queues are full of tokens of another slot. -/
theorem witness_TokenEvents_scale :
    let fl : Flight := ⟨.slot 0 0 1 0, .slot 0 0 0 1, .scale, { tok1 with kind := .scale }, 0⟩
    let q : List (Nat × Nat × Token) := List.replicate 8 (1, 1, tok1)
    let s := tokenState (.scaleApply { form0 with arity := 1 }) [fl] { in0 := q, in1 := q }
    (s.arriving 0 0)[0]? = some (0, fl) ∧ (s.elem 0 0).entries = [] ∧
    (∀ q ∈ (s.elem 0 0).in0 ++ (s.elem 0 0).in1, q.1 = 0 → q.2.1 ≠ 1) ∧ (s.place 0 0 0 1 fl.tok).toBool = true := by
  decide +kernel
/-- A token for an instruction of one input, with seven tokens buffered, and one of two inputs. -/
theorem witness_TokenEvents_placement :
    let two : Form := { form0 with arity := 1, msbase := 60, mslog := 2 }
    let s := tokenState (.pass form0) [] { in0 := [(0, 0, tok1)], buf := List.replicate 7 { slot := 0, port := 0, tok := tok1 } }
    let t := tokenState (.steer two) [] { in0 := [(0, 0, tok1)] }
    s.arriving 0 0 = [] ∧ (s.elem 0 0).entries = [] ∧ (s.elem 0 0).in1 = [] ∧ (s.elem 0 0).in0 = [(0, 0, tok1)] ∧
    refusedArrival s 0 0 0 0 tok1 = none ∧ (s.slot 0 0 0).word = some (.pass form0) ∧ tok1.kind = .data ∧
    opcodeOf (.pass form0) ∉ [0x76, 0x8A, 0x8D, 0xAD] ∧ inputCount (opcodeOf (.pass form0)) (formOf (.pass form0)) ≤ 1 ∧
    (s.elem 0 0).buf.length < 8 ∧
    t.arriving 0 0 = [] ∧ (t.elem 0 0).entries = [] ∧ (t.elem 0 0).in1 = [] ∧ (t.elem 0 0).in0 = [(0, 0, tok1)] ∧
    refusedArrival t 0 0 0 0 tok1 = none ∧ (t.slot 0 0 0).word = some (.steer two) ∧
    opcodeOf (.steer two) ∉ [0x76, 0x8A, 0x8D, 0xAD] ∧ 1 < inputCount (opcodeOf (.steer two)) (formOf (.steer two)) := by
  decide +kernel
theorem witness_TokenEvents_serai :
    let s := tokenState (.pass form0) [] { entries := [(0, { state := .reserved })], depth := 1
                                           buckets := [(0, { overflow := [{ slot := 0, port := 0, tok := tok1 }] })] }
    (s.elem 0 0).entries.find? (fun kv => kv.2.state == .reserved) = some (0, { state := .reserved }) ∧
    ((s.elem 0 0).bucket 0).overflow = [{ slot := 0, port := 0, tok := tok1 }] ∧
    ((s.elem 0 0).bucket 0).tile.length < (s.elem 0 0).depth := by decide +kernel
/-- A token of an output queue, and a request. -/
theorem witness_TokenEvents_drain :
    let s := tokenState (.pass form0) [] { out := [{ slot := 0, items := [.token 0 to00 tok1 none] }] }
    let r := reqOf (.lkup form0) 0 0
    let t := tokenState (.lkup form0) [] { out := [{ slot := 0, items := [.request r] }] }
    (s.elem 0 0).out = [{ slot := 0, items := [.token 0 to00 tok1 none] }] ∧
    s.pend.any (fun p => p.elem == some (0, 0) && p.rcd.ctx == s.tileCtx 0) = false ∧
    s.resolve 0 to00 = some (.slot 0 0 0 0) ∧ s.edgeOpen 0 0 0 0 (.slot 0 0 0 0) = true ∧
    (s.ctx (s.tileCtx 0).toNat).spawns = [] ∧ (t.elem 0 0).out = [{ slot := 0, items := [.request r] }] ∧
    (t.sendOut 0 r).isSome = true := by decide +kernel
/-- A mailbox with three tokens; a notice; a command at the head of its port. -/
theorem witness_TokenEvents_core :
    let f : Flight := ⟨.slot 0 0 0 0, .mailbox 0 31, .vn1, tok1, 0⟩
    let m : Cmd := { req := reqOf (.swait form0) 0 0, port := engineKey (.stream 0 0) }
    let s : State := { atCore { core0 with mbox := [(31, [tok1, tok1, tok1])], cmds := [m] } with
      net := [f], notices := [{ group := 0, round := 255 }] }
    ((headsGo [] 0 s.net).filter fun q => match q.2.dst with | .mailbox m _ => m == 0 | _ => false)[0]? = some (0, f) ∧
    refusedMail (s.core 0) f.tok = none ∧ ((s.core 0).mail 31).length < 4 ∧ f.tok.kind ≠ .mark ∧
    s.notices[0]? = some { group := 0, round := 255 } ∧ (nextCommands [] 0 (s.core 0).cmds)[0]? = some (0, m) ∧
    (s.queue m.engine).length < queueSize m.engine := by decide +kernel
/-- The marker of a round that the mailbox has not told, and of one that it has. -/
theorem witness_TokenEvents_marker :
    let f : Flight := ⟨.slot 0 0 0 0, .mailbox 0 31, .vn1, { tok1 with kind := .mark, round := 3 }, 0⟩
    let s : State := { atCore { core0 with marked := [(31, [2])] } with net := [f] }
    ((headsGo [] 0 s.net).filter fun q => match q.2.dst with | .mailbox m _ => m == 0 && s.crosses q.2 | _ => false)[0]? = some (0, f) ∧
    refusedMail (s.core 0) f.tok = none ∧ ((s.core 0).mail 31).length < 4 ∧ f.tok.kind = .mark ∧
    f.tok.round ∉ (mapGet [] (s.core 0).marked 31).filter (fun r => (r - (s.group 0).kernel.oldest).toNat < 128) := by decide +kernel
/-- An element whose turn is a marker, and one whose pair meets a breakpoint on every tag. -/
theorem witness_ElementAndCoreEvents_marker :
    let x : Element := { state := .running, slots := [(0, { word := some (.pass form0), control := [⟨0, { kind := .mark, ctx := 1 }, 1⟩] })] }
    let s : State := { base with tiles := [(0, { tile0 with elems := [(0, x)] })] }
    (s.elem 0 0).mayFire = true ∧ s.firesFirst 0 0 = false ∧ (match s.elemChoice 0 0 with | .control _ _ => true | _ => false) = true := by decide +kernel
theorem witness_ElementAndCoreEvents_breakpoint :
    let x : Element := { state := .running, slots := [(0, { word := some (.pass form0), bmask := 0x1000000000000 })]
                         latch := some (readyPair (.pass form0)) }
    let s : State := { base with tiles := [(0, { tile0 with elems := [(0, x)] })] }
    (s.elem 0 0).mayFire = true ∧ s.firesFirst 0 0 = false ∧ ∃ k, s.elemChoice 0 0 = .pair k ∧
    (s.slot 0 0 k.slot).breaks k.ent.tag = true :=
  ⟨by decide +kernel, by decide +kernel, pair_of_choice (by decide +kernel)⟩
/-- An empty edge that closes; a bad word; a breakpoint; a `WAIT` on a counter that is not reached. -/
theorem witness_ElementAndCoreEvents_core :
    let s : State := { base with tiles := [(0, { tile0 with edges := [(0, { closing := [4] })] })] }
    let bad := atCore { core0 with code := [(0, 0xDF000000000000000000000000000000)] }
    let brk := atCore { core0 with bkctl := 8, bkpc := [(3, 0)].filter fun kv => kv.2 != 0 }
    let w : Form := { form0 with imm := 1, tgt1 := 0x41 }
    let t := atCore { core0 with x := [(2, 1)], wait := .fetched, code := [(0, encode (.wait w))] }
    (mapGet {} (s.tile 0).edges 0).closing = [4] ∧ s.edgeLoad 0 (0 / 64) (0 / 2 % 32) (0 % 2) = 0 ∧
    (bad.core 0).running = true ∧ (bad.core 0).hnd = false ∧
    decode .drover (mapGet 0 (bad.core 0).code (bad.core 0).pc.toNat) = .error .opcode ∧
    (brk.core 0).atBreakpoint = true ∧ (brk.core 0).bkctl.getLsbD 4 = false ∧
    decode .drover (mapGet 0 (t.core 0).code (t.core 0).pc.toNat) = .ok (.wait w) ∧ w.imm ≠ 0 ∧
    (t.core 0).running = true ∧ (t.core 0).wait = .fetched ∧ badCounter (xaOf t 0 w).toNat = false ∧
    t.counterMet (t.core 0).context (xaOf t 0 w).toNat (xbOf t 0 w).toNat = false := by decide +kernel
/-- The fault queue of context 1 at 0 holds a record, and core 0 is its home core. -/
def queuedState : State := { base with ctxs := [(1, { ctx1 with
  regs := [(0x102, 0x2000), (0x10B, 16), (0x10D, 1), (0x118, 0x80000000)] })] }
theorem witness_ElementAndCoreEvents_handler : queuedState.queuedFault 0 = true ∧
    ∃ x, vread (agentD 0) (queuedState.core 0).context (((queuedState.ctx 1).reg 0x10A).toNat
      + 32 * (((queuedState.ctx 1).reg 0x10C).toNat % max ((queuedState.ctx 1).reg 0x10B).toNat 1)) 32 queuedState = .ok x :=
  ⟨by decide +kernel, result_of_ok (by decide +kernel)⟩
/-- A load of the present page and of an absent one, and wave-ordered ones. -/
def memReq (i : Instr) (va : Nat) (st : ReqState) : MemReq := { req := reqOf i (BitVec.ofNat 64 va) 0, va := va, width := 8, state := st }
theorem witness_RequestEvents_translate :
    let m := memReq (.ld form0) 0 .translating
    let w := memReq (.ld { form0 with immp := 6 }) 0x10000 .translating
    let s : State := { base with reqs := [m, w] }
    s.reqs[0]? = some m ∧ m.failing = none ∧ w.failing = none ∧ s.parkTurn m = true ∧ m.req.notice = false ∧ s.parkTurn w = true ∧
    m.state = .translating ∧ m.req.kind = .data ∧ opcodeOf m.req.instr ∈ [0x80, 0x81, 0x89] ∧
    waveOrdered m.req.instr = false ∧ waveOrdered w.req.instr = true ∧ s.waveRoom w.req.ctx w.req.wave = true ∧
    translate s m.req.ctx m.va (readsMemory m.req.instr) (writesMemory m.req.instr) = .ok ⟨0x2001B, 3, 0x8000⟩ ∧
    writesMemory m.req.instr = false ∧
    translate s w.req.ctx w.va (readsMemory w.req.instr) (writesMemory w.req.instr) = .error (.absent 0x10000) ∧
    bitsOf (formOf w.req.instr).mod.toNat 3 2 ≠ 1 ∧ s.parkedOn w.req.ctx (dieOf w.req.tile) < 1024 := by decide +kernel
/-- A notice of a suppressed access, and a failed request whose record the fault queue has taken. -/
theorem witness_RequestEvents_notice :
    let m := memReq (.ld { form0 with immp := 6 }) 0 .translating
    let k : MemReq := { m with req := { m.req with notice := true } }
    let x : MemReq := { m with state := .performing, failing := some fcMem }
    let s : State := { base with reqs := [k, x] }
    s.reqs[0]? = some k ∧ k.failing = none ∧ k.state = .translating ∧ s.parkTurn k = true ∧ k.req.notice = true ∧
    s.waveRoom k.req.ctx k.req.wave = true ∧ s.reqs[1]? = some x ∧ x.failing = some fcMem ∧
    s.recordWaits x.req.interface x.req.ctx = false := by decide +kernel
/-- The first position of a wave, a fence of a wave, a link, and requests that may complete. -/
theorem witness_RequestEvents_order :
    let f : Form := { form0 with immp := 6, imm := 1024 }
    let m := memReq (.ld f) 0 .held
    let w := memReq (.fence f) 0 .performing
    let k : MemReq := { req := { reqOf (.ld f) 0 0 with kind := .mark }, state := .performing }
    let s : State := { base with reqs := [m, w], waves := [{ ctx := 1, tag := 0, chain := [{ pred := 0, own := 1, succ := 0 }] }]
                                 iterLinks := [{ id := 0, ctx := 1, src := 0, dst := 1 }] }
    s.reqs[0]? = some m ∧ m.state = .held ∧ (tripleOf (formOf m.req.instr)).own = 1 ∧
    s.chainClear m.req.ctx m.req.wave 1 = true ∧ s.reqs[1]? = some w ∧ opcodeOf w.req.instr = 0x8B ∧
    waveOrdered w.req.instr = true ∧ w.state = .performing ∧
    s.iterLinks[0]? = some { id := 0, ctx := 1, src := 0, dst := 1 } ∧
    { base with reqs := [k] }.mayComplete 0 k = true ∧ k.req.kind ≠ .data ∧
    { base with reqs := [{ m with state := .performing }] }.mayComplete 0 { m with state := .performing } = true := by
  decide +kernel
/-- A request whose page has a bad line. -/
theorem witness_RequestEvents_held :
    let m : MemReq := { memReq (.ld form0) 0 .performing with leaf := 0x2001B }
    let s : State := { base with reqs := [m], badLines := [(m.page.pa 0 / 64, true)] }
    s.reqs[0]? = some m ∧ m.failing = none ∧ m.width ≠ 0 ∧ s.pageBad m.page m.va m.width = true := by decide +kernel
/-- The waybill of a stream of `n` rows of 16 bytes, 16 apart, from 0 on, with more fields. -/
def rowBytes (n more : Nat) : List Byte := toBytes (n * 2 ^ 160 + 16 * 2 ^ 128 + 16 * 2 ^ 192 + more) 64
/-- Port 0 of tile 0 with an open stream. -/
def streamState (x : Port) (i : Instr) (more : Nat) : State := { base with tiles := [(0, { tile0 with
  ports := [(0, { x with opener := some { reqOf i 0 0 with blk := rowBytes 2 more } })] })] }
/-- A window that is there, and one that goes past the page at 0. -/
theorem witness_StreamEvents_latch :
    let s := streamState { state := .latching } (.strm form0) 0
    let t := streamState { state := .latching } (.strm form0) 0xFFF0
    (s.port 0 0).state = .latching ∧ ((s.latchWindow 0 0).1.filter fun l => !l.failed).length ≤ 64 ∧
    (s.latchWindow 0 0).2 = none ∧ ((t.latchWindow 0 0).1.filter fun l => !l.failed).length ≤ 64 ∧
    (t.latchWindow 0 0).2 = some (.absent 0x10000) := by decide +kernel
/-- The next row of a stream; a re-latch of a port that is done. -/
theorem witness_StreamEvents_row :
    let s := streamState { state := .running } (.strm form0) 0
    let x := s.port 0 0
    let t := streamState { state := .done, relatch := [{ kind := .relatch }] } (.strm form0) 0
    opcodeOf x.req.instr = 0xA0 ∧ x.state = .running ∧ x.failing = none ∧ x.cut = false ∧ s.saving x.req.ctx = false ∧
    x.relatching (x.rowAddr x.rows) = false ∧ s.rowParked 0 0 (x.rowAddr x.rows) = false ∧
    (t.port 0 0).relatch = [{ kind := .relatch }] ∧ (t.port 0 0).state = .done ∧
    ((t.modPort 0 0 fun x => { x with relatch := [], latches := [] }).port 0 0).state = .done ∧
    t.walk (t.port 0 0).req.ctx 0 = .leaf 0x2001B 3 0x8000 ∧ bitOf 0x2001B 7 = false := by decide +kernel
/-- The last row of a gather: its index is 0, which the window of 16 bytes allows, and the window of 8 does not. -/
theorem witness_StreamEvents_gather :
    let s := streamState { state := .running } (.gthr form0) (16 * 2 ^ 384 + 0x100 * 2 ^ 64)
    let x := s.port 0 0
    opcodeOf x.req.instr ≠ 0xA0 ∧ x.state = .running ∧ x.failing = none ∧ 1 < x.wb.rows ∧ mapGet false x.doneRows 1 = false ∧
    mapGet 0 x.rowWait 1 = 0 ∧ x.cut = false ∧ s.saving x.req.ctx = false ∧ (s.readIndex 0 0 1).toBool = true ∧
    (0 : Int) ≤ (0 : Int) * x.wb.stride ∧ (0 : Int) * x.wb.stride + x.wb.rlen ≤ x.wb.wlen ∧
    (1 : Int) * x.wb.stride + x.wb.rlen > x.wb.wlen := by decide +kernel
theorem witness_StreamEvents_circuit :
    let r := reqOf (.circ { form0 with imm := 8 }) 0 0
    let s : State := { base with tiles := [(0, { tile0 with circuits := [(0, { bound := true, queue := [r] })] })] }
    ((s.tile 0).circuit 0).queue = [r] ∧ r.kind = .data ∧ ((s.tile 0).circuit 0).slot = none ∧
    ((s.tile 0).circuit 0).sent = 0 ∧ opcodeOf r.instr ≠ 0xA7 ∧ s.circuitBad 0 r = false := by decide +kernel
/-- A panel for ring 0 of the circuit's own tile. -/
theorem witness_StreamEvents_panel :
    let r := reqOf (.circx { form0 with imm := 0x8000000 }) 0 0
    let s : State := { base with tiles := [(0, { tile0 with rings := [(0, { defined := true, pb := 16, cnt := 1 })]
                                                            circuits := [(0, { bound := true, queue := [r] })] })] }
    let c := (s.tile 0).circuit 0
    c.queue = [r] ∧ r.kind = .data ∧ c.slot = none ∧ c.sent = 0 ∧ opcodeOf r.instr = 0xA7 ∧ c.bound = true ∧
    (s.portServed (s.circuitEnd 0 c)).circuitBad 0 r = false := by decide +kernel
/-- A row that faulted and whose record has been appended. -/
theorem witness_StreamEvents_failing :
    let s := streamState { state := .running, failing := some (1, fcPageProt) } (.strm form0) 0
    (s.port 0 0).failing = some (1, fcPageProt) ∧ s.unitWaits (s.portUnit 0 0) (s.port 0 0).req.ctx = false := by decide +kernel
/-- A gather whose index array is past the address space: its second index, of 2 or 4 bytes, cannot be read. -/
theorem witness_StreamEvents_index :
    let s := streamState { state := .running } (.gthr form0) (16 * 2 ^ 384 + 2 ^ 56 * 2 ^ 64)
    let x := s.port 0 0
    opcodeOf x.req.instr ≠ 0xA0 ∧ x.state = .running ∧ x.failing = none ∧ 1 < x.wb.rows ∧ mapGet false x.doneRows 1 = false ∧
    mapGet 0 x.rowWait 1 = 0 ∧ x.cut = false ∧ s.saving x.req.ctx = false ∧
    s.readIndex 0 0 1 = .error (.fault fcPageProt (some (BitVec.ofNat 64 (2 ^ 56 + x.wb.iwBytes))) (some 1)) := by decide +kernel
/-- Context 1 in a state. -/
def inState (st : CtxState) (x : Ctx) : State := { base with groups := [], ctxs := mapSet {} [] 1 { x with state := st } }
theorem witness_ContextEvents_states :
    (∀ st ∈ [CtxState.free, .building, .dead, .faulted], ((inState st ctx1).ctx 1).state = st) ∧
    { ctx1 with regs := [(0x104, 0x80000), (0x105, 0x10000), (0x106, 1),
      (0x10A, 0x20000), (0x10B, 16), (0x10E, 0x30000), (0x10F, 1), (0x112, 0x40000), (0x113, 1), (0x116, 0x50000), (0x117, 0x60000),
      (0x118, 0x80000000)] }.readyFails = none ∧
    ctx1.readyFails.isSome = true ∧ (inState .dead ctx1).groupsOf (BitVec.ofNat 8 1) = [] := by decide +kernel
/-- A record of context 1. -/
def rcd1 : FaultRec := { code := 1, ctx := 1, val := some 0, aux := some 0 }
/-- A record of a context without a queue, and of a RUNNING one with room for it. -/
def faultState (st : CtxState) : State := { inState st { ctx1 with
  regs := [(0x102, 0x2000), (0x10B, 16), (0x118, 0x80000000)] } with pend := [{ rcd := rcd1 }] }
theorem witness_ContextEvents_faults :
    (faultState .dead).pend[0]? = some { rcd := rcd1 } ∧
    ((faultState .dead).pend.take 0).any (fun q => q.rcd.from_ == rcd1.from_) = false ∧
    ((faultState .dead).ctx 1).state = .dead ∧ ((faultState .running).ctx 1).state = .running ∧
    ((faultState .running).ctx 1).appendHeld = false ∧ ((faultState .running).ctx 1).queueFull = false ∧
    (((faultState .running).ctx 1).reg 0x118).getLsbD 31 = true ∧
    ∃ x, vwrite agentSched 1 (((faultState .running).ctx 1).reg 0x10A).toNat (rcd1.bytes 0)
      { faultState .running with pend := [] } = .ok x := by
  and_intros <;> first | exact result_of_ok (by decide +kernel) | decide +kernel
/-- A `SPAWN` that waits for a colour; a drain that is done, and one that has a budget; a hard save; a restore. -/
theorem witness_ContextEvents_saves :
    let w : SpawnWait := { tile := 0, elem := 0, slot := 0, tag := 0, round := 0, l := tok1, r := none }
    let x : Ctx := { ctx1 with spawns := [w], regs := [(0x119, 1), (0x11A, 1)] }
    let s := inState .running x
    let d := inState .draining ctx1
    let e : State := { inState .draining { ctx1 with regs := [(0x11A, 1)] } with adders := [(0, { running := true, ctx := 1 })] }
    let h := inState .draining { ctx1 with saving := some false }
    let r := inState .saved { ctx1 with save := some { hard := false, fsave := false }, restoring := some [] }
    (s.ctx 1).spawns.find? (fun w => w.failed.isNone) = some w ∧ (s.ctx 1).reg 0x119 ≠ 0 ∧ (s.ctx 1).freeColour = none ∧
    (d.ctx 1).state = .draining ∧ (d.ctx 1).saving = none ∧ d.drainDone (BitVec.ofNat 8 1) = true ∧
    e.drainDone (BitVec.ofNat 8 1) = false ∧ (e.ctx 1).reg 0x11A ≠ 0 ∧ (h.ctx 1).saving = some false ∧
    h.hardReady (BitVec.ofNat 8 1) = true ∧ (r.ctx 1).restoring.isSome = true ∧ (r.ctx 1).jobs = [] ∧ (r.ctx 1).state = .saved ∧
    (r.restore? 1).isSome = true := by decide +kernel

/-- Ring, enable and disable of the last queue; a bad doorbell. -/
theorem witness_KernelEvents_doorbells :
    (∀ k ∈ [0, 1, 2], k * 1024 + 1023 < 2 ^ 64 ∧ badDoorbell (k * 1024 + 1023) = false ∧ (k * 1024 + 1023) % 1024 = 1023 ∧
      (k * 1024 + 1023) / 1024 % 4 = k) ∧ base.qstate 1023 = 0 ∧ badDoorbell 4096 = true := by decide +kernel
/-- A queue whose head waits; a group whose image loads; a kernel that is loaded, and one that has retired. -/
theorem witness_KernelEvents_kernels :
    let q : State := { base with mem := mapSet 0 pages (32 * 1023) 2 }
    let k := fun (st : GroupState) (x : Kernel) => { base with groups := [(0, { group0 with state := st, kernel := x })] }
    q.qstate 1023 = 2 ∧ ((k .bound { state := .loading }).group 0).state = .bound ∧
    ((k .bound { state := .loading }).group 0).kernel.state = .loading ∧
    ((k .bound { state := .loaded }).group 0).kernel.state = .loaded ∧ (base.ctx (base.group 0).ctx.toNat).state = .running ∧
    ((base.ctx (base.group 0).ctx.toNat).colour 0).state = .free ∧
    let r : State := { k .running { state := .running, retired := true } with cores := [(0, { core0 with running := false, active := false })] }
    (r.group 0).kernel.state = .running ∧ (r.group 0).kernel.retired = true ∧ r.groupIdle 0 = true := by decide +kernel
/-- Queue 0 counts its budget, and its head, whose colour is held, has a higher priority than the kernel of context 1. -/
def expiryState : State := { base with
  mem := [(0, 2), (0x10, 1), (0x11, 1), (0x12, 1), (0x2000, 1), (0x2001, 0x40), (0x4000, 0x1B), (0x50000, 3), (0x50002, 1),
    (0x50004, 1), (0x50014, 1)]
  qtab := 0x50000
  qinfo := [(0, { counting := true })]
  ctxs := [(1, { ctx1 with colours := [(0, { state := .held })] })]
  groups := [(0, { group0 with kernel := { state := .running, prio := 1 } })] }
theorem witness_KernelEvents_expiry : expiryState.preempting = false ∧ ∃ u, placeAll 4096 expiryState = u ∧ u.preempting = false ∧ u.qstate 0 = 3 ∧
    (u.qinf 0).counting = true ∧ u.qpbud 0 ≠ 2 ^ 32 - 1 ∧
    (match u.readHead 0 with
      | (.record _ r _, _) => r.prio
      | _ => 4) = 2 ∧ (bestVictim (u.victims 2)).isSome = true := by
  refine ⟨by decide +kernel, placeAll 4096 expiryState, rfl, ?_⟩
  decide +kernel
/-- A signal of a group; tiles that zero; an arrival at a barrier, and one at a barrier that is not in use. -/
theorem witness_KernelEvents_ends :
    let m : Signal := { ctx := 1, launcher := .queue 0 0, group := some 0 }
    let a : Arrival := { handle := 1023, core := some 0, ctx := 1 }
    let s : State := { base with signals := [m], tiles := [(0, { tile0 with zeroing := true })], arrivals := [a]
                                 barriers := [(1023, { ctx := 1, n := 2 })]
                                 links := [(9, { state := .up }), (12, { state := .up })] }
    s.signals.find? (fun m => !s.signalWaits m) = some m ∧ m.group = some 0 ∧ (s.tile 0).zeroing = true ∧
    (∀ p, p < 8 → (s.port 0 p).state = .idle) ∧ s.arrivals[0]? = some a ∧ a.failed = none ∧ firstArrival s.arrivals a = 0 ∧
    s.listFull (a.handle / 256) = false ∧ s.edgesUp (unitDieOf a.unit) (a.handle / 256) = true ∧ s.barriersHeld a.ctx = false ∧ s.releaseHeld ((s.barrier a.handle)) = false ∧
    (match (s.barrier a.handle).arrive a with | .ok b => !s.barriersHeld b.ctx && !s.releaseHeld b | _ => false) = true ∧
    ((base.barrier a.handle).arrive a).toBool = false := by decide +kernel
/-- A failing arrival of a SAVED context, one of a slot, one of a core that waits for it, and one whose record is appended. -/
theorem witness_KernelEvents_waits :
    let a : Arrival := { handle := 1, ctx := 1 }
    let k : Arrival := { a with core := some 0, step := 5 }
    let d : Arrival := { a with failed := some fcIllegal }
    let s : State := { base with arrivals := [a], ctxs := [(1, { ctx1 with state := .saved })] }
    let t : State := { base with arrivals := [k], cores := [(0, { core0 with wait := .sent 5 })] }
    s.arrivals[0]? = some a ∧ firstArrival s.arrivals a = 0 ∧ s.listFull (a.handle / 256) = false ∧
    s.edgesUp (unitDieOf a.unit) (a.handle / 256) = true ∧ ((s.barrier a.handle).arrive a).toBool = false ∧
    (s.ctx a.ctx.toNat).state = .saved ∧ a.failed = none ∧ a.core = none ∧ (base.ctx a.ctx.toNat).state ≠ .saved ∧
    t.arrivals[0]? = some k ∧ k.core = some 0 ∧ (t.core 0).wait = .sent k.step ∧ ((t.barrier k.handle).arrive k).toBool = false ∧
    d.failed = some fcIllegal ∧ base.unitWaits (3, unitDie (d.handle / 256) 64) d.ctx = false := by decide +kernel
/-- The last link in each state; the host's doorbell, its largest write and its largest read. -/
theorem witness_LinkEvents_links :
    (∀ st ∈ [LinkState.down, .training, .up, .retraining, .failed],
      ({ base with links := mapSet {} [] 12 { state := st } }.link 12).state = st) ∧
    ({ base with links := [(8, { state := .up })] }.link 8).state = .up ∧ (base.link 8).state ≠ .up ∧
    let d : Access := { link := 8, bar := 0, addr := 0, size := 8, write := true, data := 1023 }
    let w : Access := { d with bar := 2, size := 512 }
    let r : Access := { d with bar := 2, size := 4096, write := false }
    base.reachesAll ⟨pathH, 32768⟩ r.addr r.size = true ∧ base.reachesAll ⟨pathH, 32768⟩ (2 ^ 37) r.size = false ∧
    d.bar = 0 ∧ d.write = true ∧ d.addr = 0 ∧ d.size = 8 ∧ w.bar = 2 ∧ w.size ≤ 512 ∧ r.write = false ∧ r.size ≤ 4096 ∧
    let s : State := { base with links := [(7, { state := .up })], apertures := [(7, (0x1000, 64))] }
    let p : Access := { d with link := 7, addr := 0x1038 }
    let q : Access := { p with addr := 0x1039 }
    p.link < 8 ∧ (s.link p.link).state = .up ∧ 0x1000 ≤ p.addr ∧ p.addr + p.size ≤ 0x1000 + 64 ∧
    ¬ q.addr + q.size ≤ 0x1000 + 64 := by decide +kernel
/-- The last lane in each state. -/
theorem witness_LinkEvents_lanes : ∀ st ∈ [LaneState.own, .lending, .lent, .reclaiming],
    let s : State := { base with lanes := [(511, { state := st, lend := true })] }
    (s.lane 511).state = st ∧ (s.lane 511).lend = true ∧ (s.lane 511).wants = [] := by
  decide +kernel
/-- A beat of an adder that reads the page at 0 and receives from peer link 0; to a link, and to memory. -/
def beatState (out : Nat) : State := { base with
  links := [(0, { state := .up }), (1, { state := .up })]
  adders := [(0, { inn := 0, out := out, count := 16, ctx := 1, running := true, used := true })] }
theorem witness_LinkEvents_beats : ∀ out ∈ [1, 0xFF],
    let s := beatState out
    let d := mapGet {} s.adders 0
    d.running = true ∧ d.pageFailed = false ∧ s.adderLink d.inn = true ∧ s.adderLink d.out = true ∧ s.beatCredit 0 d = true ∧
    (vnat ⟨pathP, 32768 + adderDie 0⟩ d.ctx (d.src + 64 * d.beats) 64 s).toBool = true ∧ (s.incoming 0 d 7).isSome = true ∧
    (vput ⟨pathP, 32768 + adderDie 0⟩ d.ctx (d.dst + 64 * d.beats) 64 7 s).toBool = true ∧ d.out = out ∧ d.inn < 8 ∧
    (s.link d.inn).state = .up := by decide +kernel
theorem witness_DeviceEvents :
    State.reset.mgmt.start = .cold ∧ base.mgmt.start ≠ .cold ∧ base.mgmt.start = .serving ∧
    { base with mgmt := { start := .stopped } }.mgmt.start = .stopped := by decide +kernel
/-- The `MOD` values of each clause; the packed lanes at both ends. -/
theorem witness_IntegerValues : ∀ m ∈ [16, 24, 0, 8, 72, 80, 88, 96, 20, 32],
    ({ form0 with mod := BitVec.ofNat 7 m } : Form).mod = BitVec.ofNat 7 m ∧ 3 < 4 ∧ 7 < 8 := by decide

end Sys2Proof.Tests
end

section
/-! PROOFS. The decoder's rules (R50, R61 to R65): what a word that decodes has passed, and what refuses one. -/

namespace Sys2Proof.Proofs

open Sys2Proof Sys2Proof.Machine Sys2Proof.Claims

/-! ## The instruction of an opcode -/

theorem parts_ite {c : Prop} [Decidable c] {i j : Instr} {p : Option (Nat × Form)} (hi : i.parts = p) (hj : j.parts = p) :
    (if c then i else j).parts = p := by
  split <;> assumption

/-- Each arm of the opcode tables names an instruction whose word has that opcode and those fields; the rows that share an
opcode are told apart by a condition on the fields, and have the same parts. -/
theorem parts_of_instrOf {r : Reader} {opc : Nat} {f : Form} {i : Instr} (h : instrOf r opc f = some i) :
    i.parts = some (opc, f) := by
  unfold instrOf at h
  split at h
  case h_15 => cases h
  all_goals
    simp only [instrOf0, instrOf1, instrOf2, instrOf4, instrOf5, instrOf6, instrOf7, instrOf8, instrOfA, instrOfB,
      instrOfC, instrOfD, instrOfE, instrOfF] at h
    split at h <;> cases h <;> repeat' apply parts_ite
  all_goals rfl

/-! ## Words that decode -/

/-- What a word that decodes has passed, in the order of the checks, and the instruction that it is. -/
theorem decode_ok {r : Reader} {w : W128} {i : Instr} (h : decode r w = .ok i) :
    wordOpcode w ≠ 0 ∧ w.extractLsb' 0 16 = 0 ∧ fieldCheck r (wordOpcode w) (wordForm w) = 0 ∧
    instrOf r (wordOpcode w) (wordForm w) = some i := by
  simp only [decode] at h
  split at h
  · cases h
  · split at h
    · cases h
    · split at h
      · cases h
      · split at h
        · split at h
          · cases h
            exact ⟨‹_›, not_not.mp ‹_›, ‹_›, ‹_›⟩
          · cases h
        · cases h

/-- The fields of the instruction that a word decodes to are those that were checked. -/
theorem fieldCheck_of_decode {r : Reader} {w : W128} {i : Instr} {opc : Nat} {f : Form} (h : decode r w = .ok i)
    (hp : i.parts = some (opc, f)) : fieldCheck r opc f = 0 := by
  obtain ⟨-, -, hcheck, hinstr⟩ := decode_ok h
  rw [parts_of_instrOf hinstr] at hp
  cases hp
  exact hcheck

/-! ## The window rules (R62) -/

/-- A word that passes every check of R61 passes check 7. -/
theorem windowOk_of_fabricCheck {opc : Nat} {f : Form} (h : fabricCheck opc f = 0) : windowOk opc f = true := by
  by_contra hw
  simp only [fabricCheck, Bool.eq_false_of_not_eq_true hw] at h
  split at h
  · cases h
  · split_ifs at h
    exact absurd rfl ‹¬(!false) = true›

theorem windowOk_pairing {opc : Nat} {f : Form} (h : windowOk opc f = true) (hn : 2 ≤ inputCount opc f) :
    f.mslog.toNat ≤ 6 ∧ f.msbase.toNat + 2 ^ f.mslog.toNat ≤ 64 := by
  simp only [windowOk] at h
  split at h
  · cases h
  · simpa [hn] using h

theorem windowOk_single {opc : Nat} {f : Form} (h : windowOk opc f = true) (hn : inputCount opc f < 2) :
    f.msbase = 0 ∧ f.mslog = 0 := by
  have hfour : ¬ 4 ≤ inputCount opc f := by omega
  simpa [windowOk, hfour, Nat.not_le.mpr hn] using h

/-! ## Unassigned opcodes (R65) -/

theorem mem_unassigned_iff (opc : Nat) : opc ∈ unassigned ↔ (0x12 ≤ opc ∧ opc ≤ 0x1F) ∨ (0x2C ≤ opc ∧ opc ≤ 0x3F) ∨
    (0x5B ≤ opc ∧ opc ≤ 0x5F) ∨ (0x78 ≤ opc ∧ opc ≤ 0x7F) ∨ (0x8F ≤ opc ∧ opc ≤ 0x9F) ∨ (0xB2 ≤ opc ∧ opc ≤ 0xBF) ∨
    (0xCB ≤ opc ∧ opc ≤ 0xCF) ∨ (0xDC ≤ opc ∧ opc ≤ 0xDF) := by
  simp only [unassigned, List.mem_append, List.mem_range'_1]
  omega

/-- The tables of the forms have no row for an unassigned opcode. -/
theorem opSpec_unassigned : ∀ opc ∈ unassigned, opSpec opc = none := by decide

theorem decode_unassigned {w : W128} (h : wordOpcode w ∈ unassigned) (r : Reader) : decode r w = .error .opcode := by
  have hvoid : wordOpcode w ≠ 0 := fun h0 => absurd (h0 ▸ h) (by decide)
  simp [decode, hvoid, opSpec_unassigned _ h]

/-! ## A configuration write of a word that does not decode (R61, R101) -/

theorem cfgState_writable {x : Element} (hf : x.state ≠ .fused) (hr : x.state ≠ .running) : x.cfgState = .ok () := by
  unfold Element.cfgState
  split
  · exact absurd ‹_› hf
  · exact absurd ‹_› hr
  · rfl

theorem cfgSlot_bad {s : State} {t e k : Nat} {w : W128} {b : BadWord} (hf : (s.elem t e).state ≠ .fused)
    (hr : (s.elem t e).state ≠ .running) (hk : mapGet false s.mgmt.badSlots ((t * 16 + e) * 32 + k) = false)
    (hd : decode .fabric w = .error b) (hb : b ≠ .void) : s.cfgSlot t e k w = .error ⟨fcCfgBadOp, b.number⟩ := by
  simp [State.cfgSlot, cfgState_writable hf hr, hk, hd, hb]

/-! ## A word of a core that does not decode (R63, R126, R127) -/

/-- Recording a fault changes no context. -/
@[simp] theorem recordFatal_ctx (s : State) (r : FaultRec) : (s.recordFatal r).ctx = s.ctx := by
  simp only [State.recordFatal]
  split <;> rfl

/-- A fault of a core's own word, as the statements write it. -/
theorem enterHandler_eq_wordFaults (s : State) (n code : Nat) (val aux : Option W64) :
    s.enterHandler n code val aux = wordFaults s n code val aux := by
  unfold wordFaults
  split
  · rw [State.enterHandler_halts code val aux ‹_›]
    simp only [State.fatal, recordFatal_ctx]
    rfl
  · rw [State.enterHandler_enters code val aux (Bool.eq_false_of_not_eq_true ‹_›)]
    rfl

theorem exec_illegalWord {s : State} {n : Nat} {b : BadWord} (hr : (s.core n).running = true)
    (hd : decode .drover (mapGet 0 (s.core n).code (s.core n).pc.toNat) = .error b) :
    exec (.illegalWord n) s =
      .next (wordFaults (s.setCore n (fetched (s.core n))) n fcIllegal none (some (BitVec.ofNat 64 b.number))) := by
  rw [← enterHandler_eq_wordFaults]
  show execIllegalWord n s = _
  simp only [execIllegalWord, State.fetchCheck, hd, hr, if_true]
  rfl

/-! ## The statements -/

/-- Settles O4: the fields of an accepted word passed check 7, which is R62 by the number of inputs. -/
theorem windowRules : Obligations.WindowRules := by
  intro w i opc f hd hp
  have hw : windowOk opc f = true := windowOk_of_fabricCheck (fieldCheck_of_decode hd hp)
  exact ⟨fun hn => windowOk_pairing hw (by omega), fun hn => windowOk_single hw (by omega)⟩

/-- Settles O3: no table has a row for an unassigned opcode, so neither reader decodes its word; what a refused word does
in a slot and on a core is then what any refused word does. -/
theorem unassignedOpcodeRefused : Obligations.UnassignedOpcodeRefused := by
  refine ⟨mem_unassigned_iff, fun w hw => ⟨decode_unassigned hw, rfl, ?_, ?_⟩⟩
  · intro s t e k hf hr hk
    exact cfgSlot_bad hf hr hk (decode_unassigned hw _) (by decide)
  · intro s n hr hword
    have hd : decode .drover (mapGet 0 (s.core n).code (s.core n).pc.toNat) = .error .opcode :=
      hword.symm ▸ decode_unassigned hw .drover
    simpa only [fcIllegal, BadWord.number, BitVec.ofNat_eq_ofNat] using exec_illegalWord hr hd

end Sys2Proof.Proofs
end

section
/-! PROOFS. A grammar handle (R296): the fields of its value, and the fault of one whose bits 47:43 are not zero. -/

namespace Sys2Proof.Proofs

open Sys2Proof Sys2Proof.Machine Sys2Proof.Claims

/-! ## Fields of a word -/

theorem bitsOf_toNat {n : Nat} (w : BitVec n) (lo len : Nat) : bitsOf w.toNat lo len = (w.extractLsb' lo len).toNat := by
  rw [BitVec.extractLsb'_toNat, Nat.shiftRight_eq_div_pow, bitsOf]

theorem bitsOf_eq_zero_iff {n : Nat} (w : BitVec n) (lo len : Nat) :
    bitsOf w.toNat lo len = 0 ↔ w.extractLsb' lo len = 0 := by
  rw [bitsOf_toNat, ← BitVec.toNat_inj]
  rfl

/-! ## Operations behind a check -/

theorem need_andThen {α : Type} (c : Bool) (e : Stop) (m : Unit → Act α) :
    (Act.need c e).andThen m = if c then m () else Act.stop e := by
  cases c <;> rfl

/-! ## Splitting and joining -/

/-- The fields of the value of a handle. -/
def handleOf (h : W64) : Handle :=
  ⟨(h.extractLsb' 48 16).toNat, (h.extractLsb' 32 11).toNat, (h.extractLsb' 0 32).toNat⟩

theorem splitHandle_eq (h : W64) :
    splitHandle h = if h.extractLsb' 43 5 = 0 then Act.ret (handleOf h) else Act.stop stackFault := by
  simp only [splitHandle, need_andThen, beq_iff_eq, bitsOf_eq_zero_iff]
  simp only [bitsOf_toNat, handleOf]

/-- With bits 47:43 zero the three fields hold every bit of the value. -/
theorem word_handleOf {h : W64} (hz : h.extractLsb' 43 5 = 0) : (handleOf h).word = h := by
  have hres : bitsOf h.toNat 43 5 = 0 := (bitsOf_eq_zero_iff h 43 5).mpr hz
  have hlt : h.toNat < 2 ^ 64 := h.isLt
  apply BitVec.eq_of_toNat_eq
  simp only [bitsOf] at hres
  simp only [Handle.word, handleOf, ← bitsOf_toNat, bitsOf, BitVec.toNat_ofNat]
  omega

/-- Settles O51: the fields of a handle are those of its value, and its one check is that of bits 47:43. -/
theorem handleFields : Obligations.HandleFields := by
  refine fun h s => ⟨fun hz => ⟨?_, word_handleOf hz⟩, fun hz => ?_, rfl⟩
  · rw [splitHandle_eq, if_pos hz]
    rfl
  · rw [splitHandle_eq, if_neg hz]
    rfl

end Sys2Proof.Proofs
end

section
/-! PROOFS. The encoder and the decoder undo each other (R50, R59 to R65). -/

namespace Sys2Proof.Proofs

open Sys2Proof Sys2Proof.Machine Sys2Proof.Claims Sys2Proof.Laws

/-! ## The fields of a packed word (R50) -/

theorem wordForm_packWord (opc : Nat) (f : Form) : wordForm (packWord opc f) = f := by
  simp only [wordForm, packWord]
  congr 1
  all_goals
    repeat rw [BitVec.extractLsb'_append_eq_of_le (by decide)]
    rw [BitVec.extractLsb'_append_eq_of_add_le (by decide)]
    exact BitVec.extractLsb'_eq_self

theorem wordOpcode_packWord {opc : Nat} (h : opc < 256) (f : Form) : wordOpcode (packWord opc f) = opc := by
  have hopc : (packWord opc f).extractLsb' 120 8 = BitVec.ofNat 8 opc := by
    unfold packWord
    repeat rw [BitVec.extractLsb'_append_eq_of_le (by decide)]
    exact BitVec.extractLsb'_eq_self
  rw [wordOpcode, hopc, BitVec.toNat_ofNat, Nat.mod_eq_of_lt h]

theorem lowBits_packWord (opc : Nat) (f : Form) : (packWord opc f).extractLsb' 0 16 = 0 := by
  unfold packWord
  rw [BitVec.extractLsb'_append_eq_of_add_le (Nat.le_refl _), BitVec.extractLsb'_eq_self]

/-- A word whose bits 15:0 are zero is its opcode and its fields, laid out again: no other bit is left out. -/
theorem packWord_of_lowBits {w : W128} (h : w.extractLsb' 0 16 = 0) : packWord (wordOpcode w) (wordForm w) = w := by
  simp only [packWord, wordOpcode, wordForm, BitVec.ofNat_toNat, BitVec.setWidth_eq, ← h]
  repeat rw [BitVec.extractLsb'_append_extractLsb'_eq_extractLsb' (by decide)]
  exact BitVec.extractLsb'_eq_self

/-! ## The row of an instruction -/

/-- What the encoding of every instruction with a word owes to its form. -/
theorem encoding_of_parts {opc : Nat} {f : Form} : (i : Instr) → i.parts = some (opc, f) → Encoding.Statement i := by
  intro i h
  exact match i with
  | .pass f => Encoding.pass f | .const f => Encoding.const f | .steer f => Encoding.steer f
  | .merge f => Encoding.merge f | .select f => Encoding.select f | .gate f => Encoding.gate f
  | .sink f => Encoding.sink f | .mark f => Encoding.mark f | .rndq f => Encoding.rndq f
  | .align f => Encoding.align f | .count f => Encoding.count f | .trap f => Encoding.trap f
  | .assert f => Encoding.assert f | .inj f => Encoding.inj f | .take f => Encoding.take f
  | .reconf f => Encoding.reconf f | .probe f => Encoding.probe f | .alloc f => Encoding.alloc f
  | .iter f => Encoding.iter f | .free f => Encoding.free f | .popt f => Encoding.popt f
  | .pusht f => Encoding.pusht f | .setit f => Encoding.setit f | .gettag f => Encoding.gettag f
  | .mktag f => Encoding.mktag f | .spawn f => Encoding.spawn f | .returnTok f => Encoding.returnTok f
  | .tsize f => Encoding.tsize f | .colq f => Encoding.colq f | .add f => Encoding.add f | .sub f => Encoding.sub f
  | .mul f => Encoding.mul f | .mulh f => Encoding.mulh f | .mad f => Encoding.mad f | .div f => Encoding.div f
  | .rem f => Encoding.rem f | .neg f => Encoding.neg f | .abs f => Encoding.abs f | .min f => Encoding.min f
  | .max f => Encoding.max f | .cmp f => Encoding.cmp f | .and f => Encoding.and f | .or f => Encoding.or f
  | .xor f => Encoding.xor f | .not f => Encoding.not f | .shl f => Encoding.shl f | .shr f => Encoding.shr f
  | .sar f => Encoding.sar f | .rot f => Encoding.rot f | .clz f => Encoding.clz f | .popc f => Encoding.popc f
  | .bfx f => Encoding.bfx f | .bfi f => Encoding.bfi f | .ext f => Encoding.ext f | .agen f => Encoding.agen f
  | .sat f => Encoding.sat f | .fadd f => Encoding.fadd f | .fsub f => Encoding.fsub f | .fmul f => Encoding.fmul f
  | .fma f => Encoding.fma f | .fdiv f => Encoding.fdiv f | .fmin f => Encoding.fmin f | .fmax f => Encoding.fmax f
  | .fabs f => Encoding.fabs f | .fneg f => Encoding.fneg f | .fcmp f => Encoding.fcmp f
  | .fclass f => Encoding.fclass f | .frcp f => Encoding.frcp f | .frsq f => Encoding.frsq f
  | .fsqrt f => Encoding.fsqrt f | .fexp2 f => Encoding.fexp2 f | .flog2 f => Encoding.flog2 f
  | .cvt f => Encoding.cvt f | .frnd f => Encoding.frnd f | .vdot f => Encoding.vdot f | .vsum f => Encoding.vsum f
  | .vpack f => Encoding.vpack f | .vunpk f => Encoding.vunpk f | .vshuf f => Encoding.vshuf f
  | .scaleSend f => Encoding.scaleSend f | .scaleApply f => Encoding.scaleApply f | .ld f => Encoding.ld f
  | .st f => Encoding.st f | .lds f => Encoding.lds f | .sts f => Encoding.sts f | .lkup f => Encoding.lkup f
  | .ttset f => Encoding.ttset f | .ttinv f => Encoding.ttinv f | .feq f => Encoding.feq f
  | .feset f => Encoding.feset f | .atom f => Encoding.atom f | .red f => Encoding.red f
  | .fence f => Encoding.fence f | .xfence f => Encoding.xfence f | .reord f => Encoding.reord f
  | .pref f => Encoding.pref f | .strm f => Encoding.strm f | .gthr f => Encoding.gthr f | .scat f => Encoding.scat f
  | .sclose f => Encoding.sclose f | .scloseCut f => Encoding.scloseCut f | .swait f => Encoding.swait f
  | .sbar f => Encoding.sbar f | .circ f => Encoding.circ f | .circx f => Encoding.circx f
  | .ring f => Encoding.ring f | .rcommitRsv f => Encoding.rcommitRsv f | .rcommitRsvw f => Encoding.rcommitRsvw f
  | .rcommitPub f => Encoding.rcommitPub f | .rcommitTail f => Encoding.rcommitTail f | .rpop f => Encoding.rpop f
  | .rstatRing f => Encoding.rstatRing f | .rstatEng f => Encoding.rstatEng f
  | .rstatEngclr f => Encoding.rstatEngclr f | .mma f => Encoding.mma f | .mmas f => Encoding.mmas f
  | .accz f => Encoding.accz f | .accrd f => Encoding.accrd f | .nzscan f => Encoding.nzscan f
  | .xsplit f => Encoding.xsplit f | .tapp f => Encoding.tapp f | .tfork f => Encoding.tfork f
  | .tckpt f => Encoding.tckpt f | .tcommit f => Encoding.tcommit f | .ttrunc f => Encoding.ttrunc f
  | .tevict f => Encoding.tevict f | .tdesc f => Encoding.tdesc f | .tmask f => Encoding.tmask f
  | .tstatLen f => Encoding.tstatLen f | .tstatPool f => Encoding.tstatPool f | .rope3Rot f => Encoding.rope3Rot f
  | .rope3Set f => Encoding.rope3Set f | .rope3Getlo f => Encoding.rope3Getlo f
  | .rope3Gethi f => Encoding.rope3Gethi f | .tfree f => Encoding.tfree f | .gmask f => Encoding.gmask f
  | .gmaskH f => Encoding.gmaskH f | .gstep f => Encoding.gstep f | .gstepH f => Encoding.gstepH f
  | .gsnap f => Encoding.gsnap f | .grest f => Encoding.grest f | .gfork f => Encoding.gfork f
  | .gdrop f => Encoding.gdrop f | .samp f => Encoding.samp f | .lstat f => Encoding.lstat f
  | .penal f => Encoding.penal f | .acceptOpen f => Encoding.acceptOpen f | .acceptWalk f => Encoding.acceptWalk f
  | .acceptAbort f => Encoding.acceptAbort f | .commit f => Encoding.commit f
  | .commitFree f => Encoding.commitFree f | .rng f => Encoding.rng f | .jmp f => Encoding.jmp f
  | .br f => Encoding.br f | .call f => Encoding.call f | .ret f => Encoding.ret f | .sysrd f => Encoding.sysrd f
  | .syswr f => Encoding.syswr f | .eret f => Encoding.eret f | .exit f => Encoding.exit f
  | .exitDiscard f => Encoding.exitDiscard f | .wait f => Encoding.wait f | .qpost f => Encoding.qpost f
  | .evsigAdd f => Encoding.evsigAdd f | .evsigSet f => Encoding.evsigSet f | .launch f => Encoding.launch f
  | .cfgw f => Encoding.cfgw f | .cfgr f => Encoding.cfgr f | .cfgclrTile f => Encoding.cfgclrTile f
  | .cfgclrElem f => Encoding.cfgclrElem f | .bkptSet f => Encoding.bkptSet f | .bkptClr f => Encoding.bkptClr f
  | .bkptRes f => Encoding.bkptRes f | .sigchk f => Encoding.sigchk f | .dgst f => Encoding.dgst f
  | .crcMem f => Encoding.crcMem f | .crcTile f => Encoding.crcTile f | .gbind f => Encoding.gbind f
  | .grel f => Encoding.grel f | .grelForce f => Encoding.grelForce f | .barinitAlloc f => Encoding.barinitAlloc f
  | .barinitFree f => Encoding.barinitFree f | .barinitQuery f => Encoding.barinitQuery f
  | .bararrTok f => Encoding.bararrTok f | .bararrRnd f => Encoding.bararrRnd f | .bararr f => Encoding.bararr f
  | .preemptSoft f => Encoding.preemptSoft f | .preemptHard f => Encoding.preemptHard f
  | .ctxsave f => Encoding.ctxsave f | .ctxrestRun f => Encoding.ctxrestRun f
  | .ctxrestLoad f => Encoding.ctxrestLoad f | .mapPa f => Encoding.mapPa f | .mapZero f => Encoding.mapZero f
  | .mapCopy f => Encoding.mapCopy f | .unmap f => Encoding.unmap f | .unmapDclr f => Encoding.unmapDclr f
  | .migr f => Encoding.migr f | .lnkcfgQuery f => Encoding.lnkcfgQuery f | .lnkcfgTrain f => Encoding.lnkcfgTrain f
  | .lnkcfgDown f => Encoding.lnkcfgDown f | .lnkcfgRatio f => Encoding.lnkcfgRatio f
  | .lnkaddStart f => Encoding.lnkaddStart f | .lnkaddStat f => Encoding.lnkaddStat f
  | .lnkaddCancel f => Encoding.lnkaddCancel f
theorem reader_ne_drover_iff {r : Reader} : ¬ r = .drover ↔ r = .fabric := by
  cases r <;> simp

theorem ownsFields_ite {r : Reader} {c : Prop} [Decidable c] {i j : Instr} (hi : c → i.ownsFields r = true)
    (hj : ¬ c → j.ownsFields r = true) : (if c then i else j).ownsFields r = true := by
  split
  · exact hi ‹_›
  · exact hj ‹_›

/-- The instruction that an opcode table names owns the fields of its word: the rows that share an opcode divide its words
among them. -/
theorem ownsFields_of_instrOf {r : Reader} {opc : Nat} {f : Form} {i : Instr} (h : instrOf r opc f = some i) :
    i.ownsFields r = true := by
  unfold instrOf at h
  split at h
  case h_15 => cases h
  all_goals
    simp only [instrOf0, instrOf1, instrOf2, instrOf4, instrOf5, instrOf6, instrOf7, instrOf8, instrOfA, instrOfB,
      instrOfC, instrOfD, instrOfE, instrOfF] at h
    split at h <;> cases h
  all_goals
    repeat' apply ownsFields_ite <;> intro _
  all_goals
    have hbits : bitsOf f.mod.toNat 3 2 < 4 := Nat.mod_lt _ (by decide)
    simp_all [Instr.ownsFields, reader_ne_drover_iff, BitVec.toNat_eq]
  all_goals omega

/-- A word whose fields pass every check decodes to the instruction of its opcode and fields. -/
theorem decode_eq_ok {r : Reader} {w : W128} {i : Instr} (hopc : wordOpcode w ≠ 0) (hlow : w.extractLsb' 0 16 = 0)
    (hspec : (opSpec (wordOpcode w)).isSome = true) (hcheck : fieldCheck r (wordOpcode w) (wordForm w) = 0)
    (hinstr : instrOf r (wordOpcode w) (wordForm w) = some i) : decode r w = .ok i := by
  obtain ⟨o, ho⟩ := Option.isSome_iff_exists.mp hspec
  simp [decode, hopc, ho, hlow, hcheck, hinstr]

/-- Settles O1: the word of an instruction has its opcode and its fields, and the encoding's laws find its row again. -/
theorem decodeOfEncode : Obligations.DecodeOfEncode := by
  intro r i hwf
  unfold Instr.wf at hwf
  split at hwf
  case h_2 => cases hwf
  case h_1 opc f hp =>
    obtain ⟨howns, hcheck⟩ := Bool.and_eq_true_iff.mp hwf
    have hlaw := encoding_of_parts i hp
    simp only [Encoding.Statement, hp] at hlaw
    obtain ⟨hpos, hlt, hspec, hinstr⟩ := hlaw
    have hopc : wordOpcode (packWord opc f) = opc := wordOpcode_packWord (by omega) f
    simp only [encode, hp]
    refine decode_eq_ok ?_ (lowBits_packWord opc f) ?_ ?_ ?_ <;> simp only [hopc, wordForm_packWord]
    · omega
    · exact hspec
    · exact beq_iff_eq.mp hcheck
    · exact hinstr r howns

/-- Settles O2: a word that decodes has bits 15:0 zero, so it is laid out again from its opcode and fields, which passed
the checks of its reader. -/
theorem encodeOfDecode : Obligations.EncodeOfDecode := by
  intro r w i h
  obtain ⟨-, hlow, hcheck, hinstr⟩ := decode_ok h
  have hp : i.parts = some (wordOpcode w, wordForm w) := parts_of_instrOf hinstr
  constructor
  · simp only [encode, hp]
    exact packWord_of_lowBits hlow
  · simp only [Instr.wf, hp, hcheck, ownsFields_of_instrOf hinstr]
    rfl
/-- A word with an assigned opcode whose fields fail a check is refused with that check (R61, R63). -/
theorem decode_eq_error {r : Reader} {w : W128} {o : OpSpec} {n : Nat} (hopc : wordOpcode w ≠ 0)
    (hlow : w.extractLsb' 0 16 = 0) (hspec : opSpec (wordOpcode w) = some o)
    (hcheck : fieldCheck r (wordOpcode w) (wordForm w) = n + 1) : decode r w = .error (badWordOf (n + 1)) := by
  simp [decode, hopc, hspec, hlow, hcheck]

/-- Settles O5: the marking is the first check of the fields. -/
theorem modeExcludes : Obligations.ModeExcludes := by
  refine ⟨rfl, fun w o hopc hspec hlow => ⟨fun hm => ?_, fun hm => ?_⟩⟩
  · have hcheck : fieldCheck .fabric (wordOpcode w) (wordForm w) = 3 := by
      simp [fieldCheck, fabricCheck, hspec, hm]
    exact decode_eq_error hopc hlow hspec hcheck
  · have hcheck : fieldCheck .drover (wordOpcode w) (wordForm w) = 3 := by
      simp [fieldCheck, seqCheck, hspec, hm]
    exact decode_eq_error hopc hlow hspec hcheck

/-- Settles O6: each word is evaluated. -/
theorem specWordsDecode : Obligations.SpecWordsDecode := by
  refine ⟨?_, ?_, ?_, ?_, ?_, ?_, ?_, ?_, ?_, ?_⟩ <;> rfl

end Sys2Proof.Proofs
end

section
/-! PROOFS. The memories: one representation for each, and a store to a plain page (R170, R184, R375). -/

namespace Sys2Proof.Proofs

open Sys2Proof Sys2Proof.Machine Sys2Proof.Claims

/-! ## Canonical maps that read alike -/

/-- The first entry of a canonical map reads as no unlisted key does. -/
theorem mapGet_head_ne {α : Type} [DecidableEq α] {d : α} {b k : Nat} {v : α} {m : FMap α}
    (h : mapWfFrom d b ((k, v) :: m) = true) : mapGet d ((k, v) :: m) k ≠ d := by
  simp only [mapWfFrom, Bool.and_eq_true, decide_eq_true_eq, Bool.not_eq_true', decide_eq_false_iff_not] at h
  simpa [mapGet] using h.1.2

theorem mapWfFrom_tail {α : Type} [DecidableEq α] {d : α} {b k : Nat} {v : α} {m : FMap α}
    (h : mapWfFrom d b ((k, v) :: m) = true) : b ≤ k ∧ mapWfFrom d (k + 1) m = true := by
  simp only [mapWfFrom, Bool.and_eq_true, decide_eq_true_eq] at h
  exact ⟨h.1.1, h.2⟩

/-- Two maps, canonical from a bound on, that read alike are the same list: their first keys agree, for below its first key
a map reads as unlisted. -/
theorem eq_of_mapGet_eq {α : Type} [DecidableEq α] {d : α} {m m' : FMap α} {b : Nat} (h : mapWfFrom d b m = true)
    (h' : mapWfFrom d b m' = true) (hread : ∀ a, mapGet d m a = mapGet d m' a) : m = m' := by
  induction m generalizing b m' with
  | nil =>
    cases m' with
    | nil => rfl
    | cons kv m' => exact absurd (hread kv.1).symm (mapGet_head_ne h')
  | cons kv m ih =>
    obtain ⟨k, v⟩ := kv
    cases m' with
    | nil => exact absurd (hread k) (mapGet_head_ne h)
    | cons kv' m' =>
      obtain ⟨k', v'⟩ := kv'
      obtain ⟨hk, hm⟩ := mapWfFrom_tail h
      obtain ⟨hk', hm'⟩ := mapWfFrom_tail h'
      have hkeys : k = k' := by
        by_contra hne
        rcases Nat.lt_or_gt_of_ne hne with hlt | hgt
        · exact mapGet_head_ne h (by rw [hread k]; simp [mapGet, hlt.ne, hlt])
        · exact mapGet_head_ne h' (by rw [← hread k']; simp [mapGet, hgt.ne, hgt])
      subst hkeys
      have hvals : v = v' := by simpa [mapGet] using hread k
      subst hvals
      refine congrArg _ (ih hm hm' fun a => ?_)
      rcases Nat.lt_or_ge k a with hlt | hge
      · simpa [mapGet, hlt.ne', Nat.lt_asymm hlt] using hread a
      · rw [mapGet_below d m (k + 1) a hm (by omega), mapGet_below d m' (k + 1) a hm' (by omega)]

/-- Settles O13. -/
theorem canonicalMemoryUnique : Obligations.CanonicalMemoryUnique :=
  fun _ _ h h' hread => eq_of_mapGet_eq h h' hread

/-! ## Older values that a path may still read (R184, R428) -/

/-- No older value of `n` bytes from `lo` on is left for reads on a path. -/
def Settled (es : List Stale) (path lo n : Nat) : Prop :=
  ∀ e ∈ es, lo ≤ e.loc → e.loc < lo + n → e.dst.getLsbD path = false

/-- Every older value of the second list was one of the first, for the same byte and the same paths: knowledge and
observations change no more. -/
def SameSeen (es es' : List Stale) : Prop := ∀ e' ∈ es', ∃ e ∈ es, e'.loc = e.loc ∧ e'.dst = e.dst

theorem Settled.of_sameSeen {es es' : List Stale} {path lo n : Nat} (h : Settled es path lo n) (hs : SameSeen es es') :
    Settled es' path lo n := by
  intro e' he' hlo hhi
  obtain ⟨e, he, hloc, hdst⟩ := hs e' he'
  rw [hdst]
  exact h e he (hloc ▸ hlo) (hloc ▸ hhi)

theorem SameSeen.trans {es es' es'' : List Stale} (h : SameSeen es es') (h' : SameSeen es' es'') : SameSeen es es'' := by
  intro e'' he''
  obtain ⟨e', he', hloc', hdst'⟩ := h' e'' he''
  obtain ⟨e, he, hloc, hdst⟩ := h e' he'
  exact ⟨e, he, hloc'.trans hloc, hdst'.trans hdst⟩

theorem sameSeen_refl (es : List Stale) : SameSeen es es := fun e he => ⟨e, he, rfl, rfl⟩

theorem sameSeen_map (es : List Stale) {f : Stale → Stale} (hf : ∀ e, (f e).loc = e.loc ∧ (f e).dst = e.dst) :
    SameSeen es (es.map f) := by
  intro e' he'
  obtain ⟨e, he, rfl⟩ := List.mem_map.mp he'
  exact ⟨e, he, (hf e).1, (hf e).2⟩

theorem learn_seen (src dst : Nat) (e : Stale) :
    (Stale.learn src dst e).loc = e.loc ∧ (Stale.learn src dst e).dst = e.dst := by
  unfold Stale.learn
  split <;> (dsimp only; split <;> exact ⟨rfl, rfl⟩)

theorem sameSeen_learn (s : State) (src dst : Nat) : SameSeen s.stale (s.learn src dst).stale := by
  unfold State.learn
  dsimp only
  split
  · exact sameSeen_refl _
  · exact sameSeen_map _ (learn_seen src dst)

theorem sameSeen_knowAll (p : Stale → Bool) (u : Nat) (es : List Stale) : SameSeen es (knowAll p u es) := by
  unfold knowAll
  generalize (List.map (·.tick) (List.filter p es)).eraseDups = ks
  induction ks generalizing es with
  | nil => exact sameSeen_refl es
  | cons k ks ih => exact (sameSeen_map es (learn_seen _ _)).trans (ih _)

theorem sameSeen_observe (s : State) (a : Agent) (loc view : Nat) : SameSeen s.stale (s.observe a loc view).stale := by
  unfold State.observe
  dsimp only
  split
  · refine (sameSeen_knowAll _ _ _).trans (sameSeen_map _ fun e => ?_)
    split <;> exact ⟨rfl, rfl⟩
  · refine sameSeen_map _ fun e => ?_
    split <;> exact ⟨rfl, rfl⟩

/-- A read of a settled byte gives its newest value. -/
theorem readVisible_settled {s : State} {a : Agent} {lo n loc : Nat} (cur : Byte) (h : Settled s.stale a.path lo n)
    (hlo : lo ≤ loc) (hhi : loc < lo + n) : s.readVisible a loc cur = (cur, s.observe a loc (s.tick + 1)) := by
  refine if_pos (List.all_eq_true.mpr fun e he => ?_)
  by_cases hloc : e.loc = loc
  · simp [Stale.sees, h e he (by omega) (by omega)]
  · simp [Stale.sees, hloc]

/-- A write leaves no older value of its byte for its own path, and none of other bytes where there was none. -/
theorem noteWrite_settled {s : State} {a : Agent} {c : BitVec 8} {lo n loc : Nat} {old : Byte} (hp : a.path < 9)
    (h : Settled s.stale a.path lo n) : Settled (s.noteWrite a c loc old).stale a.path lo n ∧
      Settled (s.noteWrite a c loc old).stale a.path loc 1 := by
  have hown : (BitVec.ofNat 32 (2 ^ a.path)).getLsbD a.path = true := by
    rw [BitVec.getLsbD_ofNat, Nat.testBit_two_pow_self]
    simp only [Bool.and_true, decide_eq_true_eq]
    omega
  have hl : Settled (s.learn a.unit (arrivalKey s.tick)).stale a.path lo n := h.of_sameSeen (sameSeen_learn _ _ _)
  have hnew : ∀ e ∈ (s.noteWrite a c loc old).stale, e.loc = loc → e.dst.getLsbD a.path = false := by
    intro e he hloc
    simp only [State.noteWrite, List.mem_append, List.mem_filterMap, List.mem_singleton] at he
    obtain ⟨e0, -, hsome⟩ | rfl := he
    · split at hsome
      · split at hsome
        · cases hsome
        · cases hsome
          simp only [Stale.without, BitVec.getLsbD_and, BitVec.getLsbD_not, hown, Bool.not_true, Bool.and_false]
      · cases hsome
        exact absurd hloc ‹_›
    · simp only [BitVec.getLsbD_and, BitVec.getLsbD_not, hown, Bool.not_true, Bool.and_false]
  refine ⟨fun e he hlo hhi => ?_, fun e he hlo hhi => hnew e he (by omega)⟩
  by_cases hloc : e.loc = loc
  · exact hnew e he hloc
  · simp only [State.noteWrite, List.mem_append, List.mem_filterMap, List.mem_singleton] at he
    obtain ⟨e0, he0, hsome⟩ | rfl := he
    · split at hsome
      · split at hsome
        · cases hsome
        · cases hsome
          exact absurd ‹_› hloc
      · cases hsome
        exact hl e he0 hlo hhi
    · exact absurd rfl hloc

/-- A write that marks its page sets `D`, bit 5, of the entry's first byte (R375). -/
theorem mapGet_markDirty {s : State} {path : Nat} {p : Page} (h : Memory.wf s.mem = true) (x : Nat) :
    mapGet 0 (s.markDirty path p).mem x = mapGet 0 s.mem x ∨
      x = p.epa ∧ mapGet 0 (s.markDirty path p).mem x = mapGet 0 s.mem x ||| 0x20 := by
  unfold State.markDirty
  split
  · dsimp only
    rw [mapGet_mapSet 0 s.mem p.epa x _ h]
    split
    · exact .inr ⟨‹_›, by rw [‹x = p.epa›]⟩
    · exact .inl rfl
  · exact .inl rfl

/-! ## A plain page -/

section PlainPage

variable {a : Agent} {c : BitVec 8} {p : Page} (htgt : p.tgt = 0) (hplain : bitOf p.e 6 = false)
include htgt hplain

theorem pageByte_plain (s : State) (va : Nat) :
    s.pageByte a c p va = s.readVisible a (p.pa va) (mapGet 0 s.mem (p.pa va)) := by
  simp [State.pageByte, State.keyByte, htgt, hplain]

theorem pageWrite_plain (s : State) (va : Nat) (b : Byte) :
    s.pageWrite a c p va b = (s.markDirty a.path p).physWrite a c (p.pa va) b := by
  simp [State.pageWrite, State.keyByte, htgt, hplain]

/-- Bytes that are settled read as memory holds them. -/
theorem pageRead_settled {s : State} {va lo n m k : Nat} (hpa : ∀ i < n, p.pa (va + i) = lo + i)
    (h : Settled s.stale a.path m k) (hlo : m ≤ lo) (hhi : lo + n ≤ m + k) :
    (pageRead a c p va n s).1 = memRead s.mem lo n := by
  induction n generalizing s va lo with
  | zero => rfl
  | succ n ih =>
    have hva : p.pa va = lo := hpa 0 (by omega)
    have hbyte := pageByte_plain (a := a) (c := c) htgt hplain s va
    rw [hva, readVisible_settled _ h hlo (by omega)] at hbyte
    have htail := ih (s := s.observe a lo (s.tick + 1)) (va := va + 1) (lo := lo + 1)
      (fun i hi => by rw [Nat.add_right_comm, Nat.add_assoc, hpa (i + 1) (by omega)]; omega)
      (h.of_sameSeen (sameSeen_observe s a lo (s.tick + 1))) (by omega) (by omega)
    simp only [pageRead, hbyte, htail]
    simp only [memRead, List.range_succ_eq_map, List.map_cons, List.map_map, Nat.add_zero, List.cons.injEq, true_and]
    refine List.map_congr_left fun i _ => ?_
    rw [Function.comp_apply, Nat.succ_eq_add_one, Nat.add_right_comm, Nat.add_assoc]
    rfl

theorem pageWrite_settled {s : State} {va lo n : Nat} {b : Byte} (hp : a.path < 9) (h : Settled s.stale a.path lo n) :
    Settled (s.pageWrite a c p va b).stale a.path lo n ∧ Settled (s.pageWrite a c p va b).stale a.path (p.pa va) 1 := by
  rw [pageWrite_plain htgt hplain]
  have hd : (s.markDirty a.path p).stale = s.stale := by unfold State.markDirty; split <;> rfl
  exact noteWrite_settled (s := s.markDirty a.path p) hp (hd ▸ h)

theorem pageWrites_keeps_settled {s : State} {va lo n : Nat} {bs : List Byte} (hp : a.path < 9)
    (h : Settled s.stale a.path lo n) : Settled (pageWrites a c p va bs s).stale a.path lo n := by
  induction bs generalizing va s with
  | nil => exact h
  | cons b bs ih => exact ih (pageWrite_settled htgt hplain hp h).1

/-- A store leaves no older value of its bytes for its own path. -/
theorem pageWrites_settled {s : State} {va lo : Nat} {bs : List Byte} (hp : a.path < 9)
    (hpa : ∀ i < bs.length, p.pa (va + i) = lo + i) : Settled (pageWrites a c p va bs s).stale a.path lo bs.length := by
  induction bs generalizing va s lo with
  | nil => exact fun e _ hlo hhi => absurd hhi (by simpa using hlo)
  | cons b bs ih =>
    have hva : p.pa va = lo := hpa 0 (by simp)
    have hnil : Settled s.stale a.path lo 0 := fun e _ hlo hhi => absurd hhi (by omega)
    have hfirst := pageWrites_keeps_settled (c := c) (va := va + 1) (bs := bs) htgt hplain hp
      (hva ▸ (pageWrite_settled (c := c) (b := b) (va := va) htgt hplain hp hnil).2)
    have hrest := ih (s := s.pageWrite a c p va b) (va := va + 1) (lo := lo + 1) fun i hi => by
      rw [Nat.add_right_comm, Nat.add_assoc, hpa (i + 1) (by simpa using hi)]
      omega
    intro e he hlo hhi
    rw [List.length_cons] at hhi
    rcases Nat.lt_or_ge lo e.loc with hlt | hge
    · exact hrest e he hlt (by omega)
    · exact hfirst e he (by omega) (by omega)

/-- A byte of memory after a store: inside the store the byte written, at the page's entry the old one or with `D` set, and
elsewhere the old one. -/
theorem mapGet_pageWrites {s : State} {va lo : Nat} {bs : List Byte} (hwf : Memory.wf s.mem = true)
    (hpa : ∀ i < bs.length, p.pa (va + i) = lo + i) (hepa : ¬ (lo ≤ p.epa ∧ p.epa < lo + bs.length)) :
    (∀ x, lo ≤ x → x < lo + bs.length → mapGet 0 (pageWrites a c p va bs s).mem x = bs.getD (x - lo) 0) ∧
    (mapGet 0 (pageWrites a c p va bs s).mem p.epa = mapGet 0 s.mem p.epa ∨
      mapGet 0 (pageWrites a c p va bs s).mem p.epa = mapGet 0 s.mem p.epa ||| 0x20) ∧
    ∀ x, ¬ (lo ≤ x ∧ x < lo + bs.length) → x ≠ p.epa →
      mapGet 0 (pageWrites a c p va bs s).mem x = mapGet 0 s.mem x := by
  induction bs generalizing va s lo with
  | nil => exact ⟨fun x hlo hhi => absurd hhi (by simpa using hlo), .inl rfl, fun _ _ _ => rfl⟩
  | cons b bs ih =>
    have hva : p.pa va = lo := hpa 0 (by simp)
    have hmem : ∀ x, mapGet 0 (s.pageWrite a c p va b).mem x =
        if x = lo then b else mapGet 0 (s.markDirty a.path p).mem x := by
      intro x
      rw [pageWrite_plain htgt hplain, State.physWrite_mem, hva, mapGet_mapSet 0 _ _ _ _ (s.markDirty_wf _ p hwf)]
    have hdirty := mapGet_markDirty (path := a.path) (p := p) hwf
    have hlen : lo + (b :: bs).length = lo + 1 + bs.length := by simp only [List.length_cons]; omega
    rw [hlen] at hepa ⊢
    obtain ⟨hin, hentry, hout⟩ := ih (s := s.pageWrite a c p va b) (va := va + 1) (lo := lo + 1)
      (s.pageWrite_wf a c p va b hwf) (fun i hi => by
        rw [Nat.add_right_comm, Nat.add_assoc, hpa (i + 1) (by simpa using hi)]
        omega) (by omega)
    refine ⟨fun x hlo hhi => ?_, ?_, fun x hx hne => ?_⟩
    · rcases Nat.lt_or_ge lo x with hlt | hge
      · obtain ⟨k, hk⟩ : ∃ k, x - lo = k + 1 := ⟨x - lo - 1, by omega⟩
        simp only [pageWrites]
        rw [hin x hlt hhi, hk, show x - (lo + 1) = k by omega, List.getD_cons_succ]
      · have hx : x = lo := by omega
        simp only [pageWrites]
        rw [hout x (by omega) (by omega), hmem, if_pos hx, hx, Nat.sub_self, List.getD_cons_zero]
    · have hne : p.epa ≠ lo := by omega
      rw [hmem, if_neg hne] at hentry
      rcases hdirty p.epa with h | ⟨-, h⟩ <;> rw [h] at hentry
      · exact hentry
      · rcases hentry with h' | h'
        · exact .inr h'
        · exact .inr (by simp only [pageWrites]; rw [h', BitVec.or_assoc, BitVec.or_self])
    · simp only [pageWrites]
      rw [hout x (by omega) hne, hmem, if_neg (by omega)]
      exact (hdirty x).resolve_right fun h => hne h.1

end PlainPage

/-- Inside its region a page's physical addresses run on with the virtual ones (R371). -/
theorem pa_add {p : Page} {va n i : Nat} (h : va % regionSize p.lvl + n ≤ regionSize p.lvl) (hi : i < n) :
    p.pa (va + i) = p.pa va + i := by
  have hmod : (va + i) % regionSize p.lvl = va % regionSize p.lvl + i := by
    rw [Nat.add_mod, Nat.mod_eq_of_lt (show i < regionSize p.lvl by omega), Nat.mod_eq_of_lt (by omega)]
  simp only [Page.pa, hmod]
  omega

/-- Settles O14: a store leaves no older value for its own path, so what memory then holds is what is read back. -/
theorem pageStoreReadsBack : Obligations.PageStoreReadsBack := by
  intro s a c p va bs hwf htgt hplain hfits hp hepa
  have hpa : ∀ i < bs.length, p.pa (va + i) = p.pa va + i := fun i hi => pa_add hfits hi
  obtain ⟨hin, hentry, hout⟩ := mapGet_pageWrites (a := a) (c := c) htgt hplain hwf hpa hepa
  refine ⟨?_, hentry, hout⟩
  rw [pageRead_settled htgt hplain hpa (pageWrites_settled htgt hplain hp hpa) (Nat.le_refl _) (Nat.le_refl _)]
  refine List.ext_getElem (by simp [memRead]) fun i hi hi' => ?_
  simp only [memRead, List.getElem_map, List.getElem_range]
  rw [hin _ (by omega) (by omega), Nat.add_sub_cancel_left, List.getD_eq_getElem _ _ hi']

end Sys2Proof.Proofs
end

section
/-! PROOFS. The step (R36, R51, R63, R174, R403, R426) and the state of reset. -/

namespace Sys2Proof.Proofs

open Sys2Proof Sys2Proof.Machine Sys2Proof.Claims

/-! ## A step that goes on -/

theorem onRequest_core {s : State} {n : Nat} (a : Firing → State → State) (u : Engine → Req → State → State)
    (h : s.unit = .core n) : onRequest s a u = .next (s.enterHandler n fcIllegal none (some 3)) := by
  simp [onRequest, h]

/-- A word that a core executes goes on: its meaning answers for a core, if only with `ILLEGAL` (R3). -/
theorem exec_core_goes {i : Instr} {s : State} {n : Nat} (h : s.unit = .core n) : ∃ t, exec i s = .next t := by
  cases i
  all_goals
    unfold exec
    dsimp only
  all_goals first
    | exact ⟨_, onCore_core _ h⟩
    | exact ⟨_, onBoth_core _ _ h⟩
    | exact ⟨_, onAll_core _ _ _ h⟩
    | exact ⟨_, onSlot_core _ h⟩
    | exact ⟨_, onRequest_core _ _ h⟩
    | exact ⟨_, rfl⟩

/-- An event goes on, whatever the unit. -/
theorem exec_event_goes {i : Instr} (s : State) (h : i.parts = none) : ∃ t, exec i s = .next t := by
  cases i <;> cases h
  all_goals exact ⟨_, rfl⟩

theorem step_goes_of_exec {s s' : State} {i : Instr} (hw : s.nextWork = some (i, s')) (he : ∃ t, exec i s' = .next t) :
    ∃ t, step s = .next t := by
  obtain ⟨t, ht⟩ := he
  exact ⟨t.advance, by rw [step_work hw, ht, finish]⟩

/-- What a core's turn executes is a word on the core, or an event. -/
theorem coreWork_unit {s s' : State} {n : Nat} {i : Instr} (h : s.coreWork n = some (i, s')) :
    s'.unit = .core n ∨ i.parts = none := by
  simp only [State.coreWork] at h
  split at h
  · cases h
  · split at h
    · cases h; exact .inr rfl
    · split at h
      · cases h
      · split at h
        · cases h; exact .inr rfl
        · split at h
          · cases h; exact .inr rfl
          · cases h; exact .inl rfl

/-- Settles O9. -/
theorem coreAndEventTurnsGoOn : Obligations.CoreAndEventTurnsGoOn := by
  intro s hturn
  cases hw : s.nextWork with
  | none => exact ⟨_, step_idle hw⟩
  | some w =>
    obtain ⟨i, s'⟩ := w
    refine step_goes_of_exec hw ?_
    unfold State.nextWork at hw
    split at hw
    · cases hw
    · obtain ⟨n, hn⟩ | ⟨j, hj⟩ := hturn
      · rw [hn] at hw
        rcases coreWork_unit hw with hu | hp
        · exact exec_core_goes hu
        · exact exec_event_goes s' hp
      · simp only [hj] at hw
        split at hw
        · cases hw
          exact exec_event_goes _ (Option.isNone_iff_eq_none.mp ‹_›)
        · cases hw

/-- Settles O8. -/
theorem nothingBeforeStart : Obligations.NothingBeforeStart := by
  intro s hstart hup hloss hport
  have houtside : s.turn.outside = false := by
    unfold Turn.outside
    split
    · exact absurd ‹_› hup
    · exact absurd ‹_› hloss
    · exact absurd ‹_› (hport _)
    · rfl
  have hwork : s.nextWork = none := if_pos ⟨hstart, by simp [houtside]⟩
  have hpass : s.passTurn = s := by
    unfold State.passTurn
    split
    · exact if_neg fun h => hstart h.1
    · exact if_neg hstart
    · rfl
  rw [step_idle hwork, hpass]

/-! ## The unit whose turn it is -/

theorem firing_place (c : Cand) (t e : Nat) (y : SlotState) :
    (c.firing t e y).tile = t ∧ (c.firing t e y).elem = e ∧ (c.firing t e y).slot = c.slot := by
  unfold Cand.firing
  dsimp only
  split
  · exact ⟨rfl, rfl, rfl⟩
  · split
    · exact ⟨rfl, rfl, rfl⟩
    · split <;> exact ⟨rfl, rfl, rfl⟩

/-- A candidate of a slot with a word fires it. -/
theorem fireCand_word {s : State} {t e : Nat} {c : Cand} {i : Instr}
    (h : (((s.takePair t e (s.candsOf t e) c).settle t).slot t e c.slot).word = some i) :
    s.fireCand t e c = some (i, { (s.takePair t e (s.candsOf t e) c).settle t with
      unit := .slot (c.firing t e (s.slot t e c.slot)) }) := by
  obtain ⟨ht, he, hk⟩ := firing_place c t e (s.slot t e c.slot)
  simp only [State.fireCand, State.fireWork, ht, he, hk, h]

theorem mapSet_ne_nil {α : Type} [DecidableEq α] {d v : α} (m : FMap α) (i : Nat) (hv : v ≠ d) : mapSet d m i v ≠ [] := by
  rw [mapSet, if_neg hv]
  cases m with
  | nil => simp [mapPut]
  | cons kv m =>
    simp only [mapPut]
    split
    · simp
    · split <;> simp

/-- A slot after a change that does not empty it. -/
theorem slot_modSlot {s : State} {t e k : Nat} {f : SlotState → SlotState} (hf : f (s.slot t e k) ≠ {}) :
    (s.modSlot t e k f).slot t e k = f (s.slot t e k) := by
  have hslots : mapSet {} (s.elem t e).slots k (f (s.slot t e k)) ≠ [] := mapSet_ne_nil _ _ hf
  have helem : (s.elem t e).modSlot k f ≠ {} := fun h => hslots (congrArg Element.slots h)
  have helems : mapSet {} (s.tile t).elems e ((s.elem t e).modSlot k f) ≠ [] := mapSet_ne_nil _ _ helem
  have htile : (s.tile t).modElem e (fun x => x.modSlot k f) ≠ {} := fun h => helems (congrArg Tile.elems h)
  have h1 : (s.modSlot t e k f).tile t = (s.tile t).modElem e (fun x => x.modSlot k f) := mapGet_mapSet_ne _ _ _ _ htile
  have h2 : (s.modSlot t e k f).elem t e = (s.elem t e).modSlot k f := by
    rw [State.elem, h1]
    exact mapGet_mapSet_ne _ _ _ _ helem
  rw [State.slot, h2]
  exact mapGet_mapSet_ne _ _ _ _ hf

/-- A slot of `ARITY` 11 once it has started: with `PUNCT` 01 and 11 it owes the `MARK` of round 0 (R51, log 12). -/
def startedSlot (y : SlotState) : SlotState :=
  { y with start := false, releasing := if y.form.punct = 1 ∨ y.form.punct = 3 then some 0 else none, done := 255 }

theorem word_startedSlot {s : State} {t e k : Nat} {i : Instr} (h : (s.slot t e k).word = some i) :
    ((s.modSlot t e k startedSlot).slot t e k).word = some i := by
  have hne : startedSlot (s.slot t e k) ≠ {} := fun hd => by
    have hnone : (s.slot t e k).word = none := congrArg SlotState.word hd
    rw [h] at hnone
    cases hnone
  rw [slot_modSlot hne]
  exact h

/-- A slot with a word that starts fires it, in its round. -/
theorem startWork_word {s : State} {t e k : Nat} {i : Instr} (h : (s.slot t e k).word = some i) :
    s.startWork t e k =
      (let s1 := (s.beginRound t 0).modSlot t e k startedSlot
       some (i, { s1 with unit := .slot { immFiring i t e k (s1.launchTag t) 0 {} with start := true } })) := by
  have hword : ((s.beginRound t 0).slot t e k).word = some i := by
    rw [← h]
    unfold State.beginRound
    split <;> rfl
  have hstarted := word_startedSlot hword
  unfold startedSlot at hstarted
  simp only [State.startWork, h, State.fireWork, immFiring, hstarted]
  rfl

/-- The work of a turn of a device that serves is that of its unit (R403, R426). -/
theorem nextWork_core {s : State} {n : Nat} (h : s.mgmt.start = .serving) (ht : s.turn = .core n) :
    s.nextWork = s.coreWork n := by
  simp only [State.nextWork, h, ht, ne_eq, not_true, false_and, if_false]
theorem nextWork_elem {s : State} {t e : Nat} (h : s.mgmt.start = .serving) (ht : s.turn = .elem t e) :
    s.nextWork = s.elemWork t e := by
  simp only [State.nextWork, h, ht, ne_eq, not_true, false_and, if_false]
theorem nextWork_engine {s : State} {e : Engine} (h : s.mgmt.start = .serving) (ht : s.turn = .engine e) :
    s.nextWork = s.engineWork e := by
  simp only [State.nextWork, h, ht, ne_eq, not_true, false_and, if_false]
theorem nextWork_event {s : State} {i : Instr} (h : s.mgmt.start = .serving) (ht : s.turn = .event i) (hp : i.parts = none) :
    s.nextWork = some (i, { s with unit := .idle }) := by
  unfold State.nextWork
  rw [if_neg fun hn => hn.1 h]
  split
  case h_4 j hj =>
    cases ht.symm.trans hj
    rw [hp]
    rfl
  all_goals cases ht.symm.trans ‹_›

/-- A core with nothing before it fetches its word (R63, R126). -/
theorem coreWork_word {s : State} {n : Nat} {i : Instr} (hrun : (s.core n).running = true) (hq : s.queuedFault n = false)
    (hdrain : s.draining (s.core n).context = false) (hwait : (s.core n).wait = .none)
    (hbreak : ((s.core n).atBreakpoint && !(s.core n).bkctl.getLsbD 4) = false)
    (hdec : decode .drover (mapGet 0 (s.core n).code (s.core n).pc.toNat) = .ok i) :
    s.coreWork n = some (i, { s.setCore n { fetched (s.core n) with wait := .fetched } with unit := .core n }) := by
  simp only [State.coreWork, hrun, hq, hdrain, hwait, Bool.and_assoc, hbreak, State.fetchCheck, hdec, Core.skipped, fetched,
    Bool.not_true, Bool.false_and, Bool.and_false, if_true, Bool.false_eq_true, if_false]

/-- Settles O7: each clause follows the branches of the unit's turn. -/
theorem stepRunsInstruction : Obligations.StepRunsInstruction := by
  refine ⟨?_, ?_, ?_, ?_, ?_, ?_⟩
  · intro s n i hstart hturn hrun hq hdrain hwait hbreak hdec
    have hb : ((s.core n).atBreakpoint && !(s.core n).bkctl.getLsbD 4) = false := by
      rcases hbreak with h | h <;> simp only [h, Bool.false_and, Bool.not_true, Bool.and_false]
    apply step_work
    rw [nextWork_core hstart hturn]
    exact coreWork_word hrun hq hdrain hwait hb hdec
  · intro s t e c i hstart hturn hfire hheld hstarts hchoice hbreaks s1 s2 hword
    have hnone : ((List.range 32).find? fun k => (s.slot t e k).start && !s.startHeld t e k) = none := by
      simpa using hstarts
    apply step_work
    rw [nextWork_elem hstart hturn]
    simp only [State.elemWork, hfire, hheld, hnone, hchoice, Bool.not_true, Bool.false_eq_true, if_false]
    exact (if_neg (Bool.eq_false_iff.mp hbreaks)).trans (fireCand_word hword)
  · intro s t e c i hstart hturn hfire hheld s1 s2 hword
    apply step_work
    rw [nextWork_elem hstart hturn]
    simp only [State.elemWork, hfire, hheld, Bool.not_true, Bool.false_eq_true, if_false]
    exact fireCand_word hword
  · intro s t e k i hstart hturn hfire hheld hk hstarts hnheld hword hbefore s1
    have hfind : ((List.range 32).find? fun k => (s.slot t e k).start && !s.startHeld t e k) = some k := by
      refine List.find?_range_eq_some.mpr ⟨by simp [hstarts, hnheld], List.mem_range.mpr hk, fun j hj => ?_⟩
      cases hj' : (s.slot t e j).start
      · rfl
      · simp [hbefore j hj hj']
    apply step_work
    rw [nextWork_elem hstart hturn]
    simp only [State.elemWork, hfire, hheld, hfind, Bool.not_true, Bool.false_eq_true, if_false]
    exact startWork_word hword
  · intro s e r rs hstart hturn hqueue hmark hrec
    apply step_work
    rw [nextWork_engine hstart hturn]
    simp only [State.engineWork, hqueue, hmark, hrec, Bool.or_self, Bool.false_eq_true, if_false]
  · intro s i hstart hturn hp
    apply step_work
    exact nextWork_event hstart hturn hp

/-! ## Reset (R403) -/

/-- Settles O10: every map of the reset state is empty, so each unit reads as its default. -/
theorem resetState : Obligations.ResetState := by
  refine ⟨rfl, rfl, rfl, rfl, rfl, fun n => ⟨rfl, rfl, ?_, ?_, rfl, fun k => ?_⟩, fun t e => ⟨rfl, rfl⟩, fun t a => rfl,
    fun c => rfl, fun g => rfl, fun l => rfl⟩
  · show Core.priv {} = true
    decide
  · show Core.hnd {} = false
    decide
  · show Core.reg {} k = 0
    unfold Core.reg
    split <;> rfl

/-- Settles O11. -/
theorem resetMemoryCanonical : Obligations.ResetMemoryCanonical := rfl

end Sys2Proof.Proofs
end

section
/-! PROOFS. Words of a drover core: faults and the handler, arithmetic, control flow, the mailbox, system registers and the
end of a program (R116 to R129). -/

namespace Sys2Proof.Proofs

open Sys2Proof Sys2Proof.Machine Sys2Proof.Claims

/-! ## Faults and the handler (R127) -/

/-- A fault of a core's word, as the statements write it. -/
theorem coreFault_eq (s : State) (n code : Nat) (aux val : Option W64) :
    s.coreFault n code aux val = wordFaults s n code val aux :=
  enterHandler_eq_wordFaults s n code val aux

theorem wordFaults_entered {s : State} {n : Nat} (code : Nat) (val aux : Option W64) (h : (s.core n).hnd = false) :
    wordFaults s n code val aux = handlerEntered s n code val aux :=
  if_neg (Bool.eq_false_iff.mp h)

theorem wordFaults_halted {s : State} {n : Nat} (code : Nat) (val aux : Option W64) (h : (s.core n).hnd = true) :
    wordFaults s n code val aux = handlerHalted s n code val aux :=
  if_pos h

theorem coreFault_entered {s : State} {n : Nat} (code : Nat) (aux val : Option W64) (h : (s.core n).hnd = false) :
    s.coreFault n code aux val = handlerEntered s n code val aux := by
  rw [coreFault_eq, wordFaults_entered _ _ _ h]

/-- The word's result, as the statements write it. -/
theorem coreResult_eq_wordDone (s : State) (n : Nat) (f : Form) (v : W64) : s.coreResult n f v = wordDone s n f v :=
  State.coreResult_eq s n f v

/-- Settles O15: taking an exception is what the statements call a word's fault, and `ERET` follows its own branch. -/
theorem handlerEntryAndReturn : Obligations.HandlerEntryAndReturn := by
  refine ⟨?_, ?_, ?_⟩
  · intro s n code val aux h
    rw [enterHandler_eq_wordFaults, wordFaults_entered _ _ _ h]
  · intro s n code val aux h
    rw [enterHandler_eq_wordFaults, wordFaults_halted _ _ _ h]
  · intro f s n hu
    have hexec : exec (.eret f) s
        = .next (if (s.core n).hnd then s.modCore n Core.leave else s.coreFault n fcIllegal) := by
      show execEret f s = _
      exact onCore_core _ hu
    constructor
    · intro h
      rw [hexec, if_pos h]
      rfl
    · intro h
      rw [hexec, if_neg (Bool.eq_false_iff.mp h), coreFault_entered _ _ _ h]
      rfl

/-! ## Control mode (R117) -/

/-- A word that needs control mode answers `PRIV` in user mode, whatever it would do. -/
theorem privileged_user {s : State} {n : Nat} (go : State) (hp : (s.core n).priv = false) (hh : (s.core n).hnd = false) :
    (if !(s.core n).priv then s.coreFault n fcPriv else go) = handlerEntered s n 0x2C none none := by
  rw [if_pos (by simp [hp]), coreFault_entered _ _ _ hh]
  rfl


/-- A link word of control mode answers `PRIV` in user mode. -/
theorem linkWordOf_user {f : Form} {s : State} {n : Nat} (bad : Nat → Bool) (go : Nat → State → State)
    (hp : (s.core n).priv = false) (hh : (s.core n).hnd = false) :
    linkWordOf f n false bad go s = handlerEntered s n 0x2C none none := by
  unfold linkWordOf
  dsimp only
  rw [if_pos (by simp [hp]), coreFault_entered _ _ _ hh]
  rfl

theorem ctxWord_user {f : Form} {s : State} {n : Nat} (ok : CtxState → Bool) (go : Nat → Nat × Nat → State → State)
    (hp : (s.core n).priv = false) (hh : (s.core n).hnd = false) :
    ctxWord f n ok go s = handlerEntered s n 0x2C none none :=
  privileged_user _ hp hh

theorem syswrWord_user {f : Form} {s : State} {n : Nat} (hp : (s.core n).priv = false) (hh : (s.core n).hnd = false)
    (ha : f.imm.toNat % 4096 ∈ [0x000, 0x002, 0x004, 0x008] ∨ (0x100 ≤ f.imm.toNat % 4096 ∧ f.imm.toNat % 4096 ≤ 0x11F)) :
    syswrWord f n s = handlerEntered s n 0x2C none none := by
  unfold syswrWord
  dsimp only
  rcases ha with ha | ⟨hlo, hhi⟩
  · have hreg : ∀ a ∈ [0x000, 0x002, 0x004, 0x008], coreRegister a = true ∧ controlRegister a = true := by decide
    obtain ⟨hcore, hctl⟩ := hreg _ ha
    rw [if_pos hcore, if_pos ⟨hctl, by simp [hp]⟩, coreFault_entered _ _ _ hh]
    rfl
  · have hcore : ¬ coreRegister (f.imm.toNat % 4096) = true := by
      simp only [coreRegister, Bool.or_eq_true, Bool.and_eq_true, decide_eq_true_eq]
      omega
    rw [if_neg hcore, if_pos ⟨hlo, hhi⟩]
    exact privileged_user _ hp hh

theorem grelForce_user {f : Form} {s : State} {n : Nat} (hp : (s.core n).priv = false) (hh : (s.core n).hnd = false)
    (hx : (xaOf s n f).toNat < 2 ^ 20) (hg : (s.group ((xaOf s n f).toNat % 4096)).state ≠ .free) :
    grelWord f true n s = handlerEntered s n 0x2C none none := by
  unfold grelWord
  dsimp only
  refine (if_neg (not_or.mpr ⟨Nat.not_le.mpr hx, hg⟩)).trans ?_
  rw [if_neg (fun h => absurd h.1 (by decide)), if_pos ⟨rfl, by simp [hp]⟩, coreFault_entered _ _ _ hh]
  rfl

/-- Settles O16: each word asks for control mode before anything else that it does in user mode. -/
theorem controlWordsInUserMode : Obligations.ControlWordsInUserMode := by
  intro f s n hu hp hh
  refine ⟨?_, fun ha => ?_, fun hx hg => ?_⟩
  · simp only [List.forall_mem_cons]
    refine ⟨?_, ?_, ?_, ?_, ?_, ?_, ?_, ?_, ?_, ?_, fun _ h => absurd h List.not_mem_nil⟩
    · show execPreemptSoft f s = _
      exact (onCore_core _ hu).trans (congrArg _ (ctxWord_user _ _ hp hh))
    · show execPreemptHard f s = _
      exact (onCore_core _ hu).trans (congrArg _ (ctxWord_user _ _ hp hh))
    · show execCtxsave f s = _
      exact (onCore_core _ hu).trans (congrArg _ (ctxWord_user _ _ hp hh))
    · show execCtxrestRun f s = _
      exact (onCore_core _ hu).trans (congrArg _ (ctxWord_user _ _ hp hh))
    · show execCtxrestLoad f s = _
      exact (onCore_core _ hu).trans (congrArg _ (ctxWord_user _ _ hp hh))
    · show execMigr f s = _
      exact (onCore_core _ hu).trans (congrArg _ (privileged_user _ hp hh))
    · show execLnkcfgTrain f s = _
      exact (onCore_core _ hu).trans (congrArg _ (linkWordOf_user _ _ hp hh))
    · show execLnkcfgDown f s = _
      exact (onCore_core _ hu).trans (congrArg _ (linkWordOf_user _ _ hp hh))
    · show execLnkcfgRatio f s = _
      exact (onCore_core _ hu).trans (congrArg _ (linkWordOf_user _ _ hp hh))
    · show execMapPa f s = _
      exact (onCore_core _ hu).trans (congrArg _ (privileged_user _ hp hh))
  · show execSyswr f s = _
    exact (onCore_core _ hu).trans (congrArg _ (syswrWord_user hp hh ha))
  · show execGrelForce f s = _
    exact (onCore_core _ hu).trans (congrArg _ (grelForce_user hp hh hx hg))

/-! ## Arithmetic and bit words (R59, R85, R117) -/

/-- What an arithmetic or bit word does on a core. -/
theorem arithCore_eq (opc : Nat) (f : Form) (op : W64 → W64 → W64 → W64 × Flags) (n : Nat) (s : State) :
    arithCore opc f op n s =
      (let v := op (xaOf s n f) (if f.immp = 2 then widenPort opc f else xbOf s n f)
        (if f.immp = 3 then widenPort opc f else xcOf s n f)
       s.setCore n { s.core n with
         flags := (s.core n).flags ||| v.2
         x := if f.tgt0.toNat % 32 = 0 then (s.core n).x else mapSet 0 (s.core n).x (f.tgt0.toNat % 32) v.1
         pc := (s.core n).pc + 1
         wait := .none }) := by
  simp only [arithCore, coreOperands, Core.setReg, Core.next, Form.xd, Nat.mod_mod]
  split <;> rfl

/-- Each row of the tables names the meaning of its instruction in both modes. -/
theorem exec_arith {row : Nat × (Form → Instr) × (Form → W64 → W64 → W64 → W64 × Flags)} (h : row ∈ arithRows) (f : Form)
    (s : State) : exec (row.2.1 f) s = onBoth s (arithFire f (row.2.2 f)) (arithCore row.1 f (row.2.2 f)) := by
  revert row
  simp only [arithRows, List.cons_append, List.nil_append, List.forall_mem_cons]
  repeat' apply And.intro
  all_goals first
    | rfl
    | exact fun _ h => absurd h List.not_mem_nil

theorem exec_bit {row : Nat × (Form → Instr) × (Form → W64 → W64 → W64 → W64 × Flags)} (h : row ∈ bitRows) (f : Form)
    (s : State) : exec (row.2.1 f) s = onBoth s (bitFire f (row.2.2 f)) (arithCore row.1 f (row.2.2 f)) := by
  revert row
  simp only [bitRows, List.forall_mem_cons]
  repeat' apply And.intro
  all_goals first
    | rfl
    | exact fun _ h => absurd h List.not_mem_nil

/-- Settles O17. -/
theorem arithmeticWords : Obligations.ArithmeticWords := by
  intro row hrow f s n hu
  have hcore : exec (row.2.1 f) s = .next (arithCore row.1 f (row.2.2 f) n s) := by
    rcases List.mem_append.mp hrow with h | h
    · rw [exec_arith h, onBoth_core _ _ hu]
    · rw [exec_bit h, onBoth_core _ _ hu]
  rw [hcore, arithCore_eq]

/-! ## Control flow (R124) -/

/-- A jump without a return address, outside a handler. -/
theorem jump_eq {s : State} {n : Nat} (target : Int) (hh : (s.core n).hnd = false) :
    s.jump n target id = jumped s n target none := by
  unfold State.jump jumped
  split
  · rfl
  · rw [coreFault_entered _ _ _ hh]
    rfl

/-- A jump that leaves its return address in `xd`. -/
theorem jump_link_eq {s : State} {n : Nat} (target : Int) (f : Form) (hh : (s.core n).hnd = false) :
    s.jump n target (fun c => c.setReg (Form.xd f) (BitVec.ofNat 64 (c.pc.toNat + 1)))
      = jumped s n target (some (f, BitVec.ofNat 64 ((s.core n).pc.toNat + 1))) := by
  unfold State.jump jumped
  split
  · rfl
  · rw [coreFault_entered _ _ _ hh]
    rfl

/-- The conditions of `BR` by its `MOD` (R124). -/
def branchConditions : List (Nat × (W64 → W64 → Prop)) :=
  [(0, fun a b => a = b), (1, fun a b => a ≠ b), (2, fun a b => a.toInt < b.toInt), (3, fun a b => b.toInt ≤ a.toInt),
   (4, fun a b => a.toNat < b.toNat), (5, fun a b => b.toNat ≤ a.toNat)]

theorem branchTaken_iff {row : Nat × (W64 → W64 → Prop)} (h : row ∈ branchConditions) (a b : W64) :
    branchTaken row.1 a b = true ↔ row.2 a b := by
  revert row
  simp only [branchConditions, List.forall_mem_cons]
  refine ⟨?_, ?_, ?_, ?_, ?_, ?_, fun _ h => absurd h List.not_mem_nil⟩
  · simp [branchTaken]
  · simp [branchTaken]
  · simp [branchTaken, BitVec.slt_iff_toInt_lt]
  · simp [branchTaken, BitVec.slt_eq_decide]
  · simp [branchTaken, BitVec.ult_eq_decide]
  · simp [branchTaken, BitVec.ult_eq_decide]

theorem exec_br {f : Form} {s : State} {n : Nat} (hu : s.unit = .core n) (hh : (s.core n).hnd = false) :
    exec (.br f) s = .next (jumped s n (if branchTaken f.mod.toNat (xaOf s n f) (xbOf s n f) = true
      then ((s.core n).pc.toNat : Int) + f.imm.toInt else ((s.core n).pc.toNat : Int) + 1) none) := by
  show execBr f s = _
  rw [execBr, onCore_core _ hu]
  exact congrArg _ (jump_eq _ hh)

theorem exec_jmp {f : Form} {s : State} {n : Nat} (hu : s.unit = .core n) (hh : (s.core n).hnd = false) :
    exec (.jmp f) s = .next (jumped s n (jumpTarget f (s.core n)) none) := by
  show execJmp f s = _
  rw [execJmp, onCore_core _ hu]
  exact congrArg _ (jump_eq _ hh)

theorem exec_call {f : Form} {s : State} {n : Nat} (hu : s.unit = .core n) (hh : (s.core n).hnd = false) :
    exec (.call f) s = .next (jumped s n (jumpTarget f (s.core n)) (some (f, BitVec.ofNat 64 ((s.core n).pc.toNat + 1)))) := by
  show execCall f s = _
  rw [execCall, onCore_core _ hu]
  exact congrArg _ (jump_link_eq _ f hh)

theorem exec_ret {f : Form} {s : State} {n : Nat} (hu : s.unit = .core n) (hh : (s.core n).hnd = false) :
    exec (.ret f) s = .next (jumped s n (xaOf s n f).toNat none) := by
  show execRet f s = _
  rw [execRet, onCore_core _ hu]
  exact congrArg _ (jump_eq _ hh)

theorem jumpTarget_relative {f : Form} (c : Core) (h : f.mod = 0) : jumpTarget f c = (c.pc.toNat : Int) + f.imm.toInt := by
  rw [jumpTarget, if_pos h]
theorem jumpTarget_register {f : Form} (c : Core) (h : f.mod = 1) :
    jumpTarget f c = ((c.reg (Form.xa f)).toNat : Int) + f.imm.toInt := by
  rw [jumpTarget, if_neg (by rw [h]; decide)]

/-- What a drover word's fields have passed (R63). -/
theorem seqCheck_parts {opc : Nat} {f : Form} {o : OpSpec} (hspec : opSpec opc = some o) (h : seqCheck opc f = 0) :
    modOk opc f = true ∧ paramOkSeq opc f = true ∧ seqFieldsOk o f = true := by
  simp only [seqCheck, hspec] at h
  split_ifs at h with h1 h2 h3 h4
  simp only [Bool.or_eq_true, Bool.not_eq_true', not_or, Bool.not_eq_false] at h2 h3 h4
  exact ⟨h2.1, h3, h4⟩

theorem seqCheck_of_wf {i : Instr} {opc : Nat} {f : Form} (hp : i.parts = some (opc, f)) (h : i.wf .drover = true) :
    seqCheck opc f = 0 := by
  simp only [Instr.wf, hp, Bool.and_eq_true, beq_iff_eq] at h
  exact h.2

/-- A drover word that admits only `IMMP` 000. -/
theorem immp_zero_of_wf {i : Instr} {opc : Nat} {f : Form} {o : OpSpec} (hp : i.parts = some (opc, f))
    (hspec : opSpec opc = some o) (ho : o.immpsSeq = 1) (h : i.wf .drover = true) : f.immp = 0 := by
  obtain ⟨-, -, hfields⟩ := seqCheck_parts hspec (seqCheck_of_wf hp h)
  simp only [seqFieldsOk, ho, Bool.and_eq_true] at hfields
  have hbit : ∀ k : BitVec 3, bitOf 1 k.toNat = true → k = 0 := by decide
  exact hbit _ hfields.2

/-- A set bit of a number below `2 ^ n` is below `n`. -/
theorem lt_of_bitOf_low {n k : Nat} (h : bitOf (2 ^ n - 1) k = true) : k < n := by
  by_contra hk
  have hpow : 2 ^ n ≤ 2 ^ k := Nat.pow_le_pow_right (by decide) (Nat.not_lt.mp hk)
  have hpos : 0 < 2 ^ n := Nat.two_pow_pos n
  rw [bitOf, Nat.div_eq_of_lt (by omega)] at h
  cases h

/-- Settles O18: each word is one jump, whose target is the word's by its `MOD`. -/
theorem controlFlow : Obligations.ControlFlow := by
  refine ⟨fun f s n hu hh => ⟨fun hm => ?_, fun hm => ?_, fun hm => ?_, fun hm => ?_, exec_ret hu hh, ?_⟩, ?_, ?_⟩
  · rw [exec_jmp hu hh, jumpTarget_relative _ hm]
  · rw [exec_jmp hu hh, jumpTarget_register _ hm]
    rfl
  · rw [exec_call hu hh, jumpTarget_relative _ hm]
  · rw [exec_call hu hh, jumpTarget_register _ hm]
    rfl
  · intro c cond hrow hm
    have htaken := branchTaken_iff (row := (c, cond)) hrow (xaOf s n f) (xbOf s n f)
    refine ⟨fun hc => ?_, fun hc => ?_⟩
    · rw [exec_br hu hh, hm, if_pos (htaken.mpr hc)]
    · rw [exec_br hu hh, hm, if_neg (mt htaken.mp hc)]
  · intro f h
    obtain ⟨hmod, -, -⟩ := seqCheck_parts (opc := 0xE1) rfl (seqCheck_of_wf rfl h)
    exact lt_of_bitOf_low (n := 6) (Bool.and_eq_true_iff.mp hmod).1
  · intro f
    simp only [List.forall_mem_cons]
    exact ⟨immp_zero_of_wf rfl rfl rfl, immp_zero_of_wf rfl rfl rfl, immp_zero_of_wf rfl rfl rfl,
      fun _ h => absurd h List.not_mem_nil⟩

/-! ## The mailbox (R121, R122) -/

theorem exec_take {f : Form} {s : State} {n : Nat} (hu : s.unit = .core n) : exec (.take f) s = .next (takeWord f n s) := by
  show execTake f s = _
  rw [execTake, onCore_core _ hu]

theorem exec_inj {f : Form} {s : State} {n : Nat} (hu : s.unit = .core n) : exec (.inj f) s = .next (injWord f n s) := by
  show execInj f s = _
  rw [execInj, onCore_core _ hu]

/-- `TAKE` with a token at the head. -/
theorem takeWord_token {f : Form} {s : State} {n : Nat} {t : Token} {ts : List Token}
    (hq : (s.core n).mail (f.imm.toNat % 32) = t :: ts) (hm : f.mod ≠ 3) :
    takeWord f n s = if f.mod = 0 then
        wordDone (s.setCore n { s.core n with mbox := mapSet [] (s.core n).mbox (f.imm.toNat % 32) ts }) n f
          (if t.kind = .mark then 0 else t.value)
      else wordDone s n f (if f.mod = 1 then mailHeader (t :: ts) else t.tag) := by
  unfold takeWord
  dsimp only
  rw [if_neg hm, hq]
  simp only [coreResult_eq_wordDone]

theorem takeWord_peek {f : Form} {s : State} {n : Nat} (hm : f.mod = 3) :
    takeWord f n s = wordDone s n f (mailHeader ((s.core n).mail (f.imm.toNat % 32))) :=
  (if_pos hm).trans (coreResult_eq_wordDone _ _ _ _)

theorem takeWord_empty {f : Form} {s : State} {n : Nat} (hq : (s.core n).mail (f.imm.toNat % 32) = []) (hm : f.mod ≠ 3) :
    takeWord f n s = s := by
  unfold takeWord
  dsimp only
  rw [if_neg hm, hq]

/-- The state after an `INJ` that the network takes. -/
def injected (f : Form) (n g : Nat) (d : Dest) (s : State) : State :=
  let c := s.core n
  let round : BitVec 8 := BitVec.ofNat 8 (bitsOf f.imm.toNat 22 8)
  let kind := injKind f.mod.toNat
  let tok : Token := { kind := kind, value := if kind = .mark then 0 else xaOf s n f, tag := xbOf s n f
                       s := f.mod == 4, round := round, ctx := c.context }
  let s := if kind = .data then s.newWave c.context (xbOf s n f) else s
  ((s.modGroup g fun x => { x with kernel := x.kernel.begun round }).send (.core n) d d.injNet tok).coreDone n

theorem injWord_sends {f : Form} {s : State} {n g : Nat} {d : Dest} (hg : (s.core n).group = some g)
    (hv : targetValid (f.imm.setWidth 22) = true) (hd : (s.group g).resolve (f.imm.setWidth 22) = some d)
    (htag : tagOk (xbOf s n f) = true) (hown : s.ownsColour (s.core n).context (tagColour (xbOf s n f)) = true)
    (hrun : (s.ctx (s.core n).context.toNat).state = .running)
    (hfar : (s.group g).kernel.tooFar (BitVec.ofNat 8 (bitsOf f.imm.toNat 22 8)) = false) (hroom : s.injRoom n d = true) :
    injWord f n s = injected f n g d s := by
  unfold injWord
  dsimp only
  rw [hg]
  dsimp only
  rw [if_pos hv, hd]
  refine (if_neg (c := (!tagOk (xbOf s n f)) = true) (by simp [htag])).trans ?_
  refine (if_neg (c := (!s.ownsColour (s.core n).context (tagColour (xbOf s n f))) = true) (by simp [hown])).trans ?_
  exact if_neg (by simp [State.draining, hrun, hfar, hroom])

/-- The token of an `INJ` by its `MOD` (R121). -/
theorem injected_of_mod {f : Form} {s : State} {n m : Nat} {kind : Kind} {v : W64} {ds : Bool}
    (hrow : (m, kind, v, ds) ∈ [(0, Kind.data, xaOf s n f, false), (1, .mark, 0, false), (2, .stop, xaOf s n f, false),
      (4, .data, xaOf s n f, true)]) (hm : f.mod.toNat = m) :
    injKind f.mod.toNat = kind ∧ (if kind = .mark then 0 else xaOf s n f) = v ∧ (f.mod == 4) = ds := by
  have hfour : (f.mod == 4) = decide (f.mod.toNat = 4) := by
    rw [beq_eq_decide]
    exact decide_eq_decide.mpr BitVec.toNat_inj.symm
  rw [hfour]
  revert hrow
  simp only [List.mem_cons, Prod.mk.injEq, List.not_mem_nil, or_false]
  rintro (⟨rfl, rfl, rfl, rfl⟩ | ⟨rfl, rfl, rfl, rfl⟩ | ⟨rfl, rfl, rfl, rfl⟩ | ⟨rfl, rfl, rfl, rfl⟩)
  all_goals exact ⟨by rw [hm]; rfl, rfl, by rw [hm]; rfl⟩

/-- Settles O19. -/
theorem mailboxWords : Obligations.MailboxWords := by
  refine ⟨fun f s n hu => ⟨fun t ts hq hm => ?_, fun t ts hq hm => ?_, fun t ts hq hm => ?_, fun hm => ?_, fun hq hm => ?_⟩, ?_⟩
  · rw [exec_take hu, takeWord_token hq (by rw [hm]; decide), if_pos hm]
  · rw [exec_take hu, takeWord_token hq (by rw [hm]; decide), if_neg (by rw [hm]; decide), if_pos hm]
  · rw [exec_take hu, takeWord_token hq (by rw [hm]; decide), if_neg (by rw [hm]; decide), if_neg (by rw [hm]; decide)]
  · rw [exec_take hu, takeWord_peek hm]
  · rw [exec_take hu, takeWord_empty hq hm]
  · intro f s n g d hu hg hv hd htag hown hrun hfar hroom begun round net m kind v ds hrow hm
    obtain ⟨hkind, hval, hs⟩ := injected_of_mod hrow hm
    have hvalid : targetValid (f.imm.setWidth 22) = true := by
      rw [targetValid, BitVec.getLsbD_setWidth, hv]
      rfl
    rw [exec_inj hu, injWord_sends hg hvalid hd htag hown hrun hfar hroom]
    have hnet : d.injNet = net := by cases d <;> rfl
    simp only [injected, hkind, hval, hs, hnet]
    by_cases hdata : kind = .data
    · simp only [begun, if_pos hdata]
      rfl
    · simp only [begun, if_neg hdata]
      rfl

/-! ## System registers (R118) -/

theorem sysrdWord_cycle {f : Form} {n : Nat} (s : State) (ha : f.imm.toNat % 4096 = 0x006) :
    sysrdWord f n s =
      (let s' := s.setCore n { s.core n with cycle := (s.core n).cycle + Config.cyclesPassed s.tick }
       wordDone s' n f (s'.core n).cycle) := by
  simp only [sysrdWord, ha, if_true, State.sysRead, coreResult_eq_wordDone]
  rfl

/-- A state whose list of cores is not canonical: core 0 stands twice in it, and when the cycles that pass are counted, the
first entry holds only what an unlisted core holds. -/
def twiceListed : State :=
  { cores := [(0, { cycle := -Config.cyclesPassed 0 }), (0, { cycle := 1 })], unit := .core 0 }

/-- The word `SYSRD x1, CYCLE`. -/
def readCycle : Form := { (default : Form) with imm := 6, tgt0 := 1 }

theorem twiceListed_counted : twiceListed.setCore 0
    { twiceListed.core 0 with cycle := (twiceListed.core 0).cycle + Config.cyclesPassed twiceListed.tick }
      = { cores := [(0, { cycle := 1 })], unit := .core 0 } := by
  have hzero : (twiceListed.core 0).cycle + Config.cyclesPassed twiceListed.tick = 0 := neg_add_cancel (Config.cyclesPassed 0)
  rw [hzero]
  rfl

/-- Refutes O20, by its clause about `CYCLE` in a state whose list of cores is not canonical: the core whose counter comes to
0 leaves the list there, `SYSRD` reads the second entry of the same core, 1, and the statement says 0. -/
theorem not_systemRegisters : ¬ Obligations.SystemRegisters := by
  intro h
  obtain ⟨-, hcycle, -⟩ := h readCycle twiceListed 0 rfl
  have hread : exec (.sysrd readCycle) twiceListed = .next (sysrdWord readCycle 0 twiceListed) := by
    show execSysrd readCycle twiceListed = _
    rw [execSysrd, onCore_core _ rfl]
  have hzero : (twiceListed.core 0).cycle + Config.cyclesPassed twiceListed.tick = 0 := neg_add_cancel (Config.cyclesPassed 0)
  have hsame := (hread.symm.trans (hcycle rfl))
  rw [sysrdWord_cycle _ rfl] at hsame
  dsimp only at hsame
  rw [twiceListed_counted, hzero] at hsame
  have hx1 : (1 : W64) = 0 := congrArg (fun t => match t with | .next s => (s.core 0).reg 1 | _ => 0) hsame
  exact absurd hx1 (by decide)

/-! ## The end of a program (R129) -/

/-- A core after a write of its entry, which is not that of an unlisted core. -/
theorem core_setCore {s : State} {n : Nat} {c : Core} (hc : c ≠ {}) : (s.setCore n c).core n = c :=
  mapGet_mapSet_ne _ _ _ _ hc

theorem core_ne_default_of_group {c : Core} {g : Nat} (h : c.group = some g) : c ≠ {} := by
  rintro rfl
  cases h

/-- The program of a core with a group retires. -/
theorem retire_eq {s : State} {n g : Nat} (w : W64) (hg : (s.core n).group = some g) :
    s.retire n w = (s.setCore n { s.core n with
        exitw := w, running := false, active := false, wait := .none, discard := none }).modGroup g
      fun x => { x with kernel := { x.kernel with retired := true, exitw := w } } := by
  unfold State.retire
  dsimp only
  split
  · cases hg.symm.trans ‹_›
    rfl
  · cases hg.symm.trans ‹_›

theorem discarded_fetched {c : Core} (h : c.wait = .fetched) :
    c.discarded = match c.discard with | some (pc, k) => if pc = c.pc then k else 0 | none => 0 := by
  unfold Core.discarded
  rw [h]
  cases c.discard <;> rfl

/-- `EXIT.DISCARD` drops what is queued; with nothing issued it ends the program, and else it waits. -/
theorem exec_exitDiscard {f : Form} {s : State} {n : Nat} (hu : s.unit = .core n) :
    exec (.exitDiscard f) s =
      .next (let c := s.core n
        let queued := c.cmds.filter fun x => !x.issued
        if queued.length = c.cmds.length then
          (s.setCore n { c with cmds := [] }).retire n (exitWord (xaOf s n f) (queued.length + c.discarded) true)
        else s.setCore n { c with cmds := c.cmds.filter (·.issued), wait := .timed (queued.length + c.discarded) }) := by
  show execExitDiscard f s = _
  rw [execExitDiscard, onCore_core _ hu]
  rfl

/-- Settles O21: the branches of the two words. -/
theorem programEnds : Obligations.ProgramEnds := by
  intro f s n g hu hg idle ended code queued before
  refine ⟨fun hc => ?_, fun hall hw => ?_, fun hsome hw => ?_⟩
  · have hexec : exec (.exit f) s = .next (s.retire n (exitWord (xaOf s n f) 0 false)) := by
      show execExit f s = _
      rw [execExit, onCore_core _ hu]
      exact congrArg _ (if_pos (by rw [hc]; rfl))
    have hidle : idle = s.core n := by
      show ({ s.core n with cmds := [] } : Core) = s.core n
      rw [← hc]
    have hword : exitWord (xaOf s n f) 0 false = BitVec.ofNat 64 code := by
      simp only [exitWord, b2n, Nat.zero_mul, Nat.add_zero]
      rfl
    rw [hexec, retire_eq _ hg, hword]
    simp only [ended, hidle]
  · have hqueued : queued = (s.core n).cmds := List.filter_eq_self.mpr fun x hx => by rw [hall x hx]; rfl
    have hgroup : idle.group = some g := hg
    have hcore : (s.setCore n idle).core n = idle := core_setCore (core_ne_default_of_group hgroup)
    rw [exec_exitDiscard hu]
    dsimp only
    rw [if_pos (congrArg List.length hqueued), retire_eq (g := g) _ (by rw [hcore]; exact hgroup), hcore,
      discarded_fetched hw] <;> rfl
  · obtain ⟨x, hx, hissued⟩ := hsome
    have hne : queued.length ≠ (s.core n).cmds.length := fun hlen => by
      have hkept := List.length_filter_eq_length_iff.mp hlen x hx
      rw [hissued] at hkept
      cases hkept
    rw [exec_exitDiscard hu]
    dsimp only
    rw [if_neg hne, discarded_fetched hw] <;> rfl

end Sys2Proof.Proofs
end

section
/-! PROOFS. Firings of the fabric: what they emit, and the instructions that steer, compute, tag and report (R38 to R41, R55,
R105 to R115, R130, R133, R145 to R168). -/

namespace Sys2Proof.Proofs

open Sys2Proof Sys2Proof.Machine Sys2Proof.Claims

/-! ## What a firing emits, as the statements write it -/

theorem push_eq_emitted (fr : Firing) (items : List OutItem) (s : State) : fr.push items s = emitted fr items s :=
  Firing.push_eq fr items s

theorem push_items_eq_emitted (fr : Firing) (f : Form) (t0 t1 : Token) (s : State) :
    fr.push (fr.item f 0 t0 ++ fr.item f 1 t1) s = emitted fr (tokensTo f (some t0) (some t1)) s :=
  push_eq_emitted _ _ _

theorem emit_both (fr : Firing) (f : Form) (kind : Kind) (v tag : W64) (b : Bool) (s : State) :
    fr.emit f [0, 1] kind v tag b s = emittedBoth fr f kind v tag b s := by
  rw [Firing.emit_both, push_eq_emitted]
  rfl

theorem emit_one (fr : Firing) (f : Form) (c : Prop) [Decidable c] (kind : Kind) (v tag : W64) (b : Bool) (s : State) :
    fr.emit f (if c then [0] else [1]) kind v tag b s = emittedOne fr f (decide c) kind v tag b s := by
  by_cases h : c
  · rw [if_pos h, decide_eq_true h, Firing.emit_one, push_eq_emitted, ← List.append_nil (fr.item _ _ _)]
    rfl
  · rw [if_neg h, decide_eq_false h, Firing.emit_one, push_eq_emitted]
    rfl

theorem emit_fields (fr : Firing) (f : Form) (v tag : W64) (b : Bool) (s : State) :
    fr.emit f (fr.fields f) .data v tag b s = emittedValue fr f v tag b s := by
  unfold emittedValue
  by_cases h : f.pred = 3
  · rw [if_pos h, Firing.fields_pred _ _ h, emit_one, Bool.decide_eq_true]
    rfl
  · rw [if_neg h, Firing.fields_plain _ _ h, emit_both]

theorem raiseAs_eq (fr : Firing) (f : Form) (tag : W64) (code : Nat) (aux : Option W64) (s : State) :
    fr.raiseAs f tag code aux s = faultedAs fr f tag code aux s :=
  emit_both _ _ _ _ _ _ _

theorem raise_eq (fr : Firing) (f : Form) (code : Nat) (aux : Option W64) (s : State) :
    fr.raise f code aux s = faulted fr f code aux s :=
  raiseAs_eq _ _ _ _ _ _

theorem sOr_eq (fr : Firing) : fr.sOr = (fr.l.s || fr.r.s || fr.c.s) := by
  simp only [Firing.sOr, Firing.operands, List.any_cons, List.any_nil, Bool.or_false, Bool.or_assoc]

/-- A firing that evaluates gives what its instruction computes. -/
theorem run_evaluates {fr : Firing} {f : Form} {s : State} {tag : W64} (eval : W64 → State → State)
    (h : Evaluates fr f s tag) : fr.run f eval s = eval tag s := by
  obtain ⟨herr, hstop, hsup, htag⟩ := h
  exact Firing.run_eval eval herr hstop hsup htag

/-! ## The steering instructions (R108, R109) -/

/-- Settles O30: each firing is one emission. -/
theorem steeringFirings : Obligations.SteeringFirings := by
  intro f s fr tag hu he sor one sel
  have hsor : fr.sOr = sor := sOr_eq fr
  refine ⟨?_, ?_, ?_, ?_, ?_, ?_⟩
  · show execPass f s = _
    rw [execPass, onSlot_slot _ hu, run_evaluates _ he, emit_fields]
    rfl
  · show execConst f s = _
    rw [execConst, onSlot_slot _ hu, run_evaluates _ he, emit_both]
  · show execSteer f s = _
    rw [execSteer, onSlot_slot _ hu, run_evaluates _ he, emit_one, hsor]
    simp only [bne, beq_eq_decide, ne_eq, decide_not]
  · show execMerge f s = _
    rw [execMerge, onSlot_slot _ hu, run_evaluates _ he, emit_both]
    rfl
  · show execSelect f s = _
    rw [execSelect, onSlot_slot _ hu, run_evaluates _ he]
    exact congrArg _ (emit_both _ _ _ _ _ _ _)
  · show execGate f s = _
    rw [execGate, onSlot_slot _ hu, run_evaluates _ he, emit_both, hsor]

/-! ## Arithmetic and bit firings (R85, R130, R133) -/

theorem sMixed_iff (fr : Firing) (f : Form) :
    fr.sMixed f = true ↔ (∃ o ∈ fr.tokens f, o.s = true) ∧ (∃ o ∈ fr.tokens f, o.s = false) := by
  simp only [Firing.sMixed, Bool.and_eq_true, List.any_eq_true, Bool.not_eq_true']

/-- Settles O31. -/
theorem arithmeticFirings : Obligations.ArithmeticFirings := by
  intro f s fr tag hu he ts result
  have hvalue : ∀ v : W64 × Flags, fr.value f (ts.any Operand.s) v tag s = result v := fun v => emit_fields _ _ _ _ _ _
  refine ⟨fun row hrow => ?_, fun row hrow => ?_⟩
  · rw [exec_arith hrow, onBoth_slot _ _ hu, arithFire, run_evaluates _ he]
    congr 1
    by_cases h : fr.sMixed f = true
    · rw [if_pos h, if_pos ((sMixed_iff fr f).mp h), raiseAs_eq]
    · rw [if_neg h, if_neg (mt (sMixed_iff fr f).mpr h), hvalue]
  · rw [exec_bit hrow, onBoth_slot _ _ hu, bitFire, run_evaluates _ he, hvalue]

/-! ## What a firing does before its evaluation (R40, R41, R55, R147) -/

/-- An instruction whose firing is one run of its evaluation. -/
def RunsFiring (i : Instr) (f : Form) : Prop :=
  ∀ (s : State) (fr : Firing), s.unit = .slot fr → ∃ eval, exec i s = .next (fr.run f eval s)

theorem runsFiring_onSlot {i : Instr} {f : Form} (eval : Firing → W64 → State → State)
    (h : ∀ s, exec i s = onSlot s fun fr s => fr.run f (eval fr) s) : RunsFiring i f :=
  fun s _ hu => ⟨_, (h s).trans (onSlot_slot _ hu)⟩
theorem runsFiring_onBoth {i : Instr} {f : Form} (eval : Firing → W64 → State → State) (core : Nat → State → State)
    (h : ∀ s, exec i s = onBoth s (fun fr s => fr.run f (eval fr) s) core) : RunsFiring i f :=
  fun s _ hu => ⟨_, (h s).trans (onBoth_slot _ _ hu)⟩
theorem runsFiring_onAll {i : Instr} {f : Form} (eval : Firing → W64 → State → State) (core : Nat → State → State)
    (unit : Engine → Req → State → State)
    (h : ∀ s, exec i s = onAll s (fun fr s => fr.run f (eval fr) s) core unit) : RunsFiring i f :=
  fun s _ hu => ⟨_, (h s).trans (onAll_slot _ _ _ hu)⟩

theorem runsFiring_of_arith {row : Nat × (Form → Instr) × (Form → W64 → W64 → W64 → W64 × Flags)}
    (h : row ∈ arithRows ++ bitRows) (f : Form) : RunsFiring (row.2.1 f) f := by
  rcases List.mem_append.mp h with h | h
  · exact runsFiring_onBoth _ _ (exec_arith h f)
  · exact runsFiring_onBoth _ _ (exec_bit h f)

theorem arith_ne_rsvw {row : Nat × (Form → Instr) × (Form → W64 → W64 → W64 → W64 × Flags)}
    (h : row ∈ arithRows ++ bitRows) (f : Form) : row.2.1 f ≠ .rcommitRsvw f := by
  revert row
  simp [arithRows, bitRows]

/-- Every row of the table but `RCOMMIT.RSVW`'s runs one evaluation. -/
theorem runsFiring_of_row {row : Form → Instr} (h : row ∈ firingRows) :
    row = Instr.rcommitRsvw ∨ ∀ f, RunsFiring (row f) f ∧ row f ≠ .rcommitRsvw f := by
  rw [firingRows, List.mem_append, List.mem_append, List.mem_append] at h
  rcases h with ((h | h) | h) | h
  · obtain ⟨r, hr, rfl⟩ := List.mem_map.mp h
    exact .inr fun f => ⟨runsFiring_of_arith hr f, arith_ne_rsvw hr f⟩
  all_goals
    revert row
    simp only [List.forall_mem_cons]
    repeat' apply And.intro
  all_goals first
    | exact fun _ h => absurd h List.not_mem_nil
    | exact .inl trivial
    | exact .inr fun f => ⟨runsFiring_onSlot _ fun _ => rfl, nofun⟩
    | exact .inr fun f => ⟨runsFiring_onBoth _ _ fun _ => rfl, nofun⟩
    | exact .inr fun f => ⟨runsFiring_onAll _ _ _ fun _ => rfl, nofun⟩

/-- What a run gives without its evaluation. -/
theorem run_without_evaluation (fr : Firing) (f : Form) (eval : W64 → State → State) (s : State) :
    (∀ v tag, fr.err? = some v → fr.tagOut s f = .ok tag → fr.run f eval s = emittedBoth fr f .err v tag false s) ∧
    (∀ v code, fr.err? = some v → fr.tagOut s f = .error code →
      fr.run f eval s = emittedBoth fr f .err v fr.tag false s) ∧
    (∀ tag, fr.err? = none → fr.hasStop = true → fr.tagOut s f = .ok tag →
      fr.run f eval s = emittedBoth fr f .stop (Config.stopValue s.tick) tag false s) ∧
    (fr.err? = none → fr.hasStop = false → fr.suppressed f = true → fr.run f eval s = s) ∧
    (∀ code, fr.err? = none → fr.suppressed f = false → fr.tagOut s f = .error code →
      fr.run f eval s = faulted fr f code (some (f.tagop.setWidth 64)) s) := by
  refine ⟨fun v tag he ht => ?_, fun v code he ht => ?_, fun tag he hs ht => ?_, Firing.run_suppressed eval, fun code he hp ht => ?_⟩
  · rw [Firing.run_err eval he ht, emit_both]
  · rw [Firing.run_err_tag eval he ht, emit_both]
  · rw [Firing.run_stop eval he hs ht, emit_both]
  · rw [Firing.run_tag eval he hp ht, raise_eq]

/-- `RCOMMIT.RSVW` runs its evaluation, and gives up its slot where its `TAGOP` alone stops it (R224). -/
theorem exec_rcommitRsvw {f : Form} {s : State} {fr : Firing} (hu : s.unit = .slot fr) :
    exec (.rcommitRsvw f) s = .next (
      let s' := fr.port f (ringReserve f fr.tile (waitSlot fr.elem fr.slot)) s
      if fr.err?.isNone && !fr.suppressed f && !(fr.tagOut s f).toBool then
        s'.modRing fr.tile (modRingNo f) fun r => r.dequeue (waitSlot fr.elem fr.slot)
      else s') := by
  show execRcommitRsvw f s = _
  rw [execRcommitRsvw, onSlot_slot _ hu]

/-- Settles O32: the clauses are those of a run; `RCOMMIT.RSVW` adds to its last. -/
theorem firingWithoutEvaluation : Obligations.FiringWithoutEvaluation := by
  intro row hrow f s fr hu
  rcases runsFiring_of_row hrow with rfl | hruns
  · obtain ⟨herr, herrTag, hstop, hsup, htag⟩ := run_without_evaluation fr f (fun tag s =>
      let s := s.portServed fr.tile
      match ringReserve f fr.tile (waitSlot fr.elem fr.slot) s with
      | .ok (v, s) => fr.emit f [0, 1] .data v tag false s
      | .error code => fr.portFail f code tag s) s
    rw [exec_rcommitRsvw hu]
    dsimp only
    refine ⟨fun v tag he ht => ?_, fun v code he ht => ?_, fun tag he hs ht => ?_, fun he hs hp => ?_, fun code he hp ht => ?_⟩
    · rw [if_neg (by simp [he])]
      exact congrArg _ (herr v tag he ht)
    · rw [if_neg (by simp [he])]
      exact congrArg _ (herrTag v code he ht)
    · rw [if_neg (by simp [ht, Except.toBool])]
      exact congrArg _ (hstop tag he hs ht)
    · rw [if_neg (by simp [hp])]
      exact congrArg _ (hsup he hs hp)
    · rw [if_pos (by simp [he, hp, ht, Except.toBool]), if_pos rfl]
      exact congrArg (fun t => Host.Outcome.next (State.modRing t fr.tile (modRingNo f) fun r => r.dequeue (waitSlot fr.elem fr.slot)))
        (htag code he hp ht)
  · obtain ⟨hrun, hne⟩ := hruns f
    obtain ⟨eval, heval⟩ := hrun s fr hu
    obtain ⟨herr, herrTag, hstop, hsup, htag⟩ := run_without_evaluation fr f eval s
    rw [heval]
    refine ⟨fun v tag he ht => ?_, fun v code he ht => ?_, fun tag he hs ht => ?_, fun he hs hp => ?_, fun code he hp ht => ?_⟩
    · rw [herr v tag he ht]
    · rw [herrTag v code he ht]
    · rw [hstop tag he hs ht]
    · rw [hsup he hs hp]
    · rw [htag code he hp ht]
      exact congrArg _ (if_neg hne).symm

/-! ## Tag firings (R162 to R168) -/

/-- Settles O34. -/
theorem tagFirings : Obligations.TagFirings := by
  intro f s fr tag hu he t field depthFault
  have hfault : fr.raise f fcTagDepth (some (f.tagop.setWidth 64)) s = depthFault := raise_eq _ _ _ _ _
  have hpopt : exec (.popt f) s = .next (if tagDepth t = 0 then depthFault else emitted fr (tokensTo f
      (some (tokenOf fr s .data fr.l.value (tagPop t) fr.l.s)) (some (tokenOf fr s .data 0 t fr.sOr))) s) := by
    show execPopt f s = _
    rw [execPopt, onSlot_slot _ hu, run_evaluates _ he, hfault, push_items_eq_emitted]
    rfl
  have hpusht : exec (.pusht f) s = .next (if tagDepth t = 6 then depthFault
      else emittedBoth fr f .data fr.l.value (tagPush t field) fr.sOr s) := by
    show execPusht f s = _
    rw [execPusht, onSlot_slot _ hu, run_evaluates _ he, hfault]
    simp only [emit_both]
    rfl
  have hsetit : exec (.setit f) s = .next (if tagDepth t = 0 then depthFault
      else emittedBoth fr f .data fr.l.value (tagSet t (fr.r.value.toNat % 256)) fr.sOr s) := by
    show execSetit f s = _
    rw [execSetit, onSlot_slot _ hu, run_evaluates _ he, hfault, emit_both]
  have hgettag : exec (.gettag f) s = .next (emittedBoth fr f .data (gettagValue f.mod.toNat t) tag fr.sOr s) := by
    show execGettag f s = _
    rw [execGettag, onSlot_slot _ hu, run_evaluates _ he, emit_both]
  refine ⟨fun h => ?_, fun h => ?_, fun h => ?_, fun h => ?_, fun h => ?_, fun h => ?_, fun h => ?_, fun h => ?_, fun h => ?_,
    fun h => ?_⟩
  · rw [hpopt, if_neg h]
  · rw [hpopt, if_pos h]
  · rw [hpusht, if_neg h]
  · rw [hpusht, if_pos h]
  · rw [hsetit, if_neg h]
  · rw [hsetit, if_pos h]
  · rw [hgettag, h]
    rfl
  · have hinner : gettagValue f.mod.toNat t = if tagDepth t = 0 then 0 else BitVec.ofNat 64 (tagField t (tagDepth t - 1)) := by
      rw [h]
      show BitVec.ofNat 64 (tagInner t) = _
      rw [tagInner]
      split <;> rfl
    rw [hgettag, hinner]
  · rw [hgettag, h]
    rfl
  · rw [hgettag, h]
    rfl

theorem mktagValue_eq (s : State) (c : BitVec 8) (f : Form) (l r : W64) :
    mktagValue s c f l r =
      if r.toNat % 2 ^ 48 < 2 ^ (8 * f.imm.toNat) then
        if l.toNat % 4096 < ((s.ctx c.toNat).reg 0x106).toNat then
          .ok (BitVec.ofNat 64 (l.toNat % 4096 * 2 ^ 52 + f.imm.toNat * 2 ^ 49 + r.toNat % 2 ^ 48))
        else .error fcTagForeign
      else .error fcIllegal := by
  have hfits : r.toNat % 2 ^ 48 / 2 ^ (8 * f.imm.toNat) ≠ 0 ↔ ¬ r.toNat % 2 ^ 48 < 2 ^ (8 * f.imm.toNat) := by
    rw [ne_eq, Nat.div_eq_zero_iff_lt (Nat.two_pow_pos _)]
  simp only [mktagValue, hfits, State.ownsColour, ite_not, Bool.not_eq_true', decide_eq_false_iff_not]

/-- `COLQ` of a core reads the context by its number. -/
theorem context_toNat (c : Core) : c.context.toNat = c.ctxid.toNat % 256 := BitVec.toNat_setWidth _ _

/-- Settles O35. -/
theorem tagWords : Obligations.TagWords := by
  intro f s _ made fits owned
  constructor
  · intro fr tag hu he c
    have hmktag : exec (.mktag f) s = .next (match mktagValue s c f fr.l.value fr.r.value with
        | .ok v => emittedBoth fr f .data v tag fr.sOr s
        | .error code => faulted fr f code (some (f.tagop.setWidth 64)) s) := by
      show execMktag f s = _
      rw [execMktag, onBoth_slot _ _ hu, run_evaluates _ he]
      simp only [emit_both, raise_eq]
      rfl
    refine ⟨fun hf ho => ?_, fun hf => ?_, fun hf ho => ?_, ?_⟩
    · rw [hmktag, mktagValue_eq, if_pos hf, if_pos ho]
    · rw [hmktag, mktagValue_eq, if_neg hf]
    · rw [hmktag, mktagValue_eq, if_pos hf, if_neg ho]
    · show execColq f s = _
      rw [execColq, onBoth_slot _ _ hu, run_evaluates _ he, emit_both]
  · intro n hu c
    have hmktag : exec (.mktag f) s = .next (match mktagValue s c f (xaOf s n f) (xbOf s n f) with
        | .ok v => wordDone s n f v
        | .error code => wordFaults s n code none none) := by
      show execMktag f s = _
      rw [execMktag, onBoth_core _ _ hu]
      simp only [coreResult_eq_wordDone, coreFault_eq]
      rfl
    refine ⟨fun hf ho => ?_, fun hf => ?_, fun hf ho => ?_, ?_⟩
    · rw [hmktag, mktagValue_eq, if_pos hf, if_pos ho]
    · rw [hmktag, mktagValue_eq, if_neg hf]
    · rw [hmktag, mktagValue_eq, if_pos hf, if_neg ho]
    · show execColq f s = _
      rw [execColq, onBoth_core _ _ hu, coreResult_eq_wordDone, ← context_toNat]

end Sys2Proof.Proofs
end

section
/-! PROOFS. Firings that loop, call, report and send requests (R110 to R115, R149 to R168, R174 to R192, R236). -/

namespace Sys2Proof.Proofs

open Sys2Proof Sys2Proof.Machine Sys2Proof.Claims

/-! ## Loops (R149, R150, R159 to R161) -/

/-- The entry that a search for a live entry finds is live. -/
theorem live_of_findLoop {s : State} {t i : Nat} {h : Share} {key : W64} (hf : s.findLoop t h key = some i) :
    (s.loopEntry t h i).v = true := by
  have hfound := List.find?_some hf
  exact (Bool.and_eq_true_iff.mp hfound).1

/-- The evaluation of `ALLOC` once an entry is chosen. -/
def allocated (f : Form) (fr : Firing) (i : Nat) (en : LoopEntry) (s : State) : State :=
  let h := shareOf f
  let (field, en) := en.take h.k
  emittedBoth fr f .data fr.l.value (tagPush fr.tag field) fr.l.s
    ((s.setLoopEntry fr.tile h i en).newWave (s.tileCtx fr.tile) (tagPush fr.tag field))

theorem exec_alloc {f : Form} {s : State} {fr : Firing} {tag : W64} {i : Nat} (hu : s.unit = .slot fr)
    (he : Evaluates fr f s tag) (hd : tagDepth fr.tag ≠ 6)
    (hi : (s.findLoop fr.tile (shareOf f) fr.tag <|> s.freeLoop fr.tile (shareOf f)) = some i) :
    exec (.alloc f) s = .next (allocated f fr i
      (let en := s.loopEntry fr.tile (shareOf f) i
       if en.v then en else { en with key := fr.tag, v := true }) s) := by
  show execAlloc f s = _
  rw [execAlloc, onSlot_slot _ hu, allocFire, run_evaluates _ he]
  refine congrArg _ ((if_neg hd).trans ?_)
  simp only [hi, emit_both]
  rfl

/-- The evaluation of `ITER` on a live loop entry. -/
theorem iterFire_live {f : Form} {s : State} {fr : Firing} {tag : W64} {h : Share} {i : Nat}
    (he : Evaluates fr f s tag) (hd : tagDepth fr.tag ≠ 0) (hs : s.loopShare fr.tile f = some h)
    (hi : s.findLoop fr.tile h (tagPop fr.tag) = some i)
    (huse : bitOf (s.loopEntry fr.tile h i).use (innerSlot fr.tag) = true)
    (hgen : (s.loopEntry fr.tile h i).genOf (innerSlot fr.tag) = tagInner fr.tag / 64) (linked : Bool) :
    iterFire f linked fr s =
      (let (field, en) := (s.loopEntry fr.tile h i).take h.k
       let t2 := tagPush (tagPop fr.tag) field
       let s := (s.setLoopEntry fr.tile h i en).newWave (s.tileCtx fr.tile) t2
       let s := if linked then { s with iterLinks := s.iterLinks ++
          [{ id := s.tick, ctx := s.tileCtx fr.tile, src := fr.tag, dst := t2 }] } else s
       fr.push (fr.item f 0 (fr.token s .data fr.l.value t2 fr.l.s) (if linked then some s.tick else none)
          ++ fr.item f 1 (fr.token s .data (BitVec.ofNat 64 field) fr.tag fr.sOr)) s) := by
  rw [iterFire, run_evaluates _ he]
  refine (if_neg hd).trans ?_
  simp only [hs, hi, huse, hgen, Bool.not_true, bne_self_eq_false, Bool.or_self, Bool.false_eq_true, if_false]

theorem exec_free {f : Form} {s : State} {fr : Firing} {tag : W64} {h : Share} {i : Nat} {en : LoopEntry}
    (hu : s.unit = .slot fr) (he : Evaluates fr f s tag) (hd : tagDepth fr.tag ≠ 0) (hs : s.loopShare fr.tile f = some h)
    (hi : s.findLoop fr.tile h (tagPop fr.tag) = some i) (hr : (s.loopEntry fr.tile h i).release (tagInner fr.tag) = some en) :
    exec (.free f) s = .next (emittedBoth fr f .data fr.l.value tag fr.sOr (s.setLoopEntry fr.tile h i en)) := by
  show execFree f s = _
  rw [execFree, onSlot_slot _ hu, freeFire, run_evaluates _ he]
  simp only [hs, hi, hr, hd, if_false, emit_both]

/-- Settles O36: `ALLOC` finds the loop entry of its tag or a free entry, and each firing then follows its own branch. -/
theorem loopFirings : Obligations.LoopFirings := by
  intro f s fr tag hu he t own taken field
  refine ⟨?_, ?_, ?_, fun h i en hd hs hi hr => exec_free hu he hd hs hi hr, fun h hs => ?_⟩
  · intro i hd hi en
    rw [exec_alloc hu he hd (i := i) (by rw [hi]; rfl)]
    dsimp only
    rw [if_pos (live_of_findLoop hi)]
    rfl
  · intro i hd hnone hfree en
    have hdead : (s.loopEntry fr.tile own i).v = false := by
      have hfound := List.find?_some hfree
      exact (Bool.not_eq_true' _).mp hfound
    rw [exec_alloc hu he hd (i := i) (by rw [hnone]; exact hfree)]
    dsimp only
    rw [if_neg (by rw [hdead]; decide)]
    rfl
  · intro h i hd hs hi en t2 s1 s2 huse hgen
    have hexec : exec (.iter f) s = .next (iterFire f (f.mod == 0) fr s) := by
      show execIter f s = _
      rw [execIter, onSlot_slot _ hu]
    rw [hexec, iterFire_live he hd hs hi huse hgen]
    by_cases hm : f.mod = 0
    · simp only [s2, hm, beq_self_eq_true, if_true]
      exact congrArg _ (push_eq_emitted _ _ _)
    · simp only [s2, beq_eq_false_iff_ne.mpr hm, if_neg hm, Bool.false_eq_true, if_false]
      exact congrArg _ (push_eq_emitted _ _ _)
  · show execTsize f s = _
    rw [execTsize, onSlot_slot _ hu, run_evaluates _ he]
    simp only [hs, emit_both]
    rfl

/-! ## Calls (R155, R156, R166, R167) -/

theorem ctx_setCtx {s : State} {c : Nat} {x : Ctx} (hx : x ≠ {}) : (s.setCtx c x).ctx c = x :=
  mapGet_mapSet_ne _ _ _ _ hx

theorem ctx_ne_default_of_spawns {x : Ctx} (h : x.spawns ≠ []) : x ≠ {} := by
  rintro rfl
  exact h rfl

/-- The `SPAWN` of a firing as it waits at the controller. -/
def spawnWait (f : Form) (fr : Firing) (s : State) : SpawnWait :=
  { tile := fr.tile, elem := fr.elem, slot := fr.slot, tag := fr.tag, round := fr.round
    l := tokenOf fr s .data fr.l.value fr.tag fr.l.s
    r := if f.arity = 1 then some (tokenOf fr s .data fr.r.value fr.tag fr.r.s) else none }

/-- A waiting `SPAWN` joins those of its context. -/
def joined (c : Nat) (w : SpawnWait) (s : State) : State :=
  s.modCtx c fun x => { x with spawns := x.spawns ++ [w] }

theorem joined_ctx (c : Nat) (w : SpawnWait) (s : State) :
    (joined c w s).ctx c = { s.ctx c with spawns := (s.ctx c).spawns ++ [w] } :=
  ctx_setCtx (ctx_ne_default_of_spawns (by simp))

/-- With none waiting before it, a `SPAWN` is served alone. -/
theorem exec_spawn {f : Form} {s : State} {fr : Firing} {tag : W64} (hu : s.unit = .slot fr) (he : Evaluates fr f s tag)
    (hnone : (s.ctx (s.tileCtx fr.tile).toNat).spawns = []) :
    exec (.spawn f) s = .next (serveSpawns (s.tileCtx fr.tile).toNat 1
      (joined (s.tileCtx fr.tile).toNat (spawnWait f fr s) s)) := by
  show execSpawn f s = _
  rw [execSpawn, onSlot_slot _ hu, spawnFire, run_evaluates _ he]
  have hlen : ((joined (s.tileCtx fr.tile).toNat (spawnWait f fr s) s).ctx (s.tileCtx fr.tile).toNat).spawns.length = 1 := by
    rw [joined_ctx, hnone]
    rfl
  rw [← hlen]
  rfl

/-- Without a FREE colour a waiting `SPAWN` goes on waiting. -/
theorem serveSpawns_waits {c : Nat} {s : State} (n : Nat) (h : (s.ctx c).freeColour = none) : serveSpawns c n s = s := by
  cases n with
  | zero => rfl
  | succ n =>
    simp only [serveSpawns, h]
    cases (s.ctx c).spawns.find? (s.spawnEligible c) <;> rfl

/-- The only waiting `SPAWN`, under its cap and with room in its element, is served with the lowest FREE colour. -/
theorem serveSpawns_one {c k : Nat} {w : SpawnWait} {s : State} (hw : (s.ctx c).spawns = [w])
    (hel : s.spawnEligible c w = true) (hfree : (s.ctx c).freeColour = some k) (hroom : s.outRoom w.tile w.elem = true) :
    serveSpawns c 1 s = s.writeDraw c w k false := by
  have hfind : (s.ctx c).spawns.find? (s.spawnEligible c) = some w := by
    rw [hw, List.find?_cons, hel]
  simp only [serveSpawns, hfind, hfree, hroom, if_true]

/-- The entry of a colour that a `SPAWN` has drawn. -/
def drawnColour (s : State) (w : SpawnWait) : Colour :=
  { state := .held, caller := w.tag, ret := spawnRet (s.slot w.tile w.elem w.slot).form, tile := w.tile, elem := w.elem
    slot := w.slot, group := s.groupOf w.tile, round := w.round }

/-- The controller writes the entry and the `SPAWN` leaves. -/
theorem writeDraw_done {c k : Nat} {w : SpawnWait} {s s' : State} (again : Bool)
    (hlate : s.lateFor (BitVec.ofNat 8 c) = false)
    (hwrite : vwrite agentSched (BitVec.ofNat 8 c) ((s.ctx c).colourAddr k) (drawnColour s w).bytes s = .ok ((), s')) :
    s.writeDraw c w k again =
      ((((s'.learn (colourKey c k) w.tile).newWave (BitVec.ofNat 8 c) (colourTag k)).modCtx c fun x =>
          { x.setColour k (drawnColour s w) with spawns := x.spawns.filter fun v => v != w }).pushOut
        w.tile w.elem w.slot (spawnItems (s.slot w.tile w.elem w.slot).form w k)) := by
  unfold drawnColour at hwrite ⊢
  simp only [State.writeDraw, hlate, Bool.false_eq_true, if_false, hwrite]

theorem spawnItems_eq (f : Form) (fr : Firing) (s : State) (k : Nat) :
    spawnItems f (spawnWait f fr s) k = tokensTo f (some { (spawnWait f fr s).l with tag := colourTag k })
      ((spawnWait f fr s).r.map fun r => { r with tag := colourTag k }) := by
  unfold spawnItems spawnWait
  by_cases h : f.arity = 1
  · simp only [if_pos h]
    rfl
  · simp only [if_neg h]
    rfl

/-- Settles O38. -/
theorem callFirings : Obligations.CallFirings := by
  intro f s fr tag hu he cb x w s1 col
  refine ⟨fun hfree hnone => ?_, ?_, fun hheld => ?_, fun hheld => ?_⟩
  · rw [exec_spawn hu he hnone, serveSpawns_waits]
    · rfl
    · rw [joined_ctx]
      exact hfree
  · intro k s2 hnone hform hfree hcap hroom drawn hlate hwrite
    have hctx : s1.ctx cb.toNat = { x with spawns := [w] } := by
      refine (joined_ctx cb.toNat w s).trans ?_
      rw [hnone]
      rfl
    have hel : s1.spawnEligible cb.toNat w = true := by
      have hcap1 : (s1.ctx cb.toNat).heldBy w.tile w.elem w.slot < spawnCap (s1.slot w.tile w.elem w.slot).form := by
        rw [hctx]
        exact Nat.lt_of_lt_of_eq hcap (congrArg spawnCap hform.symm)
      simp only [State.spawnEligible, hcap1, decide_true, Bool.and_true]
      rfl
    have hdrawn : drawnColour s1 w = drawn := by
      have hret : spawnRet (s1.slot w.tile w.elem w.slot).form = f.imm.setWidth 22 := congrArg spawnRet hform
      rw [drawnColour, hret]
      rfl
    have hfree1 : (s1.ctx cb.toNat).freeColour = some k := by
      rw [hctx]
      exact hfree
    have hdone := writeDraw_done (c := cb.toNat) (k := k) (w := w) (s := s1) (s' := s2) false
      (by rw [BitVec.ofNat_toNat, BitVec.setWidth_eq]; exact hlate) (by rw [hctx, hdrawn]; exact hwrite)
    rw [exec_spawn hu he hnone]
    refine congrArg _ ((serveSpawns_one (congrArg Ctx.spawns hctx) hel hfree1 (decide_eq_true hroom)).trans (hdone.trans ?_))
    rw [hdrawn]
    have hslot : (s1.slot w.tile w.elem w.slot).form = f := hform
    rw [hslot]
    refine (push_eq_emitted fr _ _).trans ?_
    rw [show spawnItems f w k = _ from spawnItems_eq f fr s k]
    rfl
  · show execReturnTok f s = _
    rw [execReturnTok, onSlot_slot _ hu, returnFire, run_evaluates _ he]
    refine congrArg _ ((if_neg (not_not.mpr hheld)).trans ?_)
    exact push_eq_emitted _ _ _
  · show execReturnTok f s = _
    rw [execReturnTok, onSlot_slot _ hu, returnFire, run_evaluates _ he]
    exact congrArg _ (if_pos hheld)

/-! ## Rounds, counts and order (R48, R110 to R112, R192, R195, R368) -/

theorem mark_eq (fr : Firing) (f : Form) (round : BitVec 8) (s : State) :
    fr.mark f round s = emitted fr (tokensTo f
      (some { kind := .mark, tag := colourTag (s.group (s.groupOf fr.tile)).kernel.lcol, round := round, ctx := s.tileCtx fr.tile })
      (some { kind := .mark, tag := colourTag (s.group (s.groupOf fr.tile)).kernel.lcol, round := round, ctx := s.tileCtx fr.tile })) s :=
  push_eq_emitted _ _ _

theorem countFire_data {f : Form} {add : W64 → W64} {fr : Firing} {s : State} (h : fr.single.kind = some .data) :
    countFire f add fr s = s.modSlot fr.tile fr.elem fr.slot fun y =>
      { y with count := y.count + add fr.single.value, key := some (y.key.getD fr.tag) } := if_pos h

/-- `RNDQ` stamps its token with the round register, and closes the round with the last token of the quota (R111). -/
theorem rndqFire_eq {f : Form} {fr : Firing} {s : State} {tag : W64} (he : Evaluates fr f s tag) :
    rndqFire f fr s =
      (let y := s.slot fr.tile fr.elem fr.slot
       let s1 := emittedBoth { fr with round := y.rr } f .data fr.l.value tag fr.sOr (s.beginRound fr.tile y.rr)
       if y.count + 1 = f.imm.setWidth 64 then
         (if (s1.elem fr.tile fr.elem).out.length < 4 then fr.mark f y.rr s1
          else s1.modSlot fr.tile fr.elem fr.slot fun z => { z with releasing := some y.rr }).modSlot fr.tile fr.elem fr.slot
           fun y => { y with count := 0, rr := y.rr + 1 }
       else s1.modSlot fr.tile fr.elem fr.slot fun y => { y with count := y.count + 1 }) := by
  rw [rndqFire, run_evaluates _ he]
  simp only [emit_both, State.outRoom, decide_eq_true_eq]

/-- Settles O39. -/
theorem roundFirings : Obligations.RoundFirings := by
  intro f s fr hu marks y counted
  refine ⟨?_, fun hdata => ⟨?_, ?_⟩, fun tag he => ⟨?_, ⟨fun hq => ?_, fun hq => ?_⟩, ?_, ?_, ?_, ?_⟩⟩
  · show execSink f s = _
    rw [execSink, onSlot_slot _ hu]
  · show execAlign f s = _
    rw [execAlign, onSlot_slot _ hu, countFire_data hdata]
  · show execCount f s = _
    rw [execCount, onSlot_slot _ hu, countFire_data hdata]
    rfl
  · show execMark f s = _
    rw [execMark, onSlot_slot _ hu, run_evaluates _ he, mark_eq]
  · show execRndq f s = _
    rw [execRndq, onSlot_slot _ hu, rndqFire_eq he]
    exact congrArg _ (if_neg hq)
  · show execRndq f s = _
    rw [execRndq, onSlot_slot _ hu, rndqFire_eq he]
    refine congrArg _ ((if_pos hq).trans ?_)
    rw [mark_eq]
    rfl
  · show execRed f s = _
    rw [execRed, onSlot_slot _ hu, run_evaluates _ he, emit_both]
  · show execReord f s = _
    rw [execReord, onSlot_slot _ hu, run_evaluates _ he, emit_both]
  · show execBararrTok f s = _
    rw [execBararrTok, onSlot_slot _ hu, run_evaluates _ he]
  · show execBararrRnd f s = _
    rw [execBararrRnd, onSlot_slot _ hu, run_evaluates _ he]

/-! ## Reports (R113 to R115, R236) -/

theorem bitOf_toNat {n : Nat} (w : BitVec n) (k : Nat) : bitOf w.toNat k = w.getLsbD k := by
  rw [bitOf, BitVec.getLsbD, Nat.testBit_eq_decide_div_mod_eq, beq_eq_decide]

theorem exec_trap {f : Form} {s : State} {fr : Firing} {tag : W64} (hu : s.unit = .slot fr) (he : Evaluates fr f s tag) :
    exec (.trap f) s = .next (let s := fr.fault fcTrap (some fr.l.value) (some (f.imm.setWidth 64)) s
      if f.mod = 0 then emittedBoth fr f .data fr.l.value tag fr.sOr s else fr.halt s) := by
  show execTrap f s = _
  rw [execTrap, onSlot_slot _ hu, run_evaluates _ he]
  simp only [emit_both]

theorem exec_assert {f : Form} {s : State} {fr : Firing} {tag : W64} (hu : s.unit = .slot fr) (he : Evaluates fr f s tag) :
    exec (.assert f) s = .next (if fr.l.value ≠ 0 then emittedBoth fr f .data fr.l.value tag fr.sOr s
      else fr.halt (fr.fault fcAssert (some 0) (some (f.imm.setWidth 64)) s)) := by
  show execAssert f s = _
  rw [execAssert, onSlot_slot _ hu, run_evaluates _ he, emit_both]

theorem exec_probe {f : Form} {s : State} {fr : Firing} {tag : W64} (hu : s.unit = .slot fr) (he : Evaluates fr f s tag) :
    exec (.probe f) s = .next (emittedBoth fr f .data ((s.elem fr.tile fr.elem).probe f.mod.toNat) tag fr.sOr
      (if f.mod = 1 then s.modElem fr.tile fr.elem fun x => { x with flags := 0 } else s)) := by
  show execProbe f s = _
  rw [execProbe, onSlot_slot _ hu, run_evaluates _ he, emit_both]

/-- Settles O40. -/
theorem reportFirings : Obligations.ReportFirings := by
  intro f s fr tag hu he x note halted scaled product
  refine ⟨fun hm => ?_, fun hm => ?_, fun hv => ?_, fun hv => ?_, ?_, fun hm => ?_, fun hm => ?_, fun hm => ?_, fun hm => ?_,
    ?_, ?_⟩
  · rw [exec_trap hu he]
    exact congrArg _ (if_pos hm)
  · rw [exec_trap hu he]
    exact congrArg _ (if_neg hm)
  · rw [exec_assert hu he, if_pos hv]
  · rw [exec_assert hu he, if_neg (not_not.mpr hv)]
    rfl
  · show execReconf f s = _
    rw [execReconf, onSlot_slot _ hu, run_evaluates _ he, emit_both]
  · rw [exec_probe hu he, if_neg (by rw [hm]; decide), hm]
    rfl
  · rw [exec_probe hu he, if_pos hm, hm]
    rfl
  · rw [exec_probe hu he, if_neg (by rw [hm]; decide), hm]
    rfl
  · rw [exec_probe hu he, if_neg (by rw [hm]; decide), hm]
    rfl
  · show execScaleSend f s = _
    rw [execScaleSend, onSlot_slot _ hu, run_evaluates _ he, emit_both]
  · show execScaleApply f s = _
    rw [execScaleApply, onSlot_slot _ hu, run_evaluates _ he]
    simp only [bitOf_toNat, ite_not, raiseAs_eq, Firing.value, emit_fields]
    rfl

/-! ## Requests (R40, R41, R49, R174) -/

/-- An instruction whose firing sends its request, whatever else it does elsewhere. -/
def SendsRequest (i : Instr) : Prop :=
  ∀ (s : State) (fr : Firing), s.unit = .slot fr → exec i s = .next (fr.sendRequest i s)

theorem sendsRequest_onSlot {i : Instr} (h : ∀ s, exec i s = onSlot s fun fr s => fr.sendRequest i s) : SendsRequest i :=
  fun s _ hu => (h s).trans (onSlot_slot _ hu)
theorem sendsRequest_onBoth {i : Instr} (core : Nat → State → State)
    (h : ∀ s, exec i s = onBoth s (fun fr s => fr.sendRequest i s) core) : SendsRequest i :=
  fun s _ hu => (h s).trans (onBoth_slot _ _ hu)
theorem sendsRequest_onRequest {i : Instr} (unit : Engine → Req → State → State)
    (h : ∀ s, exec i s = onRequest s (fun fr s => fr.sendRequest i s) unit) : SendsRequest i :=
  fun s _ hu => (h s).trans (onRequest_slot _ _ hu)
theorem sendsRequest_onAll {i : Instr} (core : Nat → State → State) (unit : Engine → Req → State → State)
    (h : ∀ s, exec i s = onAll s (fun fr s => fr.sendRequest i s) core unit) : SendsRequest i :=
  fun s _ hu => (h s).trans (onAll_slot _ _ _ hu)

/-- Every row of the table sends its request, and its word's fields are those of the row. -/
theorem sendsRequest_of_row {row : Form → Instr} (h : row ∈ requestRows) (f : Form) :
    SendsRequest (row f) ∧ formOf (row f) = f := by
  rw [requestRows, List.mem_append, List.mem_append] at h
  rcases h with (h | h) | h
  all_goals
    revert row
    simp only [List.forall_mem_cons]
    repeat' apply And.intro
  all_goals first
    | exact fun _ h => absurd h List.not_mem_nil
    | rfl
    | exact sendsRequest_onSlot fun _ => rfl
    | exact sendsRequest_onRequest _ fun _ => rfl
    | exact sendsRequest_onBoth _ fun _ => rfl
    | exact sendsRequest_onAll _ _ fun _ => rfl

/-- An access sends its request too, or the notice of a suppressed one (R179). -/
theorem exec_access {i : Instr} {f : Form} (h : i ∈ [Instr.ld f, .st f, .atom f]) {s : State} {fr : Firing}
    (hu : s.unit = .slot fr) : exec i s = .next (fr.sendAccess i s) := by
  simp only [List.mem_cons, List.not_mem_nil, or_false] at h
  rcases h with rfl | rfl | rfl
  · show execLd f s = _
    rw [execLd, onBoth_slot _ _ hu]
  · show execSt f s = _
    rw [execSt, onBoth_slot _ _ hu]
  · show execAtom f s = _
    rw [execAtom, onAll_slot _ _ _ hu]

theorem formOf_access {i : Instr} {f : Form} (h : i ∈ [Instr.ld f, .st f, .atom f]) : formOf i = f := by
  simp only [List.mem_cons, List.not_mem_nil, or_false] at h
  rcases h with rfl | rfl | rfl <;> rfl

/-- The request of a firing, as the statements write it. -/
theorem request_eq_requested (fr : Firing) (i : Instr) (kind : Kind) (tag v : W64) (s : State) :
    fr.push [.request { fr.request i kind tag s with l := v }] s = requested fr i kind v tag s :=
  push_eq_emitted _ _ _

theorem sendRequest_evaluates {i : Instr} {fr : Firing} {s : State} {tag : W64} (h : Evaluates fr (formOf i) s tag) :
    fr.sendRequest i s = requested fr i .data fr.l.value tag s := by
  obtain ⟨herr, hstop, hsup, htag⟩ := h
  rw [Firing.send_eval herr hstop hsup htag]
  exact request_eq_requested _ _ _ _ _ _

/-- The three ways in which a request leaves. -/
theorem sendRequest_cases (i : Instr) (fr : Firing) (s : State) :
    (∀ tag, Evaluates fr (formOf i) s tag → fr.sendRequest i s = requested fr i .data fr.l.value tag s) ∧
    (∀ v tag, fr.err? = some v → fr.tagOut s (formOf i) = .ok tag → fr.sendRequest i s = requested fr i .err v tag s) ∧
    (∀ tag, fr.err? = none → fr.hasStop = true → fr.tagOut s (formOf i) = .ok tag →
      fr.sendRequest i s = requested fr i .stop fr.l.value tag s) := by
  refine ⟨fun tag => sendRequest_evaluates, fun v tag he ht => ?_, fun tag he hs ht => ?_⟩
  · rw [Firing.send_err he ht, request_eq_requested]
  · rw [Firing.send_stop he hs ht]
    exact request_eq_requested _ _ _ _ _ _

/-- A firing that evaluates sends its request unless its operands are refused (R147). -/
theorem sendChecked_evaluates {i : Instr} {fr : Firing} {s : State} {tag : W64} {bad : Bool}
    (h : Evaluates fr (formOf i) s tag) :
    fr.sendChecked i bad s = if bad then faulted fr (formOf i) fcIllegal (some ((formOf i).tagop.setWidth 64)) s
      else requested fr i .data fr.l.value tag s := by
  have hsend := sendRequest_evaluates h
  obtain ⟨herr, hstop, hsup, htag⟩ := h
  simp [Firing.sendChecked, herr, hstop, hsup, htag, Except.toBool, hsend, raise_eq]

theorem ttsetBad_iff (l r : W64) :
    ttsetBad l r = true ↔ ¬ (l.toNat < 128 ∧ bitsOf r.toNat 9 47 ≠ 2 ^ 47 - 1 ∧ r.toNat < 2 ^ 56) := by
  have hhigh : bitsOf r.toNat 56 8 ≠ 0 ↔ ¬ r.toNat < 2 ^ 56 := by
    have hlt : r.toNat < 2 ^ 64 := r.isLt
    rw [bitsOf]
    omega
  simp only [ttsetBad, lineInvalid, Bool.or_eq_true, decide_eq_true_eq, beq_iff_eq, bne_iff_ne, hhigh]
  omega

/-- `MMAS` sends its request unless its vector is one `STOP` alone. -/
theorem exec_mmas {f : Form} {s : State} {fr : Firing} (hu : s.unit = .slot fr) (hc : fr.coords.length ≠ 1) :
    exec (.mmas f) s = .next (fr.sendRequest (.mmas f) s) := by
  show execMmas f s = _
  rw [execMmas, onRequest_slot _ _ hu]
  split
  · rw [‹fr.coords = _›] at hc
    exact absurd rfl hc
  · rfl

/-- Settles O41. -/
theorem requestFirings : Obligations.RequestFirings := by
  refine ⟨fun row hrow f s fr hu => ?_, ?_⟩
  · rcases List.mem_append.mp hrow with h | h
    · obtain ⟨hsends, hform⟩ := sendsRequest_of_row h f
      have hcases := sendRequest_cases (row f) fr s
      rw [hform] at hcases
      rw [hsends s fr hu]
      exact ⟨fun tag h => congrArg _ (hcases.1 tag h), fun v tag he ht => congrArg _ (hcases.2.1 v tag he ht),
        fun tag he hs ht => congrArg _ (hcases.2.2 tag he hs ht)⟩
    · have hmem : row f ∈ [Instr.ld f, .st f, .atom f] := by
        simp only [List.mem_cons, List.not_mem_nil, or_false] at h
        rcases h with rfl | rfl | rfl <;> simp
      have hcases := sendRequest_cases (row f) fr s
      have hlive : (fr.err?.isSome = true ∨ fr.hasStop = true ∨ fr.suppressed f = false) →
          fr.sendAccess (row f) s = fr.sendRequest (row f) s := fun h =>
        Firing.sendAccess_live (by rw [formOf_access hmem]; exact h)
      rw [formOf_access hmem] at hcases
      rw [exec_access hmem hu]
      refine ⟨fun tag h => congrArg _ ?_, fun v tag he ht => congrArg _ ?_, fun tag he hs ht => congrArg _ ?_⟩
      · rw [hlive (.inr (.inr h.2.2.1)), hcases.1 tag h]
      · rw [hlive (.inl (by rw [he]; rfl)), hcases.2.1 v tag he ht]
      · rw [hlive (.inr (.inl hs)), hcases.2.2 tag he hs ht]
  · intro f s fr tag hu illegal line last
    refine ⟨fun he => ⟨?_, ?_, ?_, ?_, fun hc => ?_⟩, fun herr hstop hsup i hi => ?_⟩
    · show execTtset f s = _
      rw [execTtset, onRequest_slot _ _ hu, sendChecked_evaluates (i := .ttset f) he]
      simp only [ttsetBad_iff, ite_not]
      rfl
    · show execTtinv f s = _
      rw [execTtinv, onRequest_slot _ _ hu, sendChecked_evaluates (i := .ttinv f) he]
      simp only [Bool.and_eq_true, beq_iff_eq, decide_eq_true_eq]
      rfl
    · show execFeq f s = _
      rw [execFeq, onRequest_slot _ _ hu, sendChecked_evaluates (i := .feq f) he]
      simp only [Bool.and_eq_true, bne_iff_ne, runBad, decide_eq_true_eq]
      rfl
    · show execFeset f s = _
      rw [execFeset, onRequest_slot _ _ hu, sendChecked_evaluates (i := .feset f) he]
      simp only [runBad, decide_eq_true_eq]
      rfl
    · rw [exec_mmas hu hc, sendRequest_evaluates (i := .mmas f) he]
    · rw [exec_access hi hu, Firing.sendAccess_suppressed herr hstop (by rw [formOf_access hi]; exact hsup)]
      simp only [push_eq_emitted]

end Sys2Proof.Proofs
end

section
/-! PROOFS. Tags as numbers (R20 to R22, R145), the slots of a loop entry (R150) and the slots of a ring (R216, R218). -/

namespace Sys2Proof.Proofs

open Sys2Proof Sys2Proof.Machine Sys2Proof.Claims

/-! ## Tags as numbers (R20, R21) -/

theorem mkTag_toNat {c d fs : Nat} (hc : c < 4096) (hd : d < 8) (hf : fs < 2 ^ 48) :
    (mkTag c d fs).toNat = c * 2 ^ 52 + d * 2 ^ 49 + fs := by
  simp only [mkTag, BitVec.toNat_ofNat]
  omega

theorem tagColour_mkTag {c d fs : Nat} (hc : c < 4096) (hd : d < 8) (hf : fs < 2 ^ 48) : tagColour (mkTag c d fs) = c := by
  rw [tagColour, mkTag_toNat hc hd hf, bitsOf]
  omega

theorem tagDepth_mkTag {c d fs : Nat} (hc : c < 4096) (hd : d < 8) (hf : fs < 2 ^ 48) : tagDepth (mkTag c d fs) = d := by
  rw [tagDepth, mkTag_toNat hc hd hf, bitsOf]
  omega

/-- The fields of a tag lie below bit 48, so a whole number of them is a remainder of the fields. -/
theorem tagBelow_mkTag {c d fs k : Nat} (hc : c < 4096) (hd : d < 8) (hf : fs < 2 ^ 48) (hk : k ≤ 6) :
    tagBelow (mkTag c d fs) k = fs % 2 ^ (8 * k) := by
  have hdvd : 2 ^ (8 * k) ∣ c * 2 ^ 52 + d * 2 ^ 49 :=
    Nat.dvd_add (Dvd.dvd.mul_left (Nat.pow_dvd_pow 2 (by omega)) c) (Dvd.dvd.mul_left (Nat.pow_dvd_pow 2 (by omega)) d)
  obtain ⟨q, hq⟩ := hdvd
  rw [tagBelow, mkTag_toNat hc hd hf, hq, Nat.mul_add_mod]

theorem pow_fields_le {d : Nat} (hd : d ≤ 6) : 2 ^ (8 * d) ≤ 2 ^ 48 := Nat.pow_le_pow_right (by decide) (by omega)

/-- Fields inside the depth make a tag that keeps R21. -/
theorem tagOk_mkTag {c d fs : Nat} (hc : c < 4096) (hd : d ≤ 6) (hf : fs < 2 ^ (8 * d)) : tagOk (mkTag c d fs) = true := by
  have hf48 : fs < 2 ^ 48 := Nat.lt_of_lt_of_le hf (pow_fields_le hd)
  have hd8 : d < 8 := by omega
  have hbit : (mkTag c d fs).getLsbD 48 = false := by
    rw [← bitOf_toNat, mkTag_toNat hc hd8 hf48, bitOf, beq_eq_false_iff_ne]
    omega
  have hlow : (mkTag c d fs).toNat % 2 ^ 48 = fs := by
    rw [mkTag_toNat hc hd8 hf48]
    omega
  simp only [tagOk, tagDepth_mkTag hc hd8 hf48, hd, hbit, hlow, tagBelow_mkTag hc hd8 hf48 hd, Nat.mod_eq_of_lt hf,
    decide_true, Bool.not_false, beq_self_eq_true, Bool.and_self]

theorem tagColour_lt (t : W64) : tagColour t < 4096 := Nat.mod_lt _ (by decide)
theorem tagBelow_lt (t : W64) (k : Nat) : tagBelow t k < 2 ^ (8 * k) := Nat.mod_lt _ (Nat.two_pow_pos _)

theorem tagOk_parts {t : W64} (h : tagOk t = true) :
    tagDepth t ≤ 6 ∧ t.getLsbD 48 = false ∧ t.toNat % 2 ^ 48 = tagBelow t (tagDepth t) := by
  simp only [tagOk, Bool.and_eq_true, decide_eq_true_eq, Bool.not_eq_true', beq_iff_eq] at h
  exact ⟨h.1.1, h.1.2, h.2⟩

/-- A tag that keeps R21 is made of its colour, its depth and its fields. -/
theorem mkTag_of_tagOk {t : W64} (h : tagOk t = true) : mkTag (tagColour t) (tagDepth t) (tagBelow t (tagDepth t)) = t := by
  obtain ⟨hd, hbit, hlow⟩ := tagOk_parts h
  have hlt : t.toNat < 2 ^ 64 := t.isLt
  rw [← bitOf_toNat, bitOf, beq_eq_false_iff_ne] at hbit
  apply BitVec.eq_of_toNat_eq
  rw [mkTag_toNat (tagColour_lt t) (by omega) (Nat.lt_of_lt_of_le (tagBelow_lt t _) (pow_fields_le hd)), ← hlow, tagColour,
    tagDepth, bitsOf, bitsOf]
  omega

/-- A field is the top of the fields up to it. -/
theorem tagField_eq (t : W64) (k : Nat) : tagField t k = tagBelow t (k + 1) / 2 ^ (8 * k) := by
  rw [tagField, tagBelow, bitsOf, Nat.mul_add, Nat.pow_add, Nat.mod_mul_right_div_self]

theorem tagBelow_tagBelow (t : W64) {j k : Nat} (h : j ≤ k) : tagBelow t k % 2 ^ (8 * j) = tagBelow t j :=
  Nat.mod_mod_of_dvd _ (Nat.pow_dvd_pow 2 (by omega))

/-! ## Push, pop and set (R145) -/

/-- One field more above the fields of `d` places. -/
theorem fields_push_lt {fs d : Nat} (x : Nat) (h : fs < 2 ^ (8 * d)) : fs + x % 256 * 2 ^ (8 * d) < 2 ^ (8 * (d + 1)) := by
  have hx : x % 256 ≤ 255 := by omega
  have hmul : x % 256 * 2 ^ (8 * d) ≤ 255 * 2 ^ (8 * d) := Nat.mul_le_mul_right _ hx
  have hpow : 2 ^ (8 * (d + 1)) = 256 * 2 ^ (8 * d) := by rw [Nat.mul_add, Nat.pow_add, Nat.mul_comm]
  omega

theorem fields_push_lt48 {fs d : Nat} (x : Nat) (h : fs < 2 ^ (8 * d)) (hd : d < 6) : fs + x % 256 * 2 ^ (8 * d) < 2 ^ 48 :=
  Nat.lt_of_lt_of_le (fields_push_lt x h) (pow_fields_le hd)

section push
variable {t : W64} (hd : tagDepth t < 6) (x : Nat)
include hd

theorem tagDepth_tagPush : tagDepth (tagPush t x) = tagDepth t + 1 :=
  tagDepth_mkTag (tagColour_lt t) (by omega) (fields_push_lt48 x (tagBelow_lt t _) hd)

theorem tagColour_tagPush : tagColour (tagPush t x) = tagColour t :=
  tagColour_mkTag (tagColour_lt t) (by omega) (fields_push_lt48 x (tagBelow_lt t _) hd)

theorem tagBelow_tagPush {k : Nat} (hk : k ≤ 6) :
    tagBelow (tagPush t x) k = (tagBelow t (tagDepth t) + x % 256 * 2 ^ (8 * tagDepth t)) % 2 ^ (8 * k) :=
  tagBelow_mkTag (tagColour_lt t) (by omega) (fields_push_lt48 x (tagBelow_lt t _) hd) hk

theorem tagOk_tagPush : tagOk (tagPush t x) = true :=
  tagOk_mkTag (tagColour_lt t) hd (fields_push_lt x (tagBelow_lt t _))

theorem tagInner_tagPush : tagInner (tagPush t x) = x % 256 := by
  have hlt := fields_push_lt x (tagBelow_lt t (tagDepth t))
  rw [tagInner, tagDepth_tagPush hd, if_neg (Nat.succ_ne_zero _), Nat.add_sub_cancel, tagField_eq,
    tagBelow_tagPush hd x (by omega), Nat.mod_eq_of_lt hlt, Nat.add_mul_div_right _ _ (Nat.two_pow_pos _),
    Nat.div_eq_of_lt (tagBelow_lt t _), Nat.zero_add]

theorem tagPop_tagPush (hok : tagOk t = true) : tagPop (tagPush t x) = t := by
  rw [tagPop, tagDepth_tagPush hd, tagColour_tagPush hd, Nat.add_sub_cancel, tagBelow_tagPush hd x (by omega),
    Nat.add_mul_mod_self_right, Nat.mod_eq_of_lt (tagBelow_lt t _), mkTag_of_tagOk hok]

end push

section pop
variable {t : W64} (hok : tagOk t = true) (hpos : 0 < tagDepth t)
include hok

theorem tagDepth_tagPop : tagDepth (tagPop t) = tagDepth t - 1 := by
  obtain ⟨hd, -, -⟩ := tagOk_parts hok
  exact tagDepth_mkTag (tagColour_lt t) (by omega) (Nat.lt_of_lt_of_le (tagBelow_lt t _) (pow_fields_le (by omega)))

theorem tagColour_tagPop : tagColour (tagPop t) = tagColour t := by
  obtain ⟨hd, -, -⟩ := tagOk_parts hok
  exact tagColour_mkTag (tagColour_lt t) (by omega) (Nat.lt_of_lt_of_le (tagBelow_lt t _) (pow_fields_le (by omega)))

theorem tagOk_tagPop : tagOk (tagPop t) = true := by
  obtain ⟨hd, -, -⟩ := tagOk_parts hok
  exact tagOk_mkTag (tagColour_lt t) (by omega) (tagBelow_lt t _)

theorem tagBelow_tagPop : tagBelow (tagPop t) (tagDepth t - 1) = tagBelow t (tagDepth t - 1) := by
  obtain ⟨hd, -, -⟩ := tagOk_parts hok
  rw [tagPop, tagBelow_mkTag (tagColour_lt t) (by omega)
    (Nat.lt_of_lt_of_le (tagBelow_lt t _) (pow_fields_le (by omega))) (by omega), Nat.mod_eq_of_lt (tagBelow_lt t _)]

include hpos

/-- Setting the innermost field is a push on the tag of the outer loop. -/
theorem tagSet_eq_push (x : Nat) : tagSet t x = tagPush (tagPop t) x := by
  rw [tagSet, if_neg hpos.ne', tagPush, tagColour_tagPop hok, tagDepth_tagPop hok, tagBelow_tagPop hok, Nat.sub_add_cancel hpos]

theorem tagPush_tagPop_inner : tagPush (tagPop t) (tagInner t) = t := by
  have hsucc : tagDepth t - 1 + 1 = tagDepth t := Nat.sub_add_cancel hpos
  have hinner : tagInner t = tagBelow t (tagDepth t) / 2 ^ (8 * (tagDepth t - 1)) := by
    rw [tagInner, if_neg hpos.ne', tagField_eq, hsucc]
  have hsmall : tagInner t < 256 := by
    rw [tagInner, if_neg hpos.ne']
    exact Nat.mod_lt _ (by decide)
  have hfields : tagBelow t (tagDepth t - 1) + tagInner t * 2 ^ (8 * (tagDepth t - 1)) = tagBelow t (tagDepth t) := by
    rw [hinner, ← tagBelow_tagBelow t (Nat.sub_le _ 1)]
    exact Nat.mod_add_div' _ _
  rw [tagPush, tagColour_tagPop hok, tagDepth_tagPop hok, tagBelow_tagPop hok, hsucc, Nat.mod_eq_of_lt hsmall, hfields,
    mkTag_of_tagOk hok]

theorem tagOk_tagSet (x : Nat) : tagOk (tagSet t x) = true := by
  obtain ⟨hd, -, -⟩ := tagOk_parts hok
  rw [tagSet_eq_push hok hpos]
  exact tagOk_tagPush (by rw [tagDepth_tagPop hok]; omega) x

end pop

theorem blockTag_zero {t : W64} (h : tagDepth t = 0) : blockTag t = t := if_pos h

theorem tagOk_blockTag {t : W64} (hok : tagOk t = true) : tagOk (blockTag t) = true := by
  rcases Nat.eq_zero_or_pos (tagDepth t) with h | h
  · rw [blockTag_zero h]
    exact hok
  · exact tagOk_tagSet hok h 0

/-- The output tag of each `TAGOP` keeps R21. -/
theorem tagOk_tagOut {s : State} {c : BitVec 8} {op : Nat} {t src v : W64} (hok : tagOk t = true)
    (h : tagOut s c op t src = .ok v) : tagOk v = true := by
  obtain ⟨hd, -, -⟩ := tagOk_parts hok
  unfold tagOut at h
  split_ifs at h
  · cases h; exact hok
  · cases h; exact tagOk_tagPush (by omega) 0
  · cases h; exact tagOk_tagPop hok
  · cases h; exact tagOk_blockTag hok
  · cases h; exact tagOk_tagSet hok (by omega) _
  · cases h; exact tagOk_mkTag (Nat.mod_lt _ (by decide)) (by decide) (by decide)
  · cases h; simpa using ‹¬(!tagOk src) = true›

/-- Settles O33. -/
theorem tagOperations : Obligations.TagOperations := by
  intro s c t src hok pool
  refine ⟨fun op v => tagOk_tagOut hok, rfl, rfl, rfl, rfl, rfl, ?_, ?_, ?_, blockTag_zero, ?_, ?_⟩
  · show (if !tagOk src then _ else if decide (tagColour src < pool) = true then _ else _) = _
    simp only [Bool.not_eq_true', decide_eq_true_eq]
  · exact fun hd x => ⟨tagDepth_tagPush hd x, tagColour_tagPush hd x, tagInner_tagPush hd x, tagPop_tagPush hd x hok⟩
  · exact fun hpos => ⟨tagDepth_tagPop hok, tagColour_tagPop hok, tagPush_tagPop_inner hok hpos, tagSet_eq_push hok hpos 0,
      tagSet_eq_push hok hpos⟩
  · intro hown
    have hc : src.toNat % 4096 < 4096 := Nat.mod_lt _ (by decide)
    refine ⟨colourTag (src.toNat % 4096), if_pos (decide_eq_true hown), tagColour_mkTag hc (by decide) (by decide),
      tagDepth_mkTag hc (by decide) (by decide), fun k hk => ?_⟩
    rw [tagField_eq, colourTag, tagBelow_mkTag hc (by decide) (by decide) (by omega), Nat.zero_mod, Nat.zero_div]
  · intro hout
    exact if_neg (mt of_decide_eq_true (Nat.not_lt.mpr hout))

/-! ## Loop slots (R149, R150) -/

/-- A number whose bit `n` is clear, split at that bit. -/
theorem split_at_clear_bit {u n : Nat} (h : bitOf u n = false) : ∃ a r, r < 2 ^ n ∧ u = 2 ^ (n + 1) * a + r := by
  have hbit : u / 2 ^ n % 2 = 0 := by
    rw [bitOf, beq_eq_false_iff_ne] at h
    omega
  refine ⟨u / 2 ^ n / 2, u % 2 ^ n, Nat.mod_lt _ (Nat.two_pow_pos n), ?_⟩
  have hdiv : u / 2 ^ n = 2 * (u / 2 ^ n / 2) := by omega
  calc u = 2 ^ n * (u / 2 ^ n) + u % 2 ^ n := (Nat.div_add_mod u _).symm
    _ = 2 ^ n * (2 * (u / 2 ^ n / 2)) + u % 2 ^ n := by rw [← hdiv]
    _ = 2 ^ (n + 1) * (u / 2 ^ n / 2) + u % 2 ^ n := by rw [Nat.pow_succ, Nat.mul_assoc]

/-- Setting a clear bit adds its weight. -/
theorem or_two_pow_of_clear {u n : Nat} (h : bitOf u n = false) : u ||| 2 ^ n = u + 2 ^ n := by
  obtain ⟨a, r, hr, rfl⟩ := split_at_clear_bit h
  have hlow : 2 ^ n * 1 + r = 2 ^ n * 1 ||| r := Nat.two_pow_add_eq_or_of_lt hr 1
  have hr1 : r < 2 ^ (n + 1) := by
    rw [Nat.pow_succ]
    omega
  have hlow1 : 2 ^ n * 1 + r < 2 ^ (n + 1) := by
    rw [Nat.pow_succ]
    omega
  rw [Nat.two_pow_add_eq_or_of_lt hr1, Nat.or_assoc, Nat.or_comm r, ← Nat.mul_one (2 ^ n), ← hlow,
    ← Nat.two_pow_add_eq_or_of_lt hlow1, ← Nat.two_pow_add_eq_or_of_lt hr1]
  omega

theorem bitOf_or_two_pow (u n : Nat) : bitOf (u ||| 2 ^ n) n = true := by
  have hbit : (u ||| 2 ^ n).testBit n = true := by
    rw [Nat.testBit_or, Nat.testBit_two_pow_self, Bool.or_true]
  rw [bitOf, beq_eq_decide, ← Nat.testBit_eq_decide_div_mod_eq, hbit]

theorem genOf_eq (en : LoopEntry) (j : Nat) : en.genOf j = en.gen / 4 ^ j % 4 := by
  rw [LoopEntry.genOf, bitsOf, Nat.pow_mul]
  rfl

/-- A digit in base 4 of a number that is put together at digit `n`. -/
theorem digit_at {q r n : Nat} (hr : r < 4 ^ n) : (q * 4 ^ n + r) / 4 ^ n % 4 = q % 4 := by
  rw [Nat.add_comm, Nat.add_mul_div_right _ _ (by positivity), Nat.div_eq_of_lt hr, Nat.zero_add]

theorem digit_below {q r n j : Nat} (hj : j < n) : (q * 4 ^ n + r) / 4 ^ j % 4 = r / 4 ^ j % 4 := by
  obtain ⟨d, rfl⟩ := Nat.exists_eq_add_of_lt hj
  have hpow : q * 4 ^ (j + d + 1) = q * 4 ^ d * 4 * 4 ^ j := by ring
  rw [hpow, Nat.add_comm, Nat.add_mul_div_right _ _ (by positivity), Nat.add_mul_mod_self_right]

theorem digit_above {q r n j : Nat} (hr : r < 4 ^ n) (hj : n < j) : (q * 4 ^ n + r) / 4 ^ j % 4 = q / 4 / 4 ^ (j - n - 1) % 4 := by
  obtain ⟨d, rfl⟩ := Nat.exists_eq_add_of_lt hj
  have hpow : 4 ^ (n + d + 1) = 4 ^ n * (4 * 4 ^ d) := by ring
  have hsub : n + d + 1 - n - 1 = d := by omega
  rw [hpow, ← Nat.div_div_eq_div_mul, Nat.add_comm, Nat.add_mul_div_right _ _ (by positivity), Nat.div_eq_of_lt hr,
    Nat.zero_add, ← Nat.div_div_eq_div_mul, hsub]

/-- The generations of an entry with digit `n` advanced. -/
def genAdvanced (gen n : Nat) : Nat := gen - gen / 4 ^ n % 4 * 4 ^ n + (gen / 4 ^ n % 4 + 1) % 4 * 4 ^ n

theorem genAdvanced_eq (gen n : Nat) :
    genAdvanced gen n = (4 * (gen / 4 ^ n / 4) + (gen / 4 ^ n % 4 + 1) % 4) * 4 ^ n + gen % 4 ^ n := by
  have hsplit : gen = 4 * (gen / 4 ^ n / 4) * 4 ^ n + gen / 4 ^ n % 4 * 4 ^ n + gen % 4 ^ n := by
    rw [← Nat.add_mul, Nat.div_add_mod, Nat.div_add_mod']
  rw [genAdvanced, Nat.add_mul]
  omega

theorem digit_split (gen n : Nat) : gen = gen / 4 ^ n * 4 ^ n + gen % 4 ^ n := (Nat.div_add_mod' gen _).symm

/-- Digit `n` advances by one modulo 4, -/
theorem genAdvanced_same (gen n : Nat) : genAdvanced gen n / 4 ^ n % 4 = (gen / 4 ^ n % 4 + 1) % 4 := by
  rw [genAdvanced_eq, digit_at (Nat.mod_lt _ (by positivity)), Nat.mul_add_mod, Nat.mod_mod]

/-- and the other digits stay. -/
theorem genAdvanced_other {gen n j : Nat} (h : j ≠ n) : genAdvanced gen n / 4 ^ j % 4 = gen / 4 ^ j % 4 := by
  have hr : gen % 4 ^ n < 4 ^ n := Nat.mod_lt _ (by positivity)
  rw [genAdvanced_eq]
  conv_rhs => rw [digit_split gen n]
  rcases Nat.lt_or_gt_of_ne h with hlt | hgt
  · rw [digit_below hlt, digit_below hlt]
  · rw [digit_above hr hgt, digit_above hr hgt]
    congr 2
    omega

/-- The release of a field in use of a loop entry with other uses. -/
theorem release_eq {en : LoopEntry} {field : Nat} (hv : en.v = true) (huse : bitOf en.use (field % 64) = true)
    (hgen : field / 64 % 4 = en.genOf (field % 64)) (hmany : en.used ≠ 1) :
    en.release field = some { en with
      use := en.use - 2 ^ (field % 64)
      used := (en.used + 127) % 128
      gen := genAdvanced en.gen (field % 64) } := by
  simp only [LoopEntry.release, hv, huse, hgen, Bool.not_true, Bool.or_self, ne_eq, not_true, decide_false, Bool.false_eq_true,
    if_false, if_neg hmany, genOf_eq, genAdvanced]

theorem release_unused {en : LoopEntry} {field : Nat} (huse : bitOf en.use (field % 64) = false) : en.release field = none := by
  simp [LoopEntry.release, huse]

/-- Settles O37. -/
theorem loopSlotTakenBack : Obligations.LoopSlotTakenBack := by
  intro en k hv hnext hk hused husedmax _ _ hcan
  have hclear : bitOf en.use en.next = false := by simpa [LoopEntry.canTake] using hcan
  have hgen4 : en.genOf en.next < 4 := Nat.mod_lt _ (by decide)
  have hslot : (en.genOf en.next * 64 + en.next) % 64 = en.next := by omega
  have hfield : (en.genOf en.next * 64 + en.next) / 64 % 4 = en.genOf en.next := by omega
  have hback : (en.use ||| 2 ^ en.next) - 2 ^ en.next = en.use := by
    rw [or_two_pow_of_clear hclear, Nat.add_sub_cancel]
  have hrel := release_eq (en := (en.take k).2) (field := (en.take k).1) hv
    (by rw [LoopEntry.take, hslot]; exact bitOf_or_two_pow _ _) (by rw [LoopEntry.take, hslot]; exact hfield)
    (by simp only [LoopEntry.take]; omega)
  refine ⟨_, hrel, ?_, ?_, rfl, ?_, fun j _ hj => ?_, ?_⟩
  · simp only [LoopEntry.take, hslot, hback]
  · simp only [LoopEntry.take]
    omega
  · simp only [LoopEntry.take, hslot]
    simp only [genOf_eq, genAdvanced_same]
  · simp only [LoopEntry.take, hslot]
    simp only [genOf_eq, genAdvanced_other hj]
  · apply release_unused
    simp only [LoopEntry.take, hslot, hback]
    exact hclear

/-! ## The life of a ring slot (R216, R218) -/

/-- A slot of a canonical ring after a write. -/
theorem slot_setSlot {r : Ring} (hwf : mapWf .free r.slots = true) (k j : Nat) (x : RingSlot) :
    (r.setSlot k x).slot j = if j = k then x else r.slot j :=
  mapGet_mapSet _ _ _ _ _ hwf

theorem setSlot_wf {r : Ring} (hwf : mapWf .free r.slots = true) (k : Nat) (x : RingSlot) :
    mapWf .free (r.setSlot k x).slots = true :=
  mapSet_wf _ _ _ _ hwf

/-- The head passes the only slot in use once that is free. -/
theorem ringAdvance_one {r : Ring} (hused : r.used = 1) (hfree : r.slot r.head = .free) :
    ringAdvance 1 r = { r with head := (r.head + 1) % (r.cnt + 1), used := 0 } := by
  simp only [ringAdvance, hused, hfree, gt_iff_lt, Nat.zero_lt_one, and_self, if_true]

/-- The only slot in use is freed, with no producer waiting. -/
theorem freeSlot_one {r : Ring} (hwf : mapWf .free r.slots = true) (hused : r.used = 1) (hwait : r.waiters = []) :
    r.freeSlot r.head = { r.setSlot r.head .free with head := (r.head + 1) % (r.cnt + 1), used := 0 } := by
  have hfree : (r.setSlot r.head .free).slot r.head = .free := by
    rw [slot_setSlot hwf, if_pos rfl]
  rw [Ring.freeSlot, hused, ringAdvance_one (r := r.setSlot r.head .free) hused hfree]
  exact congrArg (fun ws => ringGrant (List.length ws) _) hwait

/-- Retiring the only slot in use, with no producer waiting. -/
theorem retire_one {r : Ring} (hwf : mapWf .free r.slots = true) (hused : r.used = 1) (hwait : r.waiters = []) :
    r.retire r.head = { r.setSlot r.head .free with
      full := r.full - 1, head := (r.head + 1) % (r.cnt + 1), used := 0 } :=
  freeSlot_one (r := { r with full := r.full - 1 }) hwf hused hwait

/-- Settles O43. -/
theorem ringSlotLife : Obligations.RingSlotLife := by
  intro r hwf hwait hused hfull hhead _ hfree r1 r2 r3
  have hwf1 : mapWf .free r1.slots = true := setSlot_wf hwf r.tail .filling
  have hwf2 : mapWf .free r2.slots = true := setSlot_wf hwf1 r.tail .full
  have hslot1 : ∀ j, r1.slot j = if j = r.tail then .filling else r.slot j := fun j => slot_setSlot hwf r.tail j .filling
  have hslot2 : ∀ j, r2.slot j = if j = r.tail then .full else r1.slot j := fun j => slot_setSlot hwf1 r.tail j .full
  have hused2 : r2.used = 1 := congrArg (· + 1) hused
  have hr3 : r3 = { r2.setSlot r.tail .free with
      full := r2.full - 1, head := (r.tail + 1) % (r.cnt + 1), used := 0 } := by
    have := retire_one hwf2 hused2 hwait
    rw [show r2.head = r.tail from hhead] at this
    exact this
  have hslot3 : ∀ j, r3.slot j = if j = r.tail then .free else r2.slot j := fun j => by
    rw [hr3]
    exact slot_setSlot hwf2 r.tail j .free
  refine ⟨by rw [hslot1, if_pos rfl], hused2, rfl, by rw [hslot2, if_pos rfl], congrArg (· + 1) hfull, hused2,
    by rw [hslot3, if_pos rfl], ?_, by rw [hr3], ?_, fun k => ?_⟩
  · rw [hr3]
    exact hfull
  · rw [hr3]
    rfl
  · rw [hslot3]
    split
    · rfl
    · rw [hslot2, if_neg ‹_›, hslot1, if_neg ‹_›, hfree]

end Sys2Proof.Proofs
end

section
/-! PROOFS. The instructions of the ring port in a firing (R216, R218, R224, R228 to R230). -/

namespace Sys2Proof.Proofs

open Sys2Proof Sys2Proof.Machine Sys2Proof.Claims

/-- A firing at the ring port that evaluates: its reply, or its fault, after the commands that had reached the port. -/
theorem port_evaluates {fr : Firing} {f : Form} {s : State} {tag : W64} (op : State → Except Nat (W64 × State))
    (he : Evaluates fr f s tag) :
    fr.port f op s = match op (s.portServed fr.tile) with
      | .ok (v, u) => emittedBoth fr f .data v tag false u
      | .error code => fr.portFail f code tag (s.portServed fr.tile) := by
  rw [Firing.port, run_evaluates _ he]
  simp only [emit_both] <;> rfl

theorem port_ok {fr : Firing} {f : Form} {s u : State} {tag v : W64} {op : State → Except Nat (W64 × State)}
    (he : Evaluates fr f s tag) (h : op (s.portServed fr.tile) = .ok (v, u)) :
    fr.port f op s = emittedBoth fr f .data v tag false u := by
  rw [port_evaluates op he, h]

/-- The record and the `ERR` of a firing that fails at the ring port (R224). -/
def portFailed (fr : Firing) (f : Form) (tag : W64) (code : Nat) (u : State) : State :=
  emittedBoth fr f .err (BitVec.ofNat 64 code) tag false (u.record
    { code := code, ukind := 2, unit := unitEngine u fr.tile 0, ctx := u.tileCtx fr.tile, tag := fr.tag }
    (some (fr.tile, fr.elem)))

theorem port_error {fr : Firing} {f : Form} {s : State} {tag : W64} {code : Nat} {op : State → Except Nat (W64 × State)}
    (he : Evaluates fr f s tag) (h : op (s.portServed fr.tile) = .error code) :
    fr.port f op s = portFailed fr f tag code (s.portServed fr.tile) := by
  rw [port_evaluates op he, h]
  exact emit_both _ _ _ _ _ _ _

/-! ## Slots of a ring (R216, R218, R229) -/

/-- The slot that a producer takes: the one kept for it, or the one at the tail of a ring with room. -/
def Takes (r : Ring) (key k : Nat) (kept : Option Nat) : Prop :=
  (mapGet 0 r.granted key = 0 ∧ r.used ≠ r.cnt + 1 ∧ k = r.tail ∧ kept = none) ∨
    (mapGet 0 r.granted key = k + 1 ∧ kept = some k)

/-- The ring after a producer took its slot. -/
def afterTake (key : Nat) (kept : Option Nat) (r : Ring) : Ring :=
  match kept with
  | none => r.reserve
  | some _ => { r with granted := mapSet 0 r.granted key 0 }

theorem takeSlot_of_takes {r : Ring} {key k : Nat} {kept : Option Nat} (h : Takes r key k kept) :
    r.mayReserve key = true ∧ r.takeSlot key = (k, afterTake key kept r) := by
  unfold Ring.mayReserve Ring.takeSlot
  rcases h with ⟨hnone, hroom, rfl, rfl⟩ | ⟨hkept, rfl⟩
  · rw [hnone]
    exact ⟨by simp [Ring.noRoom, hroom], rfl⟩
  · rw [hkept]
    exact ⟨by simp, rfl⟩

/-- A reservation of a defined ring. -/
theorem ringReserve_ok {f : Form} {t key k : Nat} {kept : Option Nat} {u : State}
    (hdef : (u.ring t (modRingNo f)).defined = true) (h : Takes (u.ring t (modRingNo f)) key k kept) :
    ringReserve f t key u = .ok (BitVec.ofNat 64 ((u.ring t (modRingNo f)).addr k),
      u.modRing t (modRingNo f) (afterTake key kept)) := by
  obtain ⟨hmay, htake⟩ := takeSlot_of_takes h
  have hring : (u.modRing t (modRingNo f) fun r => (r.takeSlot key).2) = u.modRing t (modRingNo f) (afterTake key kept) := by
    show u.modTile t _ = u.modTile t _
    have hsame : (((u.tile t).ring (modRingNo f)).takeSlot key).2 = afterTake key kept ((u.tile t).ring (modRingNo f)) :=
      congrArg Prod.snd htake
    simp only [State.modTile, hsame]
  simp only [ringReserve, hdef, hmay, htake, hring, Bool.not_true, Bool.false_eq_true, if_false]

theorem ringReserve_undefined {f : Form} {t key : Nat} {u : State} (hdef : (u.ring t (modRingNo f)).defined = false) :
    ringReserve f t key u = .error fcIllegal := by
  simp [ringReserve, hdef]

/-- A full ring keeps no slot for a producer that was not given one (R229). -/
theorem ringReserve_full {f : Form} {t key : Nat} {u : State} (hdef : (u.ring t (modRingNo f)).defined = true)
    (hnone : mapGet 0 (u.ring t (modRingNo f)).granted key = 0)
    (hfull : (u.ring t (modRingNo f)).used = (u.ring t (modRingNo f)).cnt + 1) : ringReserve f t key u = .error fcRing := by
  simp [ringReserve, hdef, Ring.mayReserve, Ring.noRoom, hnone, hfull]

/-! ## The firings (R228 to R230) -/

theorem exec_ring {f : Form} {s : State} {fr : Firing} (hu : s.unit = .slot fr) :
    exec (.ring f) s = .next (fr.port f (fun s => (ringDefine f fr.tile s).map fun s => (fr.l.value, s)) s) := by
  show execRing f s = _
  rw [execRing, onAll_slot _ _ _ hu]

theorem exec_rsv {f : Form} {s : State} {fr : Firing} {tag : W64} (hu : s.unit = .slot fr) (he : Evaluates fr f s tag)
    {i : Instr} (hi : i ∈ [Instr.rcommitRsv f, .rcommitRsvw f]) :
    exec i s = .next (fr.port f (ringReserve f fr.tile (waitSlot fr.elem fr.slot)) s) := by
  simp only [List.mem_cons, List.not_mem_nil, or_false] at hi
  rcases hi with rfl | rfl
  · show execRcommitRsv f s = _
    rw [execRcommitRsv, onSlot_slot _ hu]
  · obtain ⟨-, -, -, htag⟩ := he
    rw [exec_rcommitRsvw hu]
    exact congrArg _ (if_neg (by simp [htag, Except.toBool]))

/-- `RCOMMIT.TAIL` at its port. -/
def tailOp (f : Form) (t key : Nat) (s : State) : Except Nat (W64 × State) :=
  let r := s.ring t (modRingNo f)
  let k := (r.takeSlot key).1
  match ringReserve f t key s with
  | .error code => .error code
  | .ok (_, s) => .ok (panelValue (r.addr k) 0, s.publish t (modRingNo f) k)

theorem exec_rcommitTail {f : Form} {s : State} {fr : Firing} (hu : s.unit = .slot fr) :
    exec (.rcommitTail f) s = .next (fr.port f (tailOp f fr.tile (waitSlot fr.elem fr.slot)) s) := by
  show execRcommitTail f s = _
  rw [execRcommitTail, onSlot_slot _ hu] <;> rfl

theorem tailOp_error {f : Form} {t key code : Nat} {u : State} (h : ringReserve f t key u = .error code) :
    tailOp f t key u = .error code := by
  unfold tailOp
  rw [h]

theorem tailOp_ok {f : Form} {t key k : Nat} {kept : Option Nat} {u : State}
    (hdef : (u.ring t (modRingNo f)).defined = true) (h : Takes (u.ring t (modRingNo f)) key k kept) :
    tailOp f t key u = .ok (panelValue ((u.ring t (modRingNo f)).addr k) 0,
      (u.modRing t (modRingNo f) (afterTake key kept)).publish t (modRingNo f) k) := by
  unfold tailOp
  dsimp only
  rw [ringReserve_ok hdef h, (takeSlot_of_takes h).2]

/-- `RCOMMIT.PUB` at its port. -/
def pubOp (f : Form) (t : Nat) (l : W64) (s : State) : Except Nat (W64 × State) :=
  let r := s.ring t (modRingNo f)
  match r.slotOf l with
  | none => .error fcIllegal
  | some k => if r.slot k = .filling then .ok (panelValue (r.addr k) 0, s.publish t (modRingNo f) k) else .error fcIllegal

/-- `RPOP` at its port. -/
def popOp (f : Form) (t : Nat) (l : W64) (s : State) : Except Nat (W64 × State) :=
  let r := s.ring t (modRingNo f)
  match r.slotOf l with
  | none => .error fcIllegal
  | some k => if r.slot k = .full then .ok (l, s.modRing t (modRingNo f) fun r => r.retire k) else .error fcIllegal

theorem exec_rcommitPub {f : Form} {s : State} {fr : Firing} (hu : s.unit = .slot fr) :
    exec (.rcommitPub f) s = .next (fr.port f (pubOp f fr.tile fr.l.value) s) := by
  show execRcommitPub f s = _
  rw [execRcommitPub, onSlot_slot _ hu] <;> rfl

theorem exec_rpop {f : Form} {s : State} {fr : Firing} (hu : s.unit = .slot fr) :
    exec (.rpop f) s = .next (fr.port f (popOp f fr.tile fr.l.value) s) := by
  show execRpop f s = _
  rw [execRpop, onSlot_slot _ hu] <;> rfl

/-! ## A reservation that waits (R229) -/

/-- A slot with `RCOMMIT.RSVW` on a full ring that keeps no slot for it is held. -/
theorem rsvwHeld_of_word {s : State} {t e k : Nat} {f : Form} (hm : bitsOf f.mod.toNat 3 2 = 1)
    (hw : (s.slot t e k).word = some (.rcommitRsvw f)) (hdef : (s.ring t (f.mod.toNat % 8)).defined = true)
    (hfull : (s.ring t (f.mod.toNat % 8)).used = (s.ring t (f.mod.toNat % 8)).cnt + 1)
    (hnone : mapGet 0 (s.ring t (f.mod.toNat % 8)).granted (e * 32 + k) = 0) : s.rsvwHeld t e k = true := by
  have hform : (s.slot t e k).form = f := by rw [SlotState.form, hw]; rfl
  have hop : (s.slot t e k).op = 0xA9 := by rw [SlotState.op, hw]; rfl
  have hmay : (s.ring t (modRingNo f)).mayReserve (waitSlot e k) = false := by
    simp only [Ring.mayReserve, Ring.noRoom, modRingNo, waitSlot, hnone, hfull, bne_self_eq_false, beq_self_eq_true,
      Bool.not_true, Bool.or_self]
  have hdef' : (s.ring t (modRingNo f)).defined = true := hdef
  simp only [State.rsvwHeld, hop, hform, hm, hmay, hdef', beq_self_eq_true, Bool.not_false, Bool.and_self]

theorem fits_held {s : State} {t e : Nat} {b : BufTok} {f : Form} (hw : (s.slot t e b.slot).word = some (.rcommitRsvw f))
    (hheld : s.rsvwHeld t e b.slot = true) (hk : b.tok.kind = .data) : s.fits t e b = false := by
  have hop : (s.slot t e b.slot).op = 0xA9 := by rw [SlotState.op, hw]; rfl
  simp [State.fits, hop, hk, hheld]

/-! ## Defining a ring (R228) -/

theorem ringDefine_busy {f : Form} {t : Nat} {u : State} (hdef : (u.ring t (modRingNo f)).defined = true)
    (hused : 0 < (u.ring t (modRingNo f)).used) : ringDefine f t u = .error fcCfgBusy := if_pos ⟨hdef, hused⟩

theorem not_busy {r : Ring} (h : r.defined = false ∨ r.used = 0) : ¬ (r.defined = true ∧ r.used > 0) := by
  rintro ⟨hdef, hused⟩
  rcases h with h | h
  · rw [h] at hdef
    cases hdef
  · omega

theorem ringDefine_undef {f : Form} {t : Nat} {u : State}
    (hidle : (u.ring t (modRingNo f)).defined = false ∨ (u.ring t (modRingNo f)).used = 0) (hm : f.mod.getLsbD 3 = true) :
    ringDefine f t u = .ok (u.modRing t (modRingNo f) fun r => { r with defined := false }) :=
  (if_neg (not_busy hidle)).trans (if_pos hm)

theorem ringDefine_new {f : Form} {t : Nat} {u : State}
    (hidle : (u.ring t (modRingNo f)).defined = false ∨ (u.ring t (modRingNo f)).used = 0) (hm : f.mod.getLsbD 3 = false)
    (hover : (u.tile t).ringOverlap (modRingNo f) (ringOfImm f.imm.toNat).base (ringOfImm f.imm.toNat).size = false) :
    ringDefine f t u = .ok (u.modRing t (modRingNo f) fun _ => ringOfImm f.imm.toNat) :=
  (if_neg (not_busy hidle)).trans ((if_neg (Bool.eq_false_iff.mp hm)).trans (if_neg (Bool.eq_false_iff.mp hover)))

/-! ## The slot that a panel token names (R219) -/

theorem pubOp_slot {f : Form} {t k : Nat} {l : W64} {u : State} (hk : (u.ring t (modRingNo f)).slotOf l = some k) :
    pubOp f t l u = if (u.ring t (modRingNo f)).slot k = .filling then
      .ok (panelValue ((u.ring t (modRingNo f)).addr k) 0, u.publish t (modRingNo f) k) else .error fcIllegal := by
  unfold pubOp
  dsimp only
  rw [hk]
theorem popOp_slot {f : Form} {t k : Nat} {l : W64} {u : State} (hk : (u.ring t (modRingNo f)).slotOf l = some k) :
    popOp f t l u = if (u.ring t (modRingNo f)).slot k = .full then
      .ok (l, u.modRing t (modRingNo f) fun r => r.retire k) else .error fcIllegal := by
  unfold popOp
  dsimp only
  rw [hk]
theorem pubOp_none {f : Form} {t : Nat} {l : W64} {u : State} (hk : (u.ring t (modRingNo f)).slotOf l = none) :
    pubOp f t l u = .error fcIllegal := by
  unfold pubOp
  dsimp only
  rw [hk]
theorem popOp_none {f : Form} {t : Nat} {l : W64} {u : State} (hk : (u.ring t (modRingNo f)).slotOf l = none) :
    popOp f t l u = .error fcIllegal := by
  unfold popOp
  dsimp only
  rw [hk]

/-- Settles O42: each firing is one operation at its port, which replies or fails. -/
theorem ringFirings : Obligations.RingFirings := by
  constructor
  · intro f s fr tag hu he n t u r given failed key addr taken
    refine ⟨fun hidle => ⟨fun hundef => ?_, fun hdef hover => ?_⟩, fun hdef hused => ?_,
      fun k kept hdef htakes => ⟨fun i hi => ?_, ?_⟩, fun hdef hnone hfull => ?_, fun hdef => ?_,
      fun k hk => ⟨fun hs => ?_, fun hs => ?_, fun hs => ?_, fun hs => ?_⟩, fun hk => ?_, ?_⟩
    · rw [exec_ring hu]
      exact congrArg _ (port_ok he (congrArg (Except.map _) (ringDefine_undef hidle hundef)))
    · rw [exec_ring hu]
      exact congrArg _ (port_ok he (congrArg (Except.map _) (ringDefine_new hidle hdef hover)))
    · rw [exec_ring hu]
      exact congrArg _ (port_error he (congrArg (Except.map _) (ringDefine_busy hdef hused)))
    · rw [exec_rsv hu he hi]
      exact congrArg _ (port_ok he (ringReserve_ok hdef htakes))
    · rw [exec_rcommitTail hu]
      exact congrArg _ (port_ok he (tailOp_ok hdef htakes))
    · simp only [List.forall_mem_cons]
      refine ⟨?_, ?_, fun _ h => absurd h List.not_mem_nil⟩
      · rw [exec_rsv hu he (by simp)]
        exact congrArg _ (port_error he (ringReserve_full hdef hnone hfull))
      · rw [exec_rcommitTail hu]
        exact congrArg _ (port_error he (tailOp_error (ringReserve_full hdef hnone hfull)))
    · simp only [List.forall_mem_cons]
      refine ⟨?_, ?_, ?_, fun _ h => absurd h List.not_mem_nil⟩
      · rw [exec_rsv hu he (by simp)]
        exact congrArg _ (port_error he (ringReserve_undefined hdef))
      · rw [exec_rsv hu he (by simp)]
        exact congrArg _ (port_error he (ringReserve_undefined hdef))
      · rw [exec_rcommitTail hu]
        exact congrArg _ (port_error he (tailOp_error (ringReserve_undefined hdef)))
    · rw [exec_rcommitPub hu]
      exact congrArg _ (port_ok he ((pubOp_slot hk).trans (if_pos hs)))
    · rw [exec_rcommitPub hu]
      exact congrArg _ (port_error he ((pubOp_slot hk).trans (if_neg hs)))
    · rw [exec_rpop hu]
      exact congrArg _ (port_ok he ((popOp_slot hk).trans (if_pos hs)))
    · rw [exec_rpop hu]
      exact congrArg _ (port_error he ((popOp_slot hk).trans (if_neg hs)))
    · simp only [List.forall_mem_cons]
      refine ⟨?_, ?_, fun _ h => absurd h List.not_mem_nil⟩
      · rw [exec_rcommitPub hu]
        exact congrArg _ (port_error he (pubOp_none hk))
      · rw [exec_rpop hu]
        exact congrArg _ (port_error he (popOp_none hk))
    · show execRstatRing f s = _
      rw [execRstatRing, onAll_slot _ _ _ hu]
      exact congrArg _ (port_ok he rfl)
  · intro f s t e b c hm held fr
    constructor
    · rintro ⟨hw, hdef, hfull, hnone⟩ hk
      exact fits_held hw (rsvwHeld_of_word hm hw hdef hfull hnone) hk
    · rintro ⟨hw, hdef, hfull, hnone⟩ herr hstop hsup
      obtain ⟨ht, he, hk⟩ := firing_place c t e (s.slot t e c.slot)
      have hform : (s.slot t e c.slot).form = f := by rw [SlotState.form, hw]; rfl
      have hheld := rsvwHeld_of_word hm hw hdef hfull hnone
      have hnone' : (c.firing t e (s.slot t e c.slot)).err? = none := herr
      have hstop' : (c.firing t e (s.slot t e c.slot)).hasStop = false := hstop
      have hsup' : (c.firing t e (s.slot t e c.slot)).suppressed f = false := hsup
      simp only [State.pairFits, State.firingFits, ht, he, hk, hheld, hform, hnone', hstop', hsup', Bool.not_true,
        Bool.false_and, Option.isSome_none, Bool.or_self]

end Sys2Proof.Proofs
end

section
/-! PROOFS. Values of the integer instructions (R53, R75, R76, R134, R137): a lane is a bit vector of its width. -/

namespace Sys2Proof.Proofs

open Sys2Proof Sys2Proof.Machine Sys2Proof.Claims

/-! ## Lanes -/

/-- Lane `k` of lanes that are joined. -/
theorem joinLanes_lane (w : Nat) (ls : List Nat) {k : Nat} (hk : k < ls.length) :
    joinLanes w ls / 2 ^ (w * k) % 2 ^ w = ls[k] % 2 ^ w := by
  induction ls generalizing k with
  | nil => cases hk
  | cons a ls ih =>
    cases k with
    | zero => simp [joinLanes]
    | succ k =>
      have hlow : (a % 2 ^ w + 2 ^ w * joinLanes w ls) / 2 ^ w = joinLanes w ls := by
        rw [Nat.add_mul_div_left _ _ (Nat.two_pow_pos w), Nat.div_eq_of_lt (Nat.mod_lt _ (Nat.two_pow_pos w)), Nat.zero_add]
      rw [joinLanes, Nat.mul_add, Nat.mul_one, Nat.add_comm (w * k), Nat.pow_add, ← Nat.div_div_eq_div_mul, hlow]
      exact ih (Nat.lt_of_succ_lt_succ hk)

theorem joinLanes_lt (w : Nat) (ls : List Nat) : joinLanes w ls < 2 ^ (w * ls.length) := by
  induction ls with
  | nil => exact Nat.one_pos
  | cons a ls ih =>
    have ha : a % 2 ^ w < 2 ^ w := Nat.mod_lt _ (Nat.two_pow_pos w)
    calc joinLanes w (a :: ls) < 2 ^ w * (joinLanes w ls + 1) := by rw [joinLanes, Nat.mul_add]; omega
      _ ≤ 2 ^ w * 2 ^ (w * ls.length) := Nat.mul_le_mul_left _ ih
      _ = 2 ^ (w * (a :: ls).length) := by rw [← Nat.pow_add, List.length_cons, Nat.mul_add, Nat.mul_one, Nat.add_comm]

/-- A lane of a lane-wise result is the operation's value on the lanes of the operands. -/
theorem extract_lanewise {t : Nat} (op : Nat → Nat → Nat → Nat × Flags) (l r c : W64) {k : Nat} (hk : k < typeLanes t)
    (hw : typeWidth t * typeLanes t = 64) :
    (lanewise t op l r c).1.extractLsb' (typeWidth t * k) (typeWidth t) =
      BitVec.ofNat (typeWidth t) (op (lane t l k) (lane t r k) (lane t c k)).1 := by
  apply BitVec.eq_of_toNat_eq
  have hlen : (((List.range (typeLanes t)).map fun k => op (lane t l k) (lane t r k) (lane t c k)).map (·.1)).length
      = typeLanes t := by simp
  have hlt := joinLanes_lt (typeWidth t) (((List.range (typeLanes t)).map fun k =>
    op (lane t l k) (lane t r k) (lane t c k)).map (·.1))
  rw [hlen, hw] at hlt
  rw [BitVec.extractLsb'_toNat, Nat.shiftRight_eq_div_pow, lanewise, packLanes, BitVec.toNat_ofNat, Nat.mod_eq_of_lt hlt,
    joinLanes_lane _ _ (by rw [hlen]; exact hk), BitVec.toNat_ofNat]
  simp

/-- A result of one lane. -/
theorem lanewise_one {t : Nat} (op : Nat → Nat → Nat → Nat × Flags) (l r c : W64) (h : typeLanes t = 1) :
    lanewise t op l r c = (BitVec.ofNat 64 ((op (lane t l 0) (lane t r 0) (lane t c 0)).1 % 2 ^ typeWidth t),
      (op (lane t l 0) (lane t r 0) (lane t c 0)).2) := by
  simp [lanewise, packLanes, h, joinLanes]

theorem lane_zero (t : Nat) (v : W64) : lane t v 0 = v.toNat % 2 ^ typeWidth t := by
  simp [lane, bitsOf]

theorem ofNat_lane (t : Nat) (v : W64) (k : Nat) :
    BitVec.ofNat (typeWidth t) (lane t v k) = v.extractLsb' (typeWidth t * k) (typeWidth t) := by
  rw [lane, bitsOf_toNat, BitVec.ofNat_toNat, BitVec.setWidth_eq]

/-! ## Integers of a width (R75, R76) -/

theorem wrapInt_eq (w : Nat) (x : Int) : wrapInt w x = (BitVec.ofInt w x).toNat := by
  rw [wrapInt, BitVec.toNat_ofInt]
  norm_num

theorem toSigned_eq (w v : Nat) : toSigned w v = (BitVec.ofNat w v).toInt := by
  rw [toSigned, BitVec.toInt_eq_toNat_cond, BitVec.toNat_ofNat]
  cases w with
  | zero => simp [Nat.mod_one]
  | succ w =>
    have hhalf : v % 2 ^ (w + 1) < 2 ^ w ↔ 2 * (v % 2 ^ (w + 1)) < 2 ^ (w + 1) := by
      rw [Nat.pow_succ]
      omega
    simp only [Nat.add_one_ne_zero, if_false, Nat.add_sub_cancel, hhalf]
    norm_num

/-- A lane's value, as signed or as unsigned, has the lane's bits. -/
theorem ofInt_readInt (g : IntFmt) (v : Nat) : BitVec.ofInt g.width (readInt g v) = BitVec.ofNat g.width v := by
  unfold readInt
  split
  · rw [toSigned_eq, BitVec.ofInt_toInt]
  · rw [BitVec.ofInt_natCast]
    apply BitVec.eq_of_toNat_eq
    rw [BitVec.toNat_ofNat, BitVec.toNat_ofNat, Nat.mod_mod]

theorem bringInt_wraps (g : IntFmt) (v : Int) : bringInt g false v = (wrapInt g.width v, 0) := rfl

/-- An operation on integers that bit vectors of the width have too. -/
def Wraps (op : Int → Int → Int → Int) (bop : ∀ {w : Nat}, BitVec w → BitVec w → BitVec w → BitVec w) : Prop :=
  ∀ (w : Nat) (a b c : Int), BitVec.ofInt w (op a b c) = bop (BitVec.ofInt w a) (BitVec.ofInt w b) (BitVec.ofInt w c)

theorem wraps_add : Wraps (fun a b _ => a + b) (fun x y _ => x + y) := fun _ a b _ => BitVec.ofInt_add a b
theorem wraps_sub : Wraps (fun a b _ => a - b) (fun x y _ => x - y) := fun w a b _ => by
  show BitVec.ofInt w (a - b) = BitVec.ofInt w a - BitVec.ofInt w b
  rw [Int.sub_eq_add_neg, BitVec.ofInt_add, BitVec.ofInt_neg, BitVec.sub_eq_add_neg]
theorem wraps_mul : Wraps (fun a b _ => a * b) (fun x y _ => x * y) := fun _ a b _ => BitVec.ofInt_mul a b
theorem wraps_neg : Wraps (fun a _ _ => -a) (fun x _ _ => -x) := fun _ _ _ _ => BitVec.ofInt_neg
theorem wraps_mad : Wraps (fun a b c => a * b + c) (fun x y z => x * y + z) := fun _ a b c => by
  rw [BitVec.ofInt_add, BitVec.ofInt_mul]

section wrapping
variable {f : Form} {op : Int → Int → Int → Int} {bop : ∀ {w : Nat}, BitVec w → BitVec w → BitVec w → BitVec w}
  (hop : Wraps op bop) (hsat : satOf f = false) (l r c : W64)
include hop hsat

/-- A wrapping operation of one lane, on the low bits of its operands. -/
theorem intOp_one (h : typeLanes (typeOf f) = 1) :
    intOp f op l r c = (BitVec.ofNat 64 (bop (BitVec.ofNat (typeWidth (typeOf f)) l.toNat)
      (BitVec.ofNat (typeWidth (typeOf f)) r.toNat) (BitVec.ofNat (typeWidth (typeOf f)) c.toNat)).toNat, 0) := by
  have hlane : ∀ v : W64, BitVec.ofInt (typeWidth (typeOf f)) (readInt (typeInt (typeOf f)) (lane (typeOf f) v 0)) =
      BitVec.ofNat (typeWidth (typeOf f)) v.toNat := fun v => by
    rw [show typeWidth (typeOf f) = (typeInt (typeOf f)).width from rfl, ofInt_readInt, lane_zero]
    apply BitVec.eq_of_toNat_eq
    rw [BitVec.toNat_ofNat, BitVec.toNat_ofNat]
    exact Nat.mod_mod _ _
  rw [intOp, lanewise_one _ _ _ _ h]
  simp only [hsat, bringInt_wraps]
  rw [show (typeInt (typeOf f)).width = typeWidth (typeOf f) from rfl, wrapInt_eq, hop, hlane, hlane, hlane,
    Nat.mod_eq_of_lt (BitVec.isLt _)]

/-- A wrapping operation of packed lanes. -/
theorem intOp_lane {k : Nat} (hk : k < typeLanes (typeOf f)) (hw : typeWidth (typeOf f) * typeLanes (typeOf f) = 64) :
    (intOp f op l r c).1.extractLsb' (typeWidth (typeOf f) * k) (typeWidth (typeOf f)) =
      bop (l.extractLsb' (typeWidth (typeOf f) * k) (typeWidth (typeOf f)))
        (r.extractLsb' (typeWidth (typeOf f) * k) (typeWidth (typeOf f)))
        (c.extractLsb' (typeWidth (typeOf f) * k) (typeWidth (typeOf f))) := by
  have hlane : ∀ v : W64, BitVec.ofInt (typeWidth (typeOf f)) (readInt (typeInt (typeOf f)) (lane (typeOf f) v k)) =
      v.extractLsb' (typeWidth (typeOf f) * k) (typeWidth (typeOf f)) := fun v => by
    rw [show typeWidth (typeOf f) = (typeInt (typeOf f)).width from rfl, ofInt_readInt]
    exact ofNat_lane _ _ _
  rw [intOp, extract_lanewise _ _ _ _ hk hw]
  simp only [hsat, bringInt_wraps]
  rw [show (typeInt (typeOf f)).width = typeWidth (typeOf f) from rfl, wrapInt_eq, hop, hlane, hlane, hlane,
    BitVec.ofNat_toNat, BitVec.setWidth_eq]

end wrapping

/-! ## The statement -/

/-- A wrapping operation on whole values of 64 bits. -/
theorem intOp_64 {f : Form} {op : Int → Int → Int → Int} {bop : ∀ {w : Nat}, BitVec w → BitVec w → BitVec w → BitVec w}
    (hop : Wraps op bop) (h : f.mod = 16 ∨ f.mod = 24) (l r c : W64) : intOp f op l r c = (bop l r c, 0) := by
  have hf : satOf f = false ∧ typeLanes (typeOf f) = 1 ∧ typeWidth (typeOf f) = 64 := by
    simp only [satOf, lowOf, typeOf]
    rcases h with h | h <;> rw [h] <;> decide
  obtain ⟨hsat, hone, hw⟩ := hf
  rw [intOp_one hop hsat l r c hone, hw]
  simp only [BitVec.ofNat_toNat, BitVec.setWidth_eq]

/-- A wrapping operation on whole values of 32 bits. -/
theorem intOp_32 {f : Form} {op : Int → Int → Int → Int} {bop : ∀ {w : Nat}, BitVec w → BitVec w → BitVec w → BitVec w}
    (hop : Wraps op bop) (h : f.mod = 0 ∨ f.mod = 8) (l r c : W64) :
    intOp f op l r c = ((bop (l.setWidth 32) (r.setWidth 32) (c.setWidth 32)).setWidth 64, 0) := by
  have hf : satOf f = false ∧ typeLanes (typeOf f) = 1 ∧ typeWidth (typeOf f) = 32 := by
    simp only [satOf, lowOf, typeOf]
    rcases h with h | h <;> rw [h] <;> decide
  obtain ⟨hsat, hone, hw⟩ := hf
  rw [intOp_one hop hsat l r c hone, hw]
  simp only [BitVec.ofNat_toNat]

theorem low32_eq (v : W64) : v &&& 0xFFFFFFFF = (v.setWidth 32).setWidth 64 := by
  apply BitVec.eq_of_toNat_eq
  rw [BitVec.toNat_and, BitVec.toNat_setWidth, BitVec.toNat_setWidth, show (0xFFFFFFFF : W64).toNat = 2 ^ 32 - 1 from rfl,
    Nat.and_two_pow_sub_one_eq_mod]
  omega

theorem setWidth_sub_low {w n : Nat} (x y : BitVec w) (h : n ≤ w) : (x - y).setWidth n = x.setWidth n - y.setWidth n := by
  rw [BitVec.sub_eq_add_neg, BitVec.setWidth_add _ _ h, BitVec.setWidth_neg_of_le h, ← BitVec.sub_eq_add_neg]

/-! ## Saturation (R76) -/

/-- The nearest value of the signed format of 64 bits. -/
theorem satInt_64 (v : Int) : (satInt ⟨64, true⟩ v).1 = max (-2 ^ 63) (min (2 ^ 63 - 1) v) ∧
    (satInt ⟨64, true⟩ v).2 = if -2 ^ 63 ≤ v ∧ v < 2 ^ 63 then 0 else flagOF := by
  simp only [satInt, IntFmt.max, IntFmt.min, if_true]
  norm_num
  split_ifs <;> first | omega | exact ⟨by omega, rfl⟩

theorem toInt_ofInt_64 {v : Int} (hlo : -2 ^ 63 ≤ v) (hhi : v < 2 ^ 63) : (BitVec.ofInt 64 v).toInt = v := by
  rw [BitVec.toInt_ofInt, Int.bmod_eq_of_le (by omega) (by omega)]

theorem add_toInt_iff (l r : W64) :
    (l + r).toInt = l.toInt + r.toInt ↔ -2 ^ 63 ≤ l.toInt + r.toInt ∧ l.toInt + r.toInt < 2 ^ 63 := by
  constructor
  · intro h
    rw [← h]
    exact ⟨BitVec.le_toInt _, BitVec.toInt_lt⟩
  · rintro ⟨hlo, hhi⟩
    rw [BitVec.toInt_add, Int.bmod_eq_of_le (by omega) (by omega)]

/-- Saturating addition of signed values of 64 bits, before it is written as bits. -/
theorem addValue_saturates {f : Form} (h : f.mod = 20) (l r c : W64) :
    addValue f l r c = (BitVec.ofInt 64 (satInt ⟨64, true⟩ (l.toInt + r.toInt)).1,
      (satInt ⟨64, true⟩ (l.toInt + r.toInt)).2) := by
  have ht : typeOf f = 2 := by rw [typeOf, h]; rfl
  have hsat : satOf f = true := by rw [satOf, lowOf, h]; rfl
  have hread : ∀ v : W64, readInt ⟨64, true⟩ (lane 2 v 0) = v.toInt := fun v => by
    show toSigned 64 (lane 2 v 0) = v.toInt
    rw [toSigned_eq, lane_zero]
    congr 1
    apply BitVec.eq_of_toNat_eq
    rw [BitVec.toNat_ofNat]
    exact (Nat.mod_mod _ _).trans (Nat.mod_eq_of_lt v.isLt)
  rw [addValue, intOp, ht, lanewise_one _ _ _ _ rfl]
  simp only [hsat, bringInt, if_true, show typeInt 2 = ⟨64, true⟩ from rfl, hread, wrapInt_eq]
  rw [show typeWidth 2 = 64 from rfl, Nat.mod_eq_of_lt (BitVec.isLt _), BitVec.ofNat_toNat, BitVec.setWidth_eq]

/-! ## Shifts and rotation of 64 bits (R137) -/

/-- A bit operation on whole bit strings of 64 bits. -/
theorem bitOp_64 {f : Form} (h : f.mod = 32) (op : Nat → Nat → Nat → Nat) (l r : W64) :
    bitOp f op l r = (BitVec.ofNat 64 (op 64 l.toNat (r.toNat % 256)), 0) := by
  have ht : typeOf f = 4 := by rw [typeOf, h]; rfl
  have hl : lanes 4 l = [l.toNat] := by
    show [lane 4 l 0] = _
    rw [lane_zero, show typeWidth 4 = 64 from rfl, Nat.mod_eq_of_lt l.isLt]
  simp only [bitOp, ht, hl, show typeWidth 4 = 64 from rfl, List.map_cons, List.map_nil, packLanes, joinLanes, List.foldl_cons,
    List.foldl_nil, Nat.mul_zero, Nat.add_zero, Nat.mod_mod, Prod.mk.injEq]
  exact ⟨by rw [← BitVec.toNat_inj, BitVec.toNat_ofNat, BitVec.toNat_ofNat, Nat.mod_mod], rfl⟩

theorem shlValue_64 {f : Form} (h : f.mod = 32) (l r c : W64) : shlValue f l r c = (l <<< (r.toNat % 256), 0) := by
  have hbits : BitVec.ofNat 64 (l.toNat * 2 ^ (r.toNat % 256)) = l <<< (r.toNat % 256) := by
    apply BitVec.eq_of_toNat_eq
    rw [BitVec.toNat_ofNat, BitVec.toNat_shiftLeft, Nat.shiftLeft_eq]
  rw [shlValue, bitOp_64 h, hbits]

theorem shrValue_64 {f : Form} (h : f.mod = 32) (l r c : W64) : shrValue f l r c = (l >>> (r.toNat % 256), 0) := by
  have hbits : BitVec.ofNat 64 (l.toNat / 2 ^ (r.toNat % 256)) = l >>> (r.toNat % 256) := by
    rw [← Nat.shiftRight_eq_div_pow, ← BitVec.toNat_ushiftRight, BitVec.ofNat_toNat, BitVec.setWidth_eq]
  rw [shrValue, bitOp_64 h, hbits]

theorem sarValue_64 {f : Form} (h : f.mod = 32) (l r c : W64) : sarValue f l r c = (l.sshiftRight (r.toNat % 256), 0) := by
  have hbits : wrapInt 64 (toSigned 64 l.toNat / 2 ^ (r.toNat % 256)) = (l.sshiftRight (r.toNat % 256)).toNat := by
    have hdiv : l.toInt / 2 ^ (r.toNat % 256) = (l.sshiftRight (r.toNat % 256)).toInt := by
      rw [BitVec.toInt_sshiftRight, Int.shiftRight_eq_div_pow]
      norm_num
    rw [toSigned_eq, BitVec.ofNat_toNat, BitVec.setWidth_eq, hdiv, wrapInt_eq, BitVec.ofInt_toInt]
  rw [sarValue, bitOp_64 h, hbits, BitVec.ofNat_toNat, BitVec.setWidth_eq]

theorem rotValue_64 {f : Form} (h : f.mod = 32) (l r c : W64) :
    rotValue f l r c = (l.rotateLeft (r.toNat % 256 % 64), 0) := by
  have hbits : BitVec.ofNat 64 (l.toNat * 2 ^ (r.toNat % 256 % 64) ||| l.toNat / 2 ^ (64 - r.toNat % 256 % 64)) =
      l.rotateLeft (r.toNat % 256 % 64) := by
    rw [BitVec.rotateLeft_def, Nat.mod_mod]
    apply BitVec.eq_of_toNat_eq
    rw [BitVec.toNat_ofNat, BitVec.toNat_or, BitVec.toNat_shiftLeft, BitVec.toNat_ushiftRight, Nat.or_mod_two_pow,
      Nat.shiftLeft_eq, Nat.shiftRight_eq_div_pow,
      Nat.mod_eq_of_lt (Nat.lt_of_le_of_lt (Nat.div_le_self l.toNat _) l.isLt)]
  rw [rotValue, bitOp_64 h, hbits]

/-- Settles O60. -/
theorem integerValues : Obligations.IntegerValues := by
  intro f l r c n
  refine ⟨fun h => ⟨?_, ?_, ?_, ?_, ?_⟩, fun h => ⟨?_, ?_, ?_⟩, fun h k hk => ?_, fun h k hk => ?_, fun h => ?_, fun h => ?_⟩
  · exact intOp_64 wraps_add h l r c
  · exact intOp_64 wraps_sub h l r c
  · exact intOp_64 wraps_mul h l r c
  · exact intOp_64 wraps_mad h l r c
  · exact intOp_64 wraps_neg h l r c
  · rw [low32_eq, BitVec.setWidth_add _ _ (by decide)]
    exact intOp_32 wraps_add h l r c
  · rw [low32_eq, setWidth_sub_low _ _ (by decide)]
    exact intOp_32 wraps_sub h l r c
  · rw [low32_eq, BitVec.setWidth_mul _ _ (by decide)]
    exact intOp_32 wraps_mul h l r c
  · have hf : satOf f = false ∧ typeLanes (typeOf f) = 4 ∧ typeWidth (typeOf f) = 16 := by
      simp only [satOf, lowOf, typeOf]
      rcases h with h | h <;> rw [h] <;> decide
    obtain ⟨hsat, hlanes, hw⟩ := hf
    have hadd := intOp_lane wraps_add hsat l r c (k := k) (by rw [hlanes]; exact hk) (by rw [hlanes, hw])
    have hmul := intOp_lane wraps_mul hsat l r c (k := k) (by rw [hlanes]; exact hk) (by rw [hlanes, hw])
    rw [hw] at hadd hmul
    exact ⟨hadd, hmul⟩
  · have hf : satOf f = false ∧ typeLanes (typeOf f) = 8 ∧ typeWidth (typeOf f) = 8 := by
      simp only [satOf, lowOf, typeOf]
      rcases h with h | h <;> rw [h] <;> decide
    obtain ⟨hsat, hlanes, hw⟩ := hf
    have hsub := intOp_lane wraps_sub hsat l r c (k := k) (by rw [hlanes]; exact hk) (by rw [hlanes, hw])
    rw [hw] at hsub
    exact hsub
  · obtain ⟨hval, hflag⟩ := satInt_64 (l.toInt + r.toInt)
    rw [addValue_saturates h, hval, hflag]
    refine ⟨toInt_ofInt_64 (by omega) (by omega), ?_⟩
    simp only [add_toInt_iff]
  · exact ⟨shlValue_64 h l r c, shrValue_64 h l r c, sarValue_64 h l r c, rotValue_64 h l r c⟩

end Sys2Proof.Proofs
end

section
/-! PROOFS. Memory words and command words of a drover core (R123, R175, R186 to R194, R197 to R230). -/

namespace Sys2Proof.Proofs

open Sys2Proof Sys2Proof.Machine Sys2Proof.Claims

/-! ## Accesses of a core (R175, R186) -/

theorem coreAct_fault_eq {α : Type} {s : State} {n : Nat} {m : Act α} {code : Nat} {val aux : Option W64}
    (k : α → State → State) (h : m s = .error (.fault code val aux)) : s.coreAct n m k = wordFaults s n code val aux := by
  rw [State.coreAct_fault k h, enterHandler_eq_wordFaults]
theorem coreAct_absent_eq {α : Type} {s : State} {n : Nat} {m : Act α} {va : Nat} (k : α → State → State)
    (h : m s = .error (.absent va)) : s.coreAct n m k = wordFaults s n 0x01 (some (BitVec.ofNat 64 va)) none := by
  rw [State.coreAct_absent k h, enterHandler_eq_wordFaults]
  rfl
theorem coreAct_error_eq {α : Type} {s : State} {n : Nat} {m : Act α} {code : Nat} (k : α → State → State)
    (h : m s = .error (.error code)) : s.coreAct n m k = wordFaults s n code none none := by
  rw [← enterHandler_eq_wordFaults]
  simp only [State.coreAct, h]

/-- The address of a core's access. -/
def accessAddress (i : Instr) (a : W64) : Nat := alignTo (accessWidth i) (withOffset (formOf i) a).toNat

/-- What an access that must wait, or meets an uncorrectable line, gives (R388, R395, R410). -/
theorem serves_cases (s : State) (a : Agent) (p : Page) (va : Nat) (rd : Bool) :
    s.serves a p va rd = .error .wait ∨ s.serves a p va rd = .error (.fault fcMem (some (BitVec.ofNat 64 va)) none) ∨
      s.serves a p va rd = .ok () := by
  unfold State.serves
  split
  · exact .inl rfl
  · split
    · exact .inr (.inl rfl)
    · exact .inr (.inr rfl)

/-- What keeps an access to a page from being performed, or its performance (R175, R386, R388, R395). -/
def accessServed (s : State) (n : Nat) (i : Instr) (va : Nat) (p : Page) (done : State) : State :=
  if Config.spoiled s.tick = true then wordFaults s n 0x31 (some (BitVec.ofNat 64 va)) none
  else match s.serves (agentD n) p va (readsMemory i) with
    | .error .wait => s
    | .error _ => wordFaults s n 0x31 (some (BitVec.ofNat 64 va)) none
    | .ok _ => done

/-- An access to a page that is there and allows it. -/
theorem coreAct_access {s : State} {n : Nat} {i : Instr} {a r k : W64} {p : Page} (cont : W64 → State → State)
    (hp : translate s (s.core n).context (accessAddress i a) (readsMemory i) (writesMemory i) = .ok p) :
    s.coreAct n (coreAccess n i a r k) cont = accessServed s n i (accessAddress i a) p
      (if writesMemory i = true ∧ bitOf p.e 7 = true then s
        else cont (accessPage (agentD n) (s.core n).context p (accessAddress i a) i r k s).1
          (accessPage (agentD n) (s.core n).context p (accessAddress i a) i r k s).2) := by
  unfold accessAddress at hp ⊢
  unfold accessServed
  by_cases hspoilt : Config.spoiled s.tick = true
  · rw [if_pos hspoilt]
    refine coreAct_fault_eq cont ?_
    simp only [coreAccess, hp, hspoilt, if_true]
    rfl
  · rw [if_neg hspoilt]
    rcases serves_cases s (agentD n) p (alignTo (accessWidth i) (withOffset (formOf i) a).toNat) (readsMemory i) with h | h | h
    · rw [h]
      refine State.coreAct_wait cont ?_
      simp only [coreAccess, hp, hspoilt, h, Bool.false_eq_true, if_false]
    · rw [h]
      refine coreAct_fault_eq cont ?_
      simp only [coreAccess, hp, hspoilt, h, Bool.false_eq_true, if_false]
      rfl
    · rw [h]
      by_cases hmig : writesMemory i = true ∧ bitOf p.e 7 = true
      · rw [if_pos hmig]
        refine State.coreAct_wait cont ?_
        simp only [coreAccess, hp, hspoilt, h, Bool.false_eq_true, if_false, if_pos hmig]
      · rw [if_neg hmig]
        refine State.coreAct_ok cont ?_
        simp only [coreAccess, hp, hspoilt, h, Bool.false_eq_true, if_false, if_neg hmig]

/-- An access whose translation stops, stops so. -/
theorem coreAccess_stops {s : State} {n : Nat} {i : Instr} {a : W64} (r k : W64) {e : Stop}
    (hp : translate s (s.core n).context (accessAddress i a) (readsMemory i) (writesMemory i) = .error e) :
    coreAccess n i a r k s = .error e := by
  unfold accessAddress at hp
  simp only [coreAccess, hp]

/-- An access to a page that is there does not find it absent. -/
theorem coreAccess_ne_absent {s : State} {n : Nat} {i : Instr} {a r k : W64} {p : Page}
    (hp : translate s (s.core n).context (accessAddress i a) (readsMemory i) (writesMemory i) = .ok p) (va : Nat) :
    coreAccess n i a r k s ≠ .error (.absent va) := by
  unfold accessAddress at hp
  simp only [coreAccess, hp]
  split
  · exact nofun
  · rcases serves_cases s (agentD n) p (alignTo (accessWidth i) (withOffset (formOf i) a).toNat) (readsMemory i) with h | h | h
    · rw [h]
      exact nofun
    · rw [h]
      exact nofun
    · rw [h]
      dsimp only
      split
      · exact nofun
      · exact nofun

/-! ## Memory words (R186 to R194, R214) -/

theorem exec_st {f : Form} {s : State} {n : Nat} (hu : s.unit = .core n) :
    exec (.st f) s = .next (s.coreAct n (coreAccess n (.st f) (xaOf s n f)
      (if f.immp = 2 then widenPort 0x81 f else xbOf s n f) 0) fun _ s => s.coreDone n) := by
  show execSt f s = _
  rw [execSt, onBoth_core _ _ hu]
  rfl

theorem exec_atom {f : Form} {s : State} {n : Nat} (hu : s.unit = .core n) :
    exec (.atom f) s = .next (s.coreAct n (coreAccess n (.atom f) (xaOf s n f)
      (if f.immp = 2 then widenPort 0x89 f else xbOf s n f) (if f.immp = 3 then widenPort 0x89 f else xcOf s n f))
      fun v s => s.coreResult n f v) := by
  show execAtom f s = _
  rw [execAtom, onAll_core _ _ _ hu]
  rfl

/-- `LD` but for `LD.SPEC` of an absent page. -/
theorem exec_ld {f : Form} {s : State} {n : Nat} (hu : s.unit = .core n)
    (h : bitsOf f.mod.toNat 3 2 ≠ 1 ∨ ∀ va, coreAccess n (.ld f) (xaOf s n f) 0 0 s ≠ .error (.absent va)) :
    exec (.ld f) s = .next (s.coreAct n (coreAccess n (.ld f) (xaOf s n f) 0 0) fun v s => s.coreResult n f v) := by
  show execLd f s = _
  rw [execLd, onBoth_core _ _ hu]
  unfold xaOf at h ⊢
  dsimp only
  congr 1
  split
  · rename_i va habs
    rcases h with h | h
    · exact if_neg h
    · exact absurd habs (h va)
  · rfl

/-- `LD.SPEC` of an absent page counts a drop (log 35). -/
theorem exec_ld_spec {f : Form} {s : State} {n va : Nat} (hu : s.unit = .core n) (hm : bitsOf f.mod.toNat 3 2 = 1)
    (h : coreAccess n (.ld f) (xaOf s n f) 0 0 s = .error (.absent va)) :
    exec (.ld f) s = .next ((s.countDrop (s.core n).context).coreResult n f 1) := by
  show execLd f s = _
  rw [execLd, onBoth_core _ _ hu]
  unfold xaOf at h
  simp only [h, hm, if_true]

/-- `LD`, `ST` and `ATOM` are accesses of the core, but `LD.SPEC` of an absent page. -/
theorem exec_coreAccess {f : Form} {s : State} {n : Nat} (hu : s.unit = .core n) {i : Instr} {rd wr : Bool}
    (hi : (i, rd, wr) ∈ [(Instr.ld f, true, false), (.st f, false, true), (.atom f, true, true)])
    (h : i = .ld f → bitsOf f.mod.toNat 3 2 ≠ 1 ∨ ∀ va, coreAccess n (.ld f) (xaOf s n f) 0 0 s ≠ .error (.absent va)) :
    ∃ r k cont, exec i s = .next (s.coreAct n (coreAccess n i (xaOf s n f) r k) cont) := by
  simp only [List.mem_cons, Prod.mk.injEq, List.not_mem_nil, or_false] at hi
  rcases hi with ⟨rfl, rfl, rfl⟩ | ⟨rfl, rfl, rfl⟩ | ⟨rfl, rfl, rfl⟩
  · exact ⟨_, _, _, exec_ld hu (h rfl)⟩
  · exact ⟨_, _, _, exec_st hu⟩
  · exact ⟨_, _, _, exec_atom hu⟩

/-- The form and the directions of the three. -/
theorem access_row {f : Form} {i : Instr} {rd wr : Bool}
    (hi : (i, rd, wr) ∈ [(Instr.ld f, true, false), (.st f, false, true), (.atom f, true, true)]) :
    formOf i = f ∧ readsMemory i = rd ∧ writesMemory i = wr := by
  simp only [List.mem_cons, Prod.mk.injEq, List.not_mem_nil, or_false] at hi
  rcases hi with ⟨rfl, rfl, rfl⟩ | ⟨rfl, rfl, rfl⟩ | ⟨rfl, rfl, rfl⟩ <;> exact ⟨rfl, rfl, rfl⟩

theorem xfenceDone_nothing {s : State} (m : MemReq) (hr : s.reqs = []) (hun : s.unserved = []) (hl : s.late = []) (k : Nat) :
    s.xfenceDone k m = true := by
  simp [State.xfenceDone, hr, hun, hl]

/-- Settles O22: the words that touch only the core are evaluated; an access is served or stops as its translation does. -/
theorem coreMemoryWords : Obligations.CoreMemoryWords := by
  constructor
  · intro f s n hu c r
    refine ⟨?_, ?_, ?_, fun hc => ?_, fun hr hun hl => ?_⟩
    · show execLds f s = _
      rw [execLds, onAll_core _ _ _ hu, coreResult_eq_wordDone]
      rfl
    · show execSts f s = _
      rw [execSts, onAll_core _ _ _ hu]
      rfl
    · show execFence f s = _
      rw [execFence, onBoth_core _ _ hu, coreResult_eq_wordDone]
      rfl
    · show execSbar f s = _
      rw [execSbar, onCore_core _ hu]
      exact congrArg _ (if_pos (by rw [hc]; rfl))
    · have hexec : exec (.xfence f) s = .next ((xfenceOf f (s.core n).context (16384 + n) s).coreResult n f (xaOf s n f)) := by
        show execXfence f s = _
        rw [execXfence, onBoth_core _ _ hu]
        exact congrArg _ (if_pos (xfenceDone_nothing _ hr hun hl _))
      refine ⟨_, hexec, ?_, rfl, rfl⟩
      rw [coreResult_eq_wordDone]
      rfl
  · intro f s n hu c va r k spec served ld atom
    have hstop : ∀ {i : Instr} {rd wr : Bool} (r k : W64) {e : Stop},
        (i, rd, wr) ∈ [(Instr.ld f, true, false), (.st f, false, true), (.atom f, true, true)] →
        translate s c (va i) rd wr = .error e → coreAccess n i (xaOf s n f) r k s = .error e := by
      intro i rd wr r' k' e hi h
      obtain ⟨hf, rfl, rfl⟩ := access_row hi
      refine coreAccess_stops r' k' ?_
      unfold accessAddress
      rw [hf]
      exact h
    refine ⟨fun p hp => ?_, fun p hp => ?_, fun p hp => ?_, fun a ha hm => ?_, fun i rd wr hi => ⟨fun a ha hm => ?_,
      fun code val aux ha => ?_, fun code ha => ?_⟩⟩
    · rw [exec_ld hu (.inr (coreAccess_ne_absent (i := .ld f) hp))]
      refine congrArg _ ((coreAct_access _ hp).trans (congrArg (accessServed s n (.ld f) _ p) (if_neg ?_)))
      exact fun h => Bool.false_ne_true h.1
    · rw [exec_st hu]
      exact congrArg _ ((coreAct_access _ hp).trans (congrArg (accessServed s n (.st f) _ p)
        (if_congr (and_iff_right rfl) rfl rfl)))
    · rw [exec_atom hu]
      exact congrArg _ ((coreAct_access _ hp).trans (congrArg (accessServed s n (.atom f) _ p)
        (if_congr (and_iff_right rfl) rfl rfl)))
    · exact exec_ld_spec hu hm (coreAccess_stops (i := .ld f) 0 0 ha)
    · obtain ⟨r, k, cont, hx⟩ := exec_coreAccess hu hi fun h => .inl (hm.resolve_left fun hn => hn h)
      rw [hx]
      exact congrArg _ (coreAct_absent_eq cont (hstop r k hi ha))
    · obtain ⟨r, k, cont, hx⟩ := exec_coreAccess hu hi fun h => .inr fun va hva => by
        subst h
        exact Stop.noConfusion (Except.error.inj ((hstop 0 0 hi ha).symm.trans hva))
      rw [hx]
      exact congrArg _ (coreAct_fault_eq cont (hstop r k hi ha))
    · obtain ⟨r, k, cont, hx⟩ := exec_coreAccess hu hi fun h => .inr fun va hva => by
        subst h
        exact Stop.noConfusion (Except.error.inj ((hstop 0 0 hi ha).symm.trans hva))
      rw [hx]
      exact congrArg _ (coreAct_error_eq cont (hstop r k hi ha))

end Sys2Proof.Proofs
end

section
/-! PROOFS. Command words of streams and of the matrix engine (R123, R197, R212, R213, R227, R230). -/

namespace Sys2Proof.Proofs

open Sys2Proof Sys2Proof.Machine Sys2Proof.Claims

/-! ## Two writes of one entry -/

theorem mapPut_mapPut {α : Type} (m : FMap α) (i : Nat) (v w : α) : mapPut i w (mapPut i v m) = mapPut i w m := by
  induction m with
  | nil => simp [mapPut]
  | cons kv m ih =>
    by_cases h : i = kv.1
    · simp [mapPut, h]
    · by_cases hlt : i < kv.1
      · simp [mapPut, h, hlt]
      · simp [mapPut, h, hlt, ih]

theorem mapSet_mapSet {α : Type} [DecidableEq α] {d v w : α} (m : FMap α) (i : Nat) (hv : v ≠ d) (hw : w ≠ d) :
    mapSet d (mapSet d m i v) i w = mapSet d m i w := by
  simp only [mapSet, hv, hw, if_false, mapPut_mapPut]

theorem setCore_setCore (s : State) (n : Nat) {c d : Core} (hc : c ≠ {}) (hd : d ≠ {}) :
    (s.setCore n c).setCore n d = s.setCore n d := by
  show ({ s with cores := mapSet {} (mapSet {} s.cores n c) n d } : State) = _
  rw [mapSet_mapSet _ _ hc hd]
  rfl

/-! ## The scoreboard (R123) -/

theorem ne_default_of_cmds {c : Core} (h : c.cmds ≠ []) : c ≠ {} := by
  rintro rfl
  exact h rfl

/-- A command enters a scoreboard with room. -/
theorem command_queued {s : State} {n : Nat} (port : Nat) (r : Req) (h : (s.core n).cmds.length < 32) :
    s.command n port r = commandQueued s n port r := by
  have hne : (s.core n).cmds ++ [({ req := r, port := port } : Cmd)] ≠ [] := List.append_ne_nil_of_right_ne_nil _ (by simp)
  rw [State.command_room port r h, State.coreDone_eq, core_setCore (ne_default_of_cmds hne),
    setCore_setCore s n (ne_default_of_cmds hne) (ne_default_of_cmds hne)]
  rfl

/-! ## The waybill (R212) -/

/-- A read of data memory that does not run past its top. -/
theorem dmemRead_eq (c : Core) {a n : Nat} (h : a + n ≤ 2 ^ 16) :
    dmemRead c a n = (List.range n).map fun i => mapGet 0 c.dmem (a + i) := by
  refine List.map_congr_left fun i hi => ?_
  rw [Nat.mod_eq_of_lt (by have := List.mem_range.mp hi; omega)]

section Commands
variable {s : State} {n t : Nat} {i : Instr}

theorem coreOpen_queued (hroom : (s.core n).cmds.length < 32) (ht : s.commandTile n ((formOf i).imm.toNat % 1024) = some t)
    (hfit : (xaOf s n (formOf i)).toNat % 2 ^ 16 + 64 ≤ 2 ^ 16)
    (hck : (waybillOf ((List.range 64).map fun k => mapGet 0 (s.core n).dmem ((xaOf s n (formOf i)).toNat % 2 ^ 16 + k))).check
      (opcodeOf i) (s.tile t) (xcOf s n (formOf i)) = 0) :
    coreOpen i n s = commandQueued s n (engineKey (.stream t ((formOf i).mod.toNat % 8)))
      (s.commandReq n i (xaOf s n (formOf i)) (xbOf s n (formOf i)) (xcOf s n (formOf i))
        ((List.range 64).map fun k => mapGet 0 (s.core n).dmem ((xaOf s n (formOf i)).toNat % 2 ^ 16 + k))) := by
  unfold xaOf xbOf xcOf at *
  simp only [coreOpen, ht, dmemRead_eq _ hfit, hck, ne_eq, not_true_eq_false, if_false]
  exact command_queued _ _ hroom

theorem corePort_queued (hroom : (s.core n).cmds.length < 32) (ht : s.commandTile n ((formOf i).imm.toNat % 1024) = some t) :
    corePort i n s = commandQueued s n (engineKey (.stream t ((formOf i).mod.toNat % 8))) (s.commandReq n i 0 0 0 []) := by
  simp only [corePort, ht]
  exact command_queued _ _ hroom

theorem engineCommand_queued (hroom : (s.core n).cmds.length < 32)
    (ht : s.commandTile n ((xcOf s n (formOf i)).toNat % 1024) = some t) :
    engineCommand i n s = commandQueued s n (engineKey (.matrix t))
      (s.commandReq n i (xaOf s n (formOf i)) (xbOf s n (formOf i)) 0 []) := by
  unfold xcOf at ht
  simp only [engineCommand, ht]
  exact command_queued _ _ hroom

theorem engineQuery_sent (hroom : (s.core n).cmds.length < 32)
    (ht : s.commandTile n ((xcOf s n (formOf i)).toNat % 1024) = some t) (hw : (s.core n).wait = .fetched) :
    engineQuery i n s = querySent s n (engineKey (.matrix t)) (s.commandReq n i 0 0 0 []) := by
  unfold xcOf at ht
  simp only [engineQuery, ht]
  exact State.query_sends _ _ _ hw hroom

theorem engineQuery_replied (ht : s.commandTile n ((xcOf s n (formOf i)).toNat % 1024) = some t) {v : W64}
    (hw : (s.core n).wait = .reply v) : engineQuery i n s = wordDone s n (formOf i) v := by
  unfold xcOf at ht
  simp only [engineQuery, ht]
  rw [State.query_reply _ _ _ hw, coreResult_eq_wordDone]

theorem coreOpen_none (ht : s.commandTile n ((formOf i).imm.toNat % 1024) = none) :
    coreOpen i n s = wordFaults s n 0x2B none none := by
  simp only [coreOpen, ht]
  exact coreFault_eq s n 0x2B none none

theorem corePort_none (ht : s.commandTile n ((formOf i).imm.toNat % 1024) = none) :
    corePort i n s = wordFaults s n 0x2B none none := by
  simp only [corePort, ht]
  exact coreFault_eq s n 0x2B none none

theorem engineCommand_none (ht : s.commandTile n ((xcOf s n (formOf i)).toNat % 1024) = none) :
    engineCommand i n s = wordFaults s n 0x2B none none := by
  unfold xcOf at ht
  simp only [engineCommand, ht]
  exact coreFault_eq s n 0x2B none none

theorem engineQuery_none (ht : s.commandTile n ((xcOf s n (formOf i)).toNat % 1024) = none) :
    engineQuery i n s = wordFaults s n 0x2B none none := by
  unfold xcOf at ht
  simp only [engineQuery, ht]
  exact coreFault_eq s n 0x2B none none

end Commands

/-! ## The words on a core -/

section Words
variable {f : Form} {s : State} {n : Nat} (hu : s.unit = .core n)
include hu

theorem exec_openWord {i : Instr} (hi : i ∈ [Instr.strm f, .gthr f, .scat f]) :
    formOf i = f ∧ exec i s = .next (coreOpen i n s) := by
  simp only [List.mem_cons, List.not_mem_nil, or_false] at hi
  rcases hi with rfl | rfl | rfl
  · exact ⟨rfl, onAll_core _ _ _ hu⟩
  · exact ⟨rfl, onAll_core _ _ _ hu⟩
  · exact ⟨rfl, onAll_core _ _ _ hu⟩

theorem exec_closeWord {i : Instr} (hi : i ∈ [Instr.sclose f, .scloseCut f]) :
    formOf i = f ∧ exec i s = .next (corePort i n s) := by
  simp only [List.mem_cons, List.not_mem_nil, or_false] at hi
  rcases hi with rfl | rfl
  · exact ⟨rfl, onAll_core _ _ _ hu⟩
  · exact ⟨rfl, onAll_core _ _ _ hu⟩

theorem exec_engineWord {i : Instr} (hi : i ∈ [Instr.ring f, .mma f, .accz f, .accrd f]) :
    formOf i = f ∧ exec i s = .next (engineCommand i n s) := by
  simp only [List.mem_cons, List.not_mem_nil, or_false] at hi
  rcases hi with rfl | rfl | rfl | rfl
  · exact ⟨rfl, onAll_core _ _ _ hu⟩
  · exact ⟨rfl, onAll_core _ _ _ hu⟩
  · exact ⟨rfl, onAll_core _ _ _ hu⟩
  · exact ⟨rfl, onAll_core _ _ _ hu⟩

theorem exec_queryWord {i : Instr} (hi : i ∈ [Instr.rstatRing f, .rstatEng f, .rstatEngclr f]) :
    formOf i = f ∧ exec i s = .next (engineQuery i n s) := by
  simp only [List.mem_cons, List.not_mem_nil, or_false] at hi
  rcases hi with rfl | rfl | rfl
  · exact ⟨rfl, onAll_core _ _ _ hu⟩
  · exact ⟨rfl, onAll_core _ _ _ hu⟩
  · exact ⟨rfl, onAll_core _ _ _ hu⟩

theorem exec_swait : exec (.swait f) s = .next (coreSwait f n s) := onAll_core _ _ _ hu

end Words

/-- Settles O23: each word is a command, a query or the fault of a role that names no tile. -/
theorem commandWords : Obligations.CommandWords := by
  intro f s n t hu hroom portKey role roleC blk
  refine ⟨fun i hi ht hfit hck => ?_, fun i hi ht => ?_, fun i hi ht => ?_, fun i hi ht hw => ?_, fun ht hw => ?_,
    fun v ht hw => ?_, fun v ht hw i hi => ?_, fun ht i hi => ?_, fun ht i hi => ?_⟩
  · obtain ⟨hf, hx⟩ := exec_openWord hu hi
    subst hf
    rw [hx, coreOpen_queued hroom ht hfit hck]
  · obtain ⟨hf, hx⟩ := exec_closeWord hu hi
    subst hf
    rw [hx, corePort_queued hroom ht]
  · obtain ⟨hf, hx⟩ := exec_engineWord hu hi
    subst hf
    rw [hx, engineCommand_queued hroom ht]
  · obtain ⟨hf, hx⟩ := exec_queryWord hu hi
    subst hf
    rw [hx, engineQuery_sent hroom ht hw]
  · rw [exec_swait hu]
    unfold role at ht
    simp only [coreSwait, ht]
    exact congrArg _ (State.query_sends _ _ _ hw hroom)
  · rw [exec_swait hu, ← coreResult_eq_wordDone]
    unfold role at ht
    simp only [coreSwait, ht]
    exact congrArg _ (State.query_reply _ _ _ hw)
  · obtain ⟨hf, hx⟩ := exec_queryWord hu hi
    subst hf
    rw [hx, engineQuery_replied ht hw]
  · rcases List.mem_append.mp (show i ∈ [Instr.strm f, .gthr f, .scat f] ++ [.sclose f, .scloseCut f, .swait f] from hi) with hi | hi
    · obtain ⟨hf, hx⟩ := exec_openWord hu hi
      subst hf
      rw [hx, coreOpen_none ht]
    · rcases List.mem_append.mp (show i ∈ [Instr.sclose f, .scloseCut f] ++ [.swait f] from hi) with hi | hi
      · obtain ⟨hf, hx⟩ := exec_closeWord hu hi
        subst hf
        rw [hx, corePort_none ht]
      · rw [List.mem_singleton.mp hi, exec_swait hu]
        unfold role at ht
        simp only [coreSwait, ht]
        exact congrArg _ (coreFault_eq s n 0x2B none none)
  · rcases List.mem_append.mp (show i ∈ [Instr.ring f, .mma f, .accz f, .accrd f] ++
      [.rstatRing f, .rstatEng f, .rstatEngclr f] from hi) with hi | hi
    · obtain ⟨hf, hx⟩ := exec_engineWord hu hi
      subst hf
      rw [hx, engineCommand_none ht]
    · obtain ⟨hf, hx⟩ := exec_queryWord hu hi
      subst hf
      rw [hx, engineQuery_none ht]

end Sys2Proof.Proofs
end

section
/-! PROOFS. Context words (R329) and queue words (R339). -/

namespace Sys2Proof.Proofs

open Sys2Proof Sys2Proof.Machine Sys2Proof.Claims

/-! ## The copies of a save area (R329) -/

theorem copyDone_ok {s s' : State} {ev : Nat × Nat} {u : Unit} : s.copyDone ev (.ok (u, s')) = some (s'.raiseEvent ev) := rfl
theorem copyDone_wait {s : State} {ev : Nat × Nat} : s.copyDone ev (.error .wait) = none := rfl
/-- A copy that fails records `ILLEGAL` in the caller's queue, and the counter is raised all the same. -/
theorem copyDone_failed {s : State} {ev : Nat × Nat} {e : Stop} (h : e ≠ .wait) :
    s.copyDone ev (.error e) = some ((s.record { code := 0x2B, ukind := 3, unit := unitDie 0 192
                                                 ctx := BitVec.ofNat 8 ev.1 }).raiseEvent ev) := by
  cases e with
  | wait => exact absurd rfl h
  | _ => rfl

section
variable {s : State} {c : Nat} {j : CtxJob}

theorem doJob_save (h : j.save = true) : s.doJob c j = s.copyDone j.event (saveCopy c j.event j.buffer s) := by
  simp only [State.doJob, h, if_true]
theorem doJob_nothing (h : j.save = false) (hb : j.buffer = 0) : s.doJob c j = some (s.afterCopy c j) := by
  simp only [State.doJob, h, hb, Bool.false_eq_true, if_false, if_true]
theorem doJob_rest (h : j.save = false) (hb : j.buffer ≠ 0) {u : Unit} {s' : State}
    (hc : restCopy c j.event j.buffer s = .ok (u, s')) : s.doJob c j = some (s'.afterCopy c j) := by
  simp only [State.doJob, h, hb, hc, Bool.false_eq_true, if_false]
theorem doJob_rest_stops (h : j.save = false) (hb : j.buffer ≠ 0) {e : Stop}
    (hc : restCopy c j.event j.buffer s = .error e) : s.doJob c j = s.copyDone j.event (.error e) := by
  simp only [State.doJob, h, hb, hc, Bool.false_eq_true, if_false]

end

/-! ## The checks of R329 -/

section
variable {f : Form} {s : State} {n : Nat} {ok : CtxState → Bool} {go : Nat → Nat × Nat → State → State}
  (hpriv : (s.core n).priv = true) (hlt : (xaOf s n f).toNat < 256) (hne : (xaOf s n f).toNat ≠ (s.core n).context.toNat)
  (himm : bitsOf f.imm.toNat 12 20 = 0)
  (hev : f.imm.toNat % 4096 < ((s.ctx (s.core n).context.toNat).reg 0x113).toNat)
include hpriv hlt hne himm hev

/-- A context word whose checks pass. -/
theorem ctxWord_goes (hok : ok (s.ctx (xaOf s n f).toNat).state = true) :
    ctxWord f n ok go s = (go (xaOf s n f).toNat ((s.core n).context.toNat, f.imm.toNat % 4096) s).coreResult n f
      ((s.ctx (xaOf s n f).toNat).cstate &&& 7#64) := by
  unfold xaOf at *
  simp only [ctxWord, hpriv, himm, hne, hok, Bool.not_true, Bool.false_eq_true, ne_eq, not_true_eq_false,
    if_false, or_self, Nat.not_le.mpr hlt, Nat.not_le.mpr hev]

omit hne in
/-- A context word on a context whose state it does not accept. -/
theorem ctxWord_reports (hok : ok (s.ctx (xaOf s n f).toNat).state = false) :
    ctxWord f n ok go s = s.coreResult n f (BitVec.ofNat 64 (2 ^ 63) ||| ((s.ctx (xaOf s n f).toNat).cstate &&& 7#64)) := by
  unfold xaOf at *
  simp only [ctxWord, hpriv, himm, hok, Bool.not_true, Bool.not_false, Bool.false_eq_true, ne_eq, not_true_eq_false,
    if_false, or_true, if_true, or_self, Nat.not_le.mpr hlt, Nat.not_le.mpr hev]

end

/-- The words that start a copy (R329). -/
theorem exec_copyWord {f : Form} {s : State} {n : Nat} (hu : s.unit = .core n) {i : Instr} {save run : Bool}
    (hi : (i, save, run) ∈ [(Instr.ctxsave f, true, false), (.ctxrestRun f, false, true), (.ctxrestLoad f, false, false)]) :
    exec i s = .next (copyWord f save run n s) ∧ (save = true → run = false) := by
  simp only [List.mem_cons, Prod.mk.injEq, List.not_mem_nil, or_false] at hi
  rcases hi with ⟨rfl, rfl, rfl⟩ | ⟨rfl, rfl, rfl⟩ | ⟨rfl, rfl, rfl⟩
  · exact ⟨onCore_core _ hu, fun _ => rfl⟩
  · exact ⟨onCore_core _ hu, nofun⟩
  · exact ⟨onCore_core _ hu, nofun⟩

/-- Settles O24: the checks pass, and the operation is that of the word. -/
theorem contextWords : Obligations.ContextWords := by
  intro f s n hu hpriv x cid ev xb done hlt hne himm hev
  refine ⟨fun hst => ?_, fun hst => ?_, fun i save run hi hst => ?_, fun hst i hi => ?_⟩
  · refine (onCore_core _ hu).trans (congrArg _ (ctxWord_goes hpriv hlt hne himm hev ?_))
    rcases hst with h | h
    · rw [h]; rfl
    · rw [h]; rfl
  · refine (onCore_core _ hu).trans (congrArg _ (ctxWord_goes hpriv hlt hne himm hev ?_))
    simp only [List.mem_cons, List.not_mem_nil, or_false] at hst
    rcases hst with h | h | h | h
    · rw [h]; rfl
    · rw [h]; rfl
    · rw [h]; rfl
    · rw [h]; rfl
  · intro waits after failed
    obtain ⟨hx, hrun⟩ := exec_copyWord hu hi
    have hgo : exec i s = .next (done (s.startJob x ⟨save, run, ev, xb⟩)) :=
      hx.trans (congrArg _ (ctxWord_goes hpriv hlt hne himm hev (by rw [hst]; rfl)))
    rw [hgo]
    refine ⟨fun hj => congrArg _ (congrArg done (State.startJob_waits (.inl hj))), fun hj => ⟨fun hs => ⟨fun u s' hc => ?_, fun hc => ?_,
      fun e hc he => ?_⟩, fun hs hb => ?_, fun hs hb => ⟨fun u s' hc => ?_, fun hc => ?_, fun e hc he => ?_⟩⟩⟩
    · refine congrArg _ (congrArg done (State.startJob_done hj ?_))
      rw [doJob_save hs, hc, copyDone_ok]
    · refine congrArg _ (congrArg done (State.startJob_waits (.inr ?_)))
      rw [doJob_save hs, hc, copyDone_wait]
    · refine congrArg _ (congrArg done (State.startJob_done hj ?_))
      rw [doJob_save hs, hc]
      exact copyDone_failed he
    · exact congrArg _ (congrArg done (State.startJob_done hj (doJob_nothing hs hb)))
    · exact congrArg _ (congrArg done (State.startJob_done hj (doJob_rest hs hb hc)))
    · refine congrArg _ (congrArg done (State.startJob_waits (.inr ?_)))
      rw [doJob_rest_stops hs hb hc, copyDone_wait]
    · refine congrArg _ (congrArg done (State.startJob_done hj ?_))
      rw [doJob_rest_stops hs hb hc]
      exact copyDone_failed he
  · rw [← coreResult_eq_wordDone]
    have hgo : ∀ (ok : CtxState → Bool) (go : Nat → Nat × Nat → State → State), ok .free = false →
        ctxWord f n ok go s = s.coreResult n f (BitVec.ofNat 64 (2 ^ 63) ||| ((s.ctx x).cstate &&& 7#64)) :=
      fun ok go h => ctxWord_reports hpriv hlt himm hev (hst.symm ▸ h)
    simp only [List.mem_cons, List.not_mem_nil, or_false] at hi
    rcases hi with rfl | rfl | rfl | rfl | rfl
    · exact (onCore_core _ hu).trans (congrArg _ (hgo _ _ rfl))
    · exact (onCore_core _ hu).trans (congrArg _ (hgo _ _ rfl))
    · exact (onCore_core _ hu).trans (congrArg _ (hgo _ _ rfl))
    · exact (onCore_core _ hu).trans (congrArg _ (hgo _ _ rfl))
    · exact (onCore_core _ hu).trans (congrArg _ (hgo _ _ rfl))

/-! ## Queue words (R339) -/

/-- Two operations that both succeed, one after the other. -/
theorem andThen_ok {α β : Type} {m : Act α} {k : α → Act β} {s s' : State} {a : α} (h : m s = .ok (a, s')) :
    (m.andThen k) s = k a s' := by
  simp only [Act.andThen, h]

/-- `EVSIG` at the arbiter: the old value, and the state after the change. -/
theorem evsig_changes {s s' s'' : State} {c : BitVec 8} {a old v : Nat} {set : Bool}
    (hr : vnat agentSched c a 8 s = .ok (old, s'))
    (hw : vput agentSched c a 8 (if set then v else (old + v) % 2 ^ 64) s' = .ok ((), s'')) :
    ((vnat agentSched c a 8).andThen fun old =>
      (vput agentSched c a 8 (if set then v else (old + v) % 2 ^ 64)).andThen fun _ => Act.ret old) s = .ok (old, s'') := by
  rw [andThen_ok hr, andThen_ok hw]
  rfl

theorem evsigWord_changes {f : Form} {s s' s'' : State} {n old : Nat} {set : Bool}
    (hbad : badCounter (xaOf s n f).toNat = false)
    (hr : vnat agentSched (s.core n).context (xaOf s n f).toNat 8 s.schedSees = .ok (old, s'))
    (hw : vput agentSched (s.core n).context (xaOf s n f).toNat 8
      (if set then (xbOf s n f).toNat else (old + (xbOf s n f).toNat) % 2 ^ 64) s' = .ok ((), s'')) :
    evsigWord f set n s = (s''.signal (s.core n).context (xaOf s n f).toNat).coreResult n f (BitVec.ofNat 64 old) := by
  unfold xaOf xbOf at *
  simp only [evsigWord, hbad, Bool.false_eq_true, if_false]
  exact State.coreAct_ok _ (evsig_changes hr hw)

/-- A `WAIT` that reads its counter. -/
theorem waitWord_reads {f : Form} {s s' : State} {n old : Nat} (hbad : badCounter (xaOf s n f).toNat = false)
    (hr : vnat agentSched (s.core n).context (xaOf s n f).toNat 8 s.schedSees = .ok (old, s')) :
    waitWord f n s = if (xbOf s n f).toNat ≤ old then
      (s'.showKnown (s'.counterKey (s.core n).context (xaOf s n f).toNat) (16384 + n)).coreResult n f 0 else s := by
  unfold xaOf xbOf at *
  simp only [waitWord, hbad, Bool.false_eq_true, if_false]
  exact State.coreAct_ok _ hr

/-- `QPOST` of a record to an enabled queue of the context that has room. -/
theorem qpostWord_posts {f : Form} {s s' : State} {n : Nat}
    (hq : (xaOf s n f).toNat < 1024) (hxb : (xbOf s n f).toNat ≤ 0xFFC0) (h16 : (xbOf s n f).toNat % 16 = 0)
    (hdr : s.draining (s.core n).context = false) (hown : s.qowner (xaOf s n f).toNat = (s.core n).context)
    (hst : s.qstate (xaOf s n f).toNat ≠ 0) (hroom : s.qused (xaOf s n f).toNat ≠ s.qlen (xaOf s n f).toNat)
    (hw : vwrite (agentD n) (s.core n).context
      (s.qbase (xaOf s n f).toNat + 64 * (s.qtail (xaOf s n f).toNat % s.qlen (xaOf s n f).toNat))
      (memRead (s.core n).dmem (xbOf s n f).toNat 64) s = .ok ((), s')) :
    qpostWord f n s = ((s'.setQfield (xaOf s n f).toNat 20 4 ((s.qtail (xaOf s n f).toNat + 1) % 2 ^ 32)).ring?
      (xaOf s n f).toNat).coreResult n f (BitVec.ofNat 64 (s.qtail (xaOf s n f).toNat)) := by
  unfold xaOf xbOf at *
  simp only [qpostWord, Nat.not_le.mpr hq, Nat.not_lt.mpr hxb, h16, hdr, hown, hst, hroom, ne_eq, not_true_eq_false, or_self,
    Bool.false_eq_true, if_false]
  exact State.coreAct_ok _ hw

/-- `LAUNCH` of a record that passes its checks, onto a group that may take it. -/
theorem launchWord_loads {f : Form} {s loaded : State} {n w : Nat}
    (h64 : (xaOf s n f).toNat % 64 = 0) (hxa : (xaOf s n f).toNat ≤ 0xFFC0) (hxb : (xbOf s n f).toNat < 2 ^ 20)
    (hholds : (s.ctx (s.core n).context.toNat).state.holds = false)
    (hrec : s.recordFails (s.core n).context ⟨memNat (s.core n).dmem (xaOf s n f).toNat 64⟩ = 0)
    (hwaddr : QRec.waddr ⟨memNat (s.core n).dmem (xaOf s n f).toNat 64⟩ = 0)
    (hctx : (xbOf s n f).toNat / 4096 = (s.core n).context.toNat)
    (hmay : s.mayLaunch (s.core n).context ((xbOf s n f).toNat % 4096) = true)
    (hbusy : s.colourBusy (s.core n).context (QRec.lcol ⟨memNat (s.core n).dmem (xaOf s n f).toNat 64⟩) = false)
    (hroles : (QRec.shape ⟨memNat (s.core n).dmem (xaOf s n f).toNat 64⟩).roles ≤ (s.group ((xbOf s n f).toNat % 4096)).roles)
    (hload : (s.modGroup ((xbOf s n f).toNat % 4096) fun x => { x with
      kernel := QRec.kernel ⟨memNat (s.core n).dmem (xaOf s n f).toNat 64⟩ (.core n (xaOf s n f).toNat) }).load
        ((xbOf s n f).toNat % 4096) (QRec.shape ⟨memNat (s.core n).dmem (xaOf s n f).toNat 64⟩).roles = some (w, loaded)) :
    launchWord f n s = if w = 0 then (loaded.startKernel ((xbOf s n f).toNat % 4096)).coreResult n f 0
      else loaded.coreResult n f (BitVec.ofNat 64 (2 ^ 63 + 2)) := by
  unfold xaOf xbOf at *
  simp only [launchWord, h64, Nat.not_lt.mpr hxa, Nat.not_le.mpr hxb, hholds, hrec, hwaddr, hctx, hmay, hbusy,
    Nat.not_lt.mpr hroles, hload, ne_eq, not_true_eq_false, or_self, Bool.not_true, Bool.false_eq_true, if_false]
  rfl

/-- Settles O25: each word passes its checks and does its operation. -/
theorem queueWords : Obligations.QueueWords := by
  intro f s n hu c a v
  refine ⟨fun old s' hbad hr => ⟨fun hv => ?_, fun hv => ?_⟩, fun set old s' s'' hbad hr hw => ?_,
    fun s' hq hxb h16 hdr hown hst hroom hw => ?_, fun w loaded hload h64 hxa hxb hholds hrec hwaddr hctx hmay hbusy hroles => ?_⟩
  · exact (onCore_core _ hu).trans (congrArg _ ((waitWord_reads hbad hr).trans (if_pos hv)))
  · exact (onCore_core _ hu).trans (congrArg _ ((waitWord_reads hbad hr).trans (if_neg (Nat.not_le.mpr hv))))
  · cases set with
    | false => exact (onCore_core _ hu).trans (congrArg _ (evsigWord_changes hbad hr hw))
    | true => exact (onCore_core _ hu).trans (congrArg _ (evsigWord_changes hbad hr hw))
  · exact (onCore_core _ hu).trans (congrArg _ (qpostWord_posts hq hxb h16 hdr hown hst hroom hw))
  · exact (onCore_core _ hu).trans (congrArg _ (launchWord_loads h64 hxa hxb hholds hrec hwaddr hctx hmay hbusy hroles hload))

end Sys2Proof.Proofs
end

section
/-! PROOFS. Configuration and verification words of a drover core (R349 to R353). -/

namespace Sys2Proof.Proofs

open Sys2Proof Sys2Proof.Machine Sys2Proof.Claims

/-- An address that the word and the core may use (R349, R350). -/
theorem withAddr_goes {f : Form} {s : State} {n : Nat} {ok : CfgAddr → Bool} (go : CfgAddr → State → State)
    (ha : (cfgFields (xaOf s n f).toNat).ok = true)
    (hmay : s.mayConfigure n (s.cfgGroup (cfgFields (xaOf s n f).toNat)) = true)
    (hok : ok (cfgFields (xaOf s n f).toNat) = true) : withAddr f n ok go s = go (cfgFields (xaOf s n f).toNat) s := by
  unfold xaOf at *
  simp only [withAddr, ha, hok, hmay, Bool.not_true, Bool.or_self, Bool.false_eq_true, if_false]

/-- `BKPT.SET` and `BKPT.CLR` on an element that is not FUSED (R352). -/
theorem bkptWrite_writes {f : Form} {s : State} {n : Nat} {value : Core → W64 × W64} (hu : s.unit = .core n)
    (ha : (cfgFields (xaOf s n f).toNat).ok = true)
    (hmay : s.mayConfigure n (s.cfgGroup (cfgFields (xaOf s n f).toNat)) = true)
    (hsp : (cfgFields (xaOf s n f).toNat).space = 0)
    (hst : (s.elem (cfgFields (xaOf s n f).toNat).tile (cfgFields (xaOf s n f).toNat).elem).state ≠ .fused) :
    bkptWrite f value s = .next ((s.modSlot (cfgFields (xaOf s n f).toNat).tile (cfgFields (xaOf s n f).toNat).elem
      (cfgFields (xaOf s n f).toNat).slot fun y =>
        { y with bval := (value (s.core n)).1, bmask := (value (s.core n)).2 }).coreResult n f 0) := by
  refine (onCore_core _ hu).trans (congrArg _ ((withAddr_goes _ ha hmay (by rw [hsp]; rfl)).trans ?_))
  exact if_neg hst

section Writes
variable {f : Form} {s : State} {n : Nat} (hu : s.unit = .core n) (ha : (cfgFields (xaOf s n f).toNat).ok = true)
  (hmay : s.mayConfigure n (s.cfgGroup (cfgFields (xaOf s n f).toNat)) = true)
include hu ha hmay

/-- `CFGW` of an item that may be written (R351). -/
theorem exec_cfgw_writes {s' : State} (hw : s.cfgWrite (cfgFields (xaOf s n f).toNat)
    ((xbOf s n f).toNat * 2 ^ 64 + (xcOf s n f).toNat) = .ok s') : exec (.cfgw f) s = .next (s'.coreResult n f 0) := by
  show execCfgw f s = _
  rw [execCfgw, onCore_core _ hu, withAddr_goes _ ha hmay rfl]
  unfold xbOf xcOf at hw
  simp only [hw]

/-- `CFGW` of an item that is refused (R351). -/
theorem exec_cfgw_refuses {r : Refused} (hw : s.cfgWrite (cfgFields (xaOf s n f).toNat)
    ((xbOf s n f).toNat * 2 ^ 64 + (xcOf s n f).toNat) = .error r) : exec (.cfgw f) s = .next (s.coreResult n f r.word) := by
  show execCfgw f s = _
  rw [execCfgw, onCore_core _ hu, withAddr_goes _ ha hmay rfl]
  unfold xbOf xcOf at hw
  simp only [hw]

/-- `BKPT.RES` by the element's state (R352). -/
theorem exec_bkptRes_broken (hsp : (cfgFields (xaOf s n f).toNat).space = 0) (hsl : (cfgFields (xaOf s n f).toNat).slot = 0)
    (hst : (s.elem (cfgFields (xaOf s n f).toNat).tile (cfgFields (xaOf s n f).toNat).elem).state = .broken) :
    exec (.bkptRes f) s = .next ((s.modElem (cfgFields (xaOf s n f).toNat).tile (cfgFields (xaOf s n f).toNat).elem fun x =>
      { x with state := .running, skipBreak := true }).coreResult n f 0) := by
  show execBkptRes f s = _
  rw [execBkptRes, onCore_core _ hu, withAddr_goes _ ha hmay (by rw [hsp, hsl]; rfl)]
  simp only [hst]

theorem exec_bkptRes_halted (hsp : (cfgFields (xaOf s n f).toNat).space = 0) (hsl : (cfgFields (xaOf s n f).toNat).slot = 0)
    (hst : (s.elem (cfgFields (xaOf s n f).toNat).tile (cfgFields (xaOf s n f).toNat).elem).state = .halted) :
    exec (.bkptRes f) s = .next ((s.modElem (cfgFields (xaOf s n f).toNat).tile (cfgFields (xaOf s n f).toNat).elem fun x =>
      { x with state := .running }).coreResult n f 0) := by
  show execBkptRes f s = _
  rw [execBkptRes, onCore_core _ hu, withAddr_goes _ ha hmay (by rw [hsp, hsl]; rfl)]
  simp only [hst]

end Writes

theorem and_eq_zero_conds {a b : Nat} (ha : a = 0) (hb : b = 0) : (a == 0 && b == 0) = true := by rw [ha, hb]; rfl

/-- Settles O26: each word passes its checks and does its operation. -/
theorem configurationWords : Obligations.ConfigurationWords := by
  constructor
  · intro f s n hu a v ha hmay
    refine ⟨fun s' hw => ?_, fun r hw => ?_, ?_, fun hsp hel hsl hbusy => ?_, fun hsp hsl hbusy => ?_,
      fun hsp hst => ⟨?_, ?_⟩,
      fun hsp hsl => ⟨fun hst => ?_, fun hst => ?_⟩⟩
    · exact exec_cfgw_writes hu ha hmay hw
    · refine (exec_cfgw_refuses hu ha hmay hw).trans ?_
      rw [coreResult_eq_wordDone]
      rfl
    · refine (onCore_core _ hu).trans (congrArg _ ((withAddr_goes _ ha hmay rfl).trans ?_))
      exact coreResult_eq_wordDone ..
    · refine (onCore_core _ hu).trans (congrArg _ ((withAddr_goes _ ha hmay ?_).trans ?_))
      · rw [show (cfgFields _).space = 0 from hsp, show (cfgFields _).elem = 0 from hel, show (cfgFields _).slot = 0 from hsl]
        rfl
      · exact if_neg (Bool.eq_false_iff.mp hbusy)
    · refine (onCore_core _ hu).trans (congrArg _ ((withAddr_goes _ ha hmay (and_eq_zero_conds hsp hsl)).trans ?_))
      exact if_neg (Bool.eq_false_iff.mp hbusy)
    · exact bkptWrite_writes (value := fun c => (c.reg (Form.xb f), c.reg (Form.xc f))) hu ha hmay hsp hst
    · exact bkptWrite_writes (value := fun _ => (0, 0)) hu ha hmay hsp hst
    · exact exec_bkptRes_broken hu ha hmay hsp hsl hst
    · exact exec_bkptRes_halted hu ha hmay hsp hsl hst
  · intro f s n hu a b c
    refine ⟨fun ha hb h16 => ?_, fun bs s' hb hc h16 hr => ?_, fun hab => ?_, ?_⟩
    · show execSigchk f s = _
      rw [execSigchk, onCore_core _ hu, ← coreResult_eq_wordDone]
      exact congrArg _ (if_neg (show ¬ (a + 64 > 65536 ∨ b + 144 > 65536 ∨ b % 16 ≠ 0) by omega))
    · show execDgst f s = _
      rw [execDgst, onCore_core _ hu]
      refine congrArg _ ((if_neg (show ¬ (b ≥ 2 ^ 32 ∨ c + 64 > 65536 ∨ c % 16 ≠ 0) by omega)).trans ?_)
      exact State.coreAct_ok _ hr
    · show execCrcMem f s = _
      rw [execCrcMem, onCore_core _ hu, ← coreResult_eq_wordDone]
      exact congrArg _ (if_neg (show ¬ (a + b > 65536) by omega))
    · show execCrcTile f s = _
      rw [execCrcTile, onCore_core _ hu, ← coreResult_eq_wordDone]
      rfl

end Sys2Proof.Proofs
end

section
/-! PROOFS. Group and barrier words of a drover core (R359, R360 to R368). -/

namespace Sys2Proof.Proofs

open Sys2Proof Sys2Proof.Machine Sys2Proof.Claims

/-! ## Group words (R359) -/

/-- `GBIND` with a legal shape in a RUNNING context with a FREE group, by the place that is found. -/
theorem gbindWord_by_place {f : Form} {s : State} {n g : Nat} {h : Shape} {place : Option Place2}
    (hsh : gbindShape (xaOf s n f).toNat (xbOf s n f).toNat = some h)
    (hst : (s.ctx (s.core n).context.toNat).state = .running) (hg : s.freeGroup? = some g)
    (hp : (if (xbOf s n f).toNat = 0 then s.place? h (n / 64) else s.placeAt h (dieOf ((xbOf s n f).toNat % 2 ^ 14))
      (tileX ((xbOf s n f).toNat % 2 ^ 14)) (tileY ((xbOf s n f).toNat % 2 ^ 14))) = place) :
    gbindWord f n s = match place with
      | none => s.coreResult n f (refusal 1)
      | some p => ((s.bindAt g (s.core n).context h p).modGroup g fun x => { x with state := .bound }).coreResult n f
          (Machine.handleOf g (s.core n).context) := by
  unfold xaOf xbOf at *
  simp only [gbindWord, hsh, hst, hg, hp, ne_eq, reduceCtorEq, not_true_eq_false, not_false_eq_true, and_false, if_false]
  cases place <;> rfl

/-- `GREL` and `GREL.FORCE` of a BOUND group that the core may release. -/
theorem grelWord_releases {f : Form} {s : State} {n : Nat} {force : Bool} (hlt : (xaOf s n f).toNat < 2 ^ 20)
    (hst : (s.group ((xaOf s n f).toNat % 4096)).state = .bound)
    (hmay : force = false ∧ (s.group ((xaOf s n f).toNat % 4096)).ctx = (s.core n).context ∨
      force = true ∧ (s.core n).priv = true) :
    grelWord f force n s = (s.release ((xaOf s n f).toNat % 4096)).coreResult n f 0 := by
  unfold xaOf at *
  have hgrel : s.grel (((s.core n).reg (Form.xa f)).toNat % 4096) force =
      some (s.release (((s.core n).reg (Form.xa f)).toNat % 4096)) := by simp only [State.grel, hst]
  rcases hmay with ⟨rfl, hc⟩ | ⟨rfl, hp⟩
  · simp only [grelWord, Nat.not_le.mpr hlt, hst, hc, hgrel, reduceCtorEq, or_self, ne_eq, not_true_eq_false,
      and_false, Bool.false_eq_true, false_and, if_false]
  · simp only [grelWord, Nat.not_le.mpr hlt, hst, hp, hgrel, reduceCtorEq, or_self, Bool.not_true,
      Bool.false_eq_true, false_and, and_false, if_false]

/-! ## Barrier words (R368) -/

/-- `BARINIT.ALLOC` on the core's own die, by the lowest FREE entry. -/
theorem barinitAllocWord_by_entry {f : Form} {s : State} {n : Nat} (h1 : 1 ≤ (xaOf s n f).toNat)
    (h1024 : (xaOf s n f).toNat ≤ 1024) (hb : (xbOf s n f).toNat = 0) :
    barinitAllocWord f n s = if s.barriersHeld (s.core n).context then s else
      match (List.range 256).find? fun k => (s.barrier (n / 64 * 256 + k)).n == 0 with
      | none => s.coreResult n f (refusal 1)
      | some k => (s.setBarrier (n / 64 * 256 + k) { ctx := (s.core n).context, n := (xaOf s n f).toNat }).coreResult n f
          (BitVec.ofNat 64 (n / 64 * 256 + k)) := by
  unfold xaOf xbOf at *
  simp only [barinitAllocWord, hb, Nat.not_lt.mpr h1, Nat.not_lt.mpr h1024, ne_eq, not_true_eq_false, false_and, or_self,
    if_false, if_true] <;> rfl

/-- The lowest number of a range with a property. -/
theorem find_range_lowest {p : Nat → Bool} {m k : Nat} (hk : k < m) (hp : p k = true) (hlow : ∀ j, j < k → p j = false) :
    (List.range m).find? p = some k := by
  rw [List.find?_range_eq_some]
  exact ⟨hp, List.mem_range.mpr hk, fun j hj => by rw [hlow j hj]; rfl⟩

/-- `BARINIT.FREE` and `QUERY` on an entry of the context. -/
theorem barinitEntry_goes {f : Form} {s : State} {n : Nat} (go : Nat → Barrier → State → State)
    (hlt : (xaOf s n f).toNat < 1024) (hn : (s.barrier (xaOf s n f).toNat).n ≠ 0)
    (hc : (s.barrier (xaOf s n f).toNat).ctx = (s.core n).context) :
    barinitEntry f n go s = go (xaOf s n f).toNat (s.barrier (xaOf s n f).toNat) s := by
  unfold xaOf at *
  simp only [barinitEntry, Nat.not_le.mpr hlt, hn, hc, ne_eq, not_true_eq_false, if_false]

/-- `BARARR` with operands in range, by what the word has done so far. -/
theorem bararrWord_fetched {f : Form} {s : State} {n : Nat} (ha : (xaOf s n f).toNat < 1024) (hb : (xbOf s n f).toNat < 256)
    (hw : (s.core n).wait = .fetched) :
    bararrWord f n s = { (s.learn (16384 + n) (arrivalKey s.tick)).setCore n { s.core n with wait := .sent s.tick } with
      arrivals := s.arrivals ++ [{ handle := (xaOf s n f).toNat, core := some n, tag := s.coreTag n, ctx := (s.core n).context
                                   at_ := BitVec.ofNat 8 (xbOf s n f).toNat, step := s.tick }] } := by
  unfold xaOf xbOf at *
  simp only [bararrWord, Nat.not_le.mpr ha, Nat.not_le.mpr hb, or_self, if_false, hw]

theorem bararrWord_released {f : Form} {s : State} {n d k : Nat} {v : W64} (ha : (xaOf s n f).toNat < 1024)
    (hb : (xbOf s n f).toNat < 256) (hw : (s.core n).wait = .released v d k) :
    bararrWord f n s = if s.edgesUp d (n / 64) then (s.learn (arrivalKey k) (16384 + n)).coreResult n f v else s := by
  unfold xaOf xbOf at *
  simp only [bararrWord, Nat.not_le.mpr ha, Nat.not_le.mpr hb, or_self, if_false, hw]

/-- Settles O27: each word passes its checks and does its operation. -/
theorem groupAndBarrierWords : Obligations.GroupAndBarrierWords := by
  constructor
  · intro f s n hu c a b
    refine ⟨fun h g hsh hst hg => ?_, fun hlt hst hc => ?_, fun hlt hst hp => ?_⟩
    · intro t place
      refine ⟨fun p hp => ?_, fun hp => ?_⟩
      · exact (onCore_core _ hu).trans (congrArg _ (gbindWord_by_place hsh hst hg hp))
      · rw [← coreResult_eq_wordDone]
        exact (onCore_core _ hu).trans (congrArg _ (gbindWord_by_place hsh hst hg hp))
    · exact (onCore_core _ hu).trans (congrArg _ (grelWord_releases hlt hst (.inl ⟨rfl, hc⟩)))
    · exact (onCore_core _ hu).trans (congrArg _ (grelWord_releases hlt hst (.inr ⟨rfl, hp⟩)))
  · intro f s n hu c a b die
    refine ⟨fun k h1 h1024 hb hheld hk hfree hlow => ?_, fun h1 h1024 hb hheld hnone => ?_, fun hlt hn hc => ⟨?_, fun hs hheld => ?_,
      fun hs hheld => ?_⟩, fun h1 h1024 hb hheld => ?_, fun ha hb hw => ?_, fun v d k ha hb hw => ?_⟩
    · refine (onCore_core _ hu).trans (congrArg _ ((barinitAllocWord_by_entry h1 h1024 hb).trans
        ((if_neg (Bool.eq_false_iff.mp hheld)).trans ?_)))
      rw [find_range_lowest (p := fun j => (s.barrier (n / 64 * 256 + j)).n == 0) hk (beq_iff_eq.mpr hfree)
        fun j hj => beq_eq_false_iff_ne.mpr (hlow j hj)]
    · rw [← coreResult_eq_wordDone]
      refine (onCore_core _ hu).trans (congrArg _ ((barinitAllocWord_by_entry h1 h1024 hb).trans
        ((if_neg (Bool.eq_false_iff.mp hheld)).trans ?_)))
      rw [List.find?_eq_none.mpr fun j hj => by
        rw [beq_iff_eq]; exact hnone j (List.mem_range.mp hj)]
      rfl
    · show execBarinitQuery f s = _
      rw [execBarinitQuery, onCore_core _ hu, barinitEntry_goes _ hlt hn hc, coreResult_eq_wordDone]
    · show execBarinitFree f s = _
      rw [execBarinitFree, onCore_core _ hu, barinitEntry_goes _ hlt hn hc]
      refine congrArg _ ((if_neg hs).trans (if_neg ?_))
      rw [show (s.barrier _).ctx = _ from hc]
      exact Bool.eq_false_iff.mp hheld
    · show execBarinitFree f s = _
      rw [execBarinitFree, onCore_core _ hu, barinitEntry_goes _ hlt hn hc]
      refine congrArg _ ((if_neg hs).trans (if_pos ?_))
      rw [show (s.barrier _).ctx = _ from hc]
      exact hheld
    · exact (onCore_core _ hu).trans (congrArg _ ((barinitAllocWord_by_entry h1 h1024 hb).trans (if_pos hheld)))
    · exact (onCore_core _ hu).trans (congrArg _ (bararrWord_fetched ha hb hw))
    · exact (onCore_core _ hu).trans (congrArg _ (bararrWord_released ha hb hw))

end Sys2Proof.Proofs
end

section
/-! PROOFS. Page words of a drover core: `MAP`, `UNMAP` and `MIGR` (R377 to R386). -/

namespace Sys2Proof.Proofs

open Sys2Proof Sys2Proof.Machine Sys2Proof.Claims

/-- The base of the region of a level that an address lies in. -/
def regionBase (va lvl : Nat) : Nat := va / regionSize lvl * regionSize lvl

/-! ## Ranges that a word must reach (R388, R395) -/

theorem if_unreached {α : Type} (a : Bool) (x y : α) : (if (!a) = true then x else y) = if a = true then y else x := by
  cases a <;> rfl
theorem if_unreached_two {α : Type} (a b : Bool) (x y : α) :
    (if (!a || !b) = true then x else y) = if a = true ∧ b = true then y else x := by
  cases a <;> cases b <;> rfl
theorem if_waits_or_unreached {α : Type} (w a b c : Bool) (x y : α) :
    (if (w || !a || !b || !c) = true then x else y) =
      if w = true then x else if a = true ∧ b = true ∧ c = true then y else x := by
  cases w <;> cases a <;> cases b <;> cases c <;> rfl
/-- An entry, and the table page that it names if it names one. -/
theorem if_entry_and_table {α : Type} (a t b : Bool) (x y : α) :
    (if a = true then (if (t && !b) = true then x else y) else x) = if a = true ∧ (t = true → b = true) then y else x := by
  cases a <;> cases t <;> cases b <;> simp

/-! ## `MAP` (R384) -/

section Map
variable {f : Form} {s : State} {n lvl : Nat} {bad : Bool} {go : Nat → State → State}
  (hva : (xaOf s n f).toNat < 2 ^ 56) (hbad : bad = false)
  (hbusy : s.pageBusy n (s.core n).context (regionBase (xaOf s n f).toNat lvl) (regionSize lvl) = false)
include hva hbad hbusy

theorem mapWord_present {e epa : Nat}
    (h : (s.walkTo (s.core n).context (xaOf s n f).toNat lvl = .entry e epa ∧ bitOf e 0 = true) ∨
      s.walkTo (s.core n).context (xaOf s n f).toNat lvl = .mapped) :
    mapWord f n lvl bad go s = wordDone s n f (BitVec.ofNat 64 (2 ^ 63 + 1)) := by
  unfold xaOf regionBase at *
  rw [← coreResult_eq_wordDone]
  rcases h with ⟨hw, he⟩ | hw
  · simp only [mapWord, Nat.not_le.mpr hva, hbad, hbusy, hw, he, Bool.false_eq_true, or_self, if_false, if_true]
    rfl
  · simp only [mapWord, Nat.not_le.mpr hva, hbad, hbusy, hw, Bool.false_eq_true, or_self, if_false]
    rfl

theorem mapWord_absent {e epa : Nat} (hw : s.walkTo (s.core n).context (xaOf s n f).toNat lvl = .entry e epa)
    (he : bitOf e 0 = false) :
    mapWord f n lvl bad go s = if s.reachesAll (agentD n) epa 8 = true then go epa s else s := by
  unfold xaOf regionBase at *
  simp only [mapWord, Nat.not_le.mpr hva, hbad, hbusy, hw, he, Bool.false_eq_true, or_self, if_false]
  exact if_unreached _ _ _

end Map

/-- The form of `MAP.PA` is legal. -/
theorem mapPa_form {imm : BitVec 32} (hlt : imm.toNat < 8)
    (hl : if imm.getLsbD 2 = true then imm.toNat % 4 ≠ 3 else imm.toNat % 4 ≠ 0) :
    (decide (8 ≤ imm.toNat) || (!bitOf imm.toNat 2 && imm.toNat % 4 == 0) || (bitOf imm.toNat 2 && imm.toNat % 4 == 3)) = false := by
  rw [bitOf_toNat]
  cases h : imm.getLsbD 2 with
  | false =>
    simp only [h, Bool.false_eq_true, if_false] at hl
    simp [hl, hlt]
  | true =>
    simp only [h, if_true] at hl
    simp [hl, hlt]

/-- What `MAP.PA` does on an absent entry with an image that it takes. -/
theorem mapPaWord_writes {f : Form} {s : State} {n e epa : Nat} (hva : (xaOf s n f).toNat < 2 ^ 56)
    (hpriv : (s.core n).priv = true) (hlt : f.imm.toNat < 8)
    (hl : if f.imm.getLsbD 2 = true then f.imm.toNat % 4 ≠ 3 else f.imm.toNat % 4 ≠ 0)
    (hbusy : s.pageBusy n (s.core n).context (regionBase (xaOf s n f).toNat (f.imm.toNat % 4)) (regionSize (f.imm.toNat % 4)) = false)
    (hw : s.walkTo (s.core n).context (xaOf s n f).toNat (f.imm.toNat % 4) = .entry e epa) (he : bitOf e 0 = false)
    (himage : badImage (f.imm.toNat % 4) (xbOf s n f).toNat (f.imm.getLsbD 2) = false) :
    mapPaWord f n s = if s.reachesAll (agentD n) epa 8 = true ∧ (f.imm.getLsbD 2 = true →
        s.reachesAll (agentD n) (bitsOf (xbOf s n f).toNat 13 39 * 8192) 8192 = true) then
      (if f.imm.getLsbD 2 then s.physWrites (s.core n).context (bitsOf (xbOf s n f).toNat 13 39 * 8192) (List.replicate 8192 0)
        else s).mapEntry n f (f.imm.toNat % 4) epa (xbOf s n f).toNat else s := by
  unfold xbOf at *
  simp only [mapPaWord, hpriv, Bool.not_true, Bool.false_eq_true, if_false]
  rw [mapWord_absent hva (mapPa_form hlt hl) hbusy hw he, bitOf_toNat]
  simp only [himage, Bool.false_eq_true, if_false]
  exact if_entry_and_table _ _ _ _ _

theorem mapPaWord_present {f : Form} {s : State} {n e epa : Nat} (hva : (xaOf s n f).toNat < 2 ^ 56)
    (hpriv : (s.core n).priv = true) (hlt : f.imm.toNat < 8)
    (hl : if f.imm.getLsbD 2 = true then f.imm.toNat % 4 ≠ 3 else f.imm.toNat % 4 ≠ 0)
    (hbusy : s.pageBusy n (s.core n).context (regionBase (xaOf s n f).toNat (f.imm.toNat % 4)) (regionSize (f.imm.toNat % 4)) = false)
    (h : (s.walkTo (s.core n).context (xaOf s n f).toNat (f.imm.toNat % 4) = .entry e epa ∧ bitOf e 0 = true) ∨
      s.walkTo (s.core n).context (xaOf s n f).toNat (f.imm.toNat % 4) = .mapped) :
    mapPaWord f n s = wordDone s n f (BitVec.ofNat 64 (2 ^ 63 + 1)) := by
  simp only [mapPaWord, hpriv, Bool.not_true, Bool.false_eq_true, if_false]
  exact mapWord_present hva (mapPa_form hlt hl) hbusy h

/-- `MAP.ZERO` and `MAP.COPY` are the checks of `MAP` and an act on the absent entry. -/
theorem exec_mapFrame {f : Form} {s : State} {n : Nat} {i : Instr} (hu : s.unit = .core n) (hi : i ∈ [Instr.mapZero f, .mapCopy f]) :
    ∃ go, exec i s = .next (mapWord f n 3 (f.imm != 0) go s) := by
  simp only [List.mem_cons, List.not_mem_nil, or_false] at hi
  rcases hi with rfl | rfl
  · exact ⟨_, onCore_core _ hu⟩
  · exact ⟨_, onCore_core _ hu⟩

/-- A frame is taken from a pool that is empty. -/
theorem takeFrame_empty {f : Form} {s : State} {n : Nat} (epa : Nat) (bs : List Byte)
    (h : ((s.ctx (s.core n).context.toNat).reg 0x11F).toNat = 0) :
    takeFrame f n epa bs s = wordDone s n f (BitVec.ofNat 64 (2 ^ 63 + 4)) := by
  rw [← coreResult_eq_wordDone]
  simp only [takeFrame, h, if_true]
  rfl

/-- A frame is taken from the top of the pool and filled, encrypted by its leaf (R382, R384). -/
theorem takeFrame_fills {f : Form} {s : State} {n epa pool leaf va listed : Nat} {bs : List Byte} {p : Page} {c : BitVec 8}
    (hc : (s.core n).context = c) (hpool : ((s.ctx c.toNat).reg 0x11F).toNat = pool) (hne : pool ≠ 0)
    (hva : (xaOf s n f).toNat / 65536 * 65536 = va) (hlisted : ((s.ctx c.toNat).reg 0x11E).toNat + 4 * (pool - 1) = listed)
    (hleaf : frameLeaf (xbOf s n f).toNat (memNat s.mem listed 4) = leaf)
    (hp : s.checkLeaf c ⟨leaf, 3, epa⟩ va false false = .ok p) :
    takeFrame f n epa bs s = if s.reachesAll (agentD n) (p.pa va) 65536 = true ∧ s.reachesAll (agentD n) listed 4 = true then
      ((s.modCtx c.toNat fun x => x.setReg 0x11F (BitVec.ofNat 64 (pool - 1))).physWrites c (p.pa va)
        ((bs.zip (List.range bs.length)).map fun b => b.1 ^^^
          ((s.modCtx c.toNat fun x => x.setReg 0x11F (BitVec.ofNat 64 (pool - 1))).keyByte (agentD n) c p (va + b.2)).1)).mapEntry
        n f 3 epa leaf else s := by
  unfold xaOf at hva
  unfold xbOf at hleaf
  simp only [takeFrame, hc, hpool, hne, hva, hlisted, hleaf, if_false]
  exact (State.coreAct_ok (a := p) (s' := s) _ (by rw [hp]; rfl)).trans (if_unreached_two _ _ _ _)

/-! ## `UNMAP` and `MIGR` (R385, R386) -/

section Leaf
variable {f : Form} {s : State} {n : Nat} {go : Page → State → State} (hva : (xaOf s n f).toNat < 2 ^ 56)
include hva

theorem leafWord_absent {lvl epa : Nat} (hw : s.walk (s.core n).context (xaOf s n f).toNat = .absent lvl epa) :
    leafWord f n go s = if s.pageBusy n (s.core n).context (regionBase (xaOf s n f).toNat lvl) (regionSize lvl) = true then s
      else wordDone s n f (BitVec.ofNat 64 (2 ^ 63 + 1)) := by
  rw [← coreResult_eq_wordDone]
  unfold xaOf regionBase at *
  simp only [leafWord, Nat.not_le.mpr hva, hw, if_false]
  rfl

theorem leafWord_leaf {e lvl epa : Nat} (hw : s.walk (s.core n).context (xaOf s n f).toNat = .leaf e lvl epa) :
    leafWord f n go s = if s.pageBusy n (s.core n).context (regionBase (xaOf s n f).toNat lvl) (regionSize lvl) = true then s
      else go ⟨e, lvl, epa⟩ s := by
  unfold xaOf regionBase at *
  simp only [leafWord, Nat.not_le.mpr hva, hw, if_false]

end Leaf

/-- `UNMAP` by what the word has done so far. -/
theorem unmapWord_fetched {f : Form} {s : State} {n : Nat} (hwait : (s.core n).wait = .fetched) :
    unmapWord f n s = leafWord f n (fun p s' => if !s'.reachesAll (agentD n) p.epa 8 then s'
      else (s'.setEntry (s.core n).context p.epa (p.e - 1)).modCore n fun c => { c with wait := .reply (BitVec.ofNat 64 p.e) }) s := by
  simp only [unmapWord, hwait]

section Unmap
variable {f : Form} {s : State} {n lvl epa : Nat} {old : W64}
  (hw : s.walk (s.core n).context (xaOf s n f).toNat = .absent lvl epa)
include hw

theorem unmapWord_reply (hwait : (s.core n).wait = .reply old) :
    unmapWord f n s = if s.accessing (s.core n).context epa = true then s
      else (s.relatchPage (s.core n).context (regionBase (xaOf s n f).toNat lvl) lvl).modCore n fun x => { x with wait := .late old } := by
  unfold xaOf regionBase at *
  simp only [unmapWord, State.unmapped, hw, hwait]

theorem unmapWord_late (hwait : (s.core n).wait = .late old) :
    unmapWord f n s = if s.relatching (s.core n).context (relatchValue (regionBase (xaOf s n f).toNat lvl) lvl) = true then s
      else s.coreResult n f old := by
  unfold xaOf regionBase at *
  simp only [unmapWord, State.unmapped, hw, hwait]

end Unmap

/-- `MIGR` in control mode by what the word has done so far. -/
theorem migrWord_fetched {f : Form} {s : State} {n : Nat} (hpriv : (s.core n).priv = true) (hwait : (s.core n).wait = .fetched) :
    migrWord f n s = leafWord f n (migrStart f n) s := by
  simp only [migrWord, hpriv, hwait, Bool.not_true, Bool.false_eq_true, if_false]

section Migr
variable {f : Form} {s : State} {n e lvl epa : Nat} {old : W64} (hpriv : (s.core n).priv = true)
  (hw : s.walk (s.core n).context (xaOf s n f).toNat = .leaf e lvl epa)
include hpriv hw

theorem migrWord_reply (hwait : (s.core n).wait = .reply old) :
    migrWord f n s = if s.accessingOld (s.core n).context epa (leafPa old.toNat) true = true then s
      else if s.reachesAll (agentD n) (leafPa e) (regionSize lvl) = true ∧
          s.reachesAll (agentD n) (leafPa (xbOf s n f).toNat) (regionSize lvl) = true ∧ s.reachesAll (agentD n) epa 8 = true then
        (((s.copyFrame (leafPa e) (leafPa (xbOf s n f).toNat) (regionSize lvl)).showPhys (leafPa (xbOf s n f).toNat)
          (regionSize lvl)).setEntry (s.core n).context epa (withPa e (leafPa (xbOf s n f).toNat))).modCore n fun x =>
            { x with wait := .late old }
      else s := by
  unfold xaOf xbOf at *
  simp only [migrWord, migrCopy, hpriv, hw, hwait, Bool.not_true, Bool.false_eq_true, if_false]
  exact if_waits_or_unreached _ _ _ _ _ _

theorem migrWord_late (hwait : (s.core n).wait = .late old) :
    migrWord f n s = if s.accessingOld (s.core n).context epa (leafPa old.toNat) false = true ∨
        s.relatching (s.core n).context (relatchValue (regionBase (xaOf s n f).toNat lvl) lvl) = true then s
      else s.coreResult n f old := by
  unfold xaOf regionBase at *
  simp only [migrWord, migrEnd, State.unmapped, hpriv, hw, hwait, Bool.not_true, Bool.false_eq_true, if_false, Bool.or_eq_true]

end Migr

/-- `MIGR` starts on a leaf that it may move. -/
theorem migrStart_starts {f : Form} {s : State} {n e lvl epa : Nat} (htgt : Page.tgt ⟨e, lvl, epa⟩ = 0)
    (hpa : withPa e 0 = withPa (xbOf s n f).toNat 0) (hbad : entryBad lvl (xbOf s n f).toNat = false)
    (hmig : bitOf (xbOf s n f).toNat 7 = false) :
    migrStart f n ⟨e, lvl, epa⟩ s = if s.reachesAll (agentD n) epa 8 = true then
      ((s.setEntry (s.core n).context epa (if bitOf e 7 = true then e else e + 128)).relatchPage (s.core n).context
        (regionBase (xaOf s n f).toNat lvl) lvl).modCore n fun x => { x with wait := .reply (BitVec.ofNat 64 e) } else s := by
  unfold xaOf xbOf regionBase at *
  simp only [migrStart, htgt, hpa, hbad, hmig, ne_eq, not_true_eq_false, Bool.false_eq_true, or_self, if_false]
  exact if_unreached _ _ _

/-- The words whose checks up to the leaf are those of `leafWord`. -/
theorem exec_unmaps {f : Form} {s : State} {n : Nat} {i : Instr} (hu : s.unit = .core n) (hwait : (s.core n).wait = .fetched)
    (hi : i ∈ [Instr.unmap f, .unmapDclr f]) : ∃ go, exec i s = .next (leafWord f n go s) := by
  simp only [List.mem_cons, List.not_mem_nil, or_false] at hi
  rcases hi with rfl | rfl
  · exact ⟨_, (onCore_core _ hu).trans (congrArg _ (unmapWord_fetched hwait))⟩
  · exact ⟨_, onCore_core _ hu⟩

theorem exec_unmap {f : Form} {s : State} {n : Nat} (hu : s.unit = .core n) : exec (.unmap f) s = .next (unmapWord f n s) :=
  onCore_core _ hu
theorem exec_unmapDclr {f : Form} {s : State} {n : Nat} (hu : s.unit = .core n) :
    exec (.unmapDclr f) s = .next (unmapDclrWord f n s) := onCore_core _ hu
theorem exec_migr {f : Form} {s : State} {n : Nat} (hu : s.unit = .core n) : exec (.migr f) s = .next (migrWord f n s) :=
  onCore_core _ hu

/-- Settles O28: by the checks of `MAP` up to the entry and of `UNMAP` and `MIGR` up to the leaf. -/
theorem pageWords : Obligations.PageWords := by
  intro f s n hu c va xb lo lvl tbl pool frame leaf filled reached listed hva
  refine ⟨fun e epa hpriv hlt hl hbusy hw he himage => ?_, fun e epa hpriv hlt hl hbusy h => ?_, fun e epa himm hbusy h i hi => ?_,
    fun e epa himm hbusy hw he hr i hi => ?_, fun e epa himm hbusy hw he hr himage => ⟨fun hpool => ?_, fun p hne hp => ?_,
      fun bs s1 hrd hcore hctxs => ⟨fun hpool => ?_, fun p hne hframe hp => ?_⟩⟩,
    fun lvl epa hw hwait => ⟨fun hbusy i hi => ?_, fun hbusy i hi => ?_, fun hpriv => ?_⟩,
    fun e lvl epa hw hwait hbusy => ⟨fun i hi => ?_, fun hpriv => ?_⟩,
    fun e lvl epa hw hbusy => ⟨fun hwait => ?_, fun hacc hr => ?_, fun h => ?_, fun hpriv hwait htgt hpa hbad hmig => ?_⟩,
    fun old lvl epa hw => ⟨fun hwait hacc => ?_, fun hwait hrel => ?_, fun hwait hacc => ?_, fun hwait hrel => ?_⟩,
    fun old e lvl epa hpriv hw => ⟨fun hwait hacc => ?_, fun hwait hacc hrel => ?_, fun hwait hacc => ?_, fun hwait h => ?_⟩⟩
  · exact (onCore_core _ hu).trans (congrArg _ (mapPaWord_writes hva hpriv hlt hl hbusy hw he himage))
  · exact (onCore_core _ hu).trans (congrArg _ (mapPaWord_present hva hpriv hlt hl hbusy h))
  · obtain ⟨go, hx⟩ := exec_mapFrame hu hi
    rw [hx, mapWord_present hva (by rw [himm]; rfl) hbusy h]
  · obtain ⟨go, hx⟩ := exec_mapFrame hu hi
    rw [hx, mapWord_absent hva (by rw [himm]; rfl) hbusy hw he]
    exact congrArg _ (if_neg (Bool.eq_false_iff.mp hr))
  · show execMapZero f s = _
    rw [execMapZero, onCore_core _ hu, mapWord_absent hva (by rw [himm]; rfl) hbusy hw he]
    refine congrArg _ ((if_pos hr).trans ((if_neg (Bool.eq_false_iff.mp himage)).trans ?_))
    exact takeFrame_empty epa _ hpool
  · show execMapZero f s = _
    rw [execMapZero, onCore_core _ hu, mapWord_absent hva (by rw [himm]; rfl) hbusy hw he]
    refine congrArg _ ((if_pos hr).trans ((if_neg (Bool.eq_false_iff.mp himage)).trans ?_))
    exact takeFrame_fills rfl rfl hne rfl rfl rfl hp
  · show execMapCopy f s = _
    rw [execMapCopy, onCore_core _ hu, mapWord_absent hva (by rw [himm]; rfl) hbusy hw he]
    refine congrArg _ ((if_pos hr).trans ((if_neg (Bool.eq_false_iff.mp himage)).trans ((State.coreAct_ok _ hrd).trans ?_)))
    refine takeFrame_empty epa _ ?_
    rw [hcore]
    exact (congrArg (fun m => ((mapGet {} m c.toNat).reg 0x11F).toNat) hctxs).trans hpool
  · show execMapCopy f s = _
    rw [execMapCopy, onCore_core _ hu, mapWord_absent hva (by rw [himm]; rfl) hbusy hw he]
    refine congrArg _ ((if_pos hr).trans ((if_neg (Bool.eq_false_iff.mp himage)).trans ((State.coreAct_ok _ hrd).trans ?_)))
    refine takeFrame_fills ?_ ?_ hne ?_ ?_ ?_ hp
    · rw [hcore]
    · exact congrArg (fun m => ((mapGet {} m c.toNat).reg 0x11F).toNat) hctxs
    · unfold xaOf
      rw [hcore]
      rfl
    · exact congrArg (fun m => ((mapGet {} m c.toNat).reg 0x11E).toNat + 4 * (pool - 1)) hctxs
    · unfold xbOf
      rw [hcore, hframe]
      rfl
  · obtain ⟨go, hx⟩ := exec_unmaps hu hwait hi
    rw [hx, leafWord_absent hva hw]
    exact congrArg _ (if_neg (Bool.eq_false_iff.mp hbusy))
  · obtain ⟨go, hx⟩ := exec_unmaps hu hwait hi
    rw [hx, leafWord_absent hva hw]
    exact congrArg _ (if_pos hbusy)
  · rw [exec_migr hu, migrWord_fetched hpriv hwait, leafWord_absent hva hw]
    rfl
  · obtain ⟨go, hx⟩ := exec_unmaps hu hwait hi
    rw [hx, leafWord_leaf hva hw]
    exact congrArg _ (if_pos hbusy)
  · rw [exec_migr hu, migrWord_fetched hpriv hwait, leafWord_leaf hva hw]
    exact congrArg _ (if_pos hbusy)
  · rw [exec_unmap hu, unmapWord_fetched hwait, leafWord_leaf hva hw]
    exact congrArg _ ((if_neg (Bool.eq_false_iff.mp hbusy)).trans (if_unreached _ _ _))
  · rw [exec_unmapDclr hu, unmapDclrWord, leafWord_leaf hva hw]
    refine congrArg _ ((if_neg (Bool.eq_false_iff.mp hbusy)).trans (if_neg ?_))
    rw [show State.accessing _ _ _ = _ from hacc, show State.reachesAll _ _ _ _ = _ from hr]
    exact Bool.false_ne_true
  · rw [exec_unmapDclr hu, unmapDclrWord, leafWord_leaf hva hw]
    refine congrArg _ ((if_neg (Bool.eq_false_iff.mp hbusy)).trans (if_pos ?_))
    rcases h with h | h
    · rw [show State.accessing _ _ _ = _ from h]
      rfl
    · rw [show State.reachesAll _ _ _ _ = _ from h]
      exact Bool.or_true _
  · rw [exec_migr hu, migrWord_fetched hpriv hwait, leafWord_leaf hva hw]
    exact congrArg _ ((if_neg (Bool.eq_false_iff.mp hbusy)).trans (migrStart_starts htgt hpa hbad hmig))
  · rw [exec_unmap hu, unmapWord_reply hw hwait]
    exact congrArg _ (if_neg (Bool.eq_false_iff.mp hacc))
  · rw [exec_unmap hu, unmapWord_late hw hwait, ← coreResult_eq_wordDone]
    exact congrArg _ (if_neg (Bool.eq_false_iff.mp hrel))
  · rw [exec_unmap hu, unmapWord_reply hw hwait]
    exact congrArg _ (if_pos hacc)
  · rw [exec_unmap hu, unmapWord_late hw hwait]
    exact congrArg _ (if_pos hrel)
  · rw [exec_migr hu, migrWord_reply hpriv hw hwait]
    exact congrArg _ (if_neg (Bool.eq_false_iff.mp hacc))
  · rw [exec_migr hu, migrWord_late hpriv hw hwait, ← coreResult_eq_wordDone]
    exact congrArg _ (if_neg (not_or.mpr ⟨Bool.eq_false_iff.mp hacc, Bool.eq_false_iff.mp hrel⟩))
  · rw [exec_migr hu, migrWord_reply hpriv hw hwait]
    exact congrArg _ (if_pos hacc)
  · rw [exec_migr hu, migrWord_late hpriv hw hwait]
    exact congrArg _ (if_pos h)

end Sys2Proof.Proofs
end

section
/-! PROOFS. Link words of a drover core: `LNKCFG` and `LNKADD` (R388, R394, R395, R400 to R402). -/

namespace Sys2Proof.Proofs

open Sys2Proof Sys2Proof.Machine Sys2Proof.Claims

/-! ## `LNKCFG` (R401) -/

/-- A `LNKCFG` word whose checks pass. -/
theorem linkWordOf_goes {f : Form} {s : State} {n : Nat} {query : Bool} {bad : Nat → Bool} {go : Nat → State → State}
    (hq : query = true ∨ (s.core n).priv = true) (hl : isLink (xaOf s n f).toNat = true)
    (hd : query = true ∨ (portDies (xaOf s n f).toNat).contains (n / 64) = true) (hb : bad (xaOf s n f).toNat = false) :
    linkWordOf f n query bad go s = go (xaOf s n f).toNat s := by
  unfold xaOf at *
  refine (if_neg ?_).trans (if_neg ?_)
  · rcases hq with h | h <;> rw [h] <;> simp
  · rw [hl, hb]
    rcases hd with h | h <;> rw [h] <;> simp

/-- A `LNKCFG` word on a number that names no link. -/
theorem linkWordOf_illegal {f : Form} {s : State} {n : Nat} {bad : Nat → Bool} {go : Nat → State → State}
    (hl : isLink (xaOf s n f).toNat = false) : linkWordOf f n true bad go s = s.coreFault n fcIllegal := by
  unfold xaOf at *
  simp only [linkWordOf, hl, Bool.not_true, Bool.not_false, Bool.false_eq_true, false_and, if_false, true_or, if_true]

theorem isLink_of_lt {l : Nat} (h : l < 9) : isLink l = true := by
  unfold isLink
  rw [decide_eq_true (show l ≤ 12 by omega)]
  rfl

theorem notTrained_of_lt {l : Nat} (h : l < 9) : notTrained l = false := decide_eq_false (Nat.not_le.mpr h)

/-- A stack's lanes are a link, and its die is that of the stack. -/
theorem isLink_stack {l : Nat} (h1 : 0x40 ≤ l) (h2 : l ≤ 0x47) : isLink l = true := by
  unfold isLink
  rw [decide_eq_true h1, decide_eq_true h2]
  exact Bool.or_true _

theorem portDies_stack {l d : Nat} (h1 : 0x40 ≤ l) (hd : (l - 0x40) / 2 = d) : (portDies l).contains d = true := by
  rw [portDies, if_pos h1, hd]
  simp

section Train
variable {f : Form} {s : State} {n : Nat} (hu : s.unit = .core n) (hpriv : (s.core n).priv = true)
  (hl : (xaOf s n f).toNat < 9) (hd : (portDies (xaOf s n f).toNat).contains (n / 64) = true)
include hu hpriv hl hd

theorem exec_lnkcfgTrain : exec (.lnkcfgTrain f) s = .next
    ((if (s.link (xaOf s n f).toNat).state = .up then s.leaveUp (xaOf s n f).toNat (s.link (xaOf s n f).toNat) .training
      else if (s.link (xaOf s n f).toNat).state = .down ∨ (s.link (xaOf s n f).toNat).state = .failed then
        s.setLink (xaOf s n f).toNat { s.link (xaOf s n f).toNat with state := .training } else s).coreResult
      n f (BitVec.ofNat 64 (s.link (xaOf s n f).toNat).state.code)) := by
  show execLnkcfgTrain f s = _
  rw [execLnkcfgTrain, onCore_core _ hu, linkWordOf_goes (.inr hpriv) (isLink_of_lt hl) (.inr hd) (notTrained_of_lt hl)]

theorem exec_lnkcfgDown : exec (.lnkcfgDown f) s = .next
    ((if (s.link (xaOf s n f).toNat).state = .down then s
      else if (s.link (xaOf s n f).toNat).state = .failed then
        s.setLink (xaOf s n f).toNat { s.link (xaOf s n f).toNat with state := .down }
      else s.dropLink (xaOf s n f).toNat .down).coreResult n f (BitVec.ofNat 64 (s.link (xaOf s n f).toNat).state.code)) := by
  show execLnkcfgDown f s = _
  rw [execLnkcfgDown, onCore_core _ hu, linkWordOf_goes (.inr hpriv) (isLink_of_lt hl) (.inr hd) (notTrained_of_lt hl)]

end Train

/-! ## `LNKCFG.RATIO` (R394, R395) -/

/-- Changes of the ratio leave the rest of a lane as it is, and the last one counts. -/
theorem foldl_ratio (ws : List (Nat × Nat × Bool)) (x : Lane) (w : Nat × Nat × Bool) :
    (ws ++ [w]).foldl (fun (x : Lane) w => { x with ratio := w.2.1, lend := w.2.2 }) x = { x with ratio := w.2.1, lend := w.2.2 } := by
  rw [List.foldl_append]
  induction ws generalizing x with
  | nil => rfl
  | cons v ws ih => exact ih _

theorem ask_own {n r : Nat} {lend : Bool} {x : Lane} (h : x.state = .own) :
    x.ask n r lend = { x with ratio := r, lend := lend, wants := [] } := by
  unfold Lane.ask
  simp only [h, Lane.change, foldl_ratio]

theorem ask_lent {n r : Nat} {lend : Bool} {x : Lane} (h : x.state = .lent) :
    x.ask n r lend = { x with state := .reclaiming, wants := x.wants ++ [(n, r, lend)] } := by
  unfold Lane.ask
  simp only [h]

theorem ask_handshake {n r : Nat} {lend : Bool} {x : Lane} (h : x.state = .lending ∨ x.state = .reclaiming) :
    x.ask n r lend = { x with wants := x.wants ++ [(n, r, lend)] } := by
  unfold Lane.ask
  rcases h with h | h <;> simp only [h]

/-- What `RATIO` does at a channel, by the channel's state. -/
theorem askLane_by_state (s : State) (n r k : Nat) (lend : Bool) :
    s.askLane n r lend k = match (s.lane k).state with
      | .own => if (s.lane k).ratio = r ∧ (s.lane k).lend = lend then s
          else (s.setLane k { s.lane k with ratio := r, lend := lend, wants := [] }).laneRetrained k
      | .lent => s.setLane k { s.lane k with state := .reclaiming, wants := (s.lane k).wants ++ [(n, r, lend)] }
      | .lending | .reclaiming => s.setLane k { s.lane k with wants := (s.lane k).wants ++ [(n, r, lend)] } := by
  unfold State.askLane
  cases h : (s.lane k).state with
  | own =>
    simp only [ask_own h]
    simp only [h, true_and, if_true]
  | lent =>
    simp only [ask_lent h]
    simp only [h, reduceCtorEq, false_and, if_false]
  | lending =>
    simp only [ask_handshake (.inl h)]
    simp only [h, reduceCtorEq, false_and, if_false]
  | reclaiming =>
    simp only [ask_handshake (.inr h)]
    simp only [h, reduceCtorEq, false_and, if_false]

theorem foldl_congr {α β : Type} {g h : β → α → β} (hgh : ∀ b a, g b a = h b a) {l : List α} {b : β} :
    l.foldl g b = l.foldl h b := by
  rw [show g = h from funext fun b => funext fun a => hgh b a]

section Ratio
variable {f : Form} {s : State} {n : Nat} (hu : s.unit = .core n) (hpriv : (s.core n).priv = true)
  (h1 : 0x40 ≤ (xaOf s n f).toNat) (h2 : (xaOf s n f).toNat ≤ 0x47) (hd : ((xaOf s n f).toNat - 0x40) / 2 = n / 64)
  (hb : badRatio (xbOf s n f).toNat = false)
include hu hpriv h1 h2 hd hb

theorem exec_lnkcfgRatio_fetched (hw : (s.core n).wait = .fetched) {asked : State}
    (ha : asked = (ratioLanes (xaOf s n f).toNat (xbOf s n f).toNat).foldl
      (fun t k => t.askLane n (bitsOf (xbOf s n f).toNat 8 2) (bitOf (xbOf s n f).toNat 11) k) s) :
    exec (.lnkcfgRatio f) s = .next (
      if ((ratioLanes (xaOf s n f).toNat (xbOf s n f).toNat).all fun k => (asked.lane k).settled n) = true then
        asked.coreResult n f 0 else asked.modCore n fun c => { c with wait := .late 0 }) := by
  show execLnkcfgRatio f s = _
  rw [execLnkcfgRatio, onCore_core _ hu]
  dsimp only
  rw [linkWordOf_goes (.inr hpriv) (isLink_stack h1 h2) (.inr (portDies_stack h1 hd)), ha]
  · simp only [hw, Bool.false_eq_true, if_false]
    rfl
  · unfold xbOf at hb
    rw [hb, decide_eq_false (Nat.not_lt.mpr h1)]
    rfl

theorem exec_lnkcfgRatio_late {v : W64} (hw : (s.core n).wait = .late v) : exec (.lnkcfgRatio f) s = .next (
      if ((ratioLanes (xaOf s n f).toNat (xbOf s n f).toNat).all fun k => (s.lane k).settled n) = true then
        s.coreResult n f 0 else s.modCore n fun c => { c with wait := .late 0 }) := by
  show execLnkcfgRatio f s = _
  rw [execLnkcfgRatio, onCore_core _ hu]
  dsimp only
  rw [linkWordOf_goes (.inr hpriv) (isLink_stack h1 h2) (.inr (portDies_stack h1 hd))]
  · simp only [hw, if_true]
    rfl
  · unfold xbOf at hb
    rw [hb, decide_eq_false (Nat.not_lt.mpr h1)]
    rfl

end Ratio

/-! ## `LNKADD` (R402) -/

/-- `LNKADD.START` of a chain record that passes its checks, by the lowest free adder. -/
theorem lnkaddStartWord_by_adder {f : Form} {s : State} {n : Nat} {a : Adder}
    (ha : a = adderOf (memNat (s.core n).dmem (xaOf s n f).toNat 64) (s.core n).context (f.imm.toNat % 4096))
    (hfit : (xaOf s n f).toNat ≤ 0xFFC0) (h16 : (xaOf s n f).toNat % 16 = 0) (himm : f.imm.toNat < 4096)
    (hev : f.imm.toNat % 4096 < ((s.ctx (s.core n).context.toNat).reg 0x113).toNat)
    (hbad : badChain (memNat (s.core n).dmem (xaOf s n f).toNat 64) (n / 64) a = false) :
    lnkaddStartWord f n s =
      match (List.range 4).find? fun k =>
        !(mapGet {} s.adders ((if a.out = 0xFF then a.inn else a.out) + n / 64 * 1024 + k * 256)).running with
      | none => s.coreResult n f (refusal 1)
      | some k =>
        if !s.adderLink a.inn || !s.adderLink a.out then s.coreResult n f (refusal fcLinkDown)
        else { s with adders := mapSet {} s.adders ((if a.out = 0xFF then a.inn else a.out) + n / 64 * 1024 + k * 256) a }.coreResult
          n f (BitVec.ofNat 64 ((if a.out = 0xFF then a.inn else a.out) + n / 64 * 1024 + k * 256)) := by
  have himm0 : bitsOf f.imm.toNat 12 20 = 0 := by
    unfold bitsOf
    omega
  unfold xaOf at *
  subst ha
  simp only [lnkaddStartWord, Nat.not_lt.mpr hfit, h16, himm0, Nat.not_le.mpr hev, hbad, ne_eq, not_true_eq_false, or_self,
    Bool.false_eq_true, if_false] <;> rfl

/-- `LNKADD.STAT` and `CANCEL` on an adder of the context. -/
theorem adderWord_goes {f : Form} {s : State} {n : Nat} (go : Nat → State → State) (hlt : (xaOf s n f).toNat < 4096)
    (hused : (mapGet {} s.adders (xaOf s n f).toNat).used = true)
    (hc : (mapGet {} s.adders (xaOf s n f).toNat).ctx = (s.core n).context) :
    adderWord f n go s = go (xaOf s n f).toNat s := by
  unfold xaOf at *
  simp only [adderWord, Nat.not_le.mpr (show _ < 2 ^ 12 from hlt), hused, hc, Bool.not_true, Bool.false_eq_true, or_self, ne_eq, not_true_eq_false,
    if_false]

/-- Settles O29: each word passes its checks and does its operation. -/
theorem linkWords : Obligations.LinkWords := by
  intro f s n hu l xb x ks ratio lend asked changed
  refine ⟨fun hl => ?_, fun hl hh => ?_, fun hpriv hl hd => ⟨fun hst => ?_, fun hst => ?_, fun hst => ?_, fun hst => ?_,
    fun hst => ?_, fun hst => ?_⟩, fun hpriv h1 h2 hd hb => ⟨fun hw => ?_, fun v hw => ?_⟩, ?_, fun hlt hused hc => ⟨?_, ?_⟩⟩
  · show execLnkcfgQuery f s = _
    rw [execLnkcfgQuery, onCore_core _ hu, linkWordOf_goes (.inl rfl) hl (.inl rfl) rfl, coreResult_eq_wordDone]
  · show execLnkcfgQuery f s = _
    rw [execLnkcfgQuery, onCore_core _ hu]
    rw [linkWordOf_illegal hl, coreFault_entered _ _ _ hh]
    rfl
  · rw [exec_lnkcfgTrain hu hpriv hl hd]
    refine congrArg (fun t : State => Host.Outcome.next (t.coreResult n f _)) ((if_neg ?_).trans (if_pos hst))
    rcases hst with h | h <;> exact fun hup => LinkState.noConfusion (h.symm.trans hup)
  · rw [exec_lnkcfgTrain hu hpriv hl hd]
    exact congrArg (fun t : State => Host.Outcome.next (t.coreResult n f _)) (if_pos hst)
  · rw [exec_lnkcfgTrain hu hpriv hl hd, ← coreResult_eq_wordDone]
    refine congrArg (fun t : State => Host.Outcome.next (t.coreResult n f _)) ((if_neg ?_).trans (if_neg ?_))
    · rcases hst with h | h <;> exact fun hup => LinkState.noConfusion (h.symm.trans hup)
    · rcases hst with h | h <;> rintro (hup | hup) <;> exact LinkState.noConfusion (h.symm.trans hup)
  · rw [exec_lnkcfgDown hu hpriv hl hd, ← coreResult_eq_wordDone, show (s.link _).state = _ from hst]
    rfl
  · rw [exec_lnkcfgDown hu hpriv hl hd, show (s.link _).state = _ from hst]
    rfl
  · rw [exec_lnkcfgDown hu hpriv hl hd]
    refine congrArg (fun t : State => Host.Outcome.next (t.coreResult n f _)) ((if_neg ?_).trans (if_neg ?_))
    · rcases hst with h | h | h <;> exact fun hup => LinkState.noConfusion (h.symm.trans hup)
    · rcases hst with h | h | h <;> exact fun hup => LinkState.noConfusion (h.symm.trans hup)
  · refine exec_lnkcfgRatio_fetched hu hpriv h1 h2 hd hb hw ?_
    exact foldl_congr fun s k => (askLane_by_state s n ratio k lend).symm
  · exact exec_lnkcfgRatio_late hu hpriv h1 h2 hd hb hw
  · intro ev h a base hfit h16 himm hev hbad
    have hexec : exec (.lnkaddStart f) s = .next (lnkaddStartWord f n s) := onCore_core _ hu
    refine ⟨fun k hk hfree hlow hin hout => ?_, fun hrun => ?_⟩
    · rw [hexec, lnkaddStartWord_by_adder rfl hfit h16 himm hev hbad]
      rw [find_range_lowest (p := fun j => !(mapGet {} s.adders (base + j * 256)).running) hk (by rw [hfree]; rfl)
        fun j hj => by rw [hlow j hj]; rfl]
      refine congrArg _ (if_neg ?_)
      rw [show s.adderLink _ = _ from hin, show s.adderLink _ = _ from hout]
      exact Bool.false_ne_true
    · rw [hexec, lnkaddStartWord_by_adder rfl hfit h16 himm hev hbad, ← coreResult_eq_wordDone]
      rw [List.find?_eq_none.mpr fun j hj => by rw [hrun j (List.mem_range.mp hj)]; exact Bool.false_ne_true]
      rfl
  · show execLnkaddStat f s = _
    rw [execLnkaddStat, onCore_core _ hu, adderWord_goes _ hlt hused hc, coreResult_eq_wordDone]
  · show execLnkaddCancel f s = _
    rw [execLnkaddCancel, onCore_core _ hu, adderWord_goes _ hlt hused hc]

end Sys2Proof.Proofs
end

section
/-! PROOFS. Requests at the scratchpad port and at the tag-table port (R170 to R173, R188 to R191). -/

namespace Sys2Proof.Proofs

open Sys2Proof Sys2Proof.Machine Sys2Proof.Claims

/-! ## The scratchpad port (R172) -/

section Port
variable {s : State} {t : Nat} {r : Req} (hk : r.kind = .data)
include hk

theorem waiterReady_data (before : List Req) : s.waiterReady t before r = s.portReady t r := if_pos hk

/-- The head of the queue is served: its effect, its reply, and what the change lets go. -/
theorem portTurn_serves (h : s.portReady t r = true) : portTurn (.scratch t) r s =
    (((portPerform t r (s.endHead (.scratch t))).2).reply (.scratch t) r .data
      (portPerform t r (s.endHead (.scratch t))).1).settle t := by
  have hne : r.kind ≠ .err := by rw [hk]; exact Kind.noConfusion
  simp only [portTurn, if_neg hne, waiterReady_data hk, h, if_true, State.portServe, if_pos hk]

/-- A request whose granules do not allow it joins the waiting list. -/
theorem portTurn_waits (h : s.portReady t r = false) (hroom : (s.tile t).waiting.length < 64) : portTurn (.scratch t) r s =
    (s.endHead (.scratch t)).modTile t fun x => { x with waiting := x.waiting ++ [r] } := by
  have hne : r.kind ≠ .err := by rw [hk]; exact Kind.noConfusion
  simp only [portTurn, if_neg hne, waiterReady_data hk, h, Bool.false_eq_true, if_false, if_pos hroom]

end Port

section Ops
variable {f : Form} {s : State} {t : Nat} {r : Req}

theorem portReady_lds (hr : r.instr = .lds f) :
    s.portReady t r = (bitsOf f.mod.toNat 3 2 == 0 || s.isFull t (spAddress r / 16)) := by
  unfold State.portReady
  rw [hr]
  rfl
theorem portReady_sts (hr : r.instr = .sts f) :
    s.portReady t r = (bitsOf f.mod.toNat 3 2 != 2 || !s.isFull t (spAddress r / 16)) := by
  unfold State.portReady
  rw [hr]
  rfl
theorem portReady_feq (hr : r.instr = .feq f) :
    s.portReady t r = (f.mod == 0 || s.granules t (firstGranule r.l) f.imm.toNat (f.mod == 1)) := by
  unfold State.portReady
  rw [hr]
  rfl
theorem portReady_feset (hr : r.instr = .feset f) : s.portReady t r = true := by
  unfold State.portReady
  rw [hr]
  rfl
theorem portReady_atom (hr : r.instr = .atom f) : s.portReady t r = true := by
  unfold State.portReady
  rw [hr]
  rfl

theorem portPerform_lds (hr : r.instr = .lds f) : portPerform t r s = portLoad t r s := by
  unfold portPerform
  rw [hr]
  rfl
theorem portPerform_sts (hr : r.instr = .sts f) : portPerform t r s = portStore t r s := by
  unfold portPerform
  rw [hr]
  rfl
theorem portPerform_feq (hr : r.instr = .feq f) : portPerform t r s = portFeq t r s := by
  unfold portPerform
  rw [hr]
  rfl
theorem portPerform_feset (hr : r.instr = .feset f) : portPerform t r s = portFeset t r s := by
  unfold portPerform
  rw [hr]
  rfl
theorem portPerform_atom (hr : r.instr = .atom f) : portPerform t r s = portAtom t r s := by
  unfold portPerform
  rw [hr]
  rfl

/-- `LDS` without a condition. -/
theorem portLoad_plain (hr : r.instr = .lds f) (hq : bitsOf f.mod.toNat 3 2 = 0) : portLoad t r s =
    (loadValue (.lds f) (spRead pathE t (spAddress r) (accessWidth r.instr) s).1,
      (spRead pathE t (spAddress r) (accessWidth r.instr) s).2) := by
  have h2 : bitsOf f.mod.toNat 3 2 ≠ 2 := by omega
  have hf : formOf r.instr = f := by rw [hr]; rfl
  simp only [portLoad, hf, if_pos hq, if_neg h2]
  rw [hr]

/-- `LDS` on a full granule. -/
theorem portLoad_full (hr : r.instr = .lds f) (hq : bitsOf f.mod.toNat 3 2 ≠ 0) : portLoad t r s =
    (loadValue (.lds f) (spRead pathE t (spAddress r) (accessWidth r.instr) (s.seeGranule t (spAddress r / 16))).1,
      if bitsOf f.mod.toNat 3 2 = 2 then
        (spRead pathE t (spAddress r) (accessWidth r.instr) (s.seeGranule t (spAddress r / 16))).2.setFull t (spAddress r / 16) 1 false
      else (spRead pathE t (spAddress r) (accessWidth r.instr) (s.seeGranule t (spAddress r / 16))).2) := by
  have hf : formOf r.instr = f := by rw [hr]; rfl
  simp only [portLoad, hf, if_neg hq]
  rw [hr]

theorem portStore_eq (hr : r.instr = .sts f) : portStore t r s =
    (0, if bitsOf f.mod.toNat 3 2 = 0 then spWrite pathE t (spAddress r) (toBytes r.r.toNat (accessWidth r.instr)) s
      else (spWrite pathE t (spAddress r) (toBytes r.r.toNat (accessWidth r.instr)) s).setFull t (spAddress r / 16) 1 true) := by
  have hf : formOf r.instr = f := by rw [hr]; rfl
  simp only [portStore, storeBytes, hf]

theorem portFeq_read (hr : r.instr = .feq f) (hm : f.mod = 0) :
    portFeq t r s = (s.feqWord t (firstGranule r.l), s.seeFull t (firstGranule r.l) 64) := by
  have hf : formOf r.instr = f := by rw [hr]; rfl
  simp only [portFeq, hf, if_pos hm]

/-- `FEQ.WF` and `FEQ.WE`, of which the first observes the full bits. -/
theorem portFeq_waits (hr : r.instr = .feq f) (hm : f.mod ≠ 0) :
    portFeq t r s = (r.l, if f.mod = 1 then s.seeFull t (firstGranule r.l) f.imm.toNat else s) := by
  have hf : formOf r.instr = f := by rw [hr]; rfl
  simp only [portFeq, hf, if_neg hm]

theorem portFeset_eq (hr : r.instr = .feset f) :
    portFeset t r s = (r.l, s.setFull t (firstGranule r.l) f.imm.toNat (f.mod == 1)) := by
  have hf : formOf r.instr = f := by rw [hr]; rfl
  simp only [portFeset, hf]

theorem portAtom_eq (hr : r.instr = .atom f) : portAtom t r s =
    (BitVec.ofNat 64 (ofBytes (spRead pathE t (spAddress r) (accessWidth r.instr) s).1),
      spWrite pathE t (spAddress r) (toBytes (atomNew f (accessWidth r.instr)
        (ofBytes (spRead pathE t (spAddress r) (accessWidth r.instr) s).1) r.r r.c) (accessWidth r.instr))
        (spRead pathE t (spAddress r) (accessWidth r.instr) s).2) := by
  have hf : formOf r.instr = f := by rw [hr]; rfl
  simp only [portAtom, hf]

theorem granules_iff {g n : Nat} {v : Bool} : s.granules t g n v = true ↔ ∀ k, k < n → s.isFull t (g + k) = v := by
  unfold State.granules
  rw [List.all_eq_true]
  exact forall_congr' fun k => by rw [List.mem_range, beq_iff_eq]

theorem granules_not {g n k : Nat} {v : Bool} (hk : k < n) (h : s.isFull t (g + k) ≠ v) : s.granules t g n v = false := by
  rw [← Bool.not_eq_true, granules_iff]
  exact fun hall => h (hall k hk)

end Ops

/-- Settles O44: the port's condition and effect, operation by operation. -/
theorem scratchpadUnit : Obligations.ScratchpadUnit := by
  intro f s t r hu hk s0 q done a g w waits
  have hlds : exec (.lds f) s = .next (portTurn (.scratch t) r s) := by
    show execLds f s = _
    rw [execLds, onAll_engine _ _ _ hu]
  have hsts : exec (.sts f) s = .next (portTurn (.scratch t) r s) := by
    show execSts f s = _
    rw [execSts, onAll_engine _ _ _ hu]
  have hfeq : exec (.feq f) s = .next (portTurn (.scratch t) r s) := onRequest_engine _ _ hu
  have hfeset : exec (.feset f) s = .next (portTurn (.scratch t) r s) := onRequest_engine _ _ hu
  have hatom : exec (.atom f) s = .next (portTurn (.scratch t) r s) := by
    show execAtom f s = _
    rw [execAtom, onAll_engine _ _ _ hu]
  refine ⟨fun hr => ⟨fun hq => ?_, fun hq hfull => ?_, fun hq hfull hroom => ?_⟩, fun hr h => ?_, fun hr hq hfull hroom => ?_,
    fun hr => ⟨fun hm => ?_, fun hm hall => ?_, fun hm hall => ?_, fun hm hex hroom => ?_, fun hm hex hroom => ?_⟩,
    fun hr => ?_, fun hr => ?_⟩
  · rw [hlds, portTurn_serves hk (by rw [portReady_lds hr, beq_iff_eq.mpr hq]; rfl), portPerform_lds hr, portLoad_plain hr hq]
  · rw [hlds, portTurn_serves hk (by rw [portReady_lds hr, hfull]; exact Bool.or_true _), portPerform_lds hr, portLoad_full hr hq]
  · rw [hlds, portTurn_waits hk (by rw [portReady_lds hr, hfull, beq_eq_false_iff_ne.mpr hq]; rfl) hroom]
  · have hready : s.portReady t r = true := by
      rw [portReady_sts hr]
      rcases h with h | h
      · rw [bne_iff_ne.mpr h]; rfl
      · rw [h]; exact Bool.or_true _
    rw [hsts, portTurn_serves hk hready, portPerform_sts hr, portStore_eq hr]
  · have hready : s.portReady t r = false := by
      rw [portReady_sts hr, hfull, bne_eq_false_iff_eq.mpr hq]
      rfl
    rw [hsts, portTurn_waits hk hready hroom]
  · rw [hfeq, portTurn_serves hk (by rw [portReady_feq hr, beq_iff_eq.mpr hm]; rfl), portPerform_feq hr, portFeq_read hr hm,
      show firstGranule r.l = g from rfl]
  · have hg : s.granules t (firstGranule r.l) f.imm.toNat (f.mod == 1) = true :=
      granules_iff.mpr fun k hlt => (hall k hlt).trans (by rw [hm]; rfl)
    rw [hfeq, portTurn_serves hk (by rw [portReady_feq hr, hg]; exact Bool.or_true _), portPerform_feq hr,
      portFeq_waits hr (by rw [hm]; decide), if_pos hm]
    rfl
  · have hg : s.granules t (firstGranule r.l) f.imm.toNat (f.mod == 1) = true :=
      granules_iff.mpr fun k hlt => (hall k hlt).trans (by rw [hm]; rfl)
    rw [hfeq, portTurn_serves hk (by rw [portReady_feq hr, hg]; exact Bool.or_true _), portPerform_feq hr,
      portFeq_waits hr (by rw [hm]; decide), if_neg (by rw [hm]; decide)]
  · obtain ⟨k, hlt, hempty⟩ := hex
    have hg : s.granules t (firstGranule r.l) f.imm.toNat (f.mod == 1) = false :=
      granules_not hlt fun h => Bool.false_ne_true (hempty.symm.trans (h.trans (by rw [hm]; rfl)))
    rw [hfeq, portTurn_waits hk (by rw [portReady_feq hr, hg, hm]; rfl) hroom]
  · obtain ⟨k, hlt, hfull⟩ := hex
    have hg : s.granules t (firstGranule r.l) f.imm.toNat (f.mod == 1) = false :=
      granules_not hlt fun h => Bool.false_ne_true (((hfull.symm.trans h).trans (by rw [hm]; rfl)).symm)
    rw [hfeq, portTurn_waits hk (by rw [portReady_feq hr, hg, hm]; rfl) hroom]
  · rw [hfeset, portTurn_serves hk (portReady_feset hr), portPerform_feset hr, portFeset_eq hr]
    rfl
  · intro x
    rw [hatom, portTurn_serves hk (portReady_atom hr), portPerform_atom hr, portAtom_eq hr]

/-! ## The tag-table port (R189) -/

/-- The tag-table port answers the head of its queue. -/
theorem tableTurn_answers {s s' : State} {t : Nat} {r : Req} {v : W64} (go : Nat → Req → State → W64 × State)
    (hk : r.kind = .data) (h : go t r s = (v, s')) : tableTurn go (.tagTable t) r s = answered s' (.tagTable t) r v := by
  simp only [tableTurn]
  refine State.serve_data hk ?_
  rw [h]

theorem lookLine_found {x : Tile} {i v : Nat} (hi : i < 128) (h : x.line i = v) (hlow : ∀ j, j < i → x.line j ≠ v) :
    x.lookLine v = BitVec.ofNat 64 i := by
  unfold Tile.lookLine
  rw [find_range_lowest (p := fun j => x.line j == v) hi (beq_iff_eq.mpr h) fun j hj => beq_eq_false_iff_ne.mpr (hlow j hj)]

theorem lookLine_none {x : Tile} {v : Nat} (h : ∀ i, i < 128 → x.line i ≠ v) : x.lookLine v = 0xFFFF := by
  unfold Tile.lookLine
  rw [List.find?_eq_none.mpr fun i hi => by rw [beq_iff_eq]; exact h i (List.mem_range.mp hi)]

/-- Settles O45: the port serves each request with one effect and one reply. -/
theorem tagTableUnit : Obligations.TagTableUnit := by
  intro f s t r hu hk line entry set
  refine ⟨fun i hi h hlow => ?_, fun h => ?_, ?_, fun hm => ?_, fun hm => ?_⟩
  · refine (onRequest_engine _ _ hu).trans (congrArg _ (tableTurn_answers _ hk ?_))
    exact congrArg (·, s) (lookLine_found hi h hlow)
  · refine (onRequest_engine _ _ hu).trans (congrArg _ (tableTurn_answers _ hk ?_))
    exact congrArg (·, s) (lookLine_none h)
  · exact (onRequest_engine _ _ hu).trans (congrArg _ (tableTurn_answers _ hk rfl))
  · refine (onRequest_engine _ _ hu).trans (congrArg _ (tableTurn_answers _ hk ?_))
    exact congrArg (r.l, ·) (if_neg (by rw [hm]; decide))
  · refine (onRequest_engine _ _ hu).trans (congrArg _ (tableTurn_answers _ hk ?_))
    exact congrArg (r.l, ·) (if_pos hm)

end Sys2Proof.Proofs
end

section
/-! PROOFS. Requests at the matrix engine's ring port, at the scan unit and at a circuit (R210, R225, R228, R234). -/

namespace Sys2Proof.Proofs

open Sys2Proof Sys2Proof.Machine Sys2Proof.Claims

/-! ## The ring port (R228, R230) -/

/-- An `RSTAT.RING` of core 0. -/
def statusRequest : Req := { instr := .rstatRing default, origin := .core 0 }

/-- The ring port of tile 0 at a request of `RSTAT.RING`. -/
def statusAtPort : State := { unit := .engine (.ringPort 0) statusRequest }

/-- The word of a `RING` that defines ring 0. -/
def ringWord : Form := { (default : Form) with imm := 0x1000 }

/-- Ring 0 of tile 0 is defined in the state that an answer gives. -/
def definesRing (a : Answer) : Bool := match a with | .next s => (s.ring 0 0).defined | _ => false

/-- The ring port serves the word of the request at its head, whatever word the step was given. -/
theorem exec_ring_at_port : exec (.ring ringWord) statusAtPort =
    .next (statusAtPort.serve (.ringPort 0) statusRequest (portGo 0 (.rstatRing default))) := by
  show execRing ringWord statusAtPort = _
  rw [execRing, onAll_engine _ _ _ (show statusAtPort.unit = .engine (.ringPort 0) statusRequest from rfl)]
  rfl

/-- Refutes O46, by its clause about `RING` at the ring port: it does not say that the request at the head is the `RING`
itself, and the port serves the request's own word. At a request of `RSTAT.RING` no ring is defined. -/
theorem not_matrixUnit : ¬ Obligations.MatrixUnit := by
  rintro ⟨hport, -⟩
  obtain ⟨hring, -⟩ := hport ringWord statusAtPort 0 statusRequest rfl rfl
  have hsame := congrArg definesRing (exec_ring_at_port.symm.trans (hring _ rfl))
  revert hsame
  decide

/-! ## The scan unit (R234) and a circuit (R210) -/

/-- A transfer that is no `ERR` joins the circuit of its word. -/
theorem circuitTurn_joins {s : State} {t : Nat} {r : Req} (hk : r.kind ≠ .err) :
    circuitTurn (.circuit t) r s = (s.endHead (.circuit t)).modCircuit t (circuitNo r.instr) fun c => { c with queue := c.queue ++ [r] } :=
  if_neg hk

/-- Settles O47: the scan unit's vector is bad, read in part or read whole; a transfer joins its circuit. -/
theorem scanAndCircuitUnits : Obligations.ScanAndCircuitUnits := by
  constructor
  · intro f s t r hu hk e z n a tok had more x read group sent
    have hexec : exec (.nzscan f) s = .next (nzscanEngine f (.scan t) r s) := onRequest_engine _ _ hu
    rw [hexec]
    refine ⟨fun hbad => ?_, fun hfit hpart => ?_, fun hfit hwhole => ?_⟩
    · exact congrArg _ ((if_neg (not_not.mpr hk)).trans (if_pos hbad))
    · exact congrArg _ ((if_neg (not_not.mpr hk)).trans ((if_neg (Nat.not_lt.mpr hfit)).trans (if_pos hpart)))
    · exact congrArg _ ((if_neg (not_not.mpr hk)).trans ((if_neg (Nat.not_lt.mpr hfit)).trans (if_neg (Nat.not_lt.mpr hwhole))))
  · intro f s t r hk hu i hi hr
    simp only [List.mem_cons, List.not_mem_nil, or_false] at hi
    rcases hi with rfl | rfl
    · refine (onRequest_engine _ _ hu).trans (congrArg _ ((circuitTurn_joins hk).trans ?_))
      rw [hr]
      rfl
    · refine (onRequest_engine _ _ hu).trans (congrArg _ ((circuitTurn_joins hk).trans ?_))
      rw [hr]
      rfl

end Sys2Proof.Proofs
end

section
/-! PROOFS. Commands at a stream port (R197 to R200, R208, R212, R213), and requests at the summary unit and the boundary
units (R256, R268, R272, R280 to R290). -/

namespace Sys2Proof.Proofs

open Sys2Proof Sys2Proof.Machine Sys2Proof.Claims

/-! ## The stream port -/

theorem portCommand_data {go : Engine → Nat → Nat → Req → State → State} {t p : Nat} {r : Req} {s : State} (hk : r.kind = .data) :
    portCommand go (.stream t p) r s = go (.stream t p) t p r s := if_neg (not_not.mpr hk)

/-- The words that open a stream. -/
theorem exec_opens {f : Form} {s : State} {t p : Nat} {r : Req} {i : Instr} (hk : r.kind = .data)
    (hu : s.unit = .engine (.stream t p) r) (hi : i ∈ [Instr.strm f, .gthr f, .scat f]) :
    exec i s = .next (portOpen (.stream t p) t p r s) ∧ (opcodeOf i = 0xA0 ↔ i = .strm f) := by
  simp only [List.mem_cons, List.not_mem_nil, or_false] at hi
  rcases hi with rfl | rfl | rfl
  · exact ⟨(onAll_engine _ _ _ hu).trans (congrArg _ (portCommand_data hk)), iff_of_true rfl rfl⟩
  · exact ⟨(onAll_engine _ _ _ hu).trans (congrArg _ (portCommand_data hk)), iff_of_false nofun nofun⟩
  · exact ⟨(onAll_engine _ _ _ hu).trans (congrArg _ (portCommand_data hk)), iff_of_false nofun nofun⟩

/-- The number of the check that an open command fails at an IDLE port (R199). -/
def openCheck (s : State) (t : Nat) (r : Req) : Nat :=
  match r.origin with | .core _ => 0 | .slot _ _ _ => (waybillOf r.blk).check (opcodeOf r.instr) (s.tile t) (openTag r)

/-- The number of the check that refuses the command, with check 7 (R199). -/
def refusedBy (s : State) (t : Nat) (r : Req) : Nat :=
  if openCheck s t r = 8 ∧ (waybillOf r.blk).check7 (opcodeOf r.instr) = true then 7
  else if openCheck s t r = 0 ∧ (waybillOf r.blk).check7 (opcodeOf r.instr) = true then 7 else openCheck s t r

section Open
variable {s : State} {e : Engine} {t p : Nat} {r : Req} (hst : (s.port t p).state = .idle)
include hst

theorem portOpen_by_check : portOpen e t p r s = if refusedBy s t r ≠ 0 then s.refuseOpen e r (refusedBy s t r)
    else (((s.flushRelatch t p).forgetRows t p).takeHead e).modPort t p fun _ =>
      { state := if opcodeOf r.instr = 0xA0 then .latching else .running, opener := some r
        stack := s.stackOf r.ctx (((waybillOf r.blk).ibase + openOffset r) % 2 ^ 56) } :=
  if_neg (not_not.mpr hst)

theorem portOpen_opens (hck : openCheck s t r = 0) (h7 : (waybillOf r.blk).check7 (opcodeOf r.instr) = false) :
    portOpen e t p r s = (((s.flushRelatch t p).forgetRows t p).takeHead e).modPort t p fun _ =>
      { state := if opcodeOf r.instr = 0xA0 then .latching else .running, opener := some r
        stack := s.stackOf r.ctx (((waybillOf r.blk).ibase + openOffset r) % 2 ^ 56) } := by
  have h : refusedBy s t r = 0 := by
    simp only [refusedBy, hck, h7, Bool.false_eq_true, and_false, if_false]
  rw [portOpen_by_check hst, if_neg (not_not.mpr h)]

theorem portOpen_check7 (hck : openCheck s t r = 0) (h7 : (waybillOf r.blk).check7 (opcodeOf r.instr) = true) :
    portOpen e t p r s = s.failAt e r fcIllegal none (some 7) := by
  have h : refusedBy s t r = 7 := by
    unfold refusedBy
    rw [if_neg (by rw [hck]; exact nofun), if_pos ⟨hck, h7⟩]
  rw [portOpen_by_check hst, h]
  rfl

theorem portOpen_refused (h0 : openCheck s t r ≠ 0) (h8 : openCheck s t r ≠ 8) :
    portOpen e t p r s = s.failAt e r fcIllegal none (some (BitVec.ofNat 64 (openCheck s t r))) := by
  have h : refusedBy s t r = openCheck s t r := by
    simp only [refusedBy, h0, h8, false_and, if_false]
  rw [portOpen_by_check hst, h, if_pos h0]
  rfl

end Open

theorem portWait_replies {s : State} {e : Engine} {t p : Nat} {r : Req} {f : Form} (hr : r.instr = .swait f)
    (h : (s.port t p).state = .idle ∨ (s.port t p).state = .done ∨
      (if (match r.origin with | .core _ => r.l.toNat | .slot _ _ _ => f.imm.toNat) = 0 then (s.port t p).wb.rows
        else match r.origin with | .core _ => r.l.toNat | .slot _ _ _ => f.imm.toNat) ≤ (s.port t p).rows) :
    portWait e t p r s = answered (s.showCounted t p) e r (s.port t p).waitWord := by
  refine if_pos ?_
  rw [hr]
  exact h

section Close
variable {s s1 : State} {e : Engine} {t p : Nat} {r : Req} {cut : Bool}

theorem portClose_idle (h : (s.port t p).state = .idle) :
    portClose cut e t p r s = answered (s.showCounted t p) e r (BitVec.ofNat 64 (s.port t p).rows) := by
  simp only [portClose, h]
  rfl

theorem portClose_done (h : (s.port t p).state = .done) (hl : (s.port t p).unlatched = false) (hc : s.closePort t p = .ok s1) :
    portClose cut e t p r s = answered (s1.showCounted t p) e r (BitVec.ofNat 64 (s.port t p).rows) := by
  simp only [portClose, h, hl, hc, Bool.false_eq_true, if_false]
  rfl

theorem portClose_running (h : (s.port t p).state = .running) :
    portClose cut e t p r s = if cut && !(s.port t p).cut then s.cutPort t p else s := by
  simp only [portClose, h]

end Close

/-- The words that close a port. -/
theorem exec_closes {f : Form} {s : State} {t p : Nat} {r : Req} {i : Instr} (hk : r.kind = .data)
    (hu : s.unit = .engine (.stream t p) r) (hi : i ∈ [Instr.sclose f, .scloseCut f]) :
    ∃ cut, exec i s = .next (portClose cut (.stream t p) t p r s) := by
  simp only [List.mem_cons, List.not_mem_nil, or_false] at hi
  rcases hi with rfl | rfl
  · exact ⟨false, (onAll_engine _ _ _ hu).trans (congrArg _ (portCommand_data hk))⟩
  · exact ⟨true, (onAll_engine _ _ _ hu).trans (congrArg _ (portCommand_data hk))⟩

/-- Settles O48: each command by the port's state and the waybill's checks. -/
theorem streamUnit : Obligations.StreamUnit := by
  intro f s t p r hk hmem hu e w x opc k rows shown offset
  refine ⟨fun hi hst => ?_, fun hr h => ?_, fun i hi hr => ⟨fun hst => ?_, fun s1 hst hl hc => ?_⟩, fun hr hst hcut => ?_,
    fun hr hst => ?_⟩
  · obtain ⟨hx, hopc⟩ := exec_opens hk hu hi
    refine ⟨fun hck h7 => ?_, fun hck h7 => ?_, fun h0 h8 => ?_⟩
    · rw [hx, portOpen_opens hst hck h7]
      simp only [hopc]
      rfl
    · rw [hx, portOpen_check7 hst hck h7]
    · rw [hx, portOpen_refused hst h0 h8]
      rfl
  · exact (onAll_engine _ _ _ hu).trans (congrArg _ ((portCommand_data hk).trans (portWait_replies hr h)))
  · obtain ⟨cut, hx⟩ := exec_closes hk hu hi
    rw [hx, portClose_idle hst]
  · obtain ⟨cut, hx⟩ := exec_closes hk hu hi
    rw [hx, portClose_done hst hl hc]
  · refine (onAll_engine _ _ _ hu).trans (congrArg _ ((portCommand_data hk).trans ((portClose_running hst).trans (if_pos ?_))))
    rw [show (s.port t p).cut = false from hcut]
    rfl
  · exact (onAll_engine _ _ _ hu).trans (congrArg _ ((portCommand_data hk).trans (portClose_running hst)))

/-! ## The summary unit and the boundary units (R268, R289) -/

theorem part_low (x : BitVec 128) : BitVec.ofNat 64 x.toNat = x.setWidth 64 := BitVec.ofNat_toNat 64 x
theorem part_high (x : BitVec 128) : BitVec.ofNat 64 (x.toNat / 2 ^ 64) = x.extractLsb' 64 64 := by
  rw [BitVec.extractLsb', Nat.shiftRight_eq_div_pow]

/-- The summary unit performs the operation of each row. -/
theorem exec_summaryRows : ∀ row ∈ summaryRows, ∀ (f : Form) (s : State),
    exec (row.1 f) s = onRequest s (fun fr s => fr.sendRequest (row.1 f) s) (treeTurn (row.2 f)) := by
  simp only [summaryRows, List.forall_mem_cons]
  refine ⟨fun _ _ => rfl, fun _ _ => rfl, fun _ _ => rfl, fun _ _ => rfl, fun _ _ => rfl, fun _ _ => rfl, fun _ _ => rfl,
    fun _ _ => rfl, fun _ _ => rfl, fun _ _ => rfl, fun _ _ => rfl, fun f s => ?_, fun f s => ?_, fun _ _ => rfl,
    fun _ h => absurd h List.not_mem_nil⟩
  · show execRope3Getlo f s = _
    simp only [execRope3Getlo, part_low]
  · show execRope3Gethi f s = _
    simp only [execRope3Gethi, part_high]

/-- The boundary units perform the operation of each row. -/
theorem exec_boundaryRows : ∀ row ∈ boundaryRows, ∀ (f : Form) (s : State),
    exec (row.1 f) s = onRequest s (fun fr s => fr.sendRequest (row.1 f) s) (boundaryTurn (row.2 f)) := by
  simp only [boundaryRows, List.forall_mem_cons]
  exact ⟨fun _ _ => rfl, fun _ _ => rfl, fun _ _ => rfl, fun _ _ => rfl, fun _ _ => rfl, fun _ _ => rfl, fun _ _ => rfl,
    fun _ _ => rfl, fun _ _ => rfl, fun _ _ => rfl, fun _ _ => rfl, fun _ _ => rfl, fun _ _ => rfl, fun _ _ => rfl,
    fun _ _ => rfl, fun _ _ => rfl, fun _ _ => rfl, fun _ h => absurd h List.not_mem_nil⟩

/-- A unit of either family serves the head of its queue in order. -/
theorem exec_servesOrdered {e : Engine} {r : Req} {f : Form} {s0 s : State} {i : Instr} {m : Act W64}
    (hrow : (∃ t, e = .summary t ∧ s = s0.seeBoundary t r ∧ ∃ row ∈ summaryRows, i = row.1 f ∧ m = row.2 f t r) ∨
     (∃ d n, (e = .grammar d n ∨ e = .sampler d n ∨ e = .accept d n) ∧ s = s0 ∧
        ∃ row ∈ boundaryRows, i = row.1 f ∧ m = row.2 f d r)) (hu : s0.unit = .engine e r) :
    exec i s0 = .next (s.serveOrdered e r m) := by
  rcases hrow with ⟨t, rfl, rfl, row, hmem, rfl, rfl⟩ | ⟨d, n, he, rfl, row, hmem, rfl, rfl⟩
  · rw [exec_summaryRows row hmem, onRequest_engine _ _ hu]
    rfl
  · rw [exec_boundaryRows row hmem, onRequest_engine _ _ hu]
    rcases he with rfl | rfl | rfl
    · rfl
    · rfl
    · rfl

/-- Settles O49: what is served in order is executed, fails, waits for a page or is forwarded. -/
theorem treeAndBoundaryUnits : Obligations.TreeAndBoundaryUnits := by
  intro e r f s0 s i m hrow hu
  rw [exec_servesOrdered hrow hu]
  refine ⟨fun hk hb => ?_, fun hk hb => ⟨fun v s' hm => ?_, fun code val aux hm => ?_, fun va hm => ?_⟩, fun hk => ?_⟩
  · rw [State.serveOrdered_behind hk hb]
  · rw [State.serveOrdered_data hk hb hm]
    rfl
  · rw [State.serveOrdered_fault hk hb hm]
  · rw [State.serveOrdered_absent hk hb hm]
  · rw [State.serveOrdered_forward hk]

/-! ## The four parts of a descent (R280, R281) -/

section Descent
variable {s0 : State} {t : Nat} {r : Req} (hk : r.kind = .data) (hb : (s0.seeBoundary t r).behindParked (.summary t) r = false)
include hk hb

theorem tdescTurn_begins {bs : List Byte} {s' : State} (hlen : r.blk.length = 576)
    (h : descBegin t r (s0.seeBoundary t r) = .ok (bs, s')) : tdescTurn (.summary t) r s0 = s'.noteHead (.summary t) bs := by
  simp only [tdescTurn, hk, hb, show r.blk.length = descBytes from hlen, h, ne_eq, not_true_eq_false, Bool.false_eq_true, if_false,
    if_true]

theorem tdescTurn_faults {code : Nat} {val aux : Option W64} (hlen : r.blk.length = 576)
    (h : descBegin t r (s0.seeBoundary t r) = .error (.fault code val aux)) :
    tdescTurn (.summary t) r s0 = (s0.seeBoundary t r).failAt (.summary t) r code val aux := by
  simp only [tdescTurn, hb, show r.blk.length = descBytes from hlen, h, if_neg (not_not.mpr hk), Bool.false_eq_true, if_false, if_true]
  exact State.serve_fault hk (by simp only [Act.andThen, h])

theorem tdescTurn_runs {w : W64} {s' : State} (hlen : r.blk.length = 595) (h : descRun t r (s0.seeBoundary t r) = .ok (w, s')) :
    tdescTurn (.summary t) r s0 = s'.noteHead (.summary t) (toBytes w.toNat 8) := by
  have hne : descBegun ≠ descBytes := by decide
  simp only [tdescTurn, hb, show r.blk.length = descBegun from hlen, h, hne, if_neg (not_not.mpr hk), Bool.false_eq_true, if_false,
    if_true]

theorem tdescTurn_releases {u : Unit × Flags × Nat} {s' : State} (hlen : r.blk.length = 603)
    (h : (descEnv t r).run (descRelease t r) (s0.seeBoundary t r) = .ok (u, s')) :
    tdescTurn (.summary t) r s0 = s'.noteHead (.summary t) [0] := by
  have hne : descReady ≠ descBytes := by decide
  have hne' : descReady ≠ descBegun := by decide
  simp only [tdescTurn, hb, show r.blk.length = descReady from hlen, h, hne, hne', if_neg (not_not.mpr hk), Bool.false_eq_true,
    if_false, if_true]

theorem tdescTurn_updates {w : W64} {s' : State} (hlen : 603 < r.blk.length)
    (h : descUpdate t r (BitVec.ofNat 64 (natAt r.blk 595 8)) (s0.seeBoundary t r) = .ok (w, s')) :
    tdescTurn (.summary t) r s0 = answered s' (.summary t) r w := by
  have h1 : r.blk.length ≠ descBytes := show r.blk.length ≠ 576 by omega
  have h2 : r.blk.length ≠ descBegun := show r.blk.length ≠ 595 by omega
  have h3 : r.blk.length ≠ descReady := show r.blk.length ≠ 603 by omega
  simp only [tdescTurn, hb, h1, h2, h3, if_neg (not_not.mpr hk), Bool.false_eq_true, if_false]
  exact State.serveOrdered_data hk hb h

end Descent

/-- Settles O50: the length of what the request notes says which part is next. -/
theorem descentUnit : Obligations.DescentUnit := by
  intro f s0 t r hu hk e s hb
  have hx : exec (.tdesc f) s0 = .next (tdescTurn (.summary t) r s0) := onRequest_engine _ _ hu
  rw [hx]
  refine ⟨fun bs s' hlen h => ?_, fun code val aux hlen h => ?_, fun w s' hlen h => ?_, fun u s' hlen h => ?_,
    fun w s' hlen h => ?_⟩
  · rw [tdescTurn_begins hk hb hlen h]
  · rw [tdescTurn_faults hk hb hlen h]
  · rw [tdescTurn_runs hk hb hlen h]
  · rw [tdescTurn_releases hk hb hlen h]
  · rw [tdescTurn_updates hk hb hlen h]

end Sys2Proof.Proofs
end

section
/-! PROOFS. The events of tokens (R10, R13, R25, R28, R31, R33, R38, R45, R120, R123, R388). -/

namespace Sys2Proof.Proofs

open Sys2Proof Sys2Proof.Machine Sys2Proof.Claims

/-! ## An element after a change -/

theorem ne_default_of_in0 {x : Element} (h : x.in0 ≠ []) : x ≠ {} := by
  rintro rfl
  exact h rfl

theorem ne_default_of_arrival {x : Element} (h : x.arrival ≠ 0) : x ≠ {} := by
  rintro rfl
  exact h rfl

section
variable {s : State} {t e : Nat} {f g : Element → Element} (hf : f (s.elem t e) ≠ {})
include hf

theorem elem_ne_nil : mapSet {} (s.tile t).elems e (f (s.elem t e)) ≠ [] := mapSet_ne_nil _ _ hf

theorem tile_ne_default : (s.tile t).modElem e f ≠ {} := fun h => elem_ne_nil hf (congrArg Tile.elems h)

theorem tile_modElem : (s.modElem t e f).tile t = (s.tile t).modElem e f := mapGet_mapSet_ne _ _ _ _ (tile_ne_default hf)

theorem elem_modElem : (s.modElem t e f).elem t e = f (s.elem t e) := by
  rw [State.elem, tile_modElem hf]
  exact mapGet_mapSet_ne _ _ _ _ hf

theorem modElem_modElem (hg : g (f (s.elem t e)) ≠ {}) :
    (s.modElem t e f).modElem t e g = s.modElem t e fun x => g (f x) := by
  have hgf : (fun x => g (f x)) (s.elem t e) ≠ {} := hg
  have htile : ((s.tile t).modElem e f).modElem e g = (s.tile t).modElem e fun x => g (f x) := by
    have hx : ((s.tile t).modElem e f).elem e = f (s.elem t e) := mapGet_mapSet_ne _ _ _ _ hf
    rw [Tile.modElem, hx]
    exact congrArg (fun l => ({ s.tile t with elems := l } : Tile)) (mapSet_mapSet _ _ hf hg)
  show (s.modElem t e f).setTile t (((s.modElem t e f).tile t).modElem e g) = _
  rw [tile_modElem hf, htile]
  exact congrArg (fun l => ({ s with tiles := l } : State)) (mapSet_mapSet _ _ (tile_ne_default hf) (tile_ne_default hgf))

end

/-! ## The placement stage (R28) -/

theorem modElem_congr {s : State} {t e : Nat} {f g : Element → Element} (h : f (s.elem t e) = g (s.elem t e)) :
    s.modElem t e f = s.modElem t e g :=
  congrArg (fun x => s.modTile t fun y => { y with elems := mapSet {} y.elems e x }) h

theorem seekReord_other {s : State} {t e k : Nat} {i : Instr} (hw : (s.slot t e k).word = some i) (hi : opcodeOf i ≠ 0x8D) :
    s.seekReord t e k = s := by
  have hw' : ((s.elem t e).slot k).word = some i := hw
  simp only [State.seekReord, hw']
  split
  · next h _ =>
    cases h
    exact if_pos (.inl hi)
  · rfl

theorem seekScale_other {s : State} {t e k : Nat} {i : Instr} (hw : (s.slot t e k).word = some i) (hi : opcodeOf i ≠ 0x76) :
    s.seekScale t e k = s := by
  have hw' : ((s.elem t e).slot k).word = some i := hw
  simp only [State.seekScale, hw']
  exact if_pos (.inl hi)

/-- A value of a plain instruction: one that is neither `SCALE`, `RED`, `REORD` nor `MMAS`. -/
theorem place_plain {s : State} {t e k p : Nat} {tok : Token} {i : Instr} (href : refusedArrival s t e k p tok = none)
    (hw : (s.slot t e k).word = some i) (hk : tok.kind = .data) (hi : opcodeOf i ∉ [0x76, 0x8A, 0x8D, 0xAD]) {f : Element → Element}
    (hput : (if inputCount (opcodeOf i) (formOf i) ≤ 1 then s.placeSingle t e k p ((s.elem t e).arrival + 1) tok
      else s.placePair t e k p ((s.elem t e).arrival + 1) i tok) = .ok (s.modElem t e f))
    (hne : f (s.elem t e) ≠ {}) (hslots : (f (s.elem t e)).slots = (s.elem t e).slots)
    (harr : (f (s.elem t e)).arrival = (s.elem t e).arrival) :
    s.place t e k p tok = .ok (s.modElem t e fun x => { f x with arrival := x.arrival + 1 }) := by
  simp only [List.mem_cons, List.not_mem_nil, or_false, not_or] at hi
  obtain ⟨h76, h8A, h8D, hAD⟩ := hi
  have hgne : ({ f (s.elem t e) with arrival := (f (s.elem t e)).arrival + 1 } : Element) ≠ {} :=
    ne_default_of_arrival (Nat.succ_ne_zero _)
  have hword : ∀ g : Element → Element, g (s.elem t e) ≠ {} → (g (s.elem t e)).slots = (s.elem t e).slots →
      ((s.modElem t e g).slot t e k).word = some i := fun g hg hs => by
    rw [State.slot, elem_modElem hg, Element.slot, hs]
    exact hw
  have hboth : (s.modElem t e f).modElem t e (fun x => { x with arrival := x.arrival + 1 })
      = s.modElem t e fun x => { f x with arrival := (f x).arrival + 1 } := modElem_modElem hne hgne
  simp only [State.place, href, hw, hk, reduceCtorEq, or_self, if_false, h8A, h8D, h76, hAD, false_and, or_false, hput]
  have hw2 : ((s.modElem t e fun x => { f x with arrival := (f x).arrival + 1 }).slot t e k).word = some i :=
    hword _ hgne hslots
  rw [hboth, seekReord_other hw2 h8D, seekScale_other hw2 h76]
  exact congrArg _ (modElem_congr (by rw [harr]))

theorem tryHead_placed {s : State} {t e k p : Nat} {tok : Token} {rest : List (Nat × Nat × Token)}
    (hin : (s.elem t e).in0 = (k, p, tok) :: rest) {s1 : State} (hp : s.place t e k p tok = .ok s1) :
    s.tryHead t e .vn0 = (s1.modElem t e fun x => { x with in0 := rest, noted := x.noted.filter (· != Net.vn0) }, true) := by
  have hin' : (s.elem t e).input .vn0 = (k, p, tok) :: rest := hin
  simp only [State.tryHead, hin', hp]
  rfl

/-- The placement stage takes a plain value from the head of `VN` 0. -/
theorem placeOne_plain {s : State} {t e k p : Nat} {tok : Token} {rest : List (Nat × Nat × Token)} {i : Instr}
    (hfree : (s.elem t e).entries = []) (h1 : (s.elem t e).in1 = []) (h0 : (s.elem t e).in0 = (k, p, tok) :: rest)
    (href : refusedArrival s t e k p tok = none) (hw : (s.slot t e k).word = some i) (hk : tok.kind = .data)
    (hi : opcodeOf i ∉ [0x76, 0x8A, 0x8D, 0xAD]) {f : Element → Element}
    (hput : (if inputCount (opcodeOf i) (formOf i) ≤ 1 then s.placeSingle t e k p ((s.elem t e).arrival + 1) tok
      else s.placePair t e k p ((s.elem t e).arrival + 1) i tok) = .ok (s.modElem t e f))
    (hin : (f (s.elem t e)).in0 = (s.elem t e).in0) (hslots : (f (s.elem t e)).slots = (s.elem t e).slots)
    (harr : (f (s.elem t e)).arrival = (s.elem t e).arrival) :
    s.placeOne t e = s.modElem t e fun x =>
      { f x with arrival := x.arrival + 1, in0 := rest, noted := (f x).noted.filter (· != Net.vn0) } := by
  have hstage : (s.elem t e).stageFree = true := by
    rw [Element.stageFree, hfree]
    rfl
  have hone : s.tryHead t e .vn1 = (s, false) := by
    have h1' : (s.elem t e).input .vn1 = [] := h1
    simp only [State.tryHead, h1']
  have hne : f (s.elem t e) ≠ {} := ne_default_of_in0 (by rw [hin, h0]; exact List.cons_ne_nil _ _)
  have hplace := place_plain href hw hk hi hput hne hslots harr
  have hmid : ({ f (s.elem t e) with arrival := (s.elem t e).arrival + 1 } : Element) ≠ {} :=
    ne_default_of_arrival (Nat.succ_ne_zero _)
  rw [State.placeOne, if_pos hstage, hone]
  show (s.tryHead t e .vn0).1 = _
  rw [tryHead_placed h0 hplace]
  exact modElem_modElem (f := fun x => { f x with arrival := x.arrival + 1 }) hmid (ne_default_of_arrival (Nat.succ_ne_zero _))

/-! ## What leaves an element (R25, R38) -/

theorem spawnTurn_none {s : State} {c : Nat} (h : (s.ctx c).spawns = []) : s.spawnTurn c = s := by
  have hdraw : s.retryDraws c = s := by
    rw [State.retryDraws, h]
    rfl
  rw [State.spawnTurn, hdraw, h]
  rfl

theorem drain_sent {s s1 : State} {t e : Nat} {o : OutEntry} {os : List OutEntry} {it : OutItem} {its : List OutItem}
    (hout : (s.elem t e).out = o :: os) (hit : o.items = it :: its)
    (hpend : s.pend.any (fun p => p.elem == some (t, e) && p.rcd.ctx == s.tileCtx t) = false)
    (hsent : s.sendItem t e o.slot it = some s1) (hsp : (s1.ctx (s1.tileCtx t).toNat).spawns = []) :
    exec (.outputQueueDrain t e) s = .next (s1.modElem t e Element.sentItem) := by
  show execOutputQueueDrain t e s = _
  simp only [execOutputQueueDrain, hout, hpend, hit, hsent, Bool.false_eq_true, if_false]
  exact congrArg _ (spawnTurn_none hsp)

/-! ## What arrives at an element (R27, R28) -/

theorem tokenArrival_at {s : State} {t e pick i : Nat} {fl : Flight} (h : (s.arriving t e)[pick]? = some (i, fl)) :
    exec (.tokenArrival t e pick) s = .next ((s.enterQueue t e (i, fl)).settle t) := by
  show execTokenArrival t e pick s = _
  rw [execTokenArrival, h]

theorem tokenArrival_none {s : State} {t e pick : Nat} (h : s.arriving t e = []) :
    exec (.tokenArrival t e pick) s = .next ((s.placeOne t e).settle t) := by
  show execTokenArrival t e pick s = _
  rw [execTokenArrival, h]
  rfl

/-- The flight `fl`, the `i`-th, has arrived at a unit. -/
def arrivedAt (s : State) (i : Nat) (fl : Flight) (who : Nat) : State :=
  { s.learn (arrivalKey fl.step) who with net := dropNth s.net i }

theorem arrived_slot {s : State} {i : Nat} {fl : Flight} {t e k p : Nat} (h : fl.dst = .slot t e k p) :
    s.arrived i fl = arrivedAt s i fl t := by
  rw [State.arrived, h]
  rfl

theorem arrived_mailbox {s : State} {i : Nat} {fl : Flight} {n k : Nat} (h : fl.dst = .mailbox n k) :
    s.arrived i fl = arrivedAt s i fl (16384 + n) := by
  rw [State.arrived, h]
  rfl

theorem enterQueue_vn1 {s : State} {t e i k p : Nat} {fl : Flight} (hdst : fl.dst = .slot t e k p) (hnet : fl.net = .vn1)
    (hroom : (s.elem t e).in1.length < 8) :
    s.enterQueue t e (i, fl) = ((arrivedAt s i fl t).modElem t e fun x => { x with in1 := x.in1 ++ [(k, p, fl.tok)] }).placeOne t e := by
  simp only [State.enterQueue, hdst, hnet, reduceCtorEq, if_false]
  rw [if_pos (show ((s.elem t e).input .vn1).length < 8 from hroom), arrived_slot hdst]
  rfl

theorem enterQueue_vn0 {s : State} {t e i k p : Nat} {fl : Flight} (hdst : fl.dst = .slot t e k p) (hnet : fl.net = .vn0)
    (hroom : (s.elem t e).in0.length < 8) :
    s.enterQueue t e (i, fl) = ((arrivedAt s i fl t).modElem t e fun x => { x with in0 := x.in0 ++ [(k, p, fl.tok)] }).placeOne t e := by
  simp only [State.enterQueue, hdst, hnet, reduceCtorEq, if_false]
  rw [if_pos (show ((s.elem t e).input .vn0).length < 8 from hroom), arrived_slot hdst]
  rfl

theorem enterQueue_scale {s s1 : State} {t e i k p : Nat} {fl : Flight} (hdst : fl.dst = .slot t e k p) (hnet : fl.net = .scale)
    (hfree : ∀ kv ∈ (s.elem t e).entries, kv.2.state ≠ .reserved)
    (halone : ∀ q ∈ (s.elem t e).in0 ++ (s.elem t e).in1, q.1 = k → q.2.1 ≠ p) (hp : s.place t e k p fl.tok = .ok s1) :
    s.enterQueue t e (i, fl) = (arrivedAt s1 i fl t).modElem t e fun x => { x with noted := x.noted.filter (· != Net.scale) } := by
  have hstage : (s.elem t e).stageFree = true :=
    List.all_eq_true.mpr fun kv hkv => bne_iff_ne.mpr (hfree kv hkv)
  have hno : ((s.elem t e).in0 ++ (s.elem t e).in1).any (fun q => q.1 == k && q.2.1 == p) = false := by
    refine List.any_eq_false.mpr fun q hq h => ?_
    obtain ⟨hk, hqp⟩ := Bool.and_eq_true_iff.mp h
    exact halone q hq (beq_iff_eq.mp hk) (beq_iff_eq.mp hqp)
  simp only [State.enterQueue, hdst, hnet, State.placeFromScale, hstage, hno, Bool.not_true, Bool.or_self, Bool.false_eq_true,
    if_false, if_true, hp]
  rw [arrived_slot hdst]
  rfl

/-! ## Mailboxes and commands (R45, R120) -/

/-- A core whose mailbox slot has taken a token. -/
def mailed (c : Core) (k : Nat) (tok : Token) : Core := { c with mbox := mapSet [] c.mbox k (c.mail k ++ [tok]) }

theorem mailed_ne_default (c : Core) (k : Nat) (tok : Token) : mailed c k tok ≠ {} := fun h =>
  mapSet_ne_nil c.mbox k (List.append_ne_nil_of_right_ne_nil _ (List.cons_ne_nil tok [])) (congrArg Core.mbox h)

/-- The rounds whose notice a mailbox slot has sent and that are still in use. -/
def toldRounds (s : State) (n k : Nat) : List (BitVec 8) :=
  (mapGet [] (s.core n).marked k).filter fun r => (r - (s.group ((s.core n).group.getD 0)).kernel.oldest).toNat < 128

/-- A marker in a mailbox slot (R45). -/
theorem noteMail_mailed {s1 : State} {n k : Nat} {tok : Token} {round : BitVec 8} :
    let s2 := s1.setCore n (mailed (s1.core n) k tok)
    s2.noteMail n k round =
      if round ∈ toldRounds s1 n k ∨ 128 ≤ (round - (s1.group ((s1.core n).group.getD 0)).kernel.oldest).toNat then s2
      else (s2.modCore n fun c => { c with marked := mapSet [] c.marked k (toldRounds s1 n k ++ [round]) }).notify
        ((s1.core n).group.getD 0) round := by
  intro s2
  have hcore : s2.core n = mailed (s1.core n) k tok := core_setCore (mailed_ne_default _ _ _)
  simp only [State.noteMail, hcore, List.contains_iff_mem]
  rfl

/-- The flights that may enter the mailbox of a core. -/
def mailFlights (s : State) (n : Nat) : List (Nat × Flight) :=
  (headsGo [] 0 s.net).filter fun q => match q.2.dst with
    | .mailbox m _ => m == n && s.crosses q.2
    | _ => false

theorem mailboxDeliver_stores {s : State} {n k i pick : Nat} {fl : Flight} (h : (mailFlights s n)[pick]? = some (i, fl))
    (hdst : fl.dst = .mailbox n k) (hok : refusedMail (s.core n) fl.tok = none) (hroom : ((s.core n).mail k).length < 4) :
    exec (.mailboxDeliver n pick) s = .next (
      let s2 := (arrivedAt s i fl (16384 + n)).setCore n (mailed (s.core n) k fl.tok)
      if fl.tok.kind = .mark then s2.noteMail n k fl.tok.round else s2) := by
  show execMailboxDeliver n pick s = _
  unfold execMailboxDeliver
  refine congrArg _ ?_
  split
  · next hnone => cases hnone.symm.trans h
  · next j fl' hsome =>
    cases Option.some.inj (hsome.symm.trans h)
    simp only [hdst, hok]
    rw [if_pos hroom, arrived_mailbox hdst]
    rfl

/-- A token enters a mailbox slot, whose notice of a round is sent once. -/
theorem mailboxDeliver_told {s : State} {n k i pick : Nat} {fl : Flight} (h : (mailFlights s n)[pick]? = some (i, fl))
    (hdst : fl.dst = .mailbox n k) (hok : refusedMail (s.core n) fl.tok = none) (hroom : ((s.core n).mail k).length < 4) :
    exec (.mailboxDeliver n pick) s = .next (
      let s2 := (arrivedAt s i fl (16384 + n)).setCore n (mailed (s.core n) k fl.tok)
      if fl.tok.kind ≠ .mark ∨ fl.tok.round ∈ toldRounds s n k ∨
        128 ≤ (fl.tok.round - (s.group ((s.core n).group.getD 0)).kernel.oldest).toNat then s2
      else (s2.modCore n fun c => { c with marked := mapSet [] c.marked k (toldRounds s n k ++ [fl.tok.round]) }).notify
        ((s.core n).group.getD 0) fl.tok.round) := by
  refine (mailboxDeliver_stores h hdst hok hroom).trans (congrArg _ ?_)
  by_cases hk : fl.tok.kind = .mark
  · simp only [hk, if_true, ne_eq, not_true_eq_false, false_or]
    exact noteMail_mailed (s1 := arrivedAt s i fl (16384 + n))
  · simp only [hk, if_false, ne_eq, not_false_eq_true, true_or, if_true]

/-- Settles O52, from the lemma of each event. -/
theorem tokenEvents : Obligations.TokenEvents := by
  unfold Obligations.TokenEvents
  intro s t e n pick x c gone
  refine ⟨?arrives, ?placed, ?pulled, ?refilled, ?drained, ?mail, ?counted, ?issued⟩
  case arrives =>
    intro i fl k p hq hdst
    refine ⟨fun hnet hroom => ?_, fun hnet hroom => ?_, fun hnet hfree halone s1 hp => ?_⟩
    · rw [tokenArrival_at hq, enterQueue_vn1 hdst hnet hroom]
      rfl
    · rw [tokenArrival_at hq, enterQueue_vn0 hdst hnet hroom]
      rfl
    · rw [tokenArrival_at hq, enterQueue_scale hdst hnet hfree halone hp]
      rfl
  case placed =>
    intro k p tok rest i harr hfree h1 h0 href hw hk hi
    refine ⟨fun hone hroom => ?_, fun hpair => ?_⟩
    · have hput : s.placeSingle t e k p ((s.elem t e).arrival + 1) tok = .ok (s.modElem t e fun y =>
          { y with buf := y.buf ++ [{ slot := k, port := p, tok := tok, age := (s.elem t e).arrival + 1 }] }) := if_pos hroom
      rw [tokenArrival_none harr, placeOne_plain hfree h1 h0 href hw hk hi ((if_pos hone).trans hput) rfl rfl rfl]
      exact congrArg (fun s : State => (.next (s.settle t) : Answer)) (modElem_congr rfl)
    · have hget : (s.elem t e).entry (entryIndex (formOf i) (innerSlot tok.tag)) = {} := by
        rw [Element.entry, hfree]
        rfl
      have hput : s.placePair t e k p ((s.elem t e).arrival + 1) i tok = .ok (s.modElem t e fun y =>
          y.setEntry (entryIndex (formOf i) (innerSlot tok.tag))
            ((newEntry i k tok.tag tok.round).fill p tok ((s.elem t e).arrival + 1))) := by
        rw [State.placePair, hget]
        rfl
      rw [tokenArrival_none harr,
        placeOne_plain hfree h1 h0 href hw hk hi ((if_neg (Nat.not_le.mpr hpair)).trans hput) rfl rfl rfl]
      refine congrArg (fun s : State => (.next (s.settle t) : Answer)) (modElem_congr ?_)
      show ({ (s.elem t e).setEntry _ _ with arrival := _, in0 := _, noted := _ } : Element) = _
      rw [Element.setEntry, hfree]
  case pulled =>
    intro kv hkv
    show execPullBack t e s = _
    rw [execPullBack, hkv]
  case refilled =>
    intro r rest hr hroom
    have hr' : ((s.elem t e).bucket n).overflow = r :: rest := hr
    show execOverflowRefill t e n s = _
    simp only [execOverflowRefill, hr']
    exact congrArg _ (if_pos hroom)
  case drained =>
    intro o os it its hout hit hpend
    refine ⟨fun field target tok d hit' hres hopen hsp => ?_, fun r s1 hit' hsent hsp => ?_⟩
    · subst hit'
      refine drain_sent hout hit hpend ?_ hsp
      have hgo : ¬ (field < 2 ∧ (!s.edgeOpen t e o.slot field d) = true) := by
        rintro ⟨h2, hclosed⟩
        rcases hopen with h | h
        · omega
        · rw [h] at hclosed
          cases hclosed
      simp only [State.sendItem, hres, Bool.false_eq_true, if_false]
      exact if_neg hgo
    · subst hit'
      exact drain_sent hout hit hpend hsent hsp
  case mail =>
    intro i fl k hq hdst hok hroom
    exact mailboxDeliver_told hq hdst hok hroom
  case counted =>
    intro m hm
    show execRoundNotice pick s = _
    rw [execRoundNotice, hm]
  case issued =>
    intro i cmd hcmd hroom
    show execCommandIssue n pick s = _
    rw [execCommandIssue, hcmd]
    exact congrArg _ (if_pos hroom)

end Sys2Proof.Proofs
end

section
/-! PROOFS. The events of an element and of a drover core (R47, R48, R63, R101, R103, R126, R127, R324, R339, R348). -/

namespace Sys2Proof.Proofs

open Sys2Proof Sys2Proof.Machine Sys2Proof.Claims

theorem ne_default_of_running {c : Core} (h : c.running = true) : c ≠ {} := by
  rintro rfl
  cases h

theorem fetched_keeps (c : Core) : (fetched c).running = c.running ∧ (fetched c).hnd = c.hnd := by
  unfold fetched
  split <;> exact ⟨rfl, rfl⟩

theorem waitTimeoutOf_wait {w : W128} {f : Form} (hw : decode .drover w = .ok (.wait f)) (hf : f.imm ≠ 0) :
    waitTimeoutOf w = some f := by
  simp only [waitTimeoutOf, hw]
  exact if_neg hf

/-- Settles O53, branch by branch of the six events. -/
theorem elementAndCoreEvents : Obligations.ElementAndCoreEvents := by
  unfold Obligations.ElementAndCoreEvents
  intro s t e n x c y head edge
  refine ⟨fun k act hfire hfirst hchoice => ?control, fun k hfire hfirst hchoice hbreak => ?breakpoint, fun d later hclose hload => ?edge,
    fun hrun hhnd => ⟨fun b hb => ?illegal, fun hat hskip => ?address⟩, fun bs s1 hq hread => ?queue,
    fun f hw himm hrun hwait hok hmet => ?timeout⟩
  case control =>
    have hfire' : (s.elem t e).mayFire = true := hfire
    show execMarkerAction t e s = _
    simp only [execMarkerAction, hfire', hfirst, hchoice, Bool.not_true, Bool.or_self, Bool.false_eq_true, if_false]
  case breakpoint =>
    have hfire' : (s.elem t e).mayFire = true := hfire
    show execSlotBreakpointMatch t e s = _
    simp only [execSlotBreakpointMatch, hfire', hfirst, hchoice, hbreak, Bool.not_true, Bool.or_self, Bool.false_eq_true, if_false,
      if_true]
  case edge =>
    have hclose' : (mapGet {} (s.tile t).edges n).closing = d :: later := hclose
    show execEdgeResizeDone t n s = _
    simp only [execEdgeResizeDone, hclose']
    exact congrArg _ (if_pos hload)
  case illegal =>
    have hcore : (s.setCore n (fetched (s.core n))).core n = fetched (s.core n) :=
      core_setCore (ne_default_of_running ((fetched_keeps _).1.trans hrun))
    have hnot : ¬ ((s.setCore n (fetched (s.core n))).core n).hnd = true := by
      rw [hcore, (fetched_keeps _).2]
      exact Bool.eq_false_iff.mp hhnd
    exact (exec_illegalWord hrun hb).trans (congrArg _ (if_neg hnot))
  case address =>
    have hgo : ((s.core n).running && (s.core n).atBreakpoint && !(s.core n).bkctl.getLsbD 4) = true := by
      rw [show (s.core n).running = true from hrun, show (s.core n).atBreakpoint = true from hat,
        show (s.core n).bkctl.getLsbD 4 = false from hskip]
      rfl
    show execAddressBreakpoint n s = _
    rw [execAddressBreakpoint, if_pos hgo]
    exact congrArg _ (coreFault_entered _ _ _ hhnd)
  case queue =>
    have hread' : vread (agentD n) (s.core n).context (((s.ctx (s.core n).context.toNat).reg 0x10A).toNat
        + 32 * (((s.ctx (s.core n).context.toNat).reg 0x10C).toNat
          % max ((s.ctx (s.core n).context.toNat).reg 0x10B).toNat 1)) 32 s = .ok (bs, s1) := hread
    show execHandlerEntry n s = _
    rw [execHandlerEntry, if_pos hq]
    simp only [State.takeQueued, hread']
    rfl
  case timeout =>
    have hmet' : s.counterMet (s.core n).context ((s.core n).reg (Form.xa f)).toNat ((s.core n).reg (Form.xb f)).toNat = false := hmet
    have hok' : badCounter ((s.core n).reg (Form.xa f)).toNat = false := hok
    have hword : waitTimeoutOf (mapGet 0 (s.core n).code (s.core n).pc.toNat) = some f := waitTimeoutOf_wait hw himm
    show execWaitTimeout n s = _
    simp only [execWaitTimeout, hword, hok', hmet', show (s.core n).running = true from hrun,
      show (s.core n).wait = .fetched from hwait, Bool.not_false, and_self, if_true]
    exact congrArg _ (coreResult_eq_wordDone s n f 1)

end Sys2Proof.Proofs
end

section
/-! PROOFS. The events of a memory request (R175, R179 to R182, R324, R388, R395, R410). -/

namespace Sys2Proof.Proofs

open Sys2Proof Sys2Proof.Machine Sys2Proof.Claims

/-! ## Translation (R175, R187) -/

/-- A request whose translation completes now. -/
theorem requestTranslate_turn {s : State} {k : Nat} {m : MemReq} (hm : s.reqs[k]? = some m) (hst : m.state = .translating)
    (hfail : m.failing = none) (hturn : s.parkTurn m = true) :
    exec (.requestTranslate k) s = .next (
      if m.req.notice then (if s.waveRoom m.req.ctx m.req.wave then (s.noteReq m true false).dropReq k else s)
      else if m.req.kind ≠ .data ∨ opcodeOf m.req.instr = 0x8C then s.setReq k { m with state := .performing }
      else if opcodeOf m.req.instr = 0x8B then
        (if waveOrdered m.req.instr then
          (if s.waveRoom m.req.ctx m.req.wave then (s.noteReq m false false).setReq k { m with state := .held } else s)
         else s.setReq k { m with state := .performing })
      else if opcodeOf m.req.instr = 0x8E then s.translatePref k m
      else s.translateAccess k m) := by
  have hgo : ¬ (m.state ≠ .translating ∨ m.failing.isSome = true ∨ (!s.parkTurn m) = true) := by
    rw [hst, hfail, hturn]
    rintro (h | h | h)
    · exact h rfl
    · cases h
    · cases h
  show execRequestTranslate k s = _
  unfold execRequestTranslate
  rw [hm]
  exact congrArg _ (if_neg hgo)

/-- An access whose translation completes now. -/
theorem requestTranslate_access {s : State} {k : Nat} {m : MemReq} (hm : s.reqs[k]? = some m) (hst : m.state = .translating)
    (hfail : m.failing = none) (hturn : s.parkTurn m = true) (hnote : m.req.notice = false) (hkind : m.req.kind = .data)
    (hop : opcodeOf m.req.instr ∈ [0x80, 0x81, 0x89]) :
    exec (.requestTranslate k) s = .next (s.translateAccess k m) := by
  have hne : opcodeOf m.req.instr ≠ 0x8C ∧ opcodeOf m.req.instr ≠ 0x8B ∧ opcodeOf m.req.instr ≠ 0x8E := by
    simp only [List.mem_cons, List.not_mem_nil, or_false] at hop
    omega
  rw [requestTranslate_turn hm hst hfail hturn, hnote]
  simp only [hkind, hne, ne_eq, not_true_eq_false, or_self, Bool.false_eq_true, if_false]

section
variable {s : State} {k : Nat} {m : MemReq}
  (hroom : waveOrdered m.req.instr = true → s.waveRoom m.req.ctx m.req.wave = true)
include hroom

theorem wave_goes : ¬ (waveOrdered m.req.instr && !s.waveRoom m.req.ctx m.req.wave) = true := by
  cases h : waveOrdered m.req.instr with
  | false => exact nofun
  | true =>
    rw [hroom h]
    exact nofun

theorem translateAccess_ok {p : Page}
    (hp : translate s m.req.ctx m.va (readsMemory m.req.instr) (writesMemory m.req.instr) = .ok p) :
    s.translateAccess k m = if writesMemory m.req.instr = true ∧ bitOf p.e 7 = true then s else
      (s.noteReq { m with state := if waveOrdered m.req.instr then .held else .performing, leaf := p.e, lvl := p.lvl, epa := p.epa }
        false false).setReq k
        { m with state := if waveOrdered m.req.instr then .held else .performing, leaf := p.e, lvl := p.lvl, epa := p.epa } := by
  unfold State.translateAccess
  rw [if_neg (wave_goes hroom), hp]

theorem translateAccess_absent {va : Nat}
    (hp : translate s m.req.ctx m.va (readsMemory m.req.instr) (writesMemory m.req.instr) = .error (.absent va))
    (hspec : opcodeOf m.req.instr ≠ 0x80 ∨ bitsOf (formOf m.req.instr).mod.toNat 3 2 ≠ 1)
    (hpark : s.parkedOn m.req.ctx (dieOf m.req.tile) < 1024) :
    s.translateAccess k m = ((s.noteReq m false true).setReq k { m with state := .parked, parkedAt := some s.tick }).faultAt
      m.req.interface m.req fcPageAbsent (some (BitVec.ofNat 64 va)) none := by
  unfold State.translateAccess
  rw [if_neg (wave_goes hroom), hp]
  dsimp only
  rw [if_neg (fun h => hspec.elim (· h.1) (· h.2)), if_neg (Nat.not_le.mpr hpark)]

theorem translateAccess_fault {code : Nat} {val aux : Option W64}
    (hp : translate s m.req.ctx m.va (readsMemory m.req.instr) (writesMemory m.req.instr) = .error (.fault code val aux)) :
    s.translateAccess k m = s.failReq k m code val aux := by
  unfold State.translateAccess
  rw [if_neg (wave_goes hroom), hp]

end

/-! ## Performance (R175, R410) -/

/-- A request that may be performed now, and has not failed. -/
theorem requestComplete_turn {s : State} {k : Nat} {m : MemReq} (hm : s.reqs[k]? = some m) (hfail : m.failing = none)
    (hgo : s.mayComplete k m = true) :
    exec (.requestComplete k) s = .next (
      if m.req.kind ≠ .data then (s.dropReq k).forward m.req.interface m.req
      else if s.struck m then s.failReq k m fcMem (some (BitVec.ofNat 64 m.va)) none
      else ((if waveOrdered m.req.instr then
          (reqPerform m s).2.passPos m.req.ctx m.req.wave (tripleOf (formOf m.req.instr)).own else (reqPerform m s).2).dropReq k).reply
        m.req.interface m.req .data (reqPerform m s).1) := by
  show execRequestComplete k s = _
  unfold execRequestComplete
  rw [hm]
  simp only [hfail, hgo, Bool.not_true, Bool.false_eq_true, if_false]

theorem requestComplete_failing {s : State} {k code : Nat} {m : MemReq} (hm : s.reqs[k]? = some m) (hfail : m.failing = some code)
    (hgo : s.recordWaits m.req.interface m.req.ctx = false) :
    exec (.requestComplete k) s = .next (s.endErr k m code) := by
  show execRequestComplete k s = _
  unfold execRequestComplete
  rw [hm]
  simp only [hfail, hgo, Bool.false_eq_true, if_false]

theorem struck_iff {s : State} {m : MemReq} : s.struck m = true ↔
    m.width ≠ 0 ∧ (Config.spoiled s.tick = true ∨ (readsLine m.req.instr = true ∧ s.pageBad m.page m.va m.width = true)) := by
  simp only [State.struck, Bool.and_eq_true, Bool.or_eq_true, bne_iff_ne]

/-- Settles O54, from the lemma of each event. -/
theorem requestEvents : Obligations.RequestEvents := by
  unfold Obligations.RequestEvents
  intro s k m hm i c own ended
  refine ⟨fun hst hfail hturn hnote hroom => ?notice, fun hst hfail hturn hnote hkind hop hroom => ?access,
    fun hst hclear => ?order, fun hop hwave hst hclear => ?fence, fun l hl hroom => ?link,
    fun code hfail hwaits => requestComplete_failing hm hfail hwaits, fun hfail hgo => ⟨fun hkind => ?marker, fun hkind => ?performed⟩⟩
  case notice =>
    rw [requestTranslate_turn hm hst hfail hturn, if_pos hnote]
    exact congrArg _ (if_pos hroom)
  case access =>
    rw [requestTranslate_access hm hst hfail hturn hnote hkind hop]
    refine ⟨fun p hp hfree => ?_, fun p hp hw hmig => ?_, fun va hp hspec hpark => ?_, fun code val aux hp => ?_⟩
    · have hno : ¬ (writesMemory m.req.instr = true ∧ bitOf p.e 7 = true) := fun h =>
        hfree.elim (fun hf => Bool.false_ne_true (hf.symm.trans h.1)) (fun hf => Bool.false_ne_true (hf.symm.trans h.2))
      exact congrArg _ ((translateAccess_ok hroom hp).trans (if_neg hno))
    · exact congrArg _ ((translateAccess_ok hroom hp).trans (if_pos ⟨hw, hmig⟩))
    · exact congrArg _ (translateAccess_absent hroom hp hspec hpark)
    · exact congrArg _ (translateAccess_fault hroom hp)
  case order =>
    show execOrderClear k s = _
    unfold execOrderClear
    rw [hm]
    exact congrArg _ (if_pos ⟨hst, hclear⟩)
  case fence =>
    show execFenceWPassed k s = _
    unfold execFenceWPassed
    rw [hm]
    exact congrArg _ (if_pos ⟨hop, hwave, hst, hclear⟩)
  case link =>
    show execWaveLinkAck k s = _
    unfold execWaveLinkAck
    rw [hl]
    exact congrArg _ (if_pos hroom)
  case marker =>
    rw [requestComplete_turn hm hfail hgo]
    exact congrArg _ (if_pos hkind)
  case performed =>
    rw [requestComplete_turn hm hfail hgo, if_neg (not_not.mpr hkind)]
    simp only [struck_iff]
    rfl

end Sys2Proof.Proofs
end

section
/-! PROOFS. The events of a stream port and of a circuit (R201 to R203, R208, R210, R324). -/

namespace Sys2Proof.Proofs

open Sys2Proof Sys2Proof.Machine Sys2Proof.Claims

/-! ## The window and its latches (R201, R203) -/

/-- A latching port whose window has at most 64 pages. -/
theorem latchDone_fits {s : State} {t p : Nat} (hst : (s.port t p).state = .latching)
    (hfit : ((s.latchWindow t p).1.filter fun l => !l.failed).length ≤ 64) :
    exec (.streamLatchDone t p) s = .next (
      let s1 := s.modPort t p fun x => { x with latches := (s.latchWindow t p).1 }
      match (s.latchWindow t p).2 with
      | some (.absent va) => s1.parkPort t p va false
      | some _ => s1
      | none => s1.modPort t p fun x => { x with state := .running, wasRunning := true }) := by
  show execStreamLatchDone t p s = _
  unfold execStreamLatchDone
  simp only [hst, ne_eq, not_true_eq_false, if_false]
  exact congrArg _ (if_neg (Nat.not_lt.mpr hfit))

/-- A port whose stream has ended handles a re-latch. -/
theorem portRelatch_done {s : State} {t p : Nat} {tok : Token} {rest : List Token} (hre : (s.port t p).relatch = tok :: rest)
    (hst : (s.port t p).state = .done) :
    exec (.portRelatch t p) s = .next ((s.modPort t p fun x => { x with relatch := rest, latches := x.latches.filter fun l =>
      !(l.va < bitsOf tok.value.toNat 16 40 * 65536 + regionSize (3 - bitsOf tok.value.toNat 61 2)
        && bitsOf tok.value.toNat 16 40 * 65536 < l.va + l.size) }).forwardRelatch t p tok) := by
  show execPortRelatch t p s = _
  unfold execPortRelatch
  simp only [hre, hst, beq_eq_false_iff_ne.mpr (show PortState.done ≠ .latching from nofun),
    beq_eq_false_iff_ne.mpr (show PortState.done ≠ .parked from nofun),
    beq_eq_false_iff_ne.mpr (show PortState.done ≠ .running from nofun), reduceCtorEq, Bool.or_self, Bool.false_and,
    Bool.false_eq_true, or_self, if_false]

/-! ## Rows (R202, R208) -/

theorem rowRetry_goes {s go : State} {t p : Nat} (h : (s.port t p).failing = none) : s.rowRetry t p go = go := by
  rw [State.rowRetry, h]

theorem rowRetry_ends {s go : State} {t p i code : Nat} (h : (s.port t p).failing = some (i, code))
    (hw : s.unitWaits (s.portUnit t p) (s.port t p).req.ctx = false) : s.rowRetry t p go = s.rowEnds t p i 0 (some code) := by
  rw [State.rowRetry, h]
  exact if_neg (Bool.eq_false_iff.mp hw)

/-- The next row of a running stream. -/
theorem streamRow_runs {s : State} {t p : Nat} (hop : opcodeOf (s.port t p).req.instr = 0xA0) (hst : (s.port t p).state = .running)
    (hfail : (s.port t p).failing = none) (hcut : (s.port t p).cut = false) (hsave : s.saving (s.port t p).req.ctx = false)
    (hre : (s.port t p).relatching ((s.port t p).rowAddr (s.port t p).rows) = false)
    (hpark : s.rowParked t p ((s.port t p).rowAddr (s.port t p).rows) = false) :
    exec (.streamRowComplete t p (s.port t p).rows) s =
      .next (s.runRow t p (s.port t p).rows ((s.port t p).rowAddr (s.port t p).rows) fun a s => s.parkPort t p a true) := by
  show execStreamRowComplete t p (s.port t p).rows s = _
  unfold execStreamRowComplete
  rw [rowRetry_goes hfail]
  simp only [hop, hst, hcut, hsave, hre, hpark, ne_eq, not_true_eq_false, or_self, if_false, beq_self_eq_true,
    Bool.true_or, Bool.or_self, Bool.not_true, Bool.false_eq_true]

/-- A row that a running gather or scatter issues now. -/
theorem gatherRow_issued {s : State} {t p n : Nat} (hop : opcodeOf (s.port t p).req.instr ≠ 0xA0)
    (hst : (s.port t p).state = .running) (hfail : (s.port t p).failing = none) (hrow : n < (s.port t p).wb.rows)
    (hdone : mapGet false (s.port t p).doneRows n = false) (hwait : mapGet 0 (s.port t p).rowWait n = 0)
    (hcut : (s.port t p).cut = false) (hsave : s.saving (s.port t p).req.ctx = false) :
    ¬ ((!(s.port t p).issues n) = true ∨ s.saving (s.port t p).req.ctx = true) ∧
      exec (.gatherRowComplete t p n) s = .next (match s.readIndex t p n with
      | .error (.absent va) =>
        if (s.port t p).wb.pf then (s.countDrop (s.port t p).req.ctx).rowEnds t p n 0 (some 0)
        else if (s.port t p).wb.spec then (s.countDrop (s.port t p).req.ctx).rowEnds t p n 0 (some fcPageAbsent)
        else (s.noteIndex t p fcPageAbsent (some (BitVec.ofNat 64 va)) none).rowWaits t p n va
      | .error (.fault code val aux) => s.indexFails t p n code val aux
      | .error (.error code) => s.rowEnds t p n 0 (some code)
      | .error .wait => s
      | .ok (idx, s1) =>
        let off : Int := idx * (s.port t p).wb.stride
        let va := wrapInt 64 (((s.port t p).base : Int) + off)
        if off < 0 ∨ off + (s.port t p).wb.rlen > (s.port t p).wb.wlen then
          s1.rowFails t p n fcPageProt ((s.port t p).rowTag n) (some (BitVec.ofNat 64 va)) (some 3)
        else s1.runRow t p n va fun a s2 =>
          (s2.portFault t p fcPageAbsent ((s.port t p).rowTag n) (some (BitVec.ofNat 64 va)) (some (BitVec.ofNat 64 n))).rowWaits
            t p n a) := by
  have hissue : (s.port t p).issues n = true := by
    simp only [Port.issues, hst, hdone, hwait, hcut, decide_eq_true hrow, bne_iff_ne.mpr hop, beq_self_eq_true, Bool.not_false,
      Bool.and_self]
  have hgo : ¬ ((!(s.port t p).issues n) = true ∨ s.saving (s.port t p).req.ctx = true) := by
    rw [hissue, hsave]
    rintro (h | h) <;> cases h
  refine ⟨hgo, ?_⟩
  show execGatherRowComplete t p n s = _
  unfold execGatherRowComplete
  rw [rowRetry_goes hfail]
  exact congrArg _ (if_neg hgo)

/-! ## Circuits (R210) -/

/-- The transfer at the head of a circuit that has yet to begin. -/
theorem circuitGranule_begins {s : State} {t n : Nat} {r : Req} {rs : List Req} (hq : ((s.tile t).circuit n).queue = r :: rs)
    (hk : r.kind = .data) (hslot : ((s.tile t).circuit n).slot = none) (hbad : (s.circuitServed t n r).circuitBad t r = false) :
    exec (.circuitGranule t n) s = .next (if opcodeOf r.instr = 0xA7 then (s.circuitServed t n r).circuitReserve t n r
      else if Config.circuitSends (s.circuitServed t n r).tick then (s.circuitServed t n r).circuitSend t n r
      else (s.circuitServed t n r).circuitLand t n r) := by
  show execCircuitGranule t n s = _
  unfold execCircuitGranule
  simp only [hq, hk, hslot, hbad, reduceCtorEq, false_and, ne_eq, not_true_eq_false, and_false, Option.isNone_none, Bool.false_eq_true,
    and_true, if_false]

theorem circuitServed_eq {s : State} {t n : Nat} {r : Req} (hslot : ((s.tile t).circuit n).slot = none) :
    s.circuitServed t n r = if opcodeOf r.instr = 0xA7 ∧ ((s.tile t).circuit n).bound = true then
      s.portServed (s.circuitEnd t ((s.tile t).circuit n)) else s := by
  simp only [State.circuitServed, hslot, Option.isNone_none, and_true]

/-- Settles O55, from the lemma of each event. -/
theorem streamEvents : Obligations.StreamEvents := by
  unfold Obligations.StreamEvents
  intro s t p n x op ls
  refine ⟨fun hst hfit => ?latch, fun hop hst hfail hcut hsave hre hpark => streamRow_runs hop hst hfail hcut hsave hre hpark,
    fun tok rest hre hst => portRelatch_done hre hst, ?row,
    fun code i hfail hwaits j hj => ?failing, fun code val aux hop hst hfail hrow hdone hwait hcut hsave hidx => ?index,
    ?circuit⟩
  case latch =>
    refine ⟨fun hnone => ?_, fun va habs => ?_⟩
    · have hnone' : (s.latchWindow t p).2 = none := hnone
      rw [latchDone_fits hst hfit, hnone']
    · have habs' : (s.latchWindow t p).2 = some (.absent va) := habs
      rw [latchDone_fits hst hfit, habs']
  case row =>
    intro j s1 hop hst hfail hrow hdone hwait hcut hsave hidx off va w
    have hissued := (gatherRow_issued hop hst hfail hrow hdone hwait hcut hsave).2
    rw [hidx] at hissued
    refine ⟨fun h0 hfit => ?_, fun hout => ?_⟩
    · exact hissued.trans (congrArg _ (if_neg (show ¬ (off < 0 ∨ off + w.rlen > w.wlen) by omega)))
    · exact hissued.trans (congrArg _ (if_pos hout))
  case failing =>
    simp only [List.mem_cons, List.not_mem_nil, or_false] at hj
    rcases hj with rfl | rfl
    · exact congrArg _ (rowRetry_ends hfail hwaits)
    · exact congrArg _ (rowRetry_ends hfail hwaits)
  case index =>
    have hissued := (gatherRow_issued hop hst hfail hrow hdone hwait hcut hsave).2
    rw [hidx] at hissued
    exact hissued
  case circuit =>
    intro r rs c u hq hk hslot hsent hbad
    have hserved : s.circuitServed t n r = u := circuitServed_eq hslot
    rw [circuitGranule_begins hq hk hslot (hserved ▸ hbad), hserved]
    by_cases hop : opcodeOf r.instr = 0xA7
    · rw [if_pos hop, if_pos hop]
    · have hu : u = s := if_neg (fun h => hop h.1)
      rw [hu]

end Sys2Proof.Proofs
end

section
/-! PROOFS. The events of a context (R155, R157, R317, R319, R320, R324 to R328). -/

namespace Sys2Proof.Proofs

open Sys2Proof Sys2Proof.Machine Sys2Proof.Claims

/-! ## The commands of `CCMD` (R319, R320) -/

theorem firmware_ok {s s1 : State} {c cmd : Nat} (hc : c < 256) (h : s.ccmd c cmd = .ok s1) : s.firmware c cmd = s1 := by
  rw [State.firmware, Nat.mod_eq_of_lt hc, h]

theorem firmware_refused {s : State} {c cmd : Nat} (hc : c < 256) {aux : Option W64} (h : s.ccmd c cmd = .error aux) :
    s.firmware c cmd = s := by
  rw [State.firmware, Nat.mod_eq_of_lt hc, h]

theorem ccmd_build {s : State} {c : Nat} (h : (s.ctx c).state = .free) :
    s.ccmd c 1 = .ok (s.setCtx c { s.ctx c with state := .building }) := by
  simp only [State.ccmd, h]

theorem ccmd_build_refused {s : State} {c : Nat} (h : (s.ctx c).state ≠ .free) : s.ccmd c 1 = .error none := by
  unfold State.ccmd
  cases hst : (s.ctx c).state with
  | free => exact absurd hst h
  | building | ready | running | draining | saved | faulted | dead => simp only [hst]

theorem ccmd_ready {s : State} {c : Nat} (h : (s.ctx c).state = .building) (hok : (s.ctx c).readyFails = none) :
    s.ccmd c 2 = .ok (s.setCtx c { s.ctx c with state := .ready, seraiFree := List.range ((s.ctx c).reg 0x108).toNat }) := by
  simp only [State.ccmd, h, hok]

theorem ccmd_ready_fails {s : State} {c a : Nat} (h : (s.ctx c).state = .building) (hbad : (s.ctx c).readyFails = some a) :
    s.ccmd c 2 = .error (some (BitVec.ofNat 64 a)) := by
  simp only [State.ccmd, h, hbad]

theorem ccmd_ready_refused {s : State} {c : Nat} (h : (s.ctx c).state ≠ .building) : s.ccmd c 2 = .error none := by
  unfold State.ccmd
  cases hst : (s.ctx c).state with
  | building => exact absurd hst h
  | free | ready | running | draining | saved | faulted | dead => simp only [hst]

theorem ccmd_kill {s : State} {c : Nat} (hfree : (s.ctx c).state ≠ .free) (hdead : (s.ctx c).state ≠ .dead) :
    s.ccmd c 3 = .ok (s.kill c) := by
  unfold State.ccmd
  cases hst : (s.ctx c).state with
  | free => exact absurd hst hfree
  | dead => exact absurd hst hdead
  | building | ready | running | draining | saved | faulted => simp only [hst]

theorem ccmd_kill_refused {s : State} {c : Nat} (h : (s.ctx c).state = .free ∨ (s.ctx c).state = .dead) :
    s.ccmd c 3 = .error none := by
  rcases h with h | h
  · simp only [State.ccmd, h]
  · simp only [State.ccmd, h]

theorem ccmd_resume {s : State} {c : Nat} (h : (s.ctx c).state = .faulted) :
    s.ccmd c 4 = .ok ((s.resumeContext c).modCtx c fun x =>
      { x with state := .running, appendHeld := false, saving := none, bySched := none }) := by
  simp only [State.ccmd, h]

theorem ccmd_resume_refused {s : State} {c : Nat} (h : (s.ctx c).state ≠ .faulted) : s.ccmd c 4 = .error none := by
  unfold State.ccmd
  cases hst : (s.ctx c).state with
  | faulted => exact absurd hst h
  | free | building | ready | running | draining | saved | dead => simp only [hst]

/-- An event that gives a command. -/
theorem next_firmware {i : Instr} {s s1 : State} {c cmd : Nat} (hi : exec i s = .next (s.firmware c cmd))
    (h : s.firmware c cmd = s1) : exec i s = .next s1 := by
  rw [hi, h]

/-! ## The fault queue (R324) -/

theorem faultAppend_turn {s : State} {k : Nat} {p : PendFault} (hp : s.pend[k]? = some p)
    (hfirst : (s.pend.take k).any (fun q => q.rcd.from_ == p.rcd.from_) = false) :
    exec (.faultAppend k) s = .next (s.append k p.rcd) := by
  show execFaultAppend k s = _
  unfold execFaultAppend
  rw [hp]
  exact congrArg _ (if_neg (Bool.eq_false_iff.mp hfirst))

theorem append_logs {s : State} {k : Nat} {r : FaultRec} (h : (s.ctx r.ctx.toNat).hasQueue = false) :
    s.append k r = { s with pend := dropNth s.pend k }.logFault r := by
  simp only [State.append, h, Bool.not_false, if_true]

theorem append_queues {s s1 : State} {k : Nat} {r : FaultRec} (hq : (s.ctx r.ctx.toNat).hasQueue = true)
    (hheld : (s.ctx r.ctx.toNat).appendHeld = false) (hfull : (s.ctx r.ctx.toNat).queueFull = false)
    (hhome : ((s.ctx r.ctx.toNat).reg 0x118).getLsbD 31 = true)
    (hw : vwrite agentSched r.ctx (((s.ctx r.ctx.toNat).reg 0x10A).toNat
      + 32 * (((s.ctx r.ctx.toNat).reg 0x10D).toNat % max ((s.ctx r.ctx.toNat).reg 0x10B).toNat 1)) (r.bytes s.tick)
      { s with pend := dropNth s.pend k } = .ok ((), s1)) :
    s.append k r = s1.modCtx r.ctx.toNat fun x => x.setReg 0x10D (BitVec.ofNat 64 (((x.reg 0x10D).toNat + 1) % 2 ^ 32)) := by
  simp only [State.append, hq, hheld, hfull, hw, hhome, Bool.not_true, Bool.false_eq_true, or_self, if_false, if_true]

/-! ## Drains, saves and restores (R326 to R328) -/

theorem tryRestore_restores {s s1 : State} {c : Nat} (hjobs : (s.ctx c).jobs = []) (hask : (s.ctx c).restoring.isSome = true)
    (hst : (s.ctx c).state = .saved) (h : s.restore? c = some s1) : s.tryRestore c = s1 := by
  simp only [State.tryRestore, hjobs, hask, hst, h, ne_eq, not_true_eq_false, if_false, and_self, if_true, Option.getD_some]

/-- Settles O56, from the lemma of each event. -/
theorem contextEvents : Obligations.ContextEvents := by
  unfold Obligations.ContextEvents
  intro s c hc x cb v
  have hcb : cb.toNat = c := by
    rw [BitVec.toNat_ofNat]
    omega
  refine ⟨fun h => next_firmware rfl (firmware_ok hc (ccmd_build h)), fun h => next_firmware rfl (firmware_refused hc (ccmd_build_refused h)),
    fun h hok => ?ready, fun h => ?refused, fun h h' => next_firmware rfl (firmware_ok hc (ccmd_kill h h')),
    fun h => next_firmware rfl (firmware_refused hc (ccmd_kill_refused h)), fun h => next_firmware rfl (firmware_ok hc (ccmd_resume h)),
    fun h => next_firmware rfl (firmware_refused hc (ccmd_resume_refused h)), fun hdead hnone => ?reclaimed, fun k p hp hctx hfirst => ?append,
    fun w hw hbud hfree => ?deadlock, ?serain, rfl, ?dlbud, fun hst hsave => ⟨fun hdone => ?complete, fun hdone => ?timeout⟩,
    fun faulted hsave hready => ?hard, fun hjobs hask hst s1 h =>
      ⟨congrArg _ (tryRestore_restores hjobs hask hst h), congrArg _ (tryRestore_restores hjobs hask hst h)⟩⟩
  case ready =>
    have hok' : (s.ctx c).readyFails = none := hok
    exact next_firmware rfl (firmware_ok hc (ccmd_ready h hok'))
  case refused =>
    by_cases hb : (s.ctx c).state = .building
    · obtain ⟨a, ha⟩ := Option.isSome_iff_exists.mp (h.resolve_left (not_not.mpr hb))
      have ha' : (s.ctx c).readyFails = some a := ha
      exact next_firmware rfl (firmware_refused hc (ccmd_ready_fails hb ha'))
    · exact next_firmware rfl (firmware_refused hc (ccmd_ready_refused hb))
  case reclaimed =>
    show execContextReclaimed c s = _
    exact congrArg _ (if_pos ⟨hdead, List.isEmpty_iff.mpr hnone⟩)
  case append =>
    have hx : s.ctx p.rcd.ctx.toNat = x := congrArg s.ctx ((congrArg BitVec.toNat hctx).trans hcb)
    refine ⟨fun hst => ?_, fun s1 hst hheld hfull hhome hw => ?_⟩
    · have hno : (s.ctx p.rcd.ctx.toNat).hasQueue = false := by
        rw [hx]
        rcases hst with h | h | h <;> (rw [Ctx.hasQueue, h]; rfl)
      exact (faultAppend_turn hp hfirst).trans (congrArg _ (append_logs hno))
    · have hyes : (s.ctx p.rcd.ctx.toNat).hasQueue = true := by
        rw [hx, Ctx.hasQueue, hst]
        rfl
      have happend := append_queues (k := k) hyes (hx ▸ hheld) (hx ▸ hfull) (hx ▸ hhome) (s1 := s1)
        (by rw [hx, hctx]; exact hw)
      rw [faultAppend_turn hp hfirst, happend, hctx, hcb]
  case deadlock =>
    have hw' : (s.ctx c).spawns.find? (fun w => w.failed.isNone) = some w := hw
    have hfree' : (s.ctx c).freeColour = none := hfree
    show execColourDeadlock c s = _
    simp only [execColourDeadlock, hw', hfree', Option.isSome_none, Bool.false_eq_true, or_false]
    exact congrArg _ (if_neg hbud)
  case serain =>
    show execSerain c s = _
    simp only [execSerain, Nat.mod_eq_of_lt hc, State.raiseSerain]
    exact congrArg _ (apply_ite (fun y : Option State => y.getD s) _ _ _)
  case dlbud =>
    show execDlbud c s = _
    rw [execDlbud, Nat.mod_eq_of_lt hc]
  case complete =>
    have hsave' : (s.ctx c).saving.isNone = true := Option.isNone_iff_eq_none.mpr hsave
    show execDrainComplete c s = _
    exact congrArg _ (if_pos ⟨hst, hsave', hdone⟩)
  case timeout =>
    have hsave' : (s.ctx c).saving.isNone = true := Option.isNone_iff_eq_none.mpr hsave
    show execDrainTimeout c s = _
    exact congrArg _ (if_pos ⟨hst, hsave', by rw [hdone]; rfl⟩)
  case hard =>
    have hsave' : (s.ctx c).saving = some faulted := hsave
    show execHardSave c s = _
    unfold execHardSave
    rw [hsave']
    exact congrArg _ (if_pos hready)

end Sys2Proof.Proofs
end

section
/-! PROOFS. The events of queues, kernels and barriers (R331, R334 to R337, R345, R347, R358, R362, R388). -/

namespace Sys2Proof.Proofs

open Sys2Proof Sys2Proof.Machine Sys2Proof.Claims

/-! ## Doorbells (R331, R334) -/

theorem doorbellEvent_good {s : State} {v cmd : Nat} (hv : v < 2 ^ 64) (hcmd : v / 1024 % 4 = cmd) :
    doorbellEvent cmd v s = s.doorbell v := by
  have hbits : bitsOf v 10 2 = cmd := hcmd
  simp only [doorbellEvent, Nat.mod_eq_of_lt hv, hbits, or_true, if_true]

theorem doorbellEvent_bad {s : State} {v cmd : Nat} (hv : v < 2 ^ 64) (hbad : badDoorbell v = true) :
    doorbellEvent cmd v s = s.logFault { code := fcIllegal, ukind := 3, unit := unitDie 0 192, ctx := s.qowner (v % 1024)
                                         val := some (BitVec.ofNat 64 v) } := by
  simp only [doorbellEvent, Nat.mod_eq_of_lt hv, hbad, true_or, if_true, State.doorbell]

section
variable {s : State} {v : Nat} (hgood : badDoorbell v = false)
include hgood

theorem doorbell_ring (h : v / 1024 % 4 = 0) : s.doorbell v = s.ring? (v % 1024) := by
  have hbits : bitsOf v 10 2 = 0 := h
  simp only [State.doorbell, hgood, hbits, Bool.false_eq_true, if_false]

theorem doorbell_enable (h : v / 1024 % 4 = 1) : s.doorbell v = s.enableQueue (v % 1024) := by
  have hbits : bitsOf v 10 2 = 1 := h
  simp only [State.doorbell, hgood, hbits, Bool.false_eq_true, if_false]

theorem doorbell_disable (h : v / 1024 % 4 = 2) : s.doorbell v = s.disableQueue (v % 1024) := by
  have hbits : bitsOf v 10 2 = 2 := h
  simp only [State.doorbell, hgood, hbits, Bool.false_eq_true, if_false]

end

/-! ## Kernels (R336, R337, R345, R358) -/

theorem getElem?_findIdx {α : Type} {p : α → Bool} {l : List α} {m : α} (h : l.find? p = some m) : l[l.findIdx p]? = some m := by
  induction l with
  | nil => cases h
  | cons a l ih =>
    rw [List.find?_cons] at h
    rw [List.findIdx_cons]
    cases hp : p a with
    | true =>
      rw [hp] at h
      exact h
    | false =>
      rw [hp] at h
      exact ih h

/-- The arbiter performs its first signal that does not wait. -/
theorem kernelSignal_performs {s : State} {g : Nat} {m : Signal} (hm : s.signals.find? (fun m => !s.signalWaits m) = some m)
    (hg : m.group = some g) :
    exec (.kernelSignal g) s = .next (performSignal (s.signals.findIdx fun m => !s.signalWaits m) 3 (s.signal m.ctx m.saddr)) := by
  show execKernelSignal g s = _
  unfold execKernelSignal
  simp only [getElem?_findIdx hm, hg, Option.isSome_some, ne_eq, not_true_eq_false, and_false, if_false]

/-- A kernel that the scheduler starts. -/
theorem kernelStart_starts {s : State} {g : Nat} (hk : (s.group g).kernel.state = .loaded)
    (hctx : (s.ctx (s.group g).ctx.toNat).state = .ready ∨ (s.ctx (s.group g).ctx.toNat).state = .running)
    (hcol : ((s.ctx (s.group g).ctx.toNat).colour (s.group g).kernel.lcol).state = .free) :
    exec (.kernelStart g) s = .next (s.startQueued g) := by
  have hadm : s.admits (s.group g).ctx (s.group g).kernel.lcol = true := by
    simp only [State.admits, hcol, Bool.and_eq_true, Bool.or_eq_true, beq_iff_eq, and_true]
    exact hctx
  show execKernelStart g s = _
  exact congrArg _ (if_pos ⟨hk, hadm⟩)

/-- Placement, tried again, does not place the head of a queue, whose budget is over. -/
theorem preemptBudget_preempts {s u s1 : State} {q addr c p st : Nat} {r : QRec} {met : Bool} (hu : placeAll 4096 s = u)
    (hq : q < 1024) (hno : s.preempting = false) (hready : u.qstate q = 3) (hcount : (u.qinf q).counting = true)
    (hbud : u.qpbud q ≠ 2 ^ 32 - 1) (hno' : u.preempting = false) (hhead : u.readHead q = (.record addr r met, s1))
    (hvictim : bestVictim (u.victims r.prio) = some (c, p, st)) :
    exec (.preemptBudgetExpiry (u.qctx q) q) s =
      .next (({ u with seq := u.seq + 1 }.modCtx c fun x => { x with bySched := some (p, u.seq) }).preempt c false) := by
  have hs : (if s.preempting = true then s else placeAll 4096 s) = u := (if_neg (Bool.eq_false_iff.mp hno)).trans hu
  show execPreemptBudgetExpiry (u.qctx q) q s = _
  unfold execPreemptBudgetExpiry
  rw [hs]
  refine congrArg _ ((if_pos ⟨hq, rfl, hready, hcount, hbud, by rw [hno']; rfl⟩).trans ?_)
  simp only [hhead, hvictim]

theorem closePorts_idle {s : State} {t : Nat} (h : ∀ p, p < 8 → (s.port t p).state = .idle) : s.closePorts t = s := by
  unfold State.closePorts
  have hgo : ∀ l : List Nat, (∀ p ∈ l, p < 8) →
      l.foldl (fun s p => if (s.port t p).state = .idle then s else (s.closeOrWait t p).1) s = s := by
    intro l
    induction l with
    | nil => exact fun _ => rfl
    | cons p l ih =>
      intro hl
      rw [List.foldl_cons, if_pos (h p (hl p List.mem_cons_self))]
      exact ih fun q hq => hl q (List.mem_cons_of_mem _ hq)
  exact hgo _ fun p hp => List.mem_range.mp hp

theorem zeroingDone_idle {s : State} {n : Nat} (hz : (s.tile n).zeroing = true) (h : ∀ p, p < 8 → (s.port n p).state = .idle) :
    exec (.zeroingDone n) s = .next ({ s.modTile n fun x => { elems := x.elems } with
      stale := s.stale.filter fun e => e.loc < spLoc n 0 || spLoc (n + 1) 0 ≤ e.loc }.freeGroups) := by
  have hall : ((List.range 8).all fun p => (s.port n p).state == .idle) = true :=
    List.all_eq_true.mpr fun p hp => beq_iff_eq.mpr (h p (List.mem_range.mp hp))
  show execZeroingDone n s = _
  unfold execZeroingDone
  simp only [hz, closePorts_idle h, hall, Bool.not_true, Bool.false_eq_true, if_false, if_true]

/-! ## Arrivals at a barrier (R362, R363, R388) -/

/-- The arrival that is next at its barrier. -/
theorem barrierArrival_turn {s : State} {n : Nat} {a : Arrival} (ha : s.arrivals[n]? = some a) (hfirst : firstArrival s.arrivals a = n)
    (hroom : s.listFull (a.handle / 256) = false) (hcross : s.edgesUp (unitDieOf a.unit) (a.handle / 256) = true) :
    exec (.barrierArrival n) s = .next (
      let taken := { s with arrivals := dropNth s.arrivals n }
      match a.failed with
      | some code => if s.failureWaits a then s else taken.failedReply a code
      | none => match (s.barrier a.handle).arrive a with
      | .error code => if s.failureWaits a then s else s.failArrival n a code
      | .ok b =>
        if s.barriersHeld b.ctx ∨ s.releaseHeld b then s
        else releaseRounds a.handle (b.records.length + 1) (taken.setBarrier a.handle b)) := by
  have hgo : ¬ (firstArrival s.arrivals a ≠ n ∨ s.listFull (a.handle / 256) = true ∨ (!s.arrivalCrosses a) = true) := by
    rw [hfirst, hroom, State.arrivalCrosses, hcross]
    rintro (h | h | h)
    · exact h rfl
    · cases h
    · cases h
  show execBarrierArrival n s = _
  unfold execBarrierArrival
  rw [ha]
  exact congrArg _ (if_neg hgo)

theorem failureWaits_saved {s : State} {a : Arrival} (h : (s.ctx a.ctx.toNat).state = .saved) : s.failureWaits a = true := by
  simp only [State.failureWaits, h, beq_self_eq_true, Bool.true_or]

theorem failureWaits_goes {s : State} {a : Arrival} (h : (s.ctx a.ctx.toNat).state ≠ .saved)
    (hw : a.failed = none ∨ s.unitWaits (3, unitDie (a.handle / 256) 64) a.ctx = false) : s.failureWaits a = false := by
  rcases hw with hw | hw
  · simp only [State.failureWaits, beq_eq_false_iff_ne.mpr h, hw, Option.isSome_none, Bool.false_and, Bool.or_self]
  · simp only [State.failureWaits, beq_eq_false_iff_ne.mpr h, hw, Bool.and_false, Bool.or_self]

/-- Settles O57, from the lemma of each event. -/
theorem kernelEvents : Obligations.KernelEvents := by
  unfold Obligations.KernelEvents
  intro s g q n x
  refine ⟨fun v hv hgood hq => ?doorbell, fun v hv hbad i hi => ?bad, fun hq hwait => congrArg _ (if_pos ⟨hq, hwait, rfl⟩), rfl,
    fun v s1 hbound hload h => ?load, fun hk hctx hcol => (kernelStart_starts hk hctx hcol).trans rfl,
    fun hk hret hidle => congrArg _ (if_pos ⟨hk, hret, hidle⟩), ?budget, fun m hm hg => kernelSignal_performs hm hg,
    fun hz h => zeroingDone_idle hz h, fun a ha hfirst hroom hcross => ?arrival⟩
  case doorbell =>
    subst hq
    refine ⟨fun h => ?_, fun h h0 => ?_, fun h => ?_⟩
    · exact congrArg _ ((doorbellEvent_good hv h).trans (doorbell_ring hgood h))
    · exact congrArg _ ((doorbellEvent_good hv h).trans ((doorbell_enable hgood h).trans (if_pos h0)))
    · exact congrArg _ ((doorbellEvent_good hv h).trans (doorbell_disable hgood h))
  case bad =>
    simp only [List.mem_cons, List.not_mem_nil, or_false] at hi
    rcases hi with rfl | rfl | rfl
    · exact congrArg _ (doorbellEvent_bad hv hbad)
    · exact congrArg _ (doorbellEvent_bad hv hbad)
    · exact congrArg _ (doorbellEvent_bad hv hbad)
  case load =>
    have h' : s.load g (s.group g).roles = some (v, s1) := h
    refine congrArg _ ((if_pos ⟨hload, hbound⟩).trans ?_)
    simp only [State.loadKernel, h']
    rfl
  case budget =>
    intro u addr r met s1 c p st hq hno hready hcount hbud hno' hhead hvictim
    exact preemptBudget_preempts rfl hq hno hready hcount hbud hno' hhead hvictim
  case arrival =>
    have hturn := barrierArrival_turn ha hfirst hroom hcross
    refine ⟨fun code hfail hst hw => ?_, fun b hfail hok hheld hrel => ?_, fun code hfail herr => ?_⟩
    · rw [hfail] at hturn
      exact hturn.trans (congrArg _ (if_neg (Bool.eq_false_iff.mp (failureWaits_goes hst (.inr hw)))))
    · rw [hfail, hok] at hturn
      refine hturn.trans (congrArg _ (if_neg ?_))
      rw [hheld, hrel]
      rintro (h | h) <;> cases h
    · rw [hfail, herr] at hturn
      refine ⟨fun hst => ?_, fun hcore hst => ?_, fun m hcore hst hwait => ?_⟩
      · exact hturn.trans (congrArg _ (if_pos (failureWaits_saved hst)))
      · refine hturn.trans (congrArg _ ((if_neg (Bool.eq_false_iff.mp (failureWaits_goes hst (.inl hfail)))).trans ?_))
        simp only [State.failArrival, hcore]
      · refine hturn.trans (congrArg _ ((if_neg (Bool.eq_false_iff.mp (failureWaits_goes hst (.inl hfail)))).trans ?_))
        have hwaits : ({ s with arrivals := dropNth s.arrivals n } : State).arrivalWaits a = true := by
          simp only [State.arrivalWaits, hcore]
          exact beq_iff_eq.mpr hwait
        simp only [State.failArrival, hcore, hwaits, if_true]
        exact enterHandler_eq_wordFaults _ _ _ _ _

end Sys2Proof.Proofs
end

section
/-! PROOFS. The events of links, memory lanes and adders (R388 to R399, R410). -/

namespace Sys2Proof.Proofs

open Sys2Proof Sys2Proof.Machine Sys2Proof.Claims

/-! ## Links (R388) -/

theorem linkEvent_of_le {l : Nat} (hl : l ≤ 12) (go : Link → State → State) (s : State) : linkEvent l go s = go (s.link l) s :=
  if_pos hl

/-- An UP link retrains. -/
theorem retrain_up {s : State} {l : Nat} (hl : l ≤ 12) (hup : (s.link l).state = .up) :
    s.retrain l = (s.setLink l { s.link l with
      state := .retraining, retrain := min ((s.link l).retrain + 1) 65535, left := some s.tick }).adderStops l :=
  (linkEvent_of_le hl _ s).trans (if_pos hup)

/-! ## Accesses from outside (R391, R392) -/

theorem hostAccess_down {s : State} {a : Access} (h : (s.link 8).state ≠ .up) : exec (.hostAccess a) s = .next s := by
  show execHostAccess a s = _
  exact congrArg _ (if_pos h)

theorem hostAccess_doorbell {s : State} {a : Access} (hup : (s.link 8).state = .up) (hbar : a.bar = 0) (hw : a.write = true)
    (haddr : a.addr = 0) (hsize : a.size = 8) : exec (.hostAccess a) s = .next (s.doorbell (a.data % 2 ^ 64)) := by
  show execHostAccess a s = _
  simp only [execHostAccess, hup, hbar, hw, haddr, hsize, ne_eq, not_true_eq_false, if_false, and_self, if_true]

/-- An access through BAR2. -/
theorem hostAccess_memory {s : State} {a : Access} (hup : (s.link 8).state = .up) (hbar : a.bar = 2) :
    exec (.hostAccess a) s = .next (if a.size ≤ (if a.write = true then 512 else 4096) then outsideAccess pathH 0 a s else s) := by
  show execHostAccess a s = _
  simp only [execHostAccess, hup, hbar, ne_eq, not_true_eq_false, if_false, OfNat.ofNat_ne_zero, true_and]

section
variable {s : State} {path die : Nat} {a : Access}

theorem outsideAccess_waits (h : s.reachesAll ⟨path, 32768 + die⟩ a.addr a.size = false) : outsideAccess path die a s = s := by
  simp only [outsideAccess, h, Bool.not_false, if_true]

theorem outsideAccess_writes (h : s.reachesAll ⟨path, 32768 + die⟩ a.addr a.size = true) (hw : a.write = true) :
    outsideAccess path die a s = outsideWrite ⟨path, 32768 + die⟩ a.addr (toBytes a.data a.size) s := by
  simp only [outsideAccess, h, hw, Bool.not_true, Bool.false_eq_true, if_false, if_true]

theorem outsideAccess_reads (h : s.reachesAll ⟨path, 32768 + die⟩ a.addr a.size = true) (hw : a.write = false) :
    outsideAccess path die a s = (outsideRead ⟨path, 32768 + die⟩ a.addr a.size s).2 := by
  simp only [outsideAccess, h, hw, Bool.not_true, Bool.false_eq_true, if_false]

end

/-! ## Lanes (R395, R396) -/

theorem shaken_lending {x : Lane} (h : x.state = .lending) (hw : x.wants = []) : x.shaken = { x with state := .lent } := by
  simp only [Lane.shaken, h, hw, if_true]

theorem change_none {x : Lane} (hw : x.wants = []) : x.change = x := by
  obtain ⟨state, ratio, lend, wants, postponed⟩ := x
  obtain rfl : wants = [] := hw
  rfl

theorem shaken_reclaiming {x : Lane} (h : x.state = .reclaiming) (hw : x.wants = []) : x.shaken = { x with state := .own } := by
  simp only [Lane.shaken, h, change_none hw]

theorem laneHandshake_done {s : State} {k : Nat} (hk : k < 512) (h : (s.lane k).state = .lending ∨ (s.lane k).state = .reclaiming) :
    exec (.laneHandshakeDone k) s = .next ((s.setLane k (s.lane k).shaken).laneRetrained k) := by
  show execLaneHandshakeDone k s = _
  exact congrArg _ (if_pos ⟨hk, h⟩)

/-! ## Adders (R398, R399) -/

/-- The sum of a beat with what comes in, or the beat itself at position 0 (R398). -/
def beatSum (d : Adder) (loc : Nat) : Option Nat → Nat × Flags
  | some b => addBeats d.type b loc
  | none => (loc, 0)

/-- A beat of an adder that has what it needs. -/
theorem chainBeat_adds {s s1 s2 : State} {n data loc : Nat} {inn : Option Nat} {d : Adder} (hd : mapGet {} s.adders n = d)
    (hrun : d.running = true) (hpage : d.pageFailed = false) (hin : s.adderLink d.inn = true) (hout : s.adderLink d.out = true)
    (hcredit : s.beatCredit n d = true)
    (hloc : vnat ⟨pathP, 32768 + adderDie n⟩ d.ctx (d.src + 64 * d.beats) 64 s = .ok (loc, s1))
    (hinn : s1.incoming n d data = some (inn, s2)) :
    exec (.chainBeat n data) s = .next (if d.out ≠ 0xFF then (s2.sendBeat d (adderDie n) false (beatSum d loc inn).1).beatDone n d (beatSum d loc inn).2
      else match vput ⟨pathP, 32768 + adderDie n⟩ d.ctx (d.dst + 64 * d.beats) 64 (beatSum d loc inn).1 s2 with
        | .ok (_, s3) => s3.beatDone n d (beatSum d loc inn).2
        | .error e => s.adderStop n d e) := by
  subst hd
  show execChainBeat n data s = _
  simp only [execChainBeat, beatStep, hrun, hpage, hin, hout, hcredit, hloc, hinn, Bool.not_true, Bool.false_eq_true, Bool.or_self,
    if_false]
  rfl

/-- Settles O58, from the lemma of each event. -/
theorem linkEvents : Obligations.LinkEvents := by
  unfold Obligations.LinkEvents
  intro s l k n a x y d
  refine ⟨fun hl => ?links, fun hup => ?host, fun hdown => hostAccess_down hdown, ?peer, fun hk => ?lanes,
    fun data loc s1 s2 inn hrun hpage hin hout hcredit hloc hinn => ?beat, fun hrun hinn hup => ?abort⟩
  case links =>
    refine ⟨fun h => congrArg _ ((linkEvent_of_le hl _ s).trans (if_pos h)), fun h => congrArg _ ((linkEvent_of_le hl _ s).trans (if_pos h)),
      fun h => ⟨congrArg _ ((linkEvent_of_le hl _ s).trans (if_pos h)), fun i hi => ?_⟩,
      fun h => congrArg _ ((linkEvent_of_le hl _ s).trans (if_pos h))⟩
    simp only [List.mem_cons, List.not_mem_nil, or_false] at hi
    rcases hi with rfl | rfl
    · exact congrArg _ (retrain_up hl h)
    · exact congrArg _ (retrain_up hl h)
  case host =>
    refine ⟨fun hbar hw haddr hsize => hostAccess_doorbell hup hbar hw haddr hsize, fun hbar hw hsize hreach => ?_,
      fun hbar hw hsize hreach => ?_, fun hbar hreach => ?_⟩
    · rw [hostAccess_memory hup hbar, hw]
      exact congrArg _ ((if_pos hsize).trans (outsideAccess_writes (die := 0) hreach hw))
    · rw [hostAccess_memory hup hbar, hw]
      exact congrArg _ ((if_pos hsize).trans (outsideAccess_reads (die := 0) hreach hw))
    · rw [hostAccess_memory hup hbar, outsideAccess_waits (die := 0) hreach, ite_self]
  case peer =>
    intro w inside
    exact ⟨fun h => congrArg _ (if_pos h), fun h => congrArg _ (if_neg h)⟩
  case lanes =>
    refine ⟨?_, ?_, fun h hw => ?_, fun h hw => ?_, congrArg _ (if_neg (Nat.not_le.mpr hk)), ?_⟩
    · show execLaneLend k s = _
      simp only [execLaneLend, hk, true_and, Bool.not_eq_eq_eq_not, Bool.not_true]
      rfl
    · show execLaneReclaim k s = _
      simp only [execLaneReclaim, hk, true_and]
      rfl
    · rw [laneHandshake_done hk (.inl h), shaken_lending h hw]
    · rw [laneHandshake_done hk (.inr h), shaken_reclaiming h hw]
    · exact congrArg _ (if_neg (Nat.not_le.mpr hk))
  case beat =>
    intro v
    have hbeat := chainBeat_adds rfl hrun hpage hin hout hcredit hloc hinn
    have hv : beatSum d loc inn = v := by
      cases inn with
      | none => rfl
      | some b => rfl
    rw [hv] at hbeat
    refine ⟨fun h => hbeat.trans (congrArg _ (if_pos h)), fun s3 h hput => ?_⟩
    refine hbeat.trans (congrArg _ ((if_neg (not_not.mpr h)).trans ?_))
    rw [hput]
  case abort =>
    have hgo : ¬ ((!d.running) = true ∨ d.inn = 0xFF ∨ (s.link d.inn).state ≠ .up) := by
      rw [hrun, hup]
      rintro (h | h | h)
      · cases h
      · omega
      · exact h rfl
    show execAdderAbort n s = _
    exact congrArg _ ((if_neg hgo).trans (if_pos hinn))

end Sys2Proof.Proofs
end

section
/-! PROOFS. The events of the device (R403, R405, R407, R409, R410, R411, R430). -/

namespace Sys2Proof.Proofs

open Sys2Proof Sys2Proof.Machine Sys2Proof.Claims

/-! ## The management port (R403, R407, R410) -/

section
variable {s : State} {a : Access}

theorem managementPort_cold (h : s.mgmt.start = .cold) :
    exec (.managementPortRequest a) s = .next { s with mgmt := { s.mgmt with answer := [] } } := by
  show execManagementPortRequest a s = _
  simp only [execManagementPortRequest, State.modMgmt, h]

theorem managementPort_stopped (h : s.mgmt.start = .stopped) :
    exec (.managementPortRequest a) s = .next { s with mgmt := { s.mgmt with answer := s.mgmt.log.flatMap StartRec.bytes } } := by
  show execManagementPortRequest a s = _
  simp only [execManagementPortRequest, State.modMgmt, h]

theorem managementPort_report (h : s.mgmt.start = .serving) (hw : a.write = true) :
    exec (.managementPortRequest a) s = .next { s with mgmt := { s.mgmt with answer := attestation s.tick s.mgmt a.data } } := by
  show execManagementPortRequest a s = _
  simp only [execManagementPortRequest, State.modMgmt, h, hw, if_true]

/-- The counters that a telemetry read has brought up to date. -/
def telemetryCounters (s : State) (a : Access) : FMap Nat :=
  (s.mgmt.count s.tick ((List.range (a.size / 8 + 2)).map (a.addr / 8 + ·))).counters

theorem managementPort_telemetry (h : s.mgmt.start = .serving) (hw : a.write = false) :
    exec (.managementPortRequest a) s = .next { s with mgmt := { s.mgmt with
      counters := telemetryCounters s a
      answer := (List.range a.size).map fun i =>
        (toBytes (mapGet 0 (telemetryCounters s a) ((a.addr + i) / 8)) 8).getD ((a.addr + i) % 8) 0 } } := by
  show execManagementPortRequest a s = _
  simp only [execManagementPortRequest, State.modMgmt, h, hw, Bool.false_eq_true, if_false]
  rw [← h]
  rfl

end

/-- Settles O59, branch by branch of the events. -/
theorem deviceEvents : Obligations.DeviceEvents := by
  unfold Obligations.DeviceEvents
  intro s n a m w high
  refine ⟨fun h => congrArg _ (if_neg (not_not.mpr h)), fun h => congrArg _ (if_pos h), rfl, rfl, rfl, fun h => managementPort_cold h,
    fun h => managementPort_stopped h, fun h => ⟨fun hw => managementPort_report h hw, fun hw => ?telemetry⟩, rfl, ?patrol, rfl, rfl⟩
  case telemetry => exact ⟨_, managementPort_telemetry h hw, rfl, rfl⟩
  case patrol =>
    show execPatrolScrub n s = _
    simp only [execPatrolScrub, Bool.not_eq_eq_eq_not, Bool.not_true]

end Sys2Proof.Proofs
end

section
/-! PROOFS. Main memory stays canonical (R170, R375), first part: the operations of the model that leave main memory as it is. -/

namespace Sys2Proof.Proofs

open Sys2Proof Sys2Proof.Machine Sys2Proof.Claims

@[simp] theorem mem_ite {c : Prop} [Decidable c] (s t : State) :
    (if c then s else t).mem = if c then s.mem else t.mem :=
  apply_ite State.mem c s t

@[simp] theorem foldl_mem {α : Type} {f : State → α → State} (hf : ∀ s x, (f s x).mem = s.mem) (l : List α) (s : State) :
    (l.foldl f s).mem = s.mem := by
  induction l generalizing s with
  | nil => rfl
  | cons a l ih => rw [List.foldl_cons, ih, hf]

@[simp] theorem modPort_mem (s : State) (t p : Nat) (f : Port → Port) : (s.modPort t p f).mem = s.mem := rfl
@[simp] theorem modRing_mem (s : State) (t n : Nat) (f : Ring → Ring) : (s.modRing t n f).mem = s.mem := rfl
@[simp] theorem modAcc_mem (s : State) (t n : Nat) (f : Acc → Acc) : (s.modAcc t n f).mem = s.mem := rfl
@[simp] theorem modCircuit_mem (s : State) (t n : Nat) (f : Circuit → Circuit) : (s.modCircuit t n f).mem = s.mem := rfl
@[simp] theorem popQueue_mem (s : State) (e : Engine) : (s.popQueue e).mem = s.mem := rfl
@[simp] theorem logFault_mem (s : State) (r : FaultRec) : (s.logFault r).mem = s.mem := by simp [State.logFault]
@[simp] theorem mapElems_mem (s : State) (c : Nat) (f : Element → Element) : (s.mapElems c f).mem = s.mem := rfl
@[simp] theorem fatal_mem (s : State) (c : Nat) : (s.fatal c).mem = s.mem := by unfold State.fatal; split <;> rfl
@[simp] theorem recordFatal_mem (s : State) (r : FaultRec) : (s.recordFatal r).mem = s.mem := by
  unfold State.recordFatal; dsimp only; split <;> simp
@[simp] theorem enterHandler_mem (s : State) (n code : Nat) (val aux : Option W64) :
    (s.enterHandler n code val aux).mem = s.mem := by
  unfold State.enterHandler; dsimp only; split <;> simp

@[simp] theorem xfence_mem (s : State) (c : BitVec 8) (src dst scope unit : Nat) :
    (s.xfence c src dst scope unit).mem = s.mem := rfl
@[simp] theorem countRow_mem (s : State) (t p : Nat) : (s.countRow t p).mem = s.mem := rfl
@[simp] theorem showCounted_mem (s : State) (t p : Nat) : (s.showCounted t p).mem = s.mem := rfl
@[simp] theorem forgetRows_mem (s : State) (t p : Nat) : (s.forgetRows t p).mem = s.mem := rfl
@[simp] theorem showCommands_mem (s : State) (n : Nat) : (s.showCommands n).mem = s.mem :=
  foldl_mem (fun s u => State.showKnown_mem s _ u) _ s

@[simp] theorem setFull_mem (s : State) (t g n : Nat) (v : Bool) : (s.setFull t g n v).mem = s.mem := rfl
@[simp] theorem fillBytes_mem (s : State) (t a n : Nat) :
    (s.fillBytes t a n).mem = s.mem := by unfold State.fillBytes; split <;> rfl
@[simp] theorem seeGranule_mem (s : State) (t g : Nat) : (s.seeGranule t g).mem = s.mem := rfl
@[simp] theorem seeRange_mem (s : State) (src path t a n before : Nat) :
    (s.seeRange src path t a n before).mem = s.mem := rfl
@[simp] theorem signal_mem (s : State) (c : BitVec 8) (va : Nat) : (s.signal c va).mem = s.mem := rfl
@[simp] theorem countDrop_mem (s : State) (c : BitVec 8) : (s.countDrop c).mem = s.mem := rfl
@[simp] theorem pushOut_mem (s : State) (t e k : Nat) (items : List OutItem) : (s.pushOut t e k items).mem = s.mem := by
  unfold State.pushOut; split <;> rfl
@[simp] theorem Firing_push_mem (fr : Firing) (items : List OutItem) (s : State) :
    (Firing.push fr items s).mem = s.mem := by
  simp [Firing.push]
@[simp] theorem Firing_emit_mem (fr : Firing) (f : Form) (fields : List Nat) (kind : Kind) (v tag : W64) (sbit : Bool) (s : State) :
    (Firing.emit fr f fields kind v tag sbit s).mem = s.mem := by
  simp [Firing.emit]
@[simp] theorem Firing_fault_mem (fr : Firing) (code : Nat) (val aux : Option W64) (s : State) :
    (Firing.fault fr code val aux s).mem = s.mem := rfl
@[simp] theorem Firing_raiseAs_mem (fr : Firing) (f : Form) (tag : W64) (code : Nat) (aux : Option W64) (s : State) :
    (Firing.raiseAs fr f tag code aux s).mem = s.mem := by
  simp [Firing.raiseAs]
@[simp] theorem Firing_raise_mem (fr : Firing) (f : Form) (code : Nat) (aux : Option W64) (s : State) :
    (Firing.raise fr f code aux s).mem = s.mem := by
  simp [Firing.raise]
@[simp] theorem firing_run_mem {eval : W64 → State → State} (heval : ∀ tag s, (eval tag s).mem = s.mem) (fr : Firing) (f : Form)
    (s : State) : (fr.run f eval s).mem = s.mem := by
  unfold Firing.run
  split
  · simp
  · split
    · split <;> simp
    · split
      · rfl
      · split <;> simp [heval]

@[simp] theorem orFlags_mem (s : State) (t e : Nat) (fl : Flags) : (s.orFlags t e fl).mem = s.mem := rfl
@[simp] theorem Firing_value_mem (fr : Firing) (f : Form) (sbit : Bool) (v : W64 × Flags) (tag : W64) (s : State) :
    (Firing.value fr f sbit v tag s).mem = s.mem := by
  simp [Firing.value]
@[simp] theorem mirrorBucket_mem (s : State) (t e idx : Nat) : (s.mirrorBucket t e idx).mem = s.mem := by
  unfold State.mirrorBucket
  rw [foldl_mem]
  intro s i
  dsimp only
  split
  · rw [setFull_mem, spWrite_mem]
  · split
    · rw [setFull_mem, spWrite_mem, spWrite_mem]
    · rfl

@[simp] theorem freeOverflow_mem (s : State) (c : BitVec 8) (addr : Nat) : (s.freeOverflow c addr).mem = s.mem := rfl
@[simp] theorem noteHeld_mem (s : State) (t e k : Nat) (n : Net) (tok : Token) (why : Stop) :
    (s.noteHeld t e k n tok why).mem = s.mem := by
  unfold State.noteHeld; dsimp only; split <;> simp
@[simp] theorem scaleMismatch_mem (s : State) (t e k : Nat) (tag : W64) : (s.scaleMismatch t e k tag).mem = s.mem := rfl
@[simp] theorem seekReord_mem (s : State) (t e k : Nat) : (s.seekReord t e k).mem = s.mem := by
  unfold State.seekReord; dsimp only; repeat' split
  all_goals simp
@[simp] theorem coreFault_mem (s : State) (n code : Nat) (aux val : Option W64) :
    (s.coreFault n code aux val).mem = s.mem := by
  simp [State.coreFault]
@[simp] theorem command_mem (s : State) (n port : Nat) (r : Req) :
    (s.command n port r).mem = s.mem := by simp [State.command]
@[simp] theorem query_mem (s : State) (n : Nat) (f : Form) (port : Nat) (r : Req) :
    (s.query n f port r).mem = s.mem := by
  unfold State.query; dsimp only; split <;> simp
@[simp] theorem commandDone_mem (s : State) (r : Req) :
    (s.commandDone r).mem = s.mem := by unfold State.commandDone; split <;> rfl
@[simp] theorem Firing_sendRequest_mem (fr : Firing) (i : Instr) (s : State) :
    (Firing.sendRequest fr i s).mem = s.mem := by
  unfold Firing.sendRequest; dsimp only; repeat' split
  all_goals simp
@[simp] theorem answerTo_mem (s : State) (src : Source) (r : Req) (target : BitVec 22) (tok : Token) :
    (s.answerTo src r target tok).mem = s.mem := by
  unfold State.answerTo; repeat' split
  all_goals simp
@[simp] theorem reply_mem (s : State) (e : Engine) (r : Req) (kind : Kind) (v : W64) :
    (s.reply e r kind v).mem = s.mem := by
  unfold State.reply; split <;> simp
@[simp] theorem forward_mem (s : State) (e : Engine) (r : Req) :
    (s.forward e r).mem = s.mem := by unfold State.forward; split <;> simp
@[simp] theorem beginRound_mem (s : State) (t : Nat) (r : BitVec 8) : (s.beginRound t r).mem = s.mem := by
  unfold State.beginRound; split <;> rfl
@[simp] theorem faultAt_mem (s : State) (e : Engine) (r : Req) (code : Nat) (val aux : Option W64) :
    (s.faultAt e r code val aux).mem = s.mem := rfl
@[simp] theorem failAt_mem (s : State) (e : Engine) (r : Req) (code : Nat) (val aux : Option W64) :
    (s.failAt e r code val aux).mem = s.mem := rfl
@[simp] theorem notePark_mem (s : State) (e : Engine) (r : Req) (va : Nat) : (s.notePark e r va).mem = s.mem := by
  unfold State.notePark; split <;> rfl
@[simp] theorem endHead_mem (s : State) (e : Engine) :
    (s.endHead e).mem = s.mem := by unfold State.endHead; split <;> simp
theorem serve_mem {e : Engine} {r : Req} {m : Act (W64 × Bool)} (s : State)
    (hm : ∀ v s', m s = .ok (v, s') → s'.mem = s.mem) : (s.serve e r m).mem = s.mem := by
  unfold State.serve
  split
  · simp
  · split <;> simp <;> exact hm _ _ ‹_›

@[simp] theorem arithFire_mem (f : Form) (op : W64 → W64 → W64 → W64 × Flags) (fr : Firing) (s : State) :
    (arithFire f op fr s).mem = s.mem := by
  simp [arithFire]
@[simp] theorem bitFire_mem (f : Form) (op : W64 → W64 → W64 → W64 × Flags) (fr : Firing) (s : State) :
    (bitFire f op fr s).mem = s.mem := by
  simp [bitFire]
@[simp] theorem arithCore_mem (opc : Nat) (f : Form) (op : W64 → W64 → W64 → W64 × Flags) (n : Nat) (s : State) :
    (arithCore opc f op n s).mem = s.mem := rfl
@[simp] theorem dropWaves_mem (s : State) (p : Wave → Bool) : (s.dropWaves p).mem = s.mem := rfl
@[simp] theorem tidyWaves_mem (s : State) : (s.tidyWaves).mem = s.mem := rfl
@[simp] theorem beginWave_mem (s : State) (c : BitVec 8) (tag : W64) : (s.beginWave c tag).mem = s.mem := rfl
@[simp] theorem newWave_mem (s : State) (c : BitVec 8) (tag : W64) : (s.newWave c tag).mem = s.mem := rfl
@[simp] theorem openWave_mem (s : State) (c : BitVec 8) (tag : W64) :
    (s.openWave c tag).mem = s.mem := by simp [State.openWave]
@[simp] theorem notePos_mem (s : State) (c : BitVec 8) (tag : W64) (p : ChainPos) :
    (s.notePos c tag p).mem = s.mem := by simp [State.notePos]
@[simp] theorem passPos_mem (s : State) (c : BitVec 8) (tag : W64) (own : Nat) :
    (s.passPos c tag own).mem = s.mem := rfl
@[simp] theorem jump_mem (s : State) (n : Nat) (target : Int) (link : Core → Core) :
    (s.jump n target link).mem = s.mem := by
  simp [State.jump]
@[simp] theorem takeQueued_mem (s : State) (n : Nat) : (s.takeQueued n).mem = s.mem := by
  unfold State.takeQueued
  dsimp only
  split
  case h_1 hread => simp [vread_mem _ _ _ _ _ _ _ hread]
  case h_2 => rfl

@[simp] theorem takeWord_mem (f : Form) (n : Nat) (s : State) : (takeWord f n s).mem = s.mem := by
  unfold takeWord; dsimp only; repeat' split
  all_goals simp
@[simp] theorem injWord_mem (f : Form) (n : Nat) (s : State) : (injWord f n s).mem = s.mem := by
  unfold injWord; dsimp only; repeat' split
  all_goals simp
@[simp] theorem sysrdWord_mem (f : Form) (n : Nat) (s : State) : (sysrdWord f n s).mem = s.mem := by
  unfold sysrdWord; dsimp only; split <;> simp
@[simp] theorem retire_mem (s : State) (n : Nat) (w : W64) :
    (s.retire n w).mem = s.mem := by unfold State.retire; dsimp only; split <;> simp
@[simp] theorem seeFull_mem (s : State) (t g n : Nat) : (s.seeFull t g n).mem = s.mem :=
  foldl_mem (fun s k => by split <;> simp) _ s

@[simp] theorem portLoad_mem (t : Nat) (r : Req) (s : State) : (portLoad t r s).2.mem = s.mem := by simp [portLoad]
@[simp] theorem portStore_mem (t : Nat) (r : Req) (s : State) : (portStore t r s).2.mem = s.mem := by simp [portStore]
@[simp] theorem portFeq_mem (t : Nat) (r : Req) (s : State) :
    (portFeq t r s).2.mem = s.mem := by unfold portFeq; dsimp only; split <;> simp
@[simp] theorem portFeset_mem (t : Nat) (r : Req) (s : State) : (portFeset t r s).2.mem = s.mem := rfl
@[simp] theorem portAtom_mem (t : Nat) (r : Req) (s : State) : (portAtom t r s).2.mem = s.mem := by simp [portAtom]
@[simp] theorem portPerform_mem (t : Nat) (r : Req) (s : State) : (portPerform t r s).2.mem = s.mem := by
  unfold portPerform; split <;> simp

@[simp] theorem portServe_mem (s : State) (t : Nat) (r : Req) :
    (s.portServe t r).mem = s.mem := by simp [State.portServe]
theorem settleGo_mem (t n : Nat) (s : State) : (settleGo t n s).mem = s.mem := by
  induction n generalizing s with
  | zero => rfl
  | succ n ih => rw [settleGo]; split <;> simp [ih]
@[simp] theorem settle_mem (s : State) (t : Nat) : (s.settle t).mem = s.mem := settleGo_mem t _ s

@[simp] theorem portTurn_mem (e : Engine) (r : Req) (s : State) :
    (portTurn e r s).mem = s.mem := by unfold portTurn; split <;> simp
@[simp] theorem setLine_mem (s : State) (t i v : Nat) : (s.setLine t i v).mem = s.mem := rfl
@[simp] theorem seePage_mem (s : State) (a : Agent) (p : Page) (va n : Nat) : (s.seePage a p va n).mem = s.mem := by
  unfold State.seePage; split <;> rfl
@[simp] theorem fillLine_mem (t i : Nat) (c : BitVec 8) (p : Page) (va : Nat) (s : State) :
    (fillLine t i c p va s).mem = s.mem := by
  unfold fillLine
  dsimp only
  rw [settle_mem, setFull_mem, spWrite_mem, pageRead_mem]

@[simp] theorem toInterface_mem (s : State) (r : Req) : (s.toInterface r).mem = s.mem := rfl
@[simp] theorem setReq_mem (s : State) (k : Nat) (m : MemReq) : (s.setReq k m).mem = s.mem := rfl
@[simp] theorem dropReq_mem (s : State) (k : Nat) : (s.dropReq k).mem = s.mem := rfl
@[simp] theorem noteReq_mem (s : State) (m : MemReq) (performed parked : Bool) :
    (s.noteReq m performed parked).mem = s.mem := by
  simp [State.noteReq]
@[simp] theorem endErr_mem (s : State) (k : Nat) (m : MemReq) (code : Nat) :
    (s.endErr k m code).mem = s.mem := by simp [State.endErr]
@[simp] theorem failReq_mem (s : State) (k : Nat) (m : MemReq) (code : Nat) (val aux : Option W64) :
    (s.failReq k m code val aux).mem = s.mem := rfl
@[simp] theorem translatePref_mem (s : State) (k : Nat) (m : MemReq) : (s.translatePref k m).mem = s.mem := by
  unfold State.translatePref; dsimp only; split <;> simp
@[simp] theorem translateAccess_mem (s : State) (k : Nat) (m : MemReq) : (s.translateAccess k m).mem = s.mem := by
  unfold State.translateAccess; dsimp only; repeat' split
  all_goals simp
@[simp] theorem xfenceOf_mem (f : Form) (c : BitVec 8) (unit : Nat) (s : State) :
    (xfenceOf f c unit s).mem = s.mem := rfl
@[simp] theorem releaseParked_mem (s : State) (c : BitVec 8) (lo size : Nat) :
    (s.releaseParked c lo size).mem = s.mem := rfl
@[simp] theorem Firing_sendAccess_mem (fr : Firing) (i : Instr) (s : State) :
    (Firing.sendAccess fr i s).mem = s.mem := by
  simp [Firing.sendAccess]
@[simp] theorem Firing_sendChecked_mem (fr : Firing) (i : Instr) (bad : Bool) (s : State) :
    (Firing.sendChecked fr i bad s).mem = s.mem := by
  simp [Firing.sendChecked]
@[simp] theorem publish_mem (s : State) (t n k : Nat) : (s.publish t n k).mem = s.mem := rfl
@[simp] theorem Firing_portFail_mem (fr : Firing) (f : Form) (code : Nat) (tag : W64) (s : State) :
    (Firing.portFail fr f code tag s).mem = s.mem := by
  simp [Firing.portFail]
theorem portGo_mem {t : Nat} {i : Instr} {s s' : State} {v : W64 × Bool} (h : portGo t i s = .ok (v, s')) :
    s'.mem = s.mem := by
  unfold portGo ringDefine at h
  split at h
  · split at h
    case h_1 s₁ hdef =>
      dsimp only at hdef
      split at hdef
      · cases hdef
      · split at hdef
        · cases hdef; cases h; rfl
        · split at hdef
          · cases hdef
          · cases hdef; cases h; rfl
    case h_2 => cases h
  · cases h; rfl
  · cases h; rfl
theorem flushPort_mem (t n : Nat) (s : State) : (flushPort t n s).mem = s.mem := by
  induction n generalizing s with
  | zero => rfl
  | succ n ih =>
    rw [flushPort]
    split
    · rfl
    · split
      · rfl
      · rw [ih, serve_mem s fun _ _ => portGo_mem]
@[simp] theorem portServed_mem (s : State) (t : Nat) : (s.portServed t).mem = s.mem := flushPort_mem t _ s

@[simp] theorem engineCommand_mem (i : Instr) (n : Nat) (s : State) : (engineCommand i n s).mem = s.mem := by
  unfold engineCommand; dsimp only; split <;> simp
@[simp] theorem engineQuery_mem (i : Instr) (n : Nat) (s : State) : (engineQuery i n s).mem = s.mem := by
  unfold engineQuery; dsimp only; split <;> simp
@[simp] theorem ringPortTurn_mem (e : Engine) (r : Req) (s : State) : (ringPortTurn e r s).mem = s.mem := by
  unfold ringPortTurn
  split
  · exact serve_mem s fun _ _ => portGo_mem
  · rfl

@[simp] theorem engFlags_mem (s : State) (t : Nat) (fl : Flags) : (s.engFlags t fl).mem = s.mem := rfl
@[simp] theorem readBegins_mem (s : State) (e : Engine) (r : Req) (f : Form) (t a b : Nat) :
    (s.readBegins e r f t a b).mem = s.mem := rfl
@[simp] theorem readEnds_mem (s : State) (t ring k : Nat) (keep : Bool) : (s.readEnds t ring k keep).mem = s.mem := rfl
@[simp] theorem mmaRun_mem (f : Form) (t a b : Nat) (keepA keepB : Bool) (sum : Acc → List Byte → List Byte → FMap W64 × Flags) (s : State) :
    (mmaRun f t a b keepA keepB sum s).mem = s.mem := by
  simp [mmaRun]
@[simp] theorem nzscanEngine_mem (f : Form) (e : Engine) (r : Req) (s : State) :
    (nzscanEngine f e r s).mem = s.mem := by
  unfold nzscanEngine; split <;> simp
@[simp] theorem splitReserve_mem (f : Form) (e : Engine) (r : Req) (t : Nat) (s : State) :
    (splitReserve f e r t s).mem = s.mem := by
  simp [splitReserve]
@[simp] theorem splitRun_mem (f : Form) (e : Engine) (r : Req) (t k d : Nat) (s : State) :
    (splitRun f e r t k d s).mem = s.mem := by
  unfold splitRun
  dsimp only
  rw [answerTo_mem, answerTo_mem, endHead_mem, readEnds_mem, publish_mem, spWrite_mem, engFlags_mem, spRead_mem]

@[simp] theorem xsplitEngine_mem (f : Form) (e : Engine) (r : Req) (s : State) :
    (xsplitEngine f e r s).mem = s.mem := by
  unfold xsplitEngine; dsimp only; repeat' split
  all_goals simp
@[simp] theorem useScale_mem (s : State) (t e : Nat) (f : Form) (tag : W64) :
    (s.useScale t e f tag).mem = s.mem := by simp [State.useScale]
@[simp] theorem setLoopEntry_mem (s : State) (t : Nat) (h : Share) (i : Nat) (e : LoopEntry) :
    (s.setLoopEntry t h i e).mem = s.mem := by
  simp [State.setLoopEntry]
@[simp] theorem spawnErr_mem (s : State) (c : Nat) (w : SpawnWait) (code : Nat) :
    (s.spawnErr c w code).mem = s.mem := by
  simp [State.spawnErr]
@[simp] theorem allocFire_mem (f : Form) (fr : Firing) (s : State) : (allocFire f fr s).mem = s.mem := by
  unfold allocFire
  rw [firing_run_mem]
  intro _ s
  split
  · simp
  · dsimp only
    split <;> simp

@[simp] theorem iterFire_mem (f : Form) (linked : Bool) (fr : Firing) (s : State) :
    (iterFire f linked fr s).mem = s.mem := by
  unfold iterFire
  rw [firing_run_mem]
  intro _ s
  dsimp only
  split
  · simp
  · split
    · simp
    · split
      · simp
      · split <;> simp

@[simp] theorem freeFire_mem (f : Form) (fr : Firing) (s : State) : (freeFire f fr s).mem = s.mem := by
  unfold freeFire
  rw [firing_run_mem]
  intro _ s
  dsimp only
  split
  · simp
  · split
    · simp
    · split
      · simp
      · split <;> simp

@[simp] theorem returnFire_mem (f : Form) (fr : Firing) (s : State) :
    (returnFire f fr s).mem = s.mem := by simp [returnFire]
@[simp] theorem Firing_mark_mem (fr : Firing) (f : Form) (round : BitVec 8) (s : State) :
    (Firing.mark fr f round s).mem = s.mem := by
  simp [Firing.mark]
@[simp] theorem rndqFire_mem (f : Form) (fr : Firing) (s : State) : (rndqFire f fr s).mem = s.mem := by simp [rndqFire]
@[simp] theorem countFire_mem (f : Form) (add : W64 → W64) (fr : Firing) (s : State) :
    (countFire f add fr s).mem = s.mem := by
  simp [countFire]
@[simp] theorem Firing_halt_mem (fr : Firing) (s : State) : (Firing.halt fr s).mem = s.mem := rfl
@[simp] theorem noteAttempts_mem (s : State) (t e : Nat) : (s.noteAttempts t e).mem = s.mem := by
  unfold State.noteAttempts
  dsimp only
  split
  · rw [foldl_mem]; simp
  · rw [State.modElem_mem, foldl_mem]; simp

theorem mem_of_spRead {path t a n : Nat} {s s' : State} {bs : List Byte} (h : spRead path t a n s = (bs, s')) :
    s'.mem = s.mem := by
  rw [← spRead_mem path t a n s, h]
@[simp] theorem copyBlock_mem (t : Nat) (r : Req) (s : State) : (copyBlock t r s).2.mem = s.mem := by
  rw [copyBlock]
  split
  · rfl
  split
  · rw [spRead_mem]
  split
  · split
    next b s₁ hb =>
    split
    next q s₂ hq => exact (mem_of_spRead hq).trans (mem_of_spRead hb)
  split
  · rw [spRead_mem]
  · rfl

@[simp] theorem unbound_mem (s : State) (t e k : Nat) (tok : Token) (target : BitVec 22) :
    (s.unbound t e k tok target).mem = s.mem := rfl
@[simp] theorem arrived_mem (s : State) (i : Nat) (fl : Flight) : (s.arrived i fl).mem = s.mem := rfl
@[simp] theorem forwardMark_mem (s : State) (t e k : Nat) (i : Instr) (n : BitVec 8) :
    (s.forwardMark t e k i n).mem = s.mem := by
  simp [State.forwardMark]
@[simp] theorem oweMark_mem (s : State) (t e k : Nat) (i : Instr) (n : BitVec 8) :
    (s.oweMark t e k i n).mem = s.mem := by
  simp [State.oweMark]
@[simp] theorem releaseTotal_mem (s : State) (t e k : Nat) (i : Instr) (n : BitVec 8) :
    (s.releaseTotal t e k i n).mem = s.mem := by
  unfold State.releaseTotal; dsimp only; split <;> simp
@[simp] theorem releaseScales_mem (s : State) (t e k : Nat) (n : BitVec 8) :
    (s.releaseScales t e k n).mem = s.mem := rfl
@[simp] theorem releaseArrive_mem (s : State) (t e k : Nat) (i : Instr) (n : BitVec 8) :
    (s.releaseArrive t e k i n).mem = s.mem := by
  unfold State.releaseArrive; dsimp only; split <;> simp
@[simp] theorem releaseSpawn_mem (s : State) (t e k : Nat) (i : Instr) (n : BitVec 8) :
    (s.releaseSpawn t e k i n).mem = s.mem := by
  simp [State.releaseSpawn]
@[simp] theorem reconf_mem (s : State) (t e k port : Nat) (tok : Token) : (s.reconf t e k port tok).mem = s.mem := by
  unfold State.reconf
  dsimp only
  split
  · split <;> simp
  · split <;> simp
@[simp] theorem controlToken_mem (s : State) (t e k : Nat) : (s.controlToken t e k).mem = s.mem := by
  unfold State.controlToken
  split
  · rfl
  · dsimp only
    split <;> simp

@[simp] theorem noteMail_mem (s : State) (n k : Nat) (round : BitVec 8) :
    (s.noteMail n k round).mem = s.mem := by simp [State.noteMail]
@[simp] theorem tokenFrom_mem (s : State) (e : Engine) (t : Nat) (target : BitVec 22) (tok : Token) :
    (s.tokenFrom e t target tok).mem = s.mem := by
  unfold State.tokenFrom; split <;> simp
@[simp] theorem portFault_mem (s : State) (t p code : Nat) (tag : W64) (val aux : Option W64) :
    (s.portFault t p code tag val aux).mem = s.mem := rfl
@[simp] theorem openReply_mem (s : State) (t p : Nat) (v : W64) : (s.openReply t p v).mem = s.mem := by
  unfold State.openReply; dsimp only; repeat' split
  all_goals simp
@[simp] theorem portDone_mem (s : State) (t p : Nat) : (s.portDone t p).mem = s.mem := by simp [State.portDone]
@[simp] theorem forwardRelatch_mem (s : State) (t p : Nat) (tok : Token) : (s.forwardRelatch t p tok).mem = s.mem := by
  unfold State.forwardRelatch; dsimp only; split <;> simp
@[simp] theorem flushRelatch_mem (s : State) (t p : Nat) : (s.flushRelatch t p).mem = s.mem := by
  simp [State.flushRelatch]

@[simp] theorem cutPort_mem (s : State) (t p : Nat) : (s.cutPort t p).mem = s.mem := by simp [State.cutPort]
@[simp] theorem refuseOpen_mem (s : State) (e : Engine) (r : Req) (check : Nat) :
    (s.refuseOpen e r check).mem = s.mem := rfl
@[simp] theorem takeHead_mem (s : State) (e : Engine) : (s.takeHead e).mem = s.mem := rfl
@[simp] theorem portOpen_mem (e : Engine) (t p : Nat) (r : Req) (s : State) : (portOpen e t p r s).mem = s.mem := by
  simp [portOpen]

@[simp] theorem portWait_mem (e : Engine) (t p : Nat) (r : Req) (s : State) :
    (portWait e t p r s).mem = s.mem := by simp [portWait]
@[simp] theorem relatchDone_mem (s : State) (e : Engine) (t p : Nat) (r : Req) :
    (s.relatchDone e t p r).mem = s.mem := by
  unfold State.relatchDone; dsimp only; split <;> simp
@[simp] theorem portMarker_mem (e : Engine) (t p : Nat) (r : Req) (s : State) :
    (portMarker e t p r s).mem = s.mem := by simp [portMarker]
@[simp] theorem parkPort_mem (s : State) (t p va : Nat) (running : Bool) :
    (s.parkPort t p va running).mem = s.mem := rfl
@[simp] theorem refuseWindow_mem (s : State) (t p : Nat) :
    (s.refuseWindow t p).mem = s.mem := by simp [State.refuseWindow]
@[simp] theorem readRow_mem (a : Agent) (c : BitVec 8) (ps : Page × Page) (va n : Nat) (s : State) :
    (readRow a c ps va n s).2.mem = s.mem := by
  simp [readRow]
@[simp] theorem rowEnds_mem (s : State) (t p i addr : Nat) (code : Option Nat) :
    (s.rowEnds t p i addr code).mem = s.mem := by
  simp [State.rowEnds]
@[simp] theorem rowFails_mem (s : State) (t p i code : Nat) (tag : W64) (val aux : Option W64) :
    (s.rowFails t p i code tag val aux).mem = s.mem := rfl
@[simp] theorem rowWaits_mem (s : State) (t p i va : Nat) : (s.rowWaits t p i va).mem = s.mem := rfl
@[simp] theorem noteIndex_mem (s : State) (t p code : Nat) (val aux : Option W64) :
    (s.noteIndex t p code val aux).mem = s.mem := by
  simp [State.noteIndex]
@[simp] theorem indexFails_mem (s : State) (t p row code : Nat) (val aux : Option W64) :
    (s.indexFails t p row code val aux).mem = s.mem := by simp [State.indexFails]

@[simp] theorem mapPorts_mem (s : State) (f : Port → Port) : (s.mapPorts f).mem = s.mem := rfl
@[simp] theorem failRows_mem (s : State) (t p lo size code : Nat) :
    (s.failRows t p lo size code).mem = s.mem := by simp [State.failRows]
@[simp] theorem failPort_mem (s : State) (t p lo size : Nat) : (s.failPort t p lo size).mem = s.mem := by
  unfold State.failPort; dsimp only; split <;> simp
@[simp] theorem coreOpen_mem (i : Instr) (n : Nat) (s : State) : (coreOpen i n s).mem = s.mem := by
  unfold coreOpen; dsimp only; split <;> simp
@[simp] theorem corePort_mem (i : Instr) (n : Nat) (s : State) : (corePort i n s).mem = s.mem := by
  unfold corePort; dsimp only; split <;> simp
@[simp] theorem coreSwait_mem (f : Form) (n : Nat) (s : State) :
    (coreSwait f n s).mem = s.mem := by unfold coreSwait; split <;> simp
@[simp] theorem circuitFail_mem (s : State) (t : Nat) (r : Req) : (s.circuitFail t r).mem = s.mem := rfl
@[simp] theorem circuitTurn_mem (e : Engine) (r : Req) (s : State) : (circuitTurn e r s).mem = s.mem := by
  unfold circuitTurn
  split
  · simp
  · rfl

@[simp] theorem circuitEnds_mem (s : State) (t : Nat) (r : Req) : (s.circuitEnds t r).mem = s.mem := rfl
@[simp] theorem circuitServed_mem (s : State) (t k : Nat) (r : Req) :
    (s.circuitServed t k r).mem = s.mem := by simp [State.circuitServed]
@[simp] theorem circuitReserve_mem (s : State) (t k : Nat) (r : Req) :
    (s.circuitReserve t k r).mem = s.mem := by simp [State.circuitReserve]
@[simp] theorem circuitGo_mem (s : State) (t k : Nat) (dst v : Nat) : (s.circuitGo t k dst v).mem = s.mem := rfl
@[simp] theorem circuitSend_mem (s : State) (t k : Nat) (r : Req) : (s.circuitSend t k r).mem = s.mem := by
  unfold State.circuitSend; dsimp only; split <;> simp
@[simp] theorem circuitLand_mem (s : State) (t k : Nat) (r : Req) : (s.circuitLand t k r).mem = s.mem := by
  unfold State.circuitLand; dsimp only; split <;> simp
@[simp] theorem setBarrier_mem (s : State) (h : Nat) (b : Barrier) : (s.setBarrier h b).mem = s.mem := rfl
@[simp] theorem showArrivals_mem (s : State) (now : List Arrival) : (s.showArrivals now).mem = s.mem := by
  unfold State.showArrivals; rw [foldl_mem]; simp

@[simp] theorem failArrival_mem (s : State) (pick : Nat) (a : Arrival) (code : Nat) :
    (s.failArrival pick a code).mem = s.mem := by
  unfold State.failArrival; split <;> simp
@[simp] theorem failedReply_mem (s : State) (a : Arrival) (code : Nat) :
    (s.failedReply a code).mem = s.mem := by simp [State.failedReply]
@[simp] theorem releaseOne_mem (s : State) (a : Arrival) (round : BitVec 8) : (s.releaseOne a round).mem = s.mem := by
  unfold State.releaseOne; dsimp only; repeat' split
  all_goals simp
@[simp] theorem releaseRounds_mem (h n : Nat) (s : State) : (releaseRounds h n s).mem = s.mem := by
  induction n generalizing s with
  | zero => rfl
  | succ n ih => simp [releaseRounds, ih]

@[simp] theorem barinitAllocWord_mem (f : Form) (n : Nat) (s : State) : (barinitAllocWord f n s).mem = s.mem := by
  unfold barinitAllocWord; dsimp only; repeat' split
  all_goals simp
@[simp] theorem bararrWord_mem (f : Form) (n : Nat) (s : State) : (bararrWord f n s).mem = s.mem := by
  unfold bararrWord; dsimp only; repeat' split
  all_goals simp
@[simp] theorem bindAt_mem (s : State) (g : Nat) (c : BitVec 8) (h : Shape) (p : Place2) :
    (s.bindAt g c h p).mem = s.mem := by
  unfold State.bindAt
  dsimp only
  rw [State.modCore_mem, foldl_mem] <;> simp

@[simp] theorem returnRecords_mem (s : State) (t e : Nat) : (s.returnRecords t e).mem = s.mem := by
  unfold State.returnRecords; rw [foldl_mem]; simp

@[simp] theorem clearElem_mem (s : State) (t e : Nat) : (s.clearElem t e).mem = s.mem := by simp [State.clearElem]
@[simp] theorem clearTile_mem (s : State) (t : Nat) : (s.clearTile t).mem = s.mem := by simp [State.clearTile]
@[simp] theorem freeTile_mem (s : State) (t : Nat) : (s.freeTile t).mem = s.mem := by
  unfold State.freeTile
  dsimp only
  rw [State.modTile_mem, foldl_mem (fun s e => State.setQueue_mem s e []), foldl_mem]
  simp

@[simp] theorem dropWork_mem (s : State) (c : BitVec 8) (tiles : List Nat) (core : Nat) :
    (s.dropWork c tiles core).mem = s.mem := rfl
@[simp] theorem freeCore_mem (s : State) (n : Nat) : (s.freeCore n).mem = s.mem := rfl
@[simp] theorem giveUp_mem (s : State) (g : Nat) : (s.giveUp g).mem = s.mem := by simp [State.giveUp]
@[simp] theorem freeGroups_mem (s : State) : (s.freeGroups).mem = s.mem := rfl
@[simp] theorem gbindWord_mem (f : Form) (n : Nat) (s : State) : (gbindWord f n s).mem = s.mem := by
  unfold gbindWord; dsimp only; repeat' split
  all_goals simp
@[simp] theorem freeUnplaced_mem (s : State) (g : Nat) : (s.freeUnplaced g).mem = s.mem := rfl
@[simp] theorem setEdge_mem (s : State) (t e k field ini mx : Nat) : (s.setEdge t e k field ini mx).mem = s.mem := rfl
@[simp] theorem setSerai_mem (s : State) (t e v : Nat) : (s.setSerai t e v).mem = s.mem := rfl
@[simp] theorem cfgCircuit_mem (s : State) (t n half v : Nat) : (s.cfgCircuit t n half v).mem = s.mem := rfl
@[simp] theorem rederive_mem (s : State) (t e : Nat) : (s.rederive t e).mem = s.mem :=
  foldl_mem (fun s b => by split <;> rfl) _ s

@[simp] theorem setWord_mem (s : State) (t e i v : Nat) : (s.setWord t e i v).mem = s.mem := by
  unfold State.setWord
  split
  · simp
  · split
    · rw [foldl_mem]; simp
    · split
      · simp
      · dsimp only
        split <;> simp

@[simp] theorem seeBoundary_mem (s : State) (t : Nat) (r : Req) : (s.seeBoundary t r).mem = s.mem := rfl
@[simp] theorem inSequence_mem (s : State) (t : Nat) : (s.inSequence t).mem = s.mem := rfl
@[simp] theorem showUpdate_mem (s : State) : (s.showUpdate).mem = s.mem := rfl
@[simp] theorem noteHead_mem (s : State) (e : Engine) (bs : List Byte) : (s.noteHead e bs).mem = s.mem := by
  unfold State.noteHead; split <;> simp
@[simp] theorem parkQuiet_mem (s : State) (e : Engine) (va : Nat) :
    (s.parkQuiet e va).mem = s.mem := by simp [State.parkQuiet]
@[simp] theorem readImage_mem (c : BitVec 8) (va n : Nat) (s : State) : (readImage c va n s).2.mem = s.mem := by
  induction n generalizing va s with
  | zero => rfl
  | succ n ih =>
    rw [readImage]
    dsimp only
    rw [ih]
    split
    · split <;> simp
    · rfl

@[simp] theorem noteSpoiled_mem (s : State) (c : BitVec 8) (va n : Nat) : (s.noteSpoiled c va n).mem = s.mem := by
  unfold State.noteSpoiled; dsimp only; split <;> simp
@[simp] theorem spConfig_mem (s : State) (t a : Nat) (bs : List Byte) : (s.spConfig t a bs).mem = s.mem := rfl
@[simp] theorem resetEdges_mem (s : State) (t e : Nat) : (s.resetEdges t e).mem = s.mem := rfl
@[simp] theorem loadCore_mem (s : State) (n : Nat) (rs : List ImgRec) :
    (s.loadCore n rs).mem = s.mem := by simp [State.loadCore]
@[simp] theorem lastKernel_mem (s : State) (c : BitVec 8) : (s.lastKernel c).mem = s.mem := by simp [State.lastKernel]
@[simp] theorem modQinf_mem (s : State) (q : Nat) (f : QueueInfo → QueueInfo) : (s.modQinf q f).mem = s.mem := rfl
@[simp] theorem raiseEvent_mem (s : State) (e : Nat × Nat) : (s.raiseEvent e).mem = s.mem := rfl
@[simp] theorem sendBeat_mem (s : State) (a : Adder) (die : Nat) (abort : Bool) (data : Nat) :
    (s.sendBeat a die abort data).mem = s.mem := by
  unfold State.sendBeat; split <;> simp
@[simp] theorem endChain_mem (s : State) (k : Nat) (a : Adder) :
    (s.endChain k a).mem = s.mem := by simp [State.endChain]
@[simp] theorem failAdder_mem (s : State) (k : Nat) : (s.failAdder k).mem = s.mem := by simp [State.failAdder]
@[simp] theorem failAdders_mem (s : State) (p : Adder → Bool) :
    (s.failAdders p).mem = s.mem := by simp [State.failAdders]
@[simp] theorem resumeContext_mem (s : State) (c : Nat) : (s.resumeContext c).mem = s.mem := rfl
@[simp] theorem appendFails_mem (s : State) (c : BitVec 8) (addr : Nat) (why : Stop) :
    (s.appendFails c addr why).mem = s.mem := by
  simp [State.appendFails]
@[simp] theorem failReqs_mem (c : BitVec 8) (lo size n : Nat) (s : State) : (failReqs c lo size n s).mem = s.mem := by
  induction n generalizing s with
  | zero => rfl
  | succ n ih =>
    rw [failReqs]
    split
    · rfl
    · split <;> simp [ih]

@[simp] theorem failUnit_mem (s : State) (e : Engine) (lo size code : Nat) :
    (s.failUnit e lo size code).mem = s.mem := by
  unfold State.failUnit; dsimp only; repeat' split
  all_goals simp
@[simp] theorem showWritten_mem (s : State) (c : BitVec 8) : (s.showWritten c).mem = s.mem := rfl
@[simp] theorem unplace_mem (s : State) (g : Nat) : (s.unplace g).mem = s.mem := by
  unfold State.unplace
  dsimp only
  rw [State.modGroup_mem, giveUp_mem, foldl_mem]
  simp

@[simp] theorem drainFault_mem (s : State) (c : Nat) (aux : Nat) : (s.drainFault c aux).mem = s.mem := rfl
@[simp] theorem beginHard_mem (s : State) (c : Nat) (faulted : Bool) :
    (s.beginHard c faulted).mem = s.mem := by simp [State.beginHard]
@[simp] theorem rebuildTile_mem (s : State) (g : Nat) (k : KernelState) (r : Rename) (m : GroupImage) (t role : Nat) :
    (s.rebuildTile g k r m t role).mem = s.mem := rfl
@[simp] theorem renamed_mem (s : State) (c : BitVec 8) (r : Rename) : (s.renamed c r).mem = s.mem := rfl
@[simp] theorem beginDrain_mem (s : State) (c : Nat) (hard : Bool) :
    (s.beginDrain c hard).mem = s.mem := by simp [State.beginDrain]
@[simp] theorem afterCopy_mem (s : State) (c : Nat) (j : CtxJob) :
    (s.afterCopy c j).mem = s.mem := by simp [State.afterCopy]
@[simp] theorem schedFault_mem (s : State) (c : BitVec 8) (code : Nat) (val aux : Option W64) :
    (s.schedFault c code val aux).mem = s.mem := rfl
@[simp] theorem schedSees_mem (s : State) : (s.schedSees).mem = s.mem := rfl
@[simp] theorem failHead_mem (s : State) (q addr : Nat) (r : QRec) (check : Nat) :
    (s.failHead q addr r check).mem = s.mem := rfl
@[simp] theorem showPhys_mem (s : State) (pa n : Nat) : (s.showPhys pa n).mem = s.mem := rfl
@[simp] theorem relatchPage_mem (s : State) (c : BitVec 8) (lo lvl : Nat) : (s.relatchPage c lo lvl).mem = s.mem := by
  unfold State.relatchPage
  dsimp only
  rw [foldl_mem]
  intro s q
  split <;> simp

@[simp] theorem migrEnd_mem (f : Form) (n va : Nat) (old : W64) (s : State) :
    (migrEnd f n va old s).mem = s.mem := by simp [migrEnd]
@[simp] theorem setLink_mem (s : State) (l : Nat) (x : Link) : (s.setLink l x).mem = s.mem := rfl
@[simp] theorem linkFault_mem (s : State) (l : Nat) (c : BitVec 8) : (s.linkFault l c).mem = s.mem := rfl
@[simp] theorem failOnLink_mem (l n : Nat) (s : State) : (failOnLink l n s).mem = s.mem := by
  induction n generalizing s with
  | zero => rfl
  | succ n ih =>
    rw [failOnLink]
    split <;> simp [ih]

@[simp] theorem failParked_mem (s : State) (l : Nat) : (s.failParked l).mem = s.mem := by simp [State.failParked]
@[simp] theorem adderStops_mem (s : State) (l : Nat) : (s.adderStops l).mem = s.mem := by simp [State.adderStops]
@[simp] theorem linkLeft_mem (s : State) (l : Nat) : (s.linkLeft l).mem = s.mem := by
  unfold State.linkLeft
  rw [adderStops_mem, foldl_mem] <;> simp

@[simp] theorem toFaulted_mem (s : State) (c : Nat) : (s.toFaulted c).mem = s.mem := by simp [State.toFaulted]
@[simp] theorem edgeLost_mem (s : State) (l : Nat) : (s.edgeLost l).mem = s.mem := by simp [State.edgeLost]
@[simp] theorem dropLink_mem (s : State) (l : Nat) (next : LinkState) :
    (s.dropLink l next).mem = s.mem := by simp [State.dropLink]
@[simp] theorem leaveUp_mem (s : State) (l : Nat) (x : Link) (next : LinkState) :
    (s.leaveUp l x next).mem = s.mem := by simp [State.leaveUp]
theorem linkEvent_mem {l : Nat} {go : Link → State → State} (hgo : ∀ x s, (go x s).mem = s.mem) (s : State) :
    (linkEvent l go s).mem = s.mem := by
  unfold linkEvent; split <;> simp [hgo]

@[simp] theorem retrain_mem (s : State) (l : Nat) : (s.retrain l).mem = s.mem :=
  linkEvent_mem (fun x s => by split <;> simp) s

@[simp] theorem outsideRead_mem (a : Agent) (pa n : Nat) (s : State) : (outsideRead a pa n s).2.mem = s.mem := by
  induction n generalizing pa s with
  | zero => rfl
  | succ n ih => simp [outsideRead, ih]

@[simp] theorem setLane_mem (s : State) (k : Nat) (x : Lane) : (s.setLane k x).mem = s.mem := rfl
@[simp] theorem laneRetrained_mem (s : State) (k : Nat) : (s.laneRetrained k).mem = s.mem := rfl
@[simp] theorem askLane_mem (s : State) (n r : Nat) (lend : Bool) (k : Nat) :
    (s.askLane n r lend k).mem = s.mem := by simp [State.askLane]
@[simp] theorem adderStop_mem (s : State) (k : Nat) (a : Adder) (e : Stop) : (s.adderStop k a e).mem = s.mem := by
  unfold State.adderStop; dsimp only; split <;> simp
@[simp] theorem beatDone_mem (s : State) (k : Nat) (a : Adder) (fl : Flags) :
    (s.beatDone k a fl).mem = s.mem := by simp [State.beatDone]
@[simp] theorem lnkaddStartWord_mem (f : Form) (n : Nat) (s : State) : (lnkaddStartWord f n s).mem = s.mem := by
  unfold lnkaddStartWord; dsimp only; repeat' split
  all_goals simp
@[simp] theorem modMgmt_mem (s : State) (f : Management → Management) : (s.modMgmt f).mem = s.mem := rfl
@[simp] theorem trained_mem (s : State) (l : Nat) : (s.trained l).mem = s.mem := rfl
@[simp] theorem readFuses_mem (s : State) : (readFuses s).mem = s.mem := rfl
@[simp] theorem placeFuses_mem (s : State) : (placeFuses s).mem = s.mem := by
  unfold placeFuses; rw [foldl_mem]; simp

@[simp] theorem markStack_mem (s : State) (k : Nat) : (s.markStack k).mem = s.mem := rfl
@[simp] theorem loadKeys_mem (s : State) : (loadKeys s).mem = s.mem := modMgmt_mem s _

@[simp] theorem placeProgram_mem (s : State) (p : Firmware) : (s.placeProgram p).mem = s.mem := rfl
@[simp] theorem beginService_mem (s : State) : (beginService s).mem = s.mem := by simp [beginService]

end Sys2Proof.Proofs
end

section
/-! PROOFS. Main memory stays canonical (R170, R375), second part: the actions of the tree units and of the boundary units.
An action keeps main memory canonical when a sequence of its parts does. -/

namespace Sys2Proof.Proofs

open Sys2Proof Sys2Proof.Machine Sys2Proof.Claims

/-- An action that, where it ends, leaves canonical memory canonical. -/
def KeepsMem {α : Type} (m : Act α) : Prop :=
  ∀ ⦃s : State⦄ ⦃v : α⦄ ⦃t : State⦄, m s = .ok (v, t) → Memory.wf s.mem = true → Memory.wf t.mem = true

namespace KeepsMem

variable {α β : Type}

theorem of_mem {m : Act α} (hm : ∀ s v t, m s = .ok (v, t) → t.mem = s.mem) : KeepsMem m := by
  intro s v t h hs
  rwa [hm s v t h]

theorem ret (a : α) : KeepsMem (Act.ret a) := by
  rintro s v t ⟨⟩ hs
  exact hs

theorem andThen {m : Act α} {f : α → Act β} (hm : KeepsMem m) (hf : ∀ a, KeepsMem (f a)) : KeepsMem (m.andThen f) := by
  intro s v t h hs
  unfold Act.andThen at h
  split at h
  case h_1 ha => exact hf _ h (hm ha hs)
  case h_2 => cases h

theorem stop (e : Stop) : KeepsMem (Act.stop e : Act α) := by
  rintro s v t ⟨⟩

theorem look (f : State → α) : KeepsMem (Act.look f) := by
  rintro s v t ⟨⟩ hs
  exact hs

theorem change {f : State → State} (hf : ∀ s, (f s).mem = s.mem) : KeepsMem (Act.change f) := by
  rintro s v t ⟨⟩ hs
  rwa [hf]

theorem ite {c : Prop} [Decidable c] {m n : Act α} (hm : KeepsMem m) (hn : KeepsMem n) :
    KeepsMem (if c then m else n) := by
  split
  · exact hm
  · exact hn

theorem need (c : Bool) (e : Stop) : KeepsMem (Act.need c e) := .ite (.ret _) (.stop _)

theorem each {f : α → Act β} (hf : ∀ a, KeepsMem (f a)) (l : List α) : KeepsMem (Act.each f l) := by
  induction l with
  | nil => exact .ret _
  | cons a l ih => exact .andThen (hf a) fun _ => .andThen ih fun _ => .ret _

theorem tryAct {m : Act α} (hm : KeepsMem m) : KeepsMem (Machine.tryAct m) := by
  intro s v t h hs
  unfold Machine.tryAct at h
  split at h
  case h_1 ha => cases h; exact hm ha hs
  case h_2 => cases h; exact hs
  case h_3 => cases h

end KeepsMem

/-- An operation on trees whose action keeps memory canonical, whatever it has gathered. -/
def KeepsOp {α : Type} (m : TreeOp α) : Prop := ∀ ⦃g⦄, KeepsMem (m g)

namespace KeepsOp

variable {α β : Type}

theorem ret (a : α) : KeepsOp (TreeOp.ret a) := fun _ => .ret _

theorem bind {m : TreeOp α} {k : α → TreeOp β} (hm : KeepsOp m) (hk : ∀ a, KeepsOp (k a)) : KeepsOp (m.bind k) :=
  fun g => .andThen (hm (g := g)) fun r => hk r.1 (g := r.2)

theorem of {m : Act α} (hm : KeepsMem m) : KeepsOp (TreeOp.of m) := fun _ => .andThen hm fun _ => .ret _

theorem round (p : α × Flags) : KeepsOp (TreeOp.round p) := fun _ => .ret _

theorem free (va cls : Nat) : KeepsOp (TreeOp.free va cls) := fun _ => .ret _

theorem ite {c : Prop} [Decidable c] {m n : TreeOp α} (hm : KeepsOp m) (hn : KeepsOp n) :
    KeepsOp (if c then m else n) := by
  split
  · exact hm
  · exact hn

theorem when (c : Bool) {m : TreeOp Unit} (hm : KeepsOp m) : KeepsOp (TreeOp.when c m) := .ite hm (.ret _)

theorem each {f : α → TreeOp β} (hf : ∀ a, KeepsOp (f a)) (l : List α) : KeepsOp (TreeOp.each f l) := by
  induction l with
  | nil => exact .ret _
  | cons a l ih => exact .bind (hf a) fun _ => .bind ih fun _ => .ret _

theorem tryOf {m : Act α} (hm : KeepsMem m) : KeepsOp (TreeOp.tryOf m) := by
  intro g s v t h hs
  unfold TreeOp.tryOf at h
  split at h
  case h_1 ha => cases h; exact hm ha hs
  case h_2 => cases h; exact hs
  case h_3 => cases h

end KeepsOp

theorem spGet_keeps (path t a n : Nat) : KeepsMem (spGet path t a n) := by
  refine .of_mem fun s v s' h => ?_
  have hread : spRead path t a n s = (v, s') := Except.ok.inj h
  exact mem_of_spRead hread

theorem spPut_keeps (path t a : Nat) (bs : List Byte) : KeepsMem (spPut path t a bs) := .change fun _ => spWrite_mem ..

theorem vread_keeps (a : Agent) (c : BitVec 8) (va n : Nat) : KeepsMem (vread a c va n) :=
  .of_mem fun _ _ _ h => vread_mem _ _ _ _ _ _ _ h

theorem vwrite_keeps (a : Agent) (c : BitVec 8) (va : Nat) (bs : List Byte) : KeepsMem (vwrite a c va bs) :=
  fun _ _ _ h hs => vwrite_wf _ _ _ _ _ _ h hs


theorem vnat_keeps (a : Agent) (c : BitVec 8) (va n : Nat) :
    KeepsMem (vnat a c va n) := .andThen (vread_keeps ..) fun _ => .ret _

theorem vput_keeps (a : Agent) (c : BitVec 8) (va n v : Nat) : KeepsMem (vput a c va n v) := vwrite_keeps ..

theorem overflowWrites_keeps (agent : Agent) (c : BitVec 8) (rs : List SeraiRec) :
    KeepsMem (overflowWrites agent c rs) := by
  induction rs with
  | nil => exact .ret _
  | cons r rs ih => exact .andThen (vwrite_keeps ..) fun _ => ih

theorem acczEngine_keeps (f : Form) (t : Nat) (r : Req) : KeepsMem (acczEngine f t r) := by
  refine .of_mem fun s v s' h => ?_
  unfold acczEngine at h
  dsimp only at h
  split at h
  · split at h <;> cases h
    rfl
  · cases h
    rfl

theorem deposit_keeps (c : BitVec 8) (lo hi : Nat) : KeepsMem (deposit c lo hi) := by
  intro s v t h hs
  unfold deposit at h
  dsimp only at h
  split at h
  · exact KeepsMem.andThen (.andThen (vread_keeps ..) fun _ => vwrite_keeps ..) (fun _ => .change fun _ => by simp) h hs
  · exact KeepsMem.andThen (vwrite_keeps ..) (fun _ => .change fun _ => by simp) h hs

theorem needTree_keeps (c : Bool) : KeepsMem (needTree c) := .need _ _

theorem tree_nat_keeps (v : TreeEnv) (va n : Nat) : KeepsMem (v.nat va n) := vnat_keeps ..

theorem tree_put_keeps (v : TreeEnv) (va n x : Nat) : KeepsMem (v.put va n x) := vput_keeps ..

theorem readSet_keeps (who : Agent) (c : BitVec 8) (set : Nat) : KeepsMem (readSet who c set) :=
  .andThen (needTree_keeps ..) fun _ => .andThen (vread_keeps ..) fun _ => .andThen (needTree_keeps ..) fun _ => .ret _

theorem tree_checkPool_keeps (v : TreeEnv) : KeepsMem (v.checkPool) :=
  .andThen (.look _) fun _ => .andThen (tree_nat_keeps ..) fun _ => needTree_keeps ..

theorem openSet_keeps (who : Agent) (c : BitVec 8) (set : Nat) : KeepsMem (openSet who c set) :=
  .andThen (readSet_keeps ..) fun _ => .andThen (tree_checkPool_keeps ..) fun _ => .ret _

theorem tree_alloc_keeps (v : TreeEnv) (cls : Nat) : KeepsMem (v.alloc cls) :=
  .andThen (.look _) fun _ => .andThen (tree_nat_keeps ..) fun _ => .andThen (.need _ _) fun _ => .andThen (needTree_keeps ..) fun _ =>
  .andThen (tree_nat_keeps ..) fun _ => .andThen (tree_put_keeps ..) fun _ => .andThen (tree_nat_keeps ..) fun _ =>
  .andThen (tree_put_keeps ..) fun _ => .ret _

theorem tree_giveBack_keeps (v : TreeEnv) (r : Nat × Nat) : KeepsMem (v.giveBack r) :=
  .andThen (.look _) fun _ => .andThen (tree_nat_keeps ..) fun _ => .andThen (tree_put_keeps ..) fun _ =>
  .andThen (tree_put_keeps ..) fun _ => .andThen (tree_nat_keeps ..) fun _ => tree_put_keeps ..

theorem tree_run_keeps {α : Type} {v : TreeEnv} {m : TreeOp α} (hm : KeepsOp m) : KeepsMem (v.run m) :=
  .andThen (hm (g := {})) fun _ => .andThen (.each (fun _ => tree_giveBack_keeps ..) _) fun _ => .ret _

theorem readNode_keeps (who : Agent) (c : BitVec 8) (d va : Nat) : KeepsMem (readNode who c d va) :=
  .andThen (needTree_keeps ..) fun _ => .andThen (vread_keeps ..) fun _ => .ite (.andThen (vread_keeps ..) fun _ =>
  .andThen (needTree_keeps ..) fun _ => .ret _) (.andThen (vread_keeps ..) fun _ => .andThen (needTree_keeps ..) fun _ => .ret _)

theorem tree_node_keeps (v : TreeEnv) (va : Nat) : KeepsMem (v.node va) := readNode_keeps ..

theorem tree_addRef_keeps (v : TreeEnv) (va : Nat) : KeepsMem (v.addRef va) :=
  .andThen (tree_node_keeps ..) fun _ => .andThen (needTree_keeps ..) fun _ => tree_put_keeps ..

theorem tree_release_keeps (v : TreeEnv) (n va : Nat) : KeepsOp (v.release n va) := by
  induction n generalizing va with
  | zero => exact .of (.stop _)
  | succ n ih =>
    exact .bind (.of (tree_node_keeps ..)) fun _ => .bind (.of (tree_put_keeps ..)) fun _ =>
      .when _ (.bind (.each (fun _ => ih _) _) fun _ => .bind (.when _ (.free _ _)) fun _ => .free _ _)

theorem tree_members_keeps (v : TreeEnv) (x : Node) :
    KeepsMem (v.members x) := .andThen (vread_keeps ..) fun _ => .ret _

theorem tree_putLeaf_keeps (v : TreeEnv) (va pay rc flags : Nat) (p : List Member) :
    KeepsOp (v.putLeaf va pay rc flags p) := by
  unfold TreeEnv.putLeaf
  split
  exacts [.ret _, .bind (.round _) fun _ => .bind (.of (vwrite_keeps ..)) fun _ => .of (vwrite_keeps ..)]

theorem tree_relink_keeps (v : TreeEnv) (slot : Nat) (parent : Option Nat) (old new : Nat) :
    KeepsMem (v.relink slot parent old new) := by
  cases parent with
  | none => exact tree_put_keeps ..
  | some p =>
    refine .andThen (tree_node_keeps ..) fun x => ?_
    split
    · exact tree_put_keeps ..
    · exact .stop _

theorem tree_copyNode_keeps (v : TreeEnv) (x : Node) (k : Option Nat) (noPay : Bool) :
    KeepsMem (v.copyNode x k noPay) :=
  .andThen (tree_alloc_keeps ..) fun _ => .andThen (vread_keeps ..) fun _ => .andThen (.ite (.andThen (tree_alloc_keeps ..) fun _ =>
  .andThen (vread_keeps ..) fun _ => .andThen (vwrite_keeps ..) fun _ => .ret _) (.ret _)) fun _ => .andThen (vwrite_keeps ..) fun _ =>
  .andThen (.each (fun _ => tree_addRef_keeps ..) _) fun _ => .ret _

theorem tree_writeGo_keeps (v : TreeEnv) (slot : Nat) (k : Option Nat) (noPay : Bool) (parent : Option Nat) (path : List Nat) :
    KeepsOp (v.writeGo slot k noPay parent path) := by
  induction path generalizing parent with
  | nil => exact .ret _
  | cons va path ih =>
    refine .bind (.of (tree_node_keeps ..)) fun _ => .bind (.ite (.ret _) ?_) fun _ => .bind (ih _) fun _ => .ret _
    exact .bind (.of (tree_copyNode_keeps ..)) fun _ => .bind (.of (tree_relink_keeps ..)) fun _ =>
      .bind (tree_release_keeps ..) fun _ => .ret _

theorem tree_writePath_keeps (v : TreeEnv) (slot : Nat) (path : List Nat) (k : Option Nat) (noPay : Bool) :
    KeepsOp (v.writePath slot path k noPay) :=
  .bind (.of (.each (fun _ => tree_node_keeps ..) _)) fun _ => .ite (.ret _) (.bind (tree_writeGo_keeps ..) fun _ => .ret _)

theorem tree_rightmost_keeps (v : TreeEnv) (n va : Nat) : KeepsMem (v.rightmost n va) := by
  induction n generalizing va with
  | zero => exact .stop _
  | succ n ih => exact .andThen (tree_node_keeps ..) fun _ => .ite (.ret _) (.andThen (ih _) fun _ => .ret _)

theorem tree_recompute_keeps (v : TreeEnv) (va : Nat) : KeepsOp (v.recompute va) :=
  .bind (.of (vread_keeps ..)) fun _ => .bind (.of (.each (fun _ => tree_node_keeps ..) _)) fun _ => .bind (.round _) fun _ =>
  .of (vwrite_keeps ..)

theorem tree_newInternal_keeps (v : TreeEnv) (k : Option Nat) (kids : List Nat) : KeepsMem (v.newInternal k kids) :=
  .andThen (tree_alloc_keeps ..) fun _ => .andThen (vwrite_keeps ..) fun _ => .ret _

theorem tree_insertRight_keeps (v : TreeEnv) (slot : Nat) (k : Option Nat) (n : Nat) (rp : List Nat) (y l : Nat) :
    KeepsMem (v.insertRight slot k n rp y l) := by
  induction n generalizing rp y l with
  | zero => exact .stop _
  | succ n ih =>
    refine .ite ?_ (.andThen (tree_nat_keeps ..) fun _ => .ite ?_ ?_)
    · exact .andThen (tree_newInternal_keeps ..) fun _ => .andThen (tree_put_keeps ..) fun _ => .ret _
    · exact .andThen (tree_put_keeps ..) fun _ => .andThen (tree_put_keeps ..) fun _ => .ret _
    · exact .andThen (tree_newInternal_keeps ..) fun _ => .andThen (ih ..) fun _ => .ret _

theorem tree_insertLeaves_keeps (v : TreeEnv) (slot : Nat) (k : Option Nat) (ps : List (List Member)) (rp : List Nat) :
    KeepsOp (v.insertLeaves slot k ps rp) := by
  induction ps generalizing rp with
  | nil => exact .ret _
  | cons p ps ih =>
    exact .bind (.of (tree_alloc_keeps ..)) fun _ => .bind (.of (tree_alloc_keeps ..)) fun _ =>
      .bind (tree_putLeaf_keeps ..) fun _ => .bind (.of (tree_insertRight_keeps ..)) fun _ => .bind (ih _) fun _ => .ret _

theorem tree_append_keeps (v : TreeEnv) (slot : Nat) (groups : List (Nat × List Int)) (k : Option Nat) :
    KeepsOp (v.append slot groups k) := by
  refine .bind (.of (tree_nat_keeps ..)) fun _ => .ite ?_ ?_
  · exact .bind (.of (tree_alloc_keeps ..)) fun _ => .bind (.of (tree_alloc_keeps ..)) fun _ => .bind (tree_putLeaf_keeps ..) fun _ =>
      .bind (.of (tree_put_keeps ..)) fun _ => .ret _
  · refine .bind (.of (tree_node_keeps ..)) fun _ => .bind (.of (tree_rightmost_keeps ..)) fun _ => .ite (.ret _)
      (.bind (tree_writePath_keeps ..) fun written => ?_)
    cases written with
    | none => exact .ret _
    | some path =>
      exact .bind (.of (tree_node_keeps ..)) fun _ => .bind (.ite (.ret _) (.of (tree_members_keeps ..))) fun _ =>
        .bind (.when _ (tree_putLeaf_keeps ..)) fun _ => .bind (tree_insertLeaves_keeps ..) fun _ =>
        .bind (.each (fun _ => tree_recompute_keeps ..) _) fun _ => .ret _

theorem tree_appendToken_keeps (v : TreeEnv) (slot : Nat) (key val : List Nat) (k : Option Nat) :
    KeepsOp (v.appendToken slot key val k) :=
  .bind (.round _) fun _ => .bind (.round _) fun _ => .ite (.ret _) (tree_append_keeps ..)

theorem tree_roots_keeps (v : TreeEnv) : KeepsMem (v.roots) := .each (fun _ => tree_nat_keeps ..) _

theorem tree_refRoots_keeps (v : TreeEnv) : KeepsMem (v.refRoots) :=
  .andThen (tree_roots_keeps ..) fun _ => .andThen (.each (fun _ => tree_addRef_keeps ..) _) fun _ => .ret _

theorem tree_needApart_keeps (v : TreeEnv) (dst : Nat) :
    KeepsMem (v.needApart dst) := .andThen (needTree_keeps ..) fun _ => .need _ _

theorem tree_fork_keeps (v : TreeEnv) (dst : Nat) : KeepsMem (v.fork dst) :=
  .andThen (tree_needApart_keeps ..) fun _ => .andThen (tree_refRoots_keeps ..) fun _ => .andThen (vread_keeps ..) fun _ =>
  .andThen (vwrite_keeps ..) fun _ => .ret _

theorem tree_openCkpt_keeps (v : TreeEnv) (ck : Nat) : KeepsMem (v.openCkpt ck) :=
  .andThen (readSet_keeps ..) fun _ => .andThen (needTree_keeps ..) fun _ => .ret _

theorem tree_checkpoint_keeps (v : TreeEnv) (ck : Nat) : KeepsMem (v.checkpoint ck) :=
  .andThen (tree_needApart_keeps ..) fun _ => .andThen (tree_openCkpt_keeps ..) fun _ => .andThen (tree_roots_keeps ..) fun _ =>
  .ite (.ret _) (.andThen (tree_refRoots_keeps ..) fun _ => .andThen (tree_roots_keeps ..) fun _ => .andThen (.each (fun _ =>
  tree_put_keeps ..) _) fun _ => .ret _)

theorem tree_untent_keeps (v : TreeEnv) (n va : Nat) : KeepsMem (v.untent n va) := by
  induction n generalizing va with
  | zero => exact .stop _
  | succ n ih =>
    exact .andThen (tree_node_keeps ..) fun _ => .ite (.ret _)
      (.andThen (tree_put_keeps ..) fun _ => .andThen (.each ih _) fun _ => .ret _)

theorem tree_swapRoot_keeps (v : TreeEnv) (slot new : Nat) : KeepsOp (v.swapRoot slot new) :=
  .bind (.of (tree_nat_keeps ..)) fun _ => .bind (.when _ (tree_release_keeps ..)) fun _ => .of (tree_put_keeps ..)

theorem tree_commit_keeps (v : TreeEnv) (ck : Nat) : KeepsOp (v.commit ck) :=
  .bind (.of (tree_openCkpt_keeps ..)) fun _ => .bind (.of (tree_roots_keeps ..)) fun _ => .bind (.of (.each (fun _ =>
  tree_untent_keeps ..) _)) fun _ => .bind (.each (fun _ => tree_swapRoot_keeps ..) _) fun _ => .ret _

theorem tree_truncate_keeps (v : TreeEnv) (ck : Nat) : KeepsOp (v.truncate ck) :=
  .bind (.of (tree_openCkpt_keeps ..)) fun _ => .bind (.of (tree_roots_keeps ..)) fun _ => .bind (.each (fun _ =>
  tree_swapRoot_keeps ..) _) fun _ => .bind (.each (fun _ => .of (tree_put_keeps ..)) _) fun _ => .ret _

theorem tree_freeRoots_keeps (v : TreeEnv) :
    KeepsOp (v.freeRoots) := .bind (.each (fun _ => tree_swapRoot_keeps ..) _) fun _ => .ret _

theorem tree_leavesIn_keeps (v : TreeEnv) (p0 p1 n va : Nat) : KeepsMem (v.leavesIn p0 p1 n va) := by
  induction n generalizing va with
  | zero => exact .stop _
  | succ n ih =>
    exact .andThen (tree_node_keeps ..) fun _ => .ite (.ret _) (.ite (.ret _) (.andThen (.each ih _) fun _ => .ret _))

theorem tree_pathTo_keeps (v : TreeEnv) (pos n va : Nat) : KeepsMem (v.pathTo pos n va) := by
  induction n generalizing va with
  | zero => exact .stop _
  | succ n ih =>
    refine .andThen (tree_node_keeps ..) fun _ => .ite (.ret _) (.andThen (.each (fun _ => tree_node_keeps ..) _) fun kids => ?_)
    split
    · exact .andThen (ih _) fun _ => .ret _
    · exact .stop _

theorem tree_evictLeaf_keeps (v : TreeEnv) (slot pos : Nat) : KeepsOp (v.evictLeaf slot pos) :=
  .bind (.of (tree_nat_keeps ..)) fun _ => .bind (.of (tree_pathTo_keeps ..)) fun _ => .bind (.of (.each (fun _ =>
  tree_node_keeps ..) _)) fun _ => .ite (.ret _) (.bind (tree_writePath_keeps ..) fun _ => .bind (.when _ (.free _ _)) fun _ =>
  .bind (.of (tree_nat_keeps ..)) fun _ => .bind (.of (tree_put_keeps ..)) fun _ => .bind (.of (tree_put_keeps ..)) fun _ => .ret _)

theorem tree_evict_keeps (v : TreeEnv) (p0 p1 : Nat) : KeepsOp (v.evict p0 p1) :=
  .bind (.each (fun _ => .bind (.of (tree_nat_keeps ..)) fun _ => .ite (.ret _) (.bind (.of (tree_leavesIn_keeps ..)) fun _ =>
  .each (fun _ => tree_evictLeaf_keeps ..) _)) _) fun _ => .ret _

theorem tree_length_keeps (v : TreeEnv) (slot : Nat) : KeepsMem (v.length slot) :=
  .andThen (tree_nat_keeps ..) fun _ => .ite (.ret _) (.andThen (tree_node_keeps ..) fun _ => .andThen (tree_rightmost_keeps ..) fun _ =>
  .ret _)

theorem needCheck_keeps (n : Nat) (c : Bool) : KeepsMem (needCheck n c) := .need _ _

theorem onSet_keeps (t : Nat) (r : Req) {go : TreeEnv → TreeOp Outcome} (hgo : ∀ v, KeepsOp (go v)) :
    KeepsMem (onSet t r go) :=
  .andThen (openSet_keeps ..) fun _ => .andThen (tree_run_keeps (hgo _)) fun _ => .ret _

theorem tree_selected_keeps (v : TreeEnv) (layer head : Nat) : KeepsMem (v.selected layer head) :=
  .andThen (needTree_keeps ..) fun _ => .ret _

theorem tappUnit_keeps (f : Form) (t : Nat) (r : Req) : KeepsMem (tappUnit f t r) :=
  .andThen (needCheck_keeps ..) fun _ => .andThen (needCheck_keeps ..) fun _ => .andThen (openSet_keeps ..) fun _ =>
  .andThen (needCheck_keeps ..) fun _ => .andThen (tree_selected_keeps ..) fun _ => .andThen (spGet_keeps ..) fun _ =>
  .andThen (tree_run_keeps (tree_appendToken_keeps ..)) fun _ => .ret _

theorem checkTable_keeps (who : Agent) (c : BitVec 8) (mask : Nat) : KeepsMem (checkTable who c mask) :=
  .ite (.ret _) (.andThen (vread_keeps ..) fun _ => needTree_keeps ..)

theorem readRanges_keeps (who : Agent) (c : BitVec 8) (mask pq : Nat) : KeepsMem (readRanges who c mask pq) :=
  .ite (.ret _) (.andThen (vread_keeps ..) fun _ => .ite (.ret _) (.andThen (vread_keeps ..) fun _ => .ret _))

theorem tree_openEnt_keeps (v : TreeEnv) (x : Desc) (e : Ent) : KeepsOp (v.openEnt x e) :=
  .ite (.bind (.tryOf (tree_members_keeps ..)) fun _ => .ret _) (.bind (.tryOf (.each (fun _ => tree_node_keeps ..) _)) fun _ => .ret _)

theorem tree_descend_keeps (v : TreeEnv) (x : Desc) (top : Machine.Num) (n used : Nat) (fr : List Ent) :
    KeepsOp (v.descend x top n used fr) := by
  induction n generalizing used fr with
  | zero => exact .ret _
  | succ n ih =>
    refine .bind (.round _) fun b => ?_
    dsimp only
    split
    · exact .ret _
    split
    · exact .ret _
    refine .ite (.ret _) (.ite (.ret _) (.bind (tree_openEnt_keeps ..) fun r => ?_))
    split
    · exact ih ..
    · exact .ite (.ret _) (.ite (.bind (.round _) fun _ => ih ..) (.bind (.round _) fun _ => ih ..))

theorem tree_search_keeps (v : TreeEnv) (x : Desc) (root : Nat) : KeepsOp (v.search x root) := by
  refine .ite (.ret _) (.bind (.tryOf (tree_node_keeps ..)) fun rn => ?_)
  cases rn with
  | none => exact .ret _
  | some rn =>
    exact .bind (.ite (.ret _) (.tryOf (.each (fun _ => tree_node_keeps ..) _))) fun _ => .ite (.ret _)
      (.bind (.round _) fun _ => .bind (.round _) fun _ => .bind (tree_descend_keeps ..) fun _ => .round _)

theorem descBegin_keeps (t : Nat) (r : Req) : KeepsMem (descBegin t r) := by
  refine .andThen (needCheck_keeps ..) fun _ => .andThen (.tryAct (readSet_keeps ..)) fun v => ?_
  cases v with
  | none => exact .ret _
  | some v =>
    refine .andThen (needCheck_keeps ..) fun _ => .andThen (tree_selected_keeps ..) fun _ =>
      .andThen (.tryAct (tree_checkPool_keeps ..)) fun _ => .andThen (.tryAct (checkTable_keeps ..)) fun _ =>
      .andThen (.tryAct (tree_nat_keeps ..)) fun _ => ?_
    split
    · exact .ret _
    · refine .andThen (.tryAct (tree_addRef_keeps ..)) fun x => ?_
      split
      · exact .ret _
      · exact .ret _
    · exact .ret _

theorem descFind_keeps (t : Nat) (r : Req) : KeepsOp (descFind t r) :=
  .ite (.ret _) (.bind (.tryOf (readRanges_keeps ..)) fun _ => by split; exacts [.ret _, .bind (.round _) fun _ => tree_search_keeps ..])

theorem descRelease_keeps (t : Nat) (r : Req) : KeepsOp (descRelease t r) := .when _ (tree_release_keeps ..)

theorem descRun_keeps (t : Nat) (r : Req) : KeepsMem (descRun t r) :=
  .andThen (tree_run_keeps (descFind_keeps ..)) fun _ => .andThen (spPut_keeps ..) fun _ => .andThen (.change fun _ => by simp) fun _ =>
  .ret _

theorem descUpdate_keeps (t : Nat) (r : Req) (w : W64) : KeepsMem (descUpdate t r w) :=
  .ite (.ret _) (.andThen (.change fun _ => by simp) fun _ => .andThen (vnat_keeps ..) fun _ => .andThen (vnat_keeps ..) fun _ =>
  .andThen (vput_keeps ..) fun _ => .andThen (vput_keeps ..) fun _ => .andThen (.change fun _ => by simp) fun _ => .ret _)

theorem rotateGo_keeps (who : Agent) (c : BitVec 8) (p : Nat) (r : W64) (k : Nat) (xs : List Nat) :
    KeepsOp (rotateGo who c p r k xs) := by
  induction k, xs using rotateGo.induct with
  | case1 k x0 x1 xs ih =>
    exact .bind (.of (vread_keeps ..)) fun _ => .bind (.round _) fun _ => .bind ih fun _ => .ret _
  | case2 k xs hxs =>
    unfold rotateGo
    split
    · exact absurd rfl (hxs _ _ _)
    · exact .ret _

theorem ropeRot_keeps (t : Nat) (r : Req) : KeepsMem (ropeRot t r) := by
  refine .andThen (.look _) fun _ => .andThen (needCheck_keeps ..) fun _ => .andThen (spGet_keeps ..) fun _ => .andThen ?_ fun _ =>
    .andThen (spPut_keeps ..) fun _ => .andThen (.change fun _ => by simp) fun _ => .ret _
  exact fun _ _ _ hrun => rotateGo_keeps _ _ _ _ _ _ hrun

theorem ropeSet_keeps (t : Nat) (r : Req) : KeepsMem (ropeSet t r) :=
  .andThen (needCheck_keeps ..) fun _ => .andThen (spGet_keeps ..) fun _ => .andThen (needCheck_keeps ..) fun _ =>
  .andThen (.change fun _ => by simp) fun _ => .ret _

theorem tstatPool_keeps (cls t : Nat) (r : Req) : KeepsMem (tstatPool cls t r) :=
  .andThen (openSet_keeps ..) fun _ => .andThen (.look _) fun _ => .andThen (tree_nat_keeps ..) fun _ => .ret _

theorem onSetFreed_keeps (t : Nat) (r : Req) {go : TreeEnv → TreeOp Unit} (hgo : ∀ v, KeepsOp (go v)) :
    KeepsMem (onSetFreed t r go) :=
  .andThen (openSet_keeps ..) fun _ => .andThen (tree_run_keeps (hgo _)) fun _ => .ret _

theorem readSeq_keeps (d : Nat) (c : BitVec 8) (va : Nat) : KeepsMem (readSeq d c va) :=
  .andThen (needCheck_keeps ..) fun _ => .andThen (vread_keeps ..) fun _ => .andThen (needCheck_keeps ..) fun _ => .ret _

theorem writeSeq_keeps (d : Nat) (c : BitVec 8) (va : Nat) (q : Seqn) : KeepsMem (writeSeq d c va q) := vwrite_keeps ..

theorem readPool_keeps (d : Nat) (c : BitVec 8) : KeepsMem (readPool d c) :=
  .andThen (.look _) fun _ => .andThen (vread_keeps ..) fun _ => .andThen (.need _ _) fun _ => .ret _

theorem pool_putFree_keeps (p : CellPool) (d : Nat) (c : BitVec 8) (fhead fcnt : Nat) :
    KeepsMem (p.putFree d c fhead fcnt) :=
  vwrite_keeps ..

theorem pool_cell_keeps (p : CellPool) (d : Nat) (c : BitVec 8) (i : Nat) : KeepsMem (p.cell d c i) :=
  .andThen (.need _ _) fun _ => .andThen (vread_keeps ..) fun _ => .ret _

theorem pool_put_keeps (p : CellPool) (d : Nat) (c : BitVec 8) (i : Nat) (x : Cell) :
    KeepsMem (p.put d c i x) := vwrite_keeps ..

theorem pool_live_keeps (p : CellPool) (d : Nat) (c : BitVec 8) (i : Nat) : KeepsMem (p.live d c i) :=
  .andThen (pool_cell_keeps ..) fun _ => .andThen (.need _ _) fun _ => .ret _

theorem cellRef_keeps (d : Nat) (c : BitVec 8) (i : Nat) : KeepsMem (cellRef d c i) :=
  .ite (.ret _) (.andThen (readPool_keeps ..) fun _ => .andThen (pool_live_keeps ..) fun _ => .andThen (.need _ _) fun _ =>
  pool_put_keeps ..)

theorem cellReleaseGo_keeps (d : Nat) (c : BitVec 8) (n i : Nat) : KeepsMem (cellReleaseGo d c n i) := by
  induction n generalizing i with
  | zero => exact .stop _
  | succ n ih =>
    exact .ite (.ret _) (.andThen (readPool_keeps ..) fun _ => .andThen (pool_live_keeps ..) fun _ => .ite (pool_put_keeps ..)
      (.andThen (pool_put_keeps ..) fun _ => .andThen (pool_putFree_keeps ..) fun _ => ih _))

theorem cellRelease_keeps (d : Nat) (c : BitVec 8) (i : Nat) : KeepsMem (cellRelease d c i) :=
  .ite (.ret _) (.andThen (readPool_keeps ..) fun _ => cellReleaseGo_keeps ..)

theorem cellNew_keeps (d : Nat) (c : BitVec 8) (sym next : Nat) : KeepsMem (cellNew d c sym next) :=
  .andThen (readPool_keeps ..) fun _ => .andThen (.need _ _) fun _ => .andThen (pool_cell_keeps ..) fun _ =>
  .andThen (pool_putFree_keeps ..) fun _ => .andThen (cellRef_keeps ..) fun _ => .andThen (pool_put_keeps ..) fun _ => .ret _

theorem splitHandle_keeps (h : W64) : KeepsMem (splitHandle h) := .andThen (.need _ _) fun _ => .ret _

theorem needImage_keeps (c : Bool) : KeepsMem (needImage c) := .need _ _

theorem readGram_keeps (d : Nat) (c : BitVec 8) (va : Nat) : KeepsMem (readGram d c va) :=
  .andThen (needCheck_keeps ..) fun _ => .andThen (vread_keeps ..) fun _ => .andThen (needImage_keeps ..) fun _ => .ret _

theorem gram_entry_keeps (g : Gram) (off n : Nat) :
    KeepsMem (g.entry off n) := .andThen (needImage_keeps ..) fun _ => vread_keeps ..

theorem gram_state_keeps (g : Gram) (st : Nat) : KeepsMem (g.state st) :=
  .andThen (needImage_keeps ..) fun _ => .andThen (gram_entry_keeps ..) fun _ => .andThen (needImage_keeps ..) fun _ => .ret _

theorem gram_trans_keeps (g : Gram) (i : Nat) (seen : List Visited) : KeepsMem (g.trans i seen) :=
  .andThen (gram_entry_keeps ..) fun _ => .andThen (needImage_keeps ..) fun _ => .ret _

theorem gram_findGo_keeps (g : Gram) (first x n lo hi : Nat) (seen : List Visited) :
    KeepsMem (g.findGo first x n lo hi seen) := by
  induction n generalizing lo hi seen with
  | zero => exact .ret _
  | succ n ih =>
    exact .ite (.ret _) (.andThen (gram_trans_keeps ..) fun _ => .ite (ih ..) (.ite (ih ..) (.ret _)))

theorem gram_find_keeps (g : Gram) (st x : Nat) :
    KeepsMem (g.find st x) := .andThen (gram_state_keeps ..) fun _ => gram_findGo_keeps ..

theorem gram_symbol_keeps (g : Gram) (y : Nat) : KeepsMem (g.symbol y) :=
  .andThen (needImage_keeps ..) fun _ => .andThen (gram_entry_keeps ..) fun _ => .andThen (needImage_keeps ..) fun _ => .ret _

theorem gram_maskId_keeps (g : Gram) (st cls : Nat) : KeepsMem (g.maskId st cls) :=
  .andThen (needImage_keeps ..) fun _ => .andThen (gram_entry_keeps ..) fun _ => .andThen (needImage_keeps ..) fun _ => .ret _

theorem gram_runsGo_keeps (g : Gram) (off n k : Nat) (prev : Option Nat) : KeepsMem (g.runsGo off n k prev) := by
  induction n generalizing k prev with
  | zero => exact .ret _
  | succ n ih =>
    exact .andThen (gram_entry_keeps ..) fun _ => .andThen (needImage_keeps ..) fun _ => .andThen (ih ..) fun _ => .ret _

theorem gram_runs_keeps (g : Gram) (id : Nat) : KeepsMem (g.runs id) :=
  .ite (.ret _) (.andThen (gram_entry_keeps ..) fun _ => .andThen (needImage_keeps ..) fun _ => gram_runsGo_keeps ..)

theorem gram_topClass_keeps (g : Gram) (top : Nat) : KeepsMem (g.topClass top) :=
  .ite (.ret _) (.andThen (readPool_keeps ..) fun _ => .andThen (pool_live_keeps ..) fun _ => .andThen (gram_symbol_keeps ..) fun _ =>
  .ret _)

theorem gram_mask_keeps (g : Gram) (st top bm : Nat) : KeepsMem (g.mask st top bm) :=
  .andThen (needCheck_keeps ..) fun _ => .andThen (gram_topClass_keeps ..) fun _ => .andThen (gram_maskId_keeps ..) fun _ =>
  .andThen (gram_runs_keeps ..) fun _ => .andThen (gram_state_keeps ..) fun _ => .andThen (vwrite_keeps ..) fun _ => .ret _

theorem gram_step_keeps (g : Gram) (h : Handle) (x : Nat) : KeepsMem (g.step h x) :=
  .ite (.andThen (gram_state_keeps ..) fun _ => .ret _) (.ite (.ret _) (.andThen (gram_find_keeps ..) fun _ =>
  by split; exacts [.ret _, .ite (.ret _) (.ite (.ite (.ret _) (.andThen (cellNew_keeps ..) fun _ =>
  .ret _)) (.ite (.ret _) (.andThen (readPool_keeps ..) fun _ => .andThen (pool_live_keeps ..) fun _ =>
  .andThen (.ite (.andThen (gram_symbol_keeps ..) fun _ => .ret _) (.ret _)) fun _ => .ite (.ret _) (.andThen (cellNew_keeps ..) fun _ =>
  .ret _))))]))

theorem readDraft_keeps (d : Nat) (c : BitVec 8) (va : Nat) : KeepsMem (readDraft d c va) :=
  .andThen (needCheck_keeps ..) fun _ => .andThen (vread_keeps ..) fun _ => .andThen (needCheck_keeps ..) fun _ =>
  .andThen (vread_keeps ..) fun _ => .andThen (needCheck_keeps ..) fun _ => .ret _

theorem needCkpts_keeps (ns : List DraftNode) (read : List Nat) : KeepsMem (needCkpts ns read) := needCheck_keeps ..

theorem settleDraft_keeps (d : Nat) (c : BitVec 8) (q : Seqn) (ns : List DraftNode) (n : Nat) :
    KeepsMem (settleDraft d c q ns n) :=
  .andThen (needCkpts_keeps ..) fun _ => .andThen (.each (fun _ => splitHandle_keeps ..) _) fun _ => .andThen (openSet_keeps ..) fun _ =>
  .andThen (tree_run_keeps (tree_truncate_keeps ..)) fun _ => .andThen (tree_run_keeps (tree_commit_keeps ..)) fun _ =>
  .andThen (.each (fun _ => .andThen (tree_openCkpt_keeps ..) fun _ => tree_run_keeps (tree_freeRoots_keeps ..)) _) fun _ =>
  .andThen (cellRef_keeps ..) fun _ => .andThen (cellRelease_keeps ..) fun _ => .andThen (.each (fun _ =>
  cellRelease_keeps ..) _) fun _ => .ret _

theorem walkDraft_keeps (d : Nat) (c : BitVec 8) (ns : List DraftNode) (samples fuel n k : Nat) :
    KeepsMem (walkDraft d c ns samples fuel n k) := by
  induction fuel generalizing n k with
  | zero => exact .ret _
  | succ fuel ih =>
    refine .andThen (vnat_keeps ..) fun _ => .ite (.ret _) ?_
    split
    · exact .andThen (needCkpts_keeps ..) fun _ => ih ..
    · exact .andThen (needCkpts_keeps ..) fun _ => .ret _

theorem readLogits_keeps (d : Nat) (c : BitVec 8) (x : SampleBlock) : KeepsMem (readLogits d c x) :=
  .andThen (vread_keeps ..) fun _ => .andThen (.ite (.ret _) (.andThen (vnat_keeps ..) fun _ => .ret _)) fun _ => .ret _

theorem samplePath_keeps (d : Nat) (c : BitVec 8) (x : SampleBlock) (q : Seqn) : KeepsMem (samplePath d c x q) :=
  .ite (.ret _) (.ite (.ret _) (.andThen (readDraft_keeps ..) fun _ => .andThen (needCheck_keeps ..) fun _ =>
  .andThen (needCkpts_keeps ..) fun _ => .ret _))

theorem sampUnit_keeps (d : Nat) (r : Req) : KeepsMem (sampUnit d r) :=
  .andThen (needCheck_keeps ..) fun _ => .andThen (readSeq_keeps ..) fun _ => .andThen (samplePath_keeps ..) fun _ =>
  by split; exacts [.ret _, .andThen (readLogits_keeps ..) fun _ => .ite (.ret _) (.ret _)]

theorem lstatUnit_keeps (d : Nat) (r : Req) : KeepsMem (lstatUnit d r) :=
  .andThen (needCheck_keeps ..) fun _ => .andThen (.ite (.ret _) (.andThen (readSeq_keeps ..) fun _ => .ret _)) fun _ =>
  .andThen (readLogits_keeps ..) fun _ => .ite (.ret _) (.ret _)

theorem penalUnit_keeps (d : Nat) (r : Req) : KeepsMem (penalUnit d r) := by
  refine .andThen (needCheck_keeps ..) fun _ => .andThen (readSeq_keeps ..) fun _ => .andThen (needCheck_keeps ..) fun _ =>
    .andThen (samplePath_keeps ..) fun path => ?_
  cases path with
  | none => exact .ret _
  | some path =>
    exact .andThen (vread_keeps ..) fun _ => .andThen (vread_keeps ..) fun _ => .andThen (vwrite_keeps ..) fun _ => .ret _

theorem rngUnit_keeps (f : Form) (d : Nat) (r : Req) : KeepsMem (rngUnit f d r) := .ret _

theorem gmaskUnit_keeps (d : Nat) (r : Req) : KeepsMem (gmaskUnit d r) :=
  .andThen (readSeq_keeps ..) fun _ => .ite (.ret _) (.andThen (readGram_keeps ..) fun _ => gram_mask_keeps ..)

theorem gmaskHUnit_keeps (d : Nat) (r : Req) : KeepsMem (gmaskHUnit d r) :=
  .andThen (readGram_keeps ..) fun _ => .andThen (splitHandle_keeps ..) fun _ => gram_mask_keeps ..

theorem gstepUnit_keeps (d : Nat) (r : Req) : KeepsMem (gstepUnit d r) :=
  .andThen (readSeq_keeps ..) fun _ => .ite (.ret _) (.andThen (readGram_keeps ..) fun _ => .andThen (gram_step_keeps ..) fun _ =>
  by split; exacts [.ret _, .andThen (writeSeq_keeps ..) fun _ =>
  .ret _, .andThen (.ite (.ret _) (.andThen (.ite (.ret _) (cellRef_keeps ..)) fun _ => cellRelease_keeps ..)) fun _ =>
  .andThen (writeSeq_keeps ..) fun _ => .ret _])

theorem gstepHUnit_keeps (d : Nat) (r : Req) : KeepsMem (gstepHUnit d r) :=
  .andThen (readGram_keeps ..) fun _ => .andThen (splitHandle_keeps ..) fun _ => .andThen (gram_step_keeps ..) fun _ =>
  by split; exacts [.ret _, .ret _, .andThen (.ite (.ret _) (cellRef_keeps ..)) fun _ => .ret _]

theorem gsnapUnit_keeps (d : Nat) (r : Req) : KeepsMem (gsnapUnit d r) :=
  .andThen (readSeq_keeps ..) fun _ => .andThen (cellRef_keeps ..) fun _ => .ret _

theorem grestUnit_keeps (d : Nat) (r : Req) : KeepsMem (grestUnit d r) :=
  .andThen (readSeq_keeps ..) fun _ => .ite (.ret _) (.andThen (splitHandle_keeps ..) fun _ => .andThen (cellRef_keeps ..) fun _ =>
  .andThen (cellRelease_keeps ..) fun _ => .andThen (writeSeq_keeps ..) fun _ => .ret _)

theorem acceptOpenUnit_keeps (d : Nat) (r : Req) : KeepsMem (acceptOpenUnit d r) :=
  .andThen (readSeq_keeps ..) fun _ => .ite (.ret _) (.andThen (writeSeq_keeps ..) fun _ => .ret _)

theorem acceptWalkUnit_keeps (d : Nat) (r : Req) : KeepsMem (acceptWalkUnit d r) :=
  .andThen (readSeq_keeps ..) fun _ => .ite (.ret _) (.andThen (readDraft_keeps ..) fun _ => .andThen (walkDraft_keeps ..) fun _ =>
  .ret _)

theorem acceptAbortUnit_keeps (d : Nat) (r : Req) : KeepsMem (acceptAbortUnit d r) :=
  .andThen (readSeq_keeps ..) fun _ => .ite (.ret _) (.andThen (readDraft_keeps ..) fun _ => .andThen (settleDraft_keeps ..) fun _ =>
  .andThen (writeSeq_keeps ..) fun _ => .ret _)

theorem countToken_keeps (d : Nat) (c : BitVec 8) (pen y : Nat) : KeepsMem (countToken d c pen y) :=
  .andThen (vnat_keeps ..) fun _ => vput_keeps ..

theorem commitCounts_keeps (d : Nat) (r : Req) (q : Seqn) (path : List Nat) : KeepsMem (commitCounts d r q path) :=
  .andThen (.each (fun _ => countToken_keeps ..) _) fun _ => .andThen (writeSeq_keeps ..) fun _ => .ret _

theorem commitUnit_keeps (d : Nat) (r : Req) : KeepsMem (commitUnit d r) :=
  .andThen (readSeq_keeps ..) fun _ => .ite (.ret _) (.ite (commitCounts_keeps ..) (.andThen (readDraft_keeps ..) fun _ =>
  .andThen (needCheck_keeps ..) fun _ => .ite (.ret _) (.andThen (settleDraft_keeps ..) fun _ => commitCounts_keeps ..)))

theorem commitFreeUnit_keeps (d : Nat) (r : Req) : KeepsMem (commitFreeUnit d r) :=
  .andThen (readSeq_keeps ..) fun _ => .ite (.ret _) (.andThen (.ite (.andThen (readDraft_keeps ..) fun _ =>
  settleDraft_keeps ..) (.ret _)) fun _ => .andThen (cellRelease_keeps ..) fun _ => .andThen (writeSeq_keeps ..) fun _ => .ret _)

theorem saveCopy_keeps (c : Nat) (e : Nat × Nat) (xb : Nat) : KeepsMem (saveCopy c e xb) := fun _ _ _ h hs =>
  KeepsMem.andThen (vread_keeps ..) (fun _ => .andThen (vwrite_keeps ..) fun _ => .change fun _ => by simp) h hs

theorem restCopy_keeps (c : Nat) (e : Nat × Nat) (xb : Nat) : KeepsMem (restCopy c e xb) := fun _ _ _ h hs =>
  KeepsMem.andThen (vnat_keeps ..) (fun _ => .andThen (.need _ _) fun _ => .andThen (vread_keeps ..) fun _ =>
    .andThen (vwrite_keeps ..) fun _ => .change fun _ => by simp) h hs

theorem signal_result_keeps (m : Signal) : KeepsMem (m.result) := by
  unfold Signal.result
  split
  exacts [.andThen (vput_keeps ..) fun _ => vput_keeps .., .change fun _ => by simp]

theorem signal_count_keeps (m : Signal) : KeepsMem m.count := by
  refine .ite (.ret _) fun s v t h hs => ?_
  exact KeepsMem.andThen (vnat_keeps ..) (fun _ => vput_keeps ..) h (by simpa using hs)

end Sys2Proof.Proofs
end

section
/-! PROOFS. Main memory stays canonical (R170, R375), third part: the serial records, the placement of tokens and the firing of pairs. -/

namespace Sys2Proof.Proofs

open Sys2Proof Sys2Proof.Machine Sys2Proof.Claims

/-! ## Results that may fail -/

/-- A result that, where there is one, holds a canonical memory. -/
def OkCanon {ε : Type} (r : Except ε State) : Prop := ∀ ⦃t⦄, r = .ok t → Memory.wf t.mem = true

namespace OkCanon

variable {ε : Type}

theorem ok {s : State} (h : Memory.wf s.mem = true) : OkCanon (.ok s : Except ε State) := by
  rintro t ⟨⟩
  exact h

theorem error (e : ε) : OkCanon (.error e : Except ε State) := by
  rintro t ⟨⟩

theorem ite {c : Prop} [Decidable c] {a b : Except ε State} (ha : OkCanon a) (hb : OkCanon b) :
    OkCanon (if c then a else b) := by
  split
  · exact ha
  · exact hb

theorem map {f : State → State} {r : Except ε State} (hr : OkCanon r)
    (hf : ∀ s, Memory.wf s.mem = true → Memory.wf (f s).mem = true) :
    OkCanon (r.map f) := by
  intro t ht
  cases r with
  | ok s => cases ht; exact hf s (hr rfl)
  | error e => cases ht

end OkCanon

/-- An optional state that holds, where there is one, a canonical memory. -/
def SomeCanon (r : Option State) : Prop := ∀ ⦃t⦄, r = some t → Memory.wf t.mem = true

namespace SomeCanon

theorem some {s : State} (h : Memory.wf s.mem = true) : SomeCanon (some s) := by
  rintro t ⟨⟩
  exact h

theorem none : SomeCanon none := by
  rintro t ⟨⟩

theorem ite {c : Prop} [Decidable c] {a b : Option State} (ha : SomeCanon a) (hb : SomeCanon b) :
    SomeCanon (if c then a else b) := by
  split
  · exact ha
  · exact hb

theorem getD {r : Option State} {s : State} (hr : SomeCanon r) (h : Memory.wf s.mem = true) :
    Memory.wf (r.getD s).mem = true := by
  cases r with
  | none => exact h
  | some t => exact hr rfl

end SomeCanon

/-- A run of steps keeps memory canonical when each does. -/
theorem foldl_canon {α : Type} {f : State → α → State}
    (hf : ∀ s x, Memory.wf s.mem = true → Memory.wf (f s x).mem = true) (l : List α) {s : State} (h : Memory.wf s.mem = true) :
    Memory.wf (l.foldl f s).mem = true := by
  induction l generalizing s with
  | nil => exact h
  | cons a l ih => exact ih (hf s a h)

/-! ## Writes and firings -/

@[simp] theorem writeLate_canon {s : State} (h : Memory.wf s.mem = true) (a : Agent) (c : BitVec 8) (va : Nat) (bs : List Byte) (noted : Bool) :
    Memory.wf (s.writeLate a c va bs noted).mem = true := s.writeLate_wf a c va bs noted h

theorem firing_run_canon {eval : W64 → State → State} {s : State} (h : Memory.wf s.mem = true)
    (heval : ∀ tag s, Memory.wf s.mem = true → Memory.wf (eval tag s).mem = true) (fr : Firing)
    (f : Form) : Memory.wf (fr.run f eval s).mem = true := by
  unfold Firing.run
  split
  · simp [h]
  · split
    · split <;> simp [h]
    · split
      · exact h
      · split
        · exact heval _ s h
        · simp [h]

theorem firing_port_canon {op : State → Except Nat (W64 × State)} {s : State} (h : Memory.wf s.mem = true)
    (hop : ∀ s v t, op s = .ok (v, t) → t.mem = s.mem) (fr : Firing) (f : Form) : Memory.wf (fr.port f op s).mem = true := by
  refine firing_run_canon h (fun tag s hs => ?_) fr f
  dsimp only
  split
  next v t ht => simp [hop _ _ _ ht, hs]
  next => simp [hs]

theorem coreAct_canon {α : Type} {m : Act α} {k : α → State → State} {s : State} (h : Memory.wf s.mem = true) (hm : KeepsMem m)
    (hk : ∀ a s, Memory.wf s.mem = true → Memory.wf (k a s).mem = true) (n : Nat) : Memory.wf (s.coreAct n m k).mem = true := by
  unfold State.coreAct
  split
  next a t ha => exact hk a t (hm ha h)
  all_goals simp [h]

theorem serve_canon {m : Act (W64 × Bool)} {s : State} (h : Memory.wf s.mem = true) (hm : KeepsMem m) (e : Engine)
    (r : Req) :
    Memory.wf (s.serve e r m).mem = true := by
  unfold State.serve
  split
  · simp [h]
  · split
    next v t ht => simp [hm ht h]
    next v t ht => simp [hm ht h]
    all_goals simp [h]

/-! ## Serial records -/

@[simp] theorem clearOverflow_canon {s : State} (h : Memory.wf s.mem = true) (t : Nat) (r : SeraiRec) :
    Memory.wf (s.clearOverflow t r).mem = true := by
  unfold State.clearOverflow
  rw [freeOverflow_mem]
  exact writeLate_canon (writeLate_canon h _ _ _ _ _) _ _ _ _ _

theorem relinkAll_canon {s : State} (h : Memory.wf s.mem = true) (t : Nat) (rs : List SeraiRec) :
    Memory.wf (s.relinkAll t rs).mem = true := by
  induction rs generalizing s with
  | nil => exact h
  | cons r rs ih => exact ih (writeLate_canon h _ _ _ _ _)

theorem relink_canon {s : State} (h : Memory.wf s.mem = true) (t : Nat) (p : SeraiRec → Bool) (rs : List SeraiRec) :
    Memory.wf (s.relink t p rs).mem = true := by
  unfold State.relink
  split
  · exact relinkAll_canon h _ _
  · exact h

@[simp] theorem dropRecords_canon {s : State} (h : Memory.wf s.mem = true) (t e idx : Nat) (p : SeraiRec → Bool) :
    Memory.wf (s.dropRecords t e idx p).mem = true := by
  unfold State.dropRecords
  dsimp only
  rw [mirrorBucket_mem, State.modElem_mem]
  exact foldl_canon (fun s r hs => clearOverflow_canon hs t r) _ (relink_canon h _ _ _)

theorem appendRecord_canon {s : State} (h : Memory.wf s.mem = true) (t e idx : Nat) (r : SeraiRec) :
    OkCanon (s.appendRecord t e idx r) := by
  unfold State.appendRecord
  dsimp only
  split
  · exact .ok (by simp [h])
  · split
    · exact .error _
    · split
      · exact .error _
      · split
        · exact .error _
        next s' hw => exact .ok (by simpa using overflowWrites_keeps _ _ _ hw h)

/-! ## Placement of a token -/

theorem spill_canon {s : State} (h : Memory.wf s.mem = true) (t e k idx port age : Nat) (i : Instr) (tok : Token) :
    OkCanon (s.spill t e k idx port age i tok) := by
  unfold State.spill
  dsimp only
  split
  · split
    · exact .error _
    · exact .ok (by simp [h])
  · exact appendRecord_canon h _ _ _ _

theorem placePair_canon {s : State} (h : Memory.wf s.mem = true) (t e k port age : Nat) (i : Instr) (tok : Token) :
    OkCanon (s.placePair t e k port age i tok) := by
  unfold State.placePair
  dsimp only
  split
  · exact .ok (by simp [h])
  · split
    · exact .ok (by simp [h])
    · exact spill_canon h _ _ _ _ _ _ _ _

theorem placeRed_canon {s : State} (h : Memory.wf s.mem = true) (t e k age : Nat) (i : Instr) (tok : Token) :
    OkCanon (s.placeRed t e k age i tok) := by
  unfold State.placeRed
  dsimp only
  split
  · exact .ok (by simp [h])
  · split
    · split <;> exact .ok (by simp [h])
    · exact appendRecord_canon h _ _ _ _

theorem placeSingle_canon {s : State} (h : Memory.wf s.mem = true) (t e k port age : Nat) (tok : Token) :
    OkCanon (s.placeSingle t e k port age tok) :=
  .ite (.ok (by simp [h])) (.error _)

theorem placeReord_canon {s : State} (h : Memory.wf s.mem = true) (t e k age : Nat) (i : Instr) (tok : Token) :
    OkCanon (s.placeReord t e k age i tok) := by
  unfold State.placeReord
  split
  · exact (placeSingle_canon h _ _ _ _ _ _).map fun s hs => by simp [hs]
  · dsimp only
    split
    · split
      · exact .ok (by simp [h])
      · exact appendRecord_canon (by simp [h]) _ _ _ _
    · split
      · exact .ok (by simp [h])
      · exact appendRecord_canon h _ _ _ _

theorem placeScale_canon {s : State} (h : Memory.wf s.mem = true) (t e k port age : Nat) (i : Instr) (tok : Token) :
    OkCanon (s.placeScale t e k port age i tok) := by
  unfold State.placeScale
  dsimp only
  split
  · exact .ite (.ok (by simp [h])) (appendRecord_canon h _ _ _ _)
  · exact .ite (.ite (.error _) (.ok (by simp [h]))) (appendRecord_canon h _ _ _ _)

@[simp] theorem seekScale_canon {s : State} (h : Memory.wf s.mem = true) (t e k : Nat) :
    Memory.wf (s.seekScale t e k).mem = true := by
  unfold State.seekScale
  dsimp only
  split
  · exact h
  · split
    · exact h
    · split <;> simp [h]

theorem place_canon {s : State} (h : Memory.wf s.mem = true) (t e k port : Nat) (tok : Token) :
    OkCanon (s.place t e k port tok) := by
  unfold State.place
  split
  · exact .ok (by simp [h])
  · split
    · exact .ok h
    next i hword =>
      dsimp only
      split
      · exact .error _
      next s' hr =>
        refine .ok ?_
        have hs' : Memory.wf s'.mem = true := by
          refine OkCanon.ite (.ok ?_) (.ite (.ok ?_) (.ite (.ite (.ok ?_) (.error _)) (.ite (placeRed_canon h _ _ _ _ _ _)
            (.ite (placeReord_canon h _ _ _ _ _ _) (.ite (placeScale_canon h _ _ _ _ _ _ _)
              (.ite (placeSingle_canon h _ _ _ _ _ _) (placePair_canon h _ _ _ _ _ _ _))))))) hr <;> simp [h]
        simp [hs']

@[simp] theorem tryHead_canon {s : State} (h : Memory.wf s.mem = true) (t e : Nat) (n : Net) :
    Memory.wf ((s.tryHead t e n).1).mem = true := by
  unfold State.tryHead
  split
  · exact h
  · split
    next hp => simp [place_canon h _ _ _ _ _ hp]
    next => simp [h]

@[simp] theorem placeOne_canon {s : State} (h : Memory.wf s.mem = true) (t e : Nat) :
    Memory.wf (s.placeOne t e).mem = true := by
  unfold State.placeOne
  split
  · dsimp only
    split <;> simp [h]
  · exact h

@[simp] theorem redPull_mem (f : Form) (t e : Nat) (qs : List SeraiRec) (en : Entry) (s : State) :
    (redPull f t e qs en s).2.2.mem = s.mem := by
  induction qs generalizing en s with
  | nil => rfl
  | cons q qs ih =>
    rw [redPull]
    split
    · rfl
    · split <;> simp [ih]

@[simp] theorem pullInto_canon {s : State} (h : Memory.wf s.mem = true) (t e idx : Nat) :
    Memory.wf (s.pullInto t e idx).mem = true := by
  unfold State.pullInto
  dsimp only
  split
  · simp [h]
  · split
    · simp [h]
    · split
      · simp [h]
      · split
        · simp [h]
        · split
          · split <;> simp [h]
          · simp [h]

/-! ## Taking a pair -/

@[simp] theorem dropFired_canon {s : State} (h : Memory.wf s.mem = true) (t e : Nat) (c : Cand) :
    Memory.wf (s.dropFired t e c).mem = true := by
  unfold State.dropFired
  dsimp only
  split <;> simp [h]

@[simp] theorem seekOthers_canon {s : State} (h : Memory.wf s.mem = true) (t e k : Nat) :
    Memory.wf (s.seekOthers t e k).mem = true :=
  foldl_canon (fun s j hs => by split <;> simp [hs]) _ h

@[simp] theorem seekAgain_canon {s : State} (h : Memory.wf s.mem = true) (t e : Nat) (c : Cand) :
    Memory.wf (s.seekAgain t e c).mem = true := by
  unfold State.seekAgain; split <;> simp [h]

@[simp] theorem unlatchRecord_canon {s : State} (h : Memory.wf s.mem = true) (t e : Nat) (r : SeraiRec) :
    Memory.wf (s.unlatchRecord t e r).mem = true := by
  unfold State.unlatchRecord; split <;> simp [h]

@[simp] theorem takePair_canon {s : State} (h : Memory.wf s.mem = true) (t e : Nat) (cs : List Cand) (c : Cand) :
    Memory.wf (s.takePair t e cs c).mem = true := by
  simp [State.takePair, h]

/-! ## Colours -/

@[simp] theorem writeDraw_canon {s : State} (h : Memory.wf s.mem = true) (c : Nat) (w : SpawnWait) (n : Nat) (again : Bool) :
    Memory.wf (s.writeDraw c w n again).mem = true := by
  unfold State.writeDraw
  dsimp only
  split
  next s' hw =>
    split at hw
    · cases hw
    · simp [vwrite_keeps _ _ _ _ hw h]
  next => split <;> simp [h]
  all_goals simp [h]

@[simp] theorem serveSpawns_canon {s : State} (h : Memory.wf s.mem = true) (c n : Nat) :
    Memory.wf (serveSpawns c n s).mem = true := by
  induction n generalizing s with
  | zero => exact h
  | succ n ih =>
    rw [serveSpawns]
    split
    · split
      · exact ih (writeDraw_canon h _ _ _ _)
      · exact h
    · exact h

@[simp] theorem retryDraws_canon {s : State} (h : Memory.wf s.mem = true) (c : Nat) :
    Memory.wf (s.retryDraws c).mem = true := by
  refine foldl_canon (fun s w hs => ?_) _ h
  split
  · simp [hs]
  · split <;> simp [hs]
  · exact hs

@[simp] theorem spawnTurn_canon {s : State} (h : Memory.wf s.mem = true) (c : Nat) :
    Memory.wf (s.spawnTurn c).mem = true := by
  simp [State.spawnTurn, h]

@[simp] theorem freeColour_canon {s : State} (h : Memory.wf s.mem = true) (c n : Nat) :
    Memory.wf (s.freeColour c n).mem = true := by
  unfold State.freeColour
  dsimp only
  apply writeLate_canon
  split <;> simp [h]

theorem spawnFire_canon {s : State} (h : Memory.wf s.mem = true) (f : Form) (fr : Firing) :
    Memory.wf (spawnFire f fr s).mem = true :=
  firing_run_canon h (fun _ s hs => by simp [hs]) fr f

/-! ## Output queues, input queues and markers -/

theorem sendOut_canon {s : State} (h : Memory.wf s.mem = true) (t : Nat) (r : Req) : SomeCanon (s.sendOut t r) := by
  unfold State.sendOut
  split
  next blk s' hc =>
  have hs' : s'.mem = s.mem := by rw [← copyBlock_mem t r s, hc]
  dsimp only
  split
  · exact .ite (.some (by simp [hs', h])) .none
  · exact .ite .none (.some (by simp [h]))

theorem sendItem_canon {s : State} (h : Memory.wf s.mem = true) (t e k : Nat) (x : OutItem) :
    SomeCanon (s.sendItem t e k x) := by
  cases x with
  | token field target tok link =>
    refine .ite .none ?_
    split
    · exact .some (by simp [h])
    · exact .ite .none (.some (by simp [h]))
  | physical field d tok => exact .some (by simp [h])
  | returned n target tok =>
    unfold State.sendItem
    dsimp only
    split
    · exact .some (by simp [h])
    · exact .some (by simp [h])
  | request r => exact sendOut_canon h t r

@[simp] theorem placeFromScale_canon {s : State} (h : Memory.wf s.mem = true) (t e k p i : Nat) (fl : Flight) :
    Memory.wf (s.placeFromScale t e k p i fl).mem = true := by
  unfold State.placeFromScale
  dsimp only
  split
  · exact h
  · split
    next hp => simpa using place_canon h _ _ _ _ _ hp
    next => simp [h]

@[simp] theorem enterQueue_canon {s : State} (h : Memory.wf s.mem = true) (t e : Nat) (q : Nat × Flight) :
    Memory.wf (s.enterQueue t e q).mem = true := by
  unfold State.enterQueue
  split
  · split
    · simp [h]
    · apply placeOne_canon
      split <;> simp [h]
  · exact h

@[simp] theorem releaseReord_canon {s : State} (h : Memory.wf s.mem = true) (t e k : Nat) (i : Instr) (n : BitVec 8) :
    Memory.wf (s.releaseReord t e k i n).mem = true := by
  unfold State.releaseReord
  dsimp only
  split
  · simp [h]
  · split <;> simp [h]

@[simp] theorem alignMark_canon {s : State} (h : Memory.wf s.mem = true) (t e k : Nat) (i : Instr) (n : BitVec 8) :
    Memory.wf (s.alignMark t e k i n).mem = true := by
  unfold State.alignMark
  split
  case h_4 => split <;> simp [h]
  all_goals simp [h]

theorem controlMark_canon {s : State} (h : Memory.wf s.mem = true) (t e k : Nat) :
    Memory.wf (s.controlMark t e k).mem = true := by
  unfold State.controlMark
  dsimp only
  split
  · exact h
  · split
    · split <;> simp [h]
    · split
      · simp [h]
      · split
        · simp [h]
        · split <;> simp [h]

@[simp] theorem controlAct_canon {s : State} (h : Memory.wf s.mem = true) (t e k : Nat) (a : ControlItem) :
    Memory.wf (s.controlAct t e k a).mem = true := by
  cases a with
  | token => simp [State.controlAct, h]
  | marker => exact controlMark_canon h t e k

end Sys2Proof.Proofs
end

section
/-! PROOFS. Main memory stays canonical (R170, R375), fourth part: memory accesses, the units' turns, stream ports, groups and configuration. -/

namespace Sys2Proof.Proofs

open Sys2Proof Sys2Proof.Machine Sys2Proof.Claims

/-! ## Accesses -/

theorem pageWrites_canon {s : State} (h : Memory.wf s.mem = true) (a : Agent) (c : BitVec 8) (p : Page) (va : Nat) (bs : List Byte) :
    Memory.wf (pageWrites a c p va bs s).mem = true := pageWrites_wf a c p va bs s h

theorem accessPage_canon {s : State} (h : Memory.wf s.mem = true) (a : Agent) (c : BitVec 8) (p : Page) (va : Nat) (i : Instr) (r k : W64) :
    Memory.wf ((accessPage a c p va i r k s).2).mem = true := by
  unfold accessPage
  dsimp only
  split
  · simp [h]
  · exact pageWrites_canon h ..
  · exact pageWrites_canon (by simp [h]) ..

theorem reqPerform_canon {s : State} (h : Memory.wf s.mem = true) (m : MemReq) :
    Memory.wf ((reqPerform m s).2).mem = true := by
  unfold reqPerform
  dsimp only
  split
  · exact h
  · simp [h]
  · split <;> simp [h]
  · exact accessPage_canon h ..

theorem coreAccess_keeps (n : Nat) (i : Instr) (a r k : W64) : KeepsMem (coreAccess n i a r k) := by
  intro s v t ht h
  unfold coreAccess at ht
  dsimp only at ht
  split at ht
  · cases ht
  · split at ht
    · cases ht
    · split at ht
      · cases ht
      · split at ht
        · cases ht
        · have hacc := Except.ok.inj ht
          exact (congrArg (fun x : W64 × State => Memory.wf x.2.mem = true) hacc).mp (accessPage_canon h ..)

theorem passTurn_canon {s : State} (h : Memory.wf s.mem = true) : Memory.wf (s.passTurn).mem = true := by
  unfold State.passTurn
  split
  · split <;> simp [h]
  · split
    · exact s.retryLate_wf h
    · exact h
  · exact h

/-! ## The turns of units -/

theorem tableTurn_canon {go : Nat → Req → State → W64 × State} {s : State} (h : Memory.wf s.mem = true)
    (hgo : ∀ t r s, (go t r s).2.mem = s.mem)
    (e : Engine) (r : Req) : Memory.wf (tableTurn go e r s).mem = true := by
  unfold tableTurn
  split
  next t =>
    refine serve_canon h (.of_mem fun s v s' hr => ?_) _ r
    cases hr
    exact hgo t r s
  next => exact h

theorem matrixTurn_canon {go : Nat → Req → Act (W64 × Bool)} {s : State} (h : Memory.wf s.mem = true)
    (hgo : ∀ t r, KeepsMem (go t r)) (e : Engine)
    (r : Req) : Memory.wf (matrixTurn go e r s).mem = true := by
  unfold matrixTurn
  split
  · exact serve_canon h (hgo _ _) _ r
  · exact h

theorem productTurn_canon {f : Form} {check : Nat → Req → State → Except Nat (Nat × Nat)}
    {run : Nat → Req → Nat → Nat → State → State} {s : State} (h : Memory.wf s.mem = true)
    (hrun : ∀ t r a b s, (run t r a b s).mem = s.mem)
    (e : Engine) (r : Req) : Memory.wf (productTurn f check run e r s).mem = true := by
  unfold productTurn
  split
  · dsimp only
    split
    · simp [h]
    · split
      · split <;> simp [hrun, h]
      · split <;> simp [h]
  · exact h

theorem ringTurn_canon {k : Nat} {go : Nat → Req → State → Except Stop ((W64 × Bool) × State)} {s : State} (h : Memory.wf s.mem = true)
    (hgo : ∀ t r, KeepsMem (go t r)) (e : Engine) (r : Req) : Memory.wf (ringTurn k go e r s).mem = true := by
  unfold ringTurn
  split
  · dsimp only
    split
    · simp [h]
    · exact serve_canon (by simp [h]) (hgo _ _) _ r
  · exact h

theorem accrdEngine_keeps (f : Form) (t : Nat) (r : Req) : KeepsMem (accrdEngine f t r) := by
  refine .of_mem fun s v s' h => ?_
  unfold accrdEngine at h
  dsimp only at h
  split_ifs at h <;> cases h <;> simp

theorem serveOrdered_canon {m : Act W64} {s : State} (h : Memory.wf s.mem = true) (hm : KeepsMem m) (e : Engine)
    (r : Req) :
    Memory.wf (s.serveOrdered e r m).mem = true := by
  unfold State.serveOrdered
  split
  · exact h
  · exact serve_canon h (.andThen hm fun _ => .ret _) e r

theorem treeTurn_canon {go : Nat → Req → Act W64} {s : State} (h : Memory.wf s.mem = true)
    (hgo : ∀ t r, KeepsMem (go t r)) (e : Engine) (r : Req) :
    Memory.wf (treeTurn go e r s).mem = true := by
  unfold treeTurn
  split
  · exact serveOrdered_canon (by simp [h]) (hgo _ _) _ r
  · exact h

theorem boundaryTurn_canon {go : Nat → Req → Act W64} {s : State} (h : Memory.wf s.mem = true)
    (hgo : ∀ t r, KeepsMem (go t r)) (e : Engine)
    (r : Req) : Memory.wf (boundaryTurn go e r s).mem = true := by
  unfold boundaryTurn
  split
  · exact serveOrdered_canon h (hgo _ _) _ r
  · exact serveOrdered_canon h (hgo _ _) _ r
  · exact serveOrdered_canon h (hgo _ _) _ r
  · exact h

theorem tdescTurn_canon {s : State} (h : Memory.wf s.mem = true) (e : Engine) (r : Req) :
    Memory.wf (tdescTurn e r s).mem = true := by
  unfold tdescTurn
  split
  next t =>
    have hsees : Memory.wf (s.seeBoundary t r).mem = true := by simp [h]
    have hrel : KeepsMem ((descEnv t r).run (descRelease t r)) := tree_run_keeps (descRelease_keeps ..)
    dsimp only
    split
    · exact serve_canon hsees (.ret _) _ r
    · split
      · exact hsees
      · split
        · split
          next hb => simp [descBegin_keeps t r hb hsees]
          next => exact serve_canon hsees (.andThen (descBegin_keeps t r) fun _ => .ret _) _ r
        · split
          · split
            next hb => simp [descRun_keeps t r hb hsees]
            next => exact hsees
            next =>
              split
              next hb => exact serve_canon (hrel hb hsees) (.stop _) _ r
              next => exact hsees
              next => simp [h]
              next => exact serve_canon hsees (.stop _) _ r
          · split
            · split
              next hb => simp [hrel hb hsees]
              next => simp [h]
              next => exact serve_canon hsees (.stop _) _ r
            · exact serveOrdered_canon hsees (descUpdate_keeps ..) _ r
  next => exact h

/-! ## Stream ports -/

theorem depositPort_canon {s : State} (h : Memory.wf s.mem = true) (t p : Nat) : OkCanon (s.depositPort t p) := by
  unfold State.depositPort
  dsimp only
  split
  · exact .ok h
  · split
    next hd => exact .ok (by simpa using deposit_keeps _ _ _ hd h)
    next => exact .error _
    next => exact .error _
    next => exact .ok (by simp [h])
    next => exact .ok (by simp [h])

theorem closePort_canon {s : State} (h : Memory.wf s.mem = true) (t p : Nat) : OkCanon (s.closePort t p) :=
  (depositPort_canon h t p).map fun s hs => by simp [hs]

@[simp] theorem closeOrWait_canon {s : State} (h : Memory.wf s.mem = true) (t p : Nat) :
    Memory.wf ((s.closeOrWait t p).1).mem = true := by
  unfold State.closeOrWait
  split
  next hc => simpa using closePort_canon h t p hc
  next => exact h
  next => split <;> simp [h]

@[simp] theorem closePorts_canon {s : State} (h : Memory.wf s.mem = true) (t : Nat) :
    Memory.wf (s.closePorts t).mem = true :=
  foldl_canon (fun s p hs => by split <;> simp [hs]) _ h

theorem portClose_canon {s : State} (h : Memory.wf s.mem = true) (cut : Bool) (e : Engine) (t p : Nat) (r : Req) :
    Memory.wf (portClose cut e t p r s).mem = true := by
  unfold portClose
  dsimp only
  split
  · simp [h]
  · split
    · simp [h]
    · split
      next hc => simp [closePort_canon h t p hc]
      next => simp [h]
      next => exact h
  · split <;> simp [h]
  · split <;> simp [h]

theorem portCommand_canon {go : Engine → Nat → Nat → Req → State → State} {s : State} (h : Memory.wf s.mem = true)
   
    (hgo : ∀ e t p r s, Memory.wf s.mem = true → Memory.wf (go e t p r s).mem = true) (e : Engine) (r : Req) : Memory.wf (portCommand go e r s).mem = true := by
  unfold portCommand
  split
  · split
    · simp [h]
    · exact hgo _ _ _ _ _ h
  · exact h

theorem writeRow_canon {s : State} (h : Memory.wf s.mem = true) (a : Agent) (c : BitVec 8) (ps : Page × Page) (va : Nat) (bs : List Byte) :
    Memory.wf (writeRow a c ps va bs s).mem = true := pageWrites_canon (pageWrites_canon h ..) ..

theorem landRow_canon {get : State → List Byte × State} {s : State} (h : Memory.wf s.mem = true)
    (hget : ∀ s, (get s).2.mem = s.mem) (t p i : Nat) :
    Memory.wf (s.landRow t p i get).mem = true := by
  unfold State.landRow
  dsimp only
  split
  · split
    · simp [h]
    · split
      · simp [h]
      · split
        · simp [h]
        · split
          · simp [h]
          · split <;> simp [hget, h]
  · split <;> simp [hget, h]

theorem runRow_canon {absent : Nat → State → State} {s : State} (h : Memory.wf s.mem = true)
    (habsent : ∀ a s, Memory.wf s.mem = true → Memory.wf (absent a s).mem = true)
    (t p i va : Nat) : Memory.wf (s.runRow t p i va absent).mem = true := by
  unfold State.runRow
  dsimp only
  split
  · exact h
  · split
    · split
      · simp [h]
      · split
        · simp [h]
        · exact habsent _ _ h
    · simp [h]
    · simp [h]
    · exact h
    · split
      · simp [h]
      · split
        · rw [rowEnds_mem, modPort_mem]
          split
          · rw [settle_mem, setFull_mem]
            exact writeRow_canon (by simp [h]) ..
          · exact writeRow_canon (by simp [h]) ..
        · exact landRow_canon h (fun s => by simp) t p i

theorem rowRetry_canon {s go : State} (h : Memory.wf s.mem = true) (hgo : Memory.wf go.mem = true) (t p : Nat) :
    Memory.wf (s.rowRetry t p go).mem = true := by
  unfold State.rowRetry
  split
  · split <;> simp [h]
  · exact hgo

/-! ## Groups, barriers and configuration -/

theorem barinitEntry_canon {go : Nat → Barrier → State → State} {s : State} (h : Memory.wf s.mem = true)
    (hgo : ∀ a b s, Memory.wf s.mem = true → Memory.wf (go a b s).mem = true) (f : Form)
    (n : Nat) : Memory.wf (barinitEntry f n go s).mem = true := by
  unfold barinitEntry
  dsimp only
  split
  · simp [h]
  · split
    · simp [h]
    · split
      · simp [h]
      · exact hgo _ _ _ h

@[simp] theorem colourBytes_canon {s : State} (h : Memory.wf s.mem = true) (c n : Nat) (col : Colour) :
    Memory.wf (s.colourBytes c n col).mem = true :=
  writeLate_canon h ..

@[simp] theorem noteColour_canon {s : State} (h : Memory.wf s.mem = true) (c n : Nat) (col : Colour) :
    Memory.wf (s.noteColour c n col).mem = true := by
  simp [State.noteColour, h]

@[simp] theorem freeLaunch_canon {s : State} (h : Memory.wf s.mem = true) (c n : Nat) :
    Memory.wf (s.freeLaunch c n).mem = true := by
  simp [State.freeLaunch, h]

@[simp] theorem freeColours_canon {s : State} (h : Memory.wf s.mem = true) (g : Nat) :
    Memory.wf (s.freeColours g).mem = true := by
  unfold State.freeColours
  dsimp only
  split
  · exact freeLaunch_canon (foldl_canon (fun s kv hs => freeColour_canon hs _ _) _ h) _ _
  · exact foldl_canon (fun s kv hs => freeColour_canon hs _ _) _ h

@[simp] theorem release_canon {s : State} (h : Memory.wf s.mem = true) (g : Nat) :
    Memory.wf (s.release g).mem = true := by
  simp [State.release, h]

theorem grel_canon {s : State} (h : Memory.wf s.mem = true) (g : Nat) (force : Bool) : SomeCanon (s.grel g force) := by
  unfold State.grel
  split
  · exact .some (by simp [h])
  · exact .ite (.some (by simp [h])) .none
  · exact .some (by simp [h])
  · exact .none

theorem grelWord_canon {s : State} (h : Memory.wf s.mem = true) (f : Form) (force : Bool) (n : Nat) :
    Memory.wf (grelWord f force n s).mem = true := by
  unfold grelWord
  dsimp only
  split
  · simp [h]
  · split
    · simp [h]
    · split
      · simp [h]
      · split
        next hg => simp [grel_canon h _ _ hg]
        next => simp [h]

theorem withAddr_canon {go : CfgAddr → State → State} {s : State} (h : Memory.wf s.mem = true)
    (hgo : ∀ a s, Memory.wf s.mem = true → Memory.wf (go a s).mem = true) (f : Form) (n : Nat)
    (ok : CfgAddr → Bool) : Memory.wf (withAddr f n ok go s).mem = true := by
  unfold withAddr
  dsimp only
  split
  · simp [h]
  · split
    · simp [h]
    · exact hgo _ _ h

theorem cfgSlot_canon {s : State} (h : Memory.wf s.mem = true) (t e k : Nat) (w : W128) :
    OkCanon (s.cfgSlot t e k w) := by
  unfold State.cfgSlot
  dsimp only
  split
  · exact .error _
  · refine .ite (.error _) ?_
    split
    · exact .ite (.error _) (.ok (by simp [h]))
    · exact .ite (.ite (.error _) (.ok (by simp [h]))) (.error _)

theorem cfgElem_canon {f : State → State} {s : State} (h : Memory.wf (f s).mem = true) (t e : Nat) :
    OkCanon (s.cfgElem t e f) := by
  unfold State.cfgElem
  split
  · exact .error _
  · exact .ok (by simp [h])

theorem cfgRing_canon {s : State} (h : Memory.wf s.mem = true) (t n v : Nat) : OkCanon (s.cfgRing t n v) :=
  .ite (.error _) (.ite (.ite (.ok (by simp [h])) (.error _)) (.ite (.error _) (.ok (by simp [h]))))

theorem restoreWord_canon {s : State} (h : Memory.wf s.mem = true) (t e i v : Nat) :
    OkCanon (s.restoreWord t e i v) := by
  unfold State.restoreWord
  split
  · exact .error _
  · exact .ok (by simp [h])
  · exact .ok (by simp [h])
  · exact .error _

theorem cfgWrite_canon {s : State} (h : Memory.wf s.mem = true) (a : CfgAddr) (v : Nat) : OkCanon (s.cfgWrite a v) := by
  unfold State.cfgWrite
  split
  · exact (cfgSlot_canon h _ _ _ _).map fun s hs => by simp [hs]
  · exact cfgElem_canon (by simp [h]) _ _
  · exact cfgElem_canon (by simp [h]) _ _
  · exact .ite (.ok h) (restoreWord_canon h _ _ _ _)
  · exact .ite (.error _) (.ok (by simp [h]))
  · exact cfgRing_canon h _ _ _
  · exact .ok (by simp [h])
  · exact .ok h

end Sys2Proof.Proofs
end

section
/-! PROOFS. Main memory stays canonical (R170, R375), fifth part: kernel images, kernels, queues and contexts. -/

namespace Sys2Proof.Proofs

open Sys2Proof Sys2Proof.Machine Sys2Proof.Claims

/-! ## Images (R345, R362) -/

theorem ofOne_canon {s : State} {x : Except Refused State} (h : Memory.wf s.mem = true) (hx : OkCanon x) :
    Memory.wf ((Written.ofOne s x).state).mem = true := by
  cases x with
  | ok t => exact hx rfl
  | error _ => exact h

theorem putWords_canon (t e k : Nat) (ws : List Nat) {r : Written} (h : Memory.wf (r.state).mem = true) :
    Memory.wf ((putWords t e k ws r).state).mem = true := by
  induction ws generalizing k r with
  | nil => exact h
  | cons w ws ih =>
    rw [putWords]
    split
    next hw => exact ih _ (cfgSlot_canon h _ _ _ _ hw)
    next => exact h

theorem putRecord_canon {s : State} (h : Memory.wf s.mem = true) (t : Nat) (r : ImgRec) :
    Memory.wf ((s.putRecord t r).state).mem = true := by
  unfold State.putRecord
  split
  · exact putWords_canon _ _ _ _ h
  · refine ofOne_canon h (cfgElem_canon ?_ _ _)
    exact foldl_canon (fun s v hs => by simp [hs]) _ h
  · exact ofOne_canon h (cfgElem_canon (by simp [h]) _ _)
  · exact ofOne_canon h (cfgRing_canon h _ _ _)
  all_goals simp [h]

theorem putRecords_canon (seen ts : List Nat) (l : List (Nat × ImgRec)) {s : State} (h : Memory.wf s.mem = true) :
    Memory.wf ((putRecords seen ts l s).2.2).mem = true := by
  induction l generalizing seen ts s with
  | nil => exact h
  | cons q l ih =>
    obtain ⟨t, r⟩ := q
    unfold putRecords
    extract_lets e fresh w ts' s'
    have hw : Memory.wf (w.state).mem = true := putRecord_canon (by split <;> simp [h]) t r
    have hs' : Memory.wf s'.mem = true := by
      simp only [s']
      split
      · exact hw
      · exact h
    split
    · exact ih _ _ hs'
    · exact hs'

theorem writeUpTo_canon {s t : State} {b : Bool} {c : BitVec 8} {va : Nat} {bs : List Byte} (hw : writeUpTo c va bs s = some (b, t))
    (h : Memory.wf s.mem = true) : Memory.wf t.mem = true := by
  induction bs generalizing va s with
  | nil => cases hw; exact h
  | cons x bs ih =>
    rw [writeUpTo] at hw
    split at hw
    · split at hw
      · cases hw
      · exact ih hw (s.pageWrite_wf _ _ _ _ _ h)
    · cases hw; exact h

theorem writeAll_canon {s t : State} {b : Bool} {c : BitVec 8} {l : List (Nat × List Byte)} (hw : writeAll c l s = some (b, t))
    (h : Memory.wf s.mem = true) : Memory.wf t.mem = true := by
  induction l generalizing s with
  | nil => cases hw; exact h
  | cons x l ih =>
    rw [writeAll] at hw
    split at hw
    next s' hs' => exact ih hw (writeUpTo_canon hs' h)
    next => exact writeUpTo_canon hw h

theorem putMemory_canon {s t : State} {x : Except Nat Unit} {c : BitVec 8} {m : Image} {l : List ImgRec}
    (hw : putMemory c m l s = some (x, t)) (h : Memory.wf s.mem = true) : Memory.wf t.mem = true := by
  induction l generalizing s with
  | nil => cases hw; exact h
  | cons r l ih =>
    rw [putMemory] at hw
    split at hw
    next => cases hw
    next s' hs' => exact ih hw (writeAll_canon hs' h)
    next s' hs' => cases hw; exact writeAll_canon hs' h

theorem readKernel_mem {s t : State} {x : Except Nat Image} {g va roles : Nat} (hr : s.readKernel g va roles = some (x, t)) :
    t.mem = s.mem := by
  unfold State.readKernel at hr
  dsimp only at hr
  split at hr
  · cases hr
  · split at hr
    · cases hr; simp
    · split at hr
      · cases hr
      · cases hr; simp

theorem clearTiles_mem (l : List Nat) (s : State) : (l.foldl (fun s t => s.clearTile t) s).mem = s.mem :=
  foldl_mem (fun s t => by simp) l s

theorem writeKernel_canon {s t : State} {v g : Nat} {m : Image} (hw : s.writeKernel g m = some (v, t))
    (h : Memory.wf s.mem = true) :
    Memory.wf t.mem = true := by
  unfold State.writeKernel at hw
  extract_lets x rs s₁ s₂ byRole at hw
  have h₁ : Memory.wf s₁.mem = true := by
    simp only [s₁]
    split
    · rwa [clearTiles_mem]
    · exact h
  have h₂ : Memory.wf s₂.mem = true := by rwa [foldl_mem (fun s t => State.modTile_mem s t _)]
  split at hw
  next done written s₃ hput =>
  have h₃ : Memory.wf s₃.mem = true := by
    have hput' := putRecords_canon [] [] byRole h₂
    rwa [hput] at hput'
  extract_lets undo at hw
  split at hw
  next => cases hw; rwa [clearTiles_mem]
  next =>
    split at hw
    next => cases hw
    next hmem => cases hw; rw [clearTiles_mem]; exact putMemory_canon hmem h₃
    next hmem =>
      have h₄ := putMemory_canon hmem h₃
      split at hw
      next => cases hw; rwa [clearTiles_mem]
      next => cases hw; rwa [loadCore_mem]

theorem writeVerdict_canon {s : State} (h : Memory.wf s.mem = true) (g v : Nat) : SomeCanon (s.writeVerdict g v) := by
  intro t ht
  unfold State.writeVerdict at ht
  obtain ⟨⟨b, s'⟩, hw, rfl⟩ := Option.map_eq_some_iff.mp ht
  simpa using writeUpTo_canon hw h

theorem load_canon {s t : State} {v g roles : Nat} (hl : s.load g roles = some (v, t)) (h : Memory.wf s.mem = true) :
    Memory.wf t.mem = true := by
  unfold State.load at hl
  split at hl
  next => cases hl
  next s' hr =>
    obtain ⟨u, hu, hut⟩ := Option.map_eq_some_iff.mp hl
    cases hut
    exact writeVerdict_canon (by rwa [readKernel_mem hr]) _ _ hu
  next m s' hr =>
    split at hl
    next => cases hl
    next w s₂ hw =>
      obtain ⟨u, hu, hut⟩ := Option.map_eq_some_iff.mp hl
      cases hut
      refine writeVerdict_canon ?_ _ _ hu
      rw [State.modGroup_mem]
      exact writeKernel_canon hw (by rwa [readKernel_mem hr])

/-! ## Kernels -/

theorem startKernel_canon {s : State} (h : Memory.wf s.mem = true) (g : Nat) :
    Memory.wf (s.startKernel g).mem = true := by
  unfold State.startKernel
  dsimp only
  rw [State.modCtx_mem]
  dsimp only
  rw [State.modGroup_mem]
  split
  · rw [foldl_mem (fun s t => State.modTile_mem s t _)]
    simp [h]
  · rw [State.modCore_mem, foldl_mem (fun s t => State.modTile_mem s t _)]
    simp [h]

theorem endKernel_canon {s : State} (h : Memory.wf s.mem = true) (g : Nat) : Memory.wf (s.endKernel g).mem = true := by
  have hports : Memory.wf ((s.group g).tiles.foldl (fun s t => s.closePorts t) s).mem = true := foldl_canon (fun s t hs => closePorts_canon hs t) _ h
  unfold State.endKernel
  dsimp only
  split
  · exact hports
  · rw [lastKernel_mem, State.modGroup_mem]
    dsimp only
    refine spawnTurn_canon (freeLaunch_canon ?_ _ _) _
    rwa [foldl_mem (fun s t => State.modTile_mem s t _)]

/-! ## Queues -/

@[simp] theorem physPut_canon {s : State} (h : Memory.wf s.mem = true) (a : Agent) (c : BitVec 8) (pa : Nat)
    (b : Byte) :
    Memory.wf (s.physPut a c pa b).mem = true := by
  unfold State.physPut
  split
  · exact h
  · exact s.physWrite_wf _ _ _ _ h

@[simp] theorem setQfield_canon {s : State} (h : Memory.wf s.mem = true) (q off n v : Nat) :
    Memory.wf (s.setQfield q off n v).mem = true :=
  foldl_canon (fun _ _ hs => physPut_canon hs _ _ _ _) _ h

@[simp] theorem setQstate_canon {s : State} (h : Memory.wf s.mem = true) (q v : Nat) :
    Memory.wf (s.setQstate q v).mem = true := setQfield_canon h ..

@[simp] theorem disableQueue_canon {s : State} (h : Memory.wf s.mem = true) (q : Nat) :
    Memory.wf (s.disableQueue q).mem = true := by
  simp [State.disableQueue, h]

@[simp] theorem disableQueues_canon {s : State} (h : Memory.wf s.mem = true) (c : Nat) :
    Memory.wf (s.disableQueues c).mem = true :=
  foldl_canon (fun s q hs => by split <;> simp [hs]) _ h

@[simp] theorem advanceHead_canon {s : State} (h : Memory.wf s.mem = true) (q : Nat) :
    Memory.wf (s.advanceHead q).mem = true := setQfield_canon h ..

@[simp] theorem readHead_canon {s : State} (h : Memory.wf s.mem = true) (q : Nat) :
    Memory.wf ((s.readHead q).2).mem = true := by
  unfold State.readHead
  dsimp only
  split
  · exact h
  · split
    · exact h
    · split
      · dsimp only
        split <;> simp [h]
      · simp [h]
      · exact h
      · simp [h]
      next hr =>
        have hs := vnat_keeps _ _ _ _ hr (by simpa using h)
        split <;> simp [hs]

theorem readHead_canon_of_eq {s t : State} {x : Head} {q : Nat} (hr : s.readHead q = (x, t))
    (h : Memory.wf s.mem = true) :
    Memory.wf t.mem = true := by
  have ht := readHead_canon h q
  rwa [hr] at ht

@[simp] theorem testQueue_canon {s : State} (h : Memory.wf s.mem = true) (q : Nat) :
    Memory.wf (s.testQueue q).mem = true := by
  unfold State.testQueue
  split
  · exact h
  · split
    next hr => simp [readHead_canon_of_eq hr h]
    next hr =>
      have ht := readHead_canon_of_eq hr h
      split <;> simp [ht]
    next hr =>
      have ht := readHead_canon_of_eq hr h
      split <;> simp [ht]
    next hr => simp [readHead_canon_of_eq hr h]
    next hr => simp [readHead_canon_of_eq hr h]

@[simp] theorem nextHead_canon {s : State} (h : Memory.wf s.mem = true) (q : Nat) (started : Option Nat) :
    Memory.wf (s.nextHead q started).mem = true := by
  simp [State.nextHead, h]

@[simp] theorem ring?_canon {s : State} (h : Memory.wf s.mem = true) (q : Nat) : Memory.wf (s.ring? q).mem = true := by
  unfold State.ring?; split <;> simp [h]

@[simp] theorem enableQueue_canon {s : State} (h : Memory.wf s.mem = true) (q : Nat) :
    Memory.wf (s.enableQueue q).mem = true := by
  unfold State.enableQueue; split <;> simp [h]

@[simp] theorem doorbell_canon {s : State} (h : Memory.wf s.mem = true) (v : Nat) :
    Memory.wf (s.doorbell v).mem = true := by
  unfold State.doorbell
  dsimp only
  split
  · simp [h]
  · split <;> simp [h]

theorem doorbellEvent_canon {s : State} (h : Memory.wf s.mem = true) (cmd value : Nat) :
    Memory.wf (doorbellEvent cmd value s).mem = true := by
  unfold doorbellEvent
  dsimp only
  split <;> simp [h]

/-! ## Contexts -/

@[simp] theorem killGroup_canon {s : State} (h : Memory.wf s.mem = true) (g : Nat) :
    Memory.wf (s.killGroup g).mem = true := by
  unfold State.killGroup; split <;> simp [h]

theorem clearedWork_canon {s : State} (h : Memory.wf s.mem = true) (c : Nat) (cb : BitVec 8) :
    Memory.wf ({ s with
        reqs := s.reqs.filter fun m => m.req.ctx != cb
        waves := s.waves.filter fun w => w.ctx != cb
        iterLinks := s.iterLinks.filter fun m => m.ctx != cb
        late := s.late.filter fun w => w.ctx != cb
        signals := s.signals.filter fun m => m.ctx != cb }.modCtx c fun x =>
      { x with spawns := [], save := none, saveEvents := [], restoring := none, jobs := [], saving := none, bySched := none }).mem = true := h

theorem failAdders_canon {s : State} (h : Memory.wf s.mem = true) (p : Adder → Bool) :
    Memory.wf (s.failAdders p).mem = true := by
  rwa [failAdders_mem]

theorem dropBarriers_canon {s : State} (h : Memory.wf s.mem = true) (c : BitVec 8) :
    Memory.wf (s.dropBarriers c).mem = true := h

@[simp] theorem kill_canon {s : State} (h : Memory.wf s.mem = true) (c : Nat) : Memory.wf (s.kill c).mem = true := by
  have hgroups := foldl_canon (fun _ g hs => killGroup_canon hs g) (s.groupsOf (BitVec.ofNat 8 c))
    (s := s.modCtx c fun x => { x with state := .dead }) (by simp [h])
  exact clearedWork_canon (failAdders_canon (disableQueues_canon (dropBarriers_canon hgroups _) c) _) c _

theorem ccmd_canon {s : State} (h : Memory.wf s.mem = true) (c cmd : Nat) : OkCanon (s.ccmd c cmd) := by
  unfold State.ccmd
  dsimp only
  split
  case h_2 =>
    split
    · exact .error _
    · exact .ok (by simp [h])
  case h_10 => exact .error _
  all_goals exact .ok (by simp [h])

theorem firmware_canon {s : State} (h : Memory.wf s.mem = true) (c cmd : Nat) :
    Memory.wf (s.firmware c cmd).mem = true := by
  unfold State.firmware
  split
  next hc => exact ccmd_canon h _ _ hc
  next => exact h

theorem append_canon {s : State} (h : Memory.wf s.mem = true) (pick : Nat) (r : FaultRec) :
    Memory.wf (s.append pick r).mem = true := by
  unfold State.append
  dsimp only
  split
  · simp [h]
  · split
    · exact h
    · split
      next hw =>
        have ht := vwrite_keeps _ _ _ _ hw h
        split <;> simp [ht]
      next => exact h
      next => simp [h]

theorem failDraws_canon {s : State} (h : Memory.wf s.mem = true) (c lo size : Nat) :
    Memory.wf (s.failDraws c lo size).mem = true := by
  refine spawnTurn_canon (foldl_canon (fun s _ hs => ?_) _ h) _
  simp [hs]

theorem failQueues_canon {s : State} (h : Memory.wf s.mem = true) (c lo size : Nat) :
    Memory.wf (s.failQueues c lo size).mem = true :=
  foldl_canon (fun _ q hs => disableQueue_canon hs q) _ h

theorem failPage_canon {s : State} (h : Memory.wf s.mem = true) (c : BitVec 8) (va : Nat) :
    Memory.wf (s.failPage c va).mem = true := by
  unfold State.failPage
  dsimp only
  refine failQueues_canon (failDraws_canon ?_ _ _ _) _ _ _
  rw [foldl_mem (fun s q => failPort_mem s _ _ _ _)]
  dsimp only
  rw [foldl_mem (fun s q => failUnit_mem s _ _ _ _)]
  simp [h]

theorem writeSave_canon {s : State} (h : Memory.wf s.mem = true) (c : BitVec 8) (m : SaveImage) :
    SomeCanon (s.writeSave c m) := by
  intro t ht
  obtain ⟨⟨b, s'⟩, hw, rfl⟩ := Option.map_eq_some_iff.mp ht
  exact writeUpTo_canon hw h

theorem save_canon {s : State} (h : Memory.wf s.mem = true) (c : Nat) (hard fsave : Bool) :
    Memory.wf (s.save c hard fsave).mem = true := by
  unfold State.save
  extract_lets cb s₀ m
  have h₀ : Memory.wf s₀.mem = true := by
    simp only [s₀, mapElems_mem]
    split <;> simp [h]
  split
  · simp [h₀]
  · split
    next => exact h
    next t hw =>
      have ht : Memory.wf t.mem = true := writeSave_canon h₀ _ _ hw
      extract_lets s₁ s₂ s₃ events s₄
      have h₃ : s₃.mem = t.mem := foldl_mem (fun s g => unplace_mem s g) _ s₂
      have h₄ : s₄.mem = s₃.mem := State.modCtx_mem ..
      rwa [foldl_mem (fun s e => raiseEvent_mem s e), h₄, h₃]

theorem rebind_canon {s t : State} {r : Rename} {c g : Nat} {m : SaveImage} (hr : s.rebind c m g = some (r, t))
    (h : Memory.wf s.mem = true) :
    Memory.wf t.mem = true := by
  unfold State.rebind at hr
  dsimp only at hr
  split at hr
  · cases hr
  · cases hr
    rw [State.modCtx_mem]
    dsimp only
    rw [foldl_mem (fun s w => setWord_mem s _ _ _ _)]
    refine foldl_canon (fun s kv hs => noteColour_canon hs _ _ _) _ ?_
    rw [State.modGroup_mem, State.modCore_mem, foldl_mem (fun s q => rebuildTile_mem s _ _ _ _ _ _), bindAt_mem]
    exact h

theorem rebindAll_canon {s t : State} {r r' : Rename} {c : Nat} {m : SaveImage} {gs : List Nat}
    (hr : rebindAll c m r gs s = some (r', t)) (h : Memory.wf s.mem = true) : Memory.wf t.mem = true := by
  induction gs generalizing r s with
  | nil => cases hr; exact h
  | cons g gs ih =>
    rw [rebindAll] at hr
    split at hr
    next hg => exact ih hr (rebind_canon hg h)
    next => cases hr

@[simp] theorem reissue_mem (m : SaveImage) (r : Rename) (s : State) : (m.reissue r s).mem = s.mem := by
  unfold SaveImage.reissue
  dsimp only
  rw [foldl_mem]
  intro s q
  split <;> simp

theorem restore?_canon {s : State} (h : Memory.wf s.mem = true) (c : Nat) : SomeCanon (s.restore? c) := by
  intro t ht
  unfold State.restore? at ht
  obtain ⟨⟨r, s'⟩, hr, rfl⟩ := Option.map_eq_some_iff.mp ht
  dsimp only
  rw [foldl_mem (fun s e => raiseEvent_mem s e), State.modCtx_mem]
  dsimp only
  rw [reissue_mem, renamed_mem]
  exact rebindAll_canon hr h

theorem ctxWord_canon {go : Nat → Nat × Nat → State → State} {s : State} (h : Memory.wf s.mem = true)
    (hgo : ∀ a e s, Memory.wf s.mem = true → Memory.wf (go a e s).mem = true) (f : Form)
    (n : Nat) (ok : CtxState → Bool) : Memory.wf (ctxWord f n ok go s).mem = true := by
  unfold ctxWord
  dsimp only
  split
  · simp [h]
  · split
    · simp [h]
    · split
      · simp [h]
      · simp [hgo _ _ _ h]

theorem preempt_canon {s : State} (h : Memory.wf s.mem = true) (c : Nat) (hard : Bool) :
    Memory.wf (s.preempt c hard).mem = true := by
  unfold State.preempt
  extract_lets hard' s'
  have hs' : Memory.wf s'.mem = true := by
    simp only [s']
    split
    · exact h
    · split
      · exact save_canon (by simp [h]) c _ _
      · exact save_canon h c _ _
  split
  · split
    · simp [h]
    · exact hs'
  all_goals simp [h]

theorem preemptWord_canon {s : State} (h : Memory.wf s.mem = true) (f : Form) (hard : Bool) (n : Nat) :
    Memory.wf (preemptWord f hard n s).mem = true :=
  ctxWord_canon h (fun c e s hs => preempt_canon (by simp [hs]) c hard) f n _

theorem copyDone_canon {s : State} {r : Except Stop (Unit × State)} (h : Memory.wf s.mem = true)
    (hr : ∀ v t, r = .ok (v, t) → Memory.wf t.mem = true) (e : Nat × Nat) :
    SomeCanon (s.copyDone e r) := by
  unfold State.copyDone
  split
  · exact .some (by simp [hr _ _ rfl])
  · exact .none
  · exact .some (by simp [h])

theorem doJob_canon {s : State} (h : Memory.wf s.mem = true) (c : Nat) (j : CtxJob) : SomeCanon (s.doJob c j) := by
  refine .ite (copyDone_canon h (fun v t ht => saveCopy_keeps _ _ _ ht h) _) (.ite (.some (by simp [h])) ?_)
  split
  next hr => exact .some (by simpa using restCopy_keeps _ _ _ hr h)
  next => exact copyDone_canon h (fun v t ht => restCopy_keeps _ _ _ ht h) _

theorem startJob_canon {s : State} (h : Memory.wf s.mem = true) (c : Nat) (j : CtxJob) :
    Memory.wf (s.startJob c j).mem = true := by
  unfold State.startJob
  split
  next hj => exact SomeCanon.ite (doJob_canon h c j) .none hj
  next => simp [h]

theorem goJob_canon {s : State} (h : Memory.wf s.mem = true) (c : Nat) : Memory.wf (s.goJob c).mem = true := by
  unfold State.goJob
  split
  · exact h
  · exact (doJob_canon (by simp [h]) c _).getD h

theorem tryRestore_canon {s : State} (h : Memory.wf s.mem = true) (c : Nat) :
    Memory.wf (s.tryRestore c).mem = true := by
  unfold State.tryRestore
  split
  · exact goJob_canon h c
  · split
    · exact (restore?_canon h c).getD h
    · exact h

theorem copyWord_canon {s : State} (h : Memory.wf s.mem = true) (f : Form) (save run : Bool) (n : Nat) :
    Memory.wf (copyWord f save run n s).mem = true :=
  ctxWord_canon h (fun c _ _ hs => startJob_canon hs c _) f n _

/-! ## Placement and signals -/

theorem placeRecord_canon {s : State} (h : Memory.wf s.mem = true) (q addr : Nat) (r : QRec) :
    SomeCanon (s.placeRecord q addr r) := by
  unfold State.placeRecord
  dsimp only
  refine .ite .none ?_
  split
  · exact .some (by simp [h])
  · exact .none

theorem tryQueues_canon {s : State} (h : Memory.wf s.mem = true) (qs : List Nat) :
    Memory.wf ((tryQueues qs s).2).mem = true := by
  induction qs generalizing s with
  | nil => exact h
  | cons q qs ih =>
    rw [tryQueues]
    split
    next s' hr =>
      have hs' := readHead_canon_of_eq hr h
      split
      · exact ih h
      · split
        next hp => exact placeRecord_canon hs' _ _ _ hp
        next => exact ih (by simp [hs'])
    next => exact ih h
    next s' _ _ hr =>
      have hs' := readHead_canon_of_eq hr h
      split <;> simp [hs']

theorem tryContexts_canon {s : State} (h : Memory.wf s.mem = true) (cs : List Nat) :
    Memory.wf ((tryContexts cs s).2).mem = true := by
  induction cs generalizing s with
  | nil => exact h
  | cons c cs ih =>
    rw [tryContexts]
    split
    next hr => exact restore?_canon h c hr
    next => exact ih h

theorem tryQueues_canon_of_eq {s t : State} {b : Bool} {qs : List Nat} (hq : tryQueues qs s = (b, t))
    (h : Memory.wf s.mem = true) :
    Memory.wf t.mem = true := by
  have ht := tryQueues_canon h qs
  rwa [hq] at ht

theorem tryContexts_canon_of_eq {s t : State} {b : Bool} {cs : List Nat} (hc : tryContexts cs s = (b, t))
    (h : Memory.wf s.mem = true) :
    Memory.wf t.mem = true := by
  have ht := tryContexts_canon h cs
  rwa [hc] at ht

/-! The three equations of `tryPriorities`. The two searches are generalised first: while they stand there, the unifier tries to
evaluate them on the list of 1,024 queues. -/

section
variable {s s' t : State} {p : Nat}

theorem tryPriorities_context (hc : tryContexts (s.waitingContexts p) s = (true, s')) :
    tryPriorities (p + 1) s = s' := by
  delta tryPriorities tryPriorities._f
  generalize tryContexts = contexts at hc ⊢
  generalize tryQueues = queues
  dsimp only
  rw [hc]

theorem tryPriorities_queue (hc : tryContexts (s.waitingContexts p) s = (false, s'))
    (hq : tryQueues (s'.readyQueues p) s' = (true, t)) : tryPriorities (p + 1) s = t := by
  delta tryPriorities tryPriorities._f
  generalize tryContexts = contexts at hc ⊢
  generalize tryQueues = queues at hq ⊢
  dsimp only
  rw [hc]
  dsimp only
  rw [hq]

theorem tryPriorities_succ (hc : tryContexts (s.waitingContexts p) s = (false, s'))
    (hq : tryQueues (s'.readyQueues p) s' = (false, t)) : tryPriorities (p + 1) s = tryPriorities p t := by
  delta tryPriorities tryPriorities._f
  generalize tryContexts = contexts at hc ⊢
  generalize tryQueues = queues at hq ⊢
  dsimp only
  rw [hc]
  dsimp only
  rw [hq]

end

theorem tryPriorities_canon {s : State} (h : Memory.wf s.mem = true) (p : Nat) :
    Memory.wf (tryPriorities p s).mem = true := by
  induction p generalizing s with
  | zero => exact h
  | succ p ih =>
    rcases hc : tryContexts (s.waitingContexts p) s with ⟨placed, s'⟩
    have hs' : Memory.wf s'.mem = true := tryContexts_canon_of_eq hc h
    cases placed with
    | true =>
      rw [tryPriorities_context hc]
      exact hs'
    | false =>
      rcases hq : tryQueues (s'.readyQueues p) s' with ⟨placed, t⟩
      have ht : Memory.wf t.mem = true := tryQueues_canon_of_eq hq hs'
      cases placed with
      | true =>
        rw [tryPriorities_queue hc hq]
        exact ht
      | false =>
        rw [tryPriorities_succ hc hq]
        exact ih ht

theorem placeAll_canon {s : State} (h : Memory.wf s.mem = true) (n : Nat) : Memory.wf (placeAll n s).mem = true := by
  induction n generalizing s with
  | zero => exact h
  | succ n ih =>
    rw [placeAll]
    split
    · exact h
    · exact ih (tryPriorities_canon h 4)

theorem loadKernel_canon {s : State} (h : Memory.wf s.mem = true) (g : Nat) :
    Memory.wf (s.loadKernel g).mem = true := by
  unfold State.loadKernel
  dsimp only
  split
  next => exact h
  next hl =>
    have ht := load_canon hl h
    split <;> exact ht

theorem startQueued_canon {s : State} (h : Memory.wf s.mem = true) (g : Nat) :
    Memory.wf (s.startQueued g).mem = true := by
  have hstart : ∀ s' : State, s'.mem = s.mem → Memory.wf (s'.startKernel g).mem = true := fun s' hs' => startKernel_canon (by rwa [hs']) g
  unfold State.startQueued
  dsimp only
  split
  · refine nextHead_canon (hstart _ ?_) _ _
    split
    · exact foldl_mem (fun s u => State.showKnown_mem s _ u) _ s
    · rfl
  · refine hstart _ ?_
    split
    · exact foldl_mem (fun s u => State.showKnown_mem s _ u) _ s
    · rfl

theorem signalWrite_canon {s t : State} {m : Signal} {w : Act Unit} {x : Option Nat} (hw : s.signalWrite m w = some (t, x))
    (hk : KeepsMem w) (h : Memory.wf s.mem = true) : Memory.wf t.mem = true := by
  unfold State.signalWrite at hw
  split at hw
  next hr => cases hw; exact hk hr h
  next => cases hw; split <;> simp [h]
  next => cases hw; simp [h]
  next => cases hw
  next => cases hw; exact h

theorem releaseAfter_canon {s : State} (h : Memory.wf s.mem = true) (m : Signal) :
    Memory.wf (s.releaseAfter m).mem = true := by
  unfold State.releaseAfter
  split
  · split <;> simp [h]
  · exact h

@[simp] theorem recordEnded_canon {s : State} (h : Memory.wf s.mem = true) (m : Signal) :
    Memory.wf (s.recordEnded m).mem = true := by
  unfold State.recordEnded
  split
  · exact h
  · dsimp only
    split <;> simp [h]

theorem signalled_canon {s : State} (h : Memory.wf s.mem = true) (k : Nat) (m : Signal) :
    Memory.wf (s.signalled k m).mem = true := by
  unfold State.signalled
  dsimp only
  split
  · split <;> simp [h]
  · refine releaseAfter_canon ?_ m
    split <;> simp [h]

theorem performSignal_canon {s : State} (h : Memory.wf s.mem = true) (k n : Nat) :
    Memory.wf (performSignal k n s).mem = true := by
  induction n generalizing s with
  | zero => exact h
  | succ n ih =>
    rw [performSignal]
    split
    · exact h
    next m _ =>
      split
      · exact signalled_canon h k m
      · have hkeeps : KeepsMem (if m.stage = 0 then m.result else m.count) := .ite (signal_result_keeps m) (signal_count_keeps m)
        split
        next => exact h
        next hw =>
          have ht := signalWrite_canon hw hkeeps h
          exact ht
        next hw =>
          have ht := signalWrite_canon hw hkeeps h
          exact ih ht

/-! ## Queue words -/

theorem waitWord_canon {s : State} (h : Memory.wf s.mem = true) (f : Form) (n : Nat) :
    Memory.wf (waitWord f n s).mem = true := by
  unfold waitWord
  dsimp only
  split
  · simp [h]
  · refine coreAct_canon h (fun s v t hr hs => vnat_keeps _ _ _ _ hr (by simpa using hs)) (fun v s' hs' => ?_) n
    split <;> simp [hs', h]

theorem evsigWord_canon {s : State} (h : Memory.wf s.mem = true) (f : Form) (set : Bool) (n : Nat) :
    Memory.wf (evsigWord f set n s).mem = true := by
  unfold evsigWord
  dsimp only
  split
  · simp [h]
  · refine coreAct_canon h (fun s v t hr hs => ?_) (fun v s' hs' => by simp [hs']) n
    exact KeepsMem.andThen (vnat_keeps ..) (fun _ => .andThen (vput_keeps ..) fun _ => .ret _) hr (by simpa using hs)

theorem qpostWord_canon {s : State} (h : Memory.wf s.mem = true) (f : Form) (n : Nat) :
    Memory.wf (qpostWord f n s).mem = true := by
  unfold qpostWord
  dsimp only
  split
  · simp [h]
  · split
    · exact h
    · split
      · simp [h]
      · split
        · simp [h]
        · exact coreAct_canon h (vwrite_keeps ..) (fun v s' hs' => by simp [hs']) n

theorem launchWord_canon {s : State} (h : Memory.wf s.mem = true) (f : Form) (n : Nat) :
    Memory.wf (launchWord f n s).mem = true := by
  unfold launchWord
  dsimp only
  split
  · simp [h]
  · split
    · exact h
    · split
      · simp [h]
      · split
        · simp [h]
        · split
          · simp [h]
          · split
            next => exact h
            next hl =>
              have ht := load_canon hl (by simpa using h)
              split
              · simp [startKernel_canon ht]
              · simp [ht]

end Sys2Proof.Proofs
end

section
/-! PROOFS. Main memory stays canonical (R170, R375), sixth part: page words, context registers, links, adders and the start. -/

namespace Sys2Proof.Proofs

open Sys2Proof Sys2Proof.Machine Sys2Proof.Claims

/-! ## Pages (R377, R378, R384 to R386) -/

@[simp] theorem physWrites_canon {s : State} (h : Memory.wf s.mem = true) (c : BitVec 8) (pa : Nat) (bs : List Byte) :
    Memory.wf (s.physWrites c pa bs).mem = true :=
  foldl_canon (fun _ _ hs => physPut_canon hs _ _ _ _) _ h

@[simp] theorem setEntry_canon {s : State} (h : Memory.wf s.mem = true) (c : BitVec 8) (epa e : Nat) :
    Memory.wf (s.setEntry c epa e).mem = true := physWrites_canon h ..

@[simp] theorem pageMapped_canon {s : State} (h : Memory.wf s.mem = true) (c : BitVec 8) (lo size : Nat) :
    Memory.wf (s.pageMapped c lo size).mem = true := by
  unfold State.pageMapped
  dsimp only
  refine foldl_canon (fun _ _ hs => testQueue_canon hs _) _ (retryDraws_canon ?_ _)
  rw [mapPorts_mem, foldl_mem]
  · simp [h]
  · intro s q
    split <;> simp

@[simp] theorem mapEntry_canon {s : State} (h : Memory.wf s.mem = true) (n : Nat) (f : Form) (lvl epa e : Nat) :
    Memory.wf (s.mapEntry n f lvl epa e).mem = true := by
  simp [State.mapEntry, h]

theorem mapWord_canon {go : Nat → State → State} {s : State} (h : Memory.wf s.mem = true)
    (hgo : ∀ epa s, Memory.wf s.mem = true → Memory.wf (go epa s).mem = true) (f : Form) (n lvl : Nat)
    (bad : Bool) : Memory.wf (mapWord f n lvl bad go s).mem = true := by
  unfold mapWord
  dsimp only
  split
  · simp [h]
  · split
    · exact h
    · split
      · simp [h]
      · simp [h]
      · simp [h]
      · split
        · simp [h]
        · split
          · exact h
          · exact hgo _ _ h

theorem mapPaWord_canon {s : State} (h : Memory.wf s.mem = true) (f : Form) (n : Nat) :
    Memory.wf (mapPaWord f n s).mem = true := by
  unfold mapPaWord
  dsimp only
  split
  · simp [h]
  · refine mapWord_canon h (fun epa s hs => ?_) f n _ _
    split
    · simp [hs]
    · split
      · exact hs
      · apply mapEntry_canon
        split
        · exact physWrites_canon hs ..
        · exact hs

theorem read_keeps {α : Type} (r : State → Except Stop α) : KeepsMem (fun s => (r s).map fun a => (a, s)) := by
  intro s v t h hs
  cases hr : r s with
  | ok a =>
    dsimp only at h
    rw [hr] at h
    cases h
    exact hs
  | error e =>
    dsimp only at h
    rw [hr] at h
    cases h

theorem takeFrame_canon {s : State} (h : Memory.wf s.mem = true) (f : Form) (n epa : Nat) (bs : List Byte) :
    Memory.wf (takeFrame f n epa bs s).mem = true := by
  unfold takeFrame
  extract_lets c x va cnt
  split
  · simp [h]
  · refine coreAct_canon h (read_keeps _) (fun p s hs => ?_) n
    split
    · exact hs
    · simp [hs]

theorem leafWord_canon {go : Page → State → State} {s : State} (h : Memory.wf s.mem = true)
    (hgo : ∀ p s, Memory.wf s.mem = true → Memory.wf (go p s).mem = true) (f : Form) (n : Nat) :
    Memory.wf (leafWord f n go s).mem = true := by
  unfold leafWord
  dsimp only
  split
  · simp [h]
  · split
    · simp [h]
    · split <;> simp [h]
    · split
      · exact h
      · exact hgo _ _ h

theorem unmapWord_canon {s : State} (h : Memory.wf s.mem = true) (f : Form) (n : Nat) :
    Memory.wf (unmapWord f n s).mem = true := by
  unfold unmapWord
  dsimp only
  split
  · split <;> simp [h]
  · split <;> simp [h]
  · refine leafWord_canon h (fun p s hs => ?_) f n
    split <;> simp [hs]

theorem unmapDclrWord_canon {s : State} (h : Memory.wf s.mem = true) (f : Form) (n : Nat) :
    Memory.wf (unmapDclrWord f n s).mem = true := by
  refine leafWord_canon h (fun p s hs => ?_) f n
  dsimp only
  split <;> simp [hs]

theorem foldl_mapSet_wf {α β : Type} [DecidableEq α] (d : α) (k : β → Nat) (v : β → α) (l : List β) {m : FMap α}
    (h : mapWf d m = true) : mapWf d (l.foldl (fun m x => mapSet d m (k x) (v x)) m) = true := by
  induction l generalizing m with
  | nil => exact h
  | cons x l ih => exact ih (mapSet_wf d m _ _ h)

@[simp] theorem copyFrame_canon {s : State} (h : Memory.wf s.mem = true) (a b n : Nat) :
    Memory.wf (s.copyFrame a b n).mem = true := by
  unfold State.copyFrame copyRange
  exact foldl_mapSet_wf (0 : Byte) (fun kv : Nat × Byte => kv.1 - a + b) (fun kv => kv.2) _ (filter_wf 0 _ _ h)

theorem migrStart_canon {s : State} (h : Memory.wf s.mem = true) (f : Form) (n : Nat) (p : Page) :
    Memory.wf (migrStart f n p s).mem = true := by
  unfold migrStart
  dsimp only
  split
  · simp [h]
  · split <;> simp [h]

theorem migrCopy_canon {s : State} (h : Memory.wf s.mem = true) (n va xb : Nat) (old : W64) :
    Memory.wf (migrCopy n va xb old s).mem = true := by
  unfold migrCopy
  dsimp only
  split
  · split <;> simp [h]
  · simp [h]

theorem migrWord_canon {s : State} (h : Memory.wf s.mem = true) (f : Form) (n : Nat) :
    Memory.wf (migrWord f n s).mem = true := by
  unfold migrWord
  dsimp only
  split
  · simp [h]
  · split
    · exact migrCopy_canon h _ _ _ _
    · simp [h]
    · exact leafWord_canon h (fun p s hs => migrStart_canon hs f n p) f n

/-! ## Context registers -/

theorem raiseSerain_canon {s : State} (h : Memory.wf s.mem = true) (c : Nat) (v : W64) :
    SomeCanon (s.raiseSerain c v) :=
  .ite .none (.some (by simp [h]))

theorem contextWrite_canon {s : State} (h : Memory.wf s.mem = true) (c a : Nat) (v : W64) :
    OkCanon (s.contextWrite c a v) := by
  unfold State.contextWrite
  dsimp only
  refine .ite (.ok (by split <;> simp [h])) (.ite (ccmd_canon h _ _) (.ite (.ite (.error _) (.ok (failPage_canon h _ _)))
    (.ite (.ok (by simp [h])) (.ite (.ok h) (.ite (.error _) (.ite ?_ (.ite (.ok (by simp [h])) (.ok (by simp [h])))))))))
  split
  next hr => exact .ok (raiseSerain_canon h _ _ hr)
  next => exact .error _

theorem syswrWord_canon {s : State} (h : Memory.wf s.mem = true) (f : Form) (n : Nat) :
    Memory.wf (syswrWord f n s).mem = true := by
  unfold syswrWord
  dsimp only
  split
  · split <;> simp [h]
  · split
    · split
      · simp [h]
      · split
        next hw => simp [contextWrite_canon h _ _ _ hw]
        next => simp [h]
    · simp [h]

/-! ## Links and adders -/

theorem outsideWrite_canon {s : State} (h : Memory.wf s.mem = true) (a : Agent) (pa : Nat) (bs : List Byte) :
    Memory.wf (outsideWrite a pa bs s).mem = true := by
  induction bs generalizing pa s with
  | nil => exact h
  | cons b bs ih =>
    refine ih ?_ (pa + 1)
    split
    · exact s.physWrite_wf _ _ _ _ h
    · exact h

theorem outsideAccess_canon {s : State} (h : Memory.wf s.mem = true) (path die : Nat) (a : Access) :
    Memory.wf (outsideAccess path die a s).mem = true := by
  unfold outsideAccess
  dsimp only
  split
  · exact h
  · split
    · exact outsideWrite_canon h _ _ _
    · simp [h]

theorem linkEvent_canon {go : Link → State → State} {s : State} (h : Memory.wf s.mem = true)
    (hgo : ∀ x s, Memory.wf s.mem = true → Memory.wf (go x s).mem = true) (l : Nat) :
    Memory.wf (linkEvent l go s).mem = true := by
  unfold linkEvent
  split
  · exact hgo _ _ h
  · exact h

theorem linkWordOf_canon {go : Nat → State → State} {s : State} (h : Memory.wf s.mem = true)
    (hgo : ∀ l s, Memory.wf s.mem = true → Memory.wf (go l s).mem = true) (f : Form) (n : Nat)
    (query : Bool) (bad : Nat → Bool) : Memory.wf (linkWordOf f n query bad go s).mem = true := by
  unfold linkWordOf
  dsimp only
  split
  · simp [h]
  · split
    · simp [h]
    · exact hgo _ _ h

theorem adderWord_canon {go : Nat → State → State} {s : State} (h : Memory.wf s.mem = true)
    (hgo : ∀ k s, Memory.wf s.mem = true → Memory.wf (go k s).mem = true) (f : Form) (n : Nat) :
    Memory.wf (adderWord f n go s).mem = true := by
  unfold adderWord
  dsimp only
  split
  · simp [h]
  · split
    · simp [h]
    · exact hgo _ _ h

theorem incoming_mem {s t : State} {k data : Nat} {a : Adder} {x : Option Nat} (hi : s.incoming k a data = some (x, t)) :
    t.mem = s.mem := by
  unfold State.incoming at hi
  split at hi
  · cases hi; rfl
  · split at hi
    · cases hi; rfl
    · split at hi
      · split at hi <;> cases hi
        rfl
      · cases hi

theorem beatStep_canon {s : State} (h : Memory.wf s.mem = true) (k data : Nat) :
    Memory.wf (beatStep k data s).mem = true := by
  unfold beatStep
  dsimp only
  split
  · exact h
  · split
    · simp [h]
    · split
      · exact h
      · split
        next => simp [h]
        next s₁ hr =>
          have h₁ := vnat_keeps _ _ _ _ hr h
          split
          next => exact h
          next inn s₂ hi =>
            have h₂ : Memory.wf s₂.mem = true := by
              rw [incoming_mem hi]
              exact h₁
            split
            · simp [h₂]
            · split
              next hw => simp [vput_keeps _ _ _ _ _ hw h₂]
              next => simp [h]

/-! ## The start (R403) -/

theorem plainStep_canon {go : State → State} {s : State} (h : Memory.wf s.mem = true)
    (hgo : ∀ s, Memory.wf s.mem = true → Memory.wf (go s).mem = true) (k : Nat) (units : List Nat) :
    Memory.wf ((plainStep k units go s).1).mem = true := by
  unfold plainStep
  split
  · simp [hgo s h]
  · simp [h]

theorem spareStep_canon {good bad : Nat → State → State} {s : State} (h : Memory.wf s.mem = true)
    (hgood : ∀ u s, Memory.wf s.mem = true → Memory.wf (good u s).mem = true)
   
    (hbad : ∀ u s, Memory.wf s.mem = true → Memory.wf (bad u s).mem = true) (k : Nat) (units : List Nat) : Memory.wf ((spareStep k units good bad s).1).mem = true := by
  have hrun : ∀ fails : List Nat, Memory.wf (units.foldl (fun s u => if fails.contains u then bad u s else good u s) s).mem = true := fun fails =>
    foldl_canon (fun s u hs => by
      split
      · exact hbad u s hs
      · exact hgood u s hs) _ h
  unfold spareStep
  extract_lets fails s'
  split
  · rw [modMgmt_mem]
    exact hrun _
  · generalize hfs : fails = fs
    cases fs <;> exact hrun _

theorem imageStep_canon {s : State} (h : Memory.wf s.mem = true) (k source : Nat) (m : StageImage) (good : Bool) :
    Memory.wf ((imageStep k source m good s).1).mem = true := by
  unfold imageStep; split <;> simp [h]

theorem memoryStep_canon {s : State} (h : Memory.wf s.mem = true) : Memory.wf ((memoryStep s).1).mem = true := by
  refine spareStep_canon (foldl_canon (fun s k hs => by simp [hs]) _ h) (fun _ _ hs => hs) (fun k s hs => by simp [hs]) _ _

theorem startStep_canon {s : State} (h : Memory.wf s.mem = true) (k : Nat) :
    Memory.wf ((startStep k s).1).mem = true := by
  unfold startStep
  split
  · exact imageStep_canon h _ _ _ _
  · exact plainStep_canon h (fun s hs => by simp [hs]) _ _
  · exact plainStep_canon h (fun s hs => foldl_canon (fun s l hs => by simp [hs]) _ hs) _ _
  · exact memoryStep_canon h
  · exact plainStep_canon h (fun s hs => by simp [hs]) _ _
  · exact plainStep_canon h (fun s hs => by simp [hs]) _ _
  · unfold hostLinkStep
    split
    · simp [h]
    · exact plainStep_canon h (fun s hs => by simp [hs]) _ _
  · exact spareStep_canon h (fun l s hs => by simp [hs]) (fun _ _ hs => hs) _ _
  · exact imageStep_canon h _ _ _ _
  · exact plainStep_canon h (fun s hs => by simp [hs]) _ _

theorem runSteps_canon {s : State} (h : Memory.wf s.mem = true) (ks : List Nat) :
    Memory.wf (runSteps ks s).mem = true := by
  induction ks generalizing s with
  | nil => exact h
  | cons k ks ih =>
    have hstep := startStep_canon h k
    rw [runSteps]
    split
    next hr =>
      rw [hr] at hstep
      exact ih hstep
    next hr =>
      rw [hr] at hstep
      simpa using hstep

end Sys2Proof.Proofs
end

section
/-! PROOFS. Main memory stays canonical, seventh part: the meanings of the instructions. -/

namespace Sys2Proof.Proofs

open Sys2Proof Sys2Proof.Machine Sys2Proof.Claims

/-- Where an answer is a next state, its main memory is canonical. -/
def NextCanon (a : Answer) : Prop := ∀ ⦃t⦄, a = .next t → Memory.wf t.mem = true

namespace NextCanon

variable {s : State}

theorem next {t : State} (h : Memory.wf t.mem = true) : NextCanon (.next t) := by
  rintro _ ⟨⟩
  exact h

theorem fault (r : Fault) : NextCanon (.fault r) := by
  rintro _ ⟨⟩

theorem onSlot {go : Firing → State → State} (h : Memory.wf s.mem = true) (hgo : ∀ fr, Memory.wf (go fr s).mem = true) :
    NextCanon (onSlot s go) := by
  unfold Machine.onSlot
  split
  · exact .next (hgo _)
  · exact .next (by simp [h])
  · exact .fault _

theorem onCore {go : Nat → State → State} (hgo : ∀ n, Memory.wf (go n s).mem = true) : NextCanon (onCore s go) := by
  unfold Machine.onCore
  split
  · exact .next (hgo _)
  · exact .fault _

theorem onBoth {slot : Firing → State → State} {core : Nat → State → State}
    (hslot : ∀ fr, Memory.wf (slot fr s).mem = true) (hcore : ∀ n, Memory.wf (core n s).mem = true) :
    NextCanon (onBoth s slot core) := by
  unfold Machine.onBoth
  split
  · exact .next (hslot _)
  · exact .next (hcore _)
  · exact .fault _

theorem onRequest {slot : Firing → State → State} {unit : Engine → Req → State → State} (h : Memory.wf s.mem = true)
    (hslot : ∀ fr, Memory.wf (slot fr s).mem = true)
    (hunit : ∀ e r, Memory.wf (unit e r s).mem = true) : NextCanon (onRequest s slot unit) := by
  unfold Machine.onRequest
  split
  · exact .next (hslot _)
  · exact .next (by simp [h])
  · exact .next (hunit _ _)
  · exact .fault _

theorem onAll {slot : Firing → State → State} {core : Nat → State → State} {unit : Engine → Req → State → State}
   
    (hslot : ∀ fr, Memory.wf (slot fr s).mem = true) (hcore : ∀ n, Memory.wf (core n s).mem = true) (hunit : ∀ e r, Memory.wf (unit e r s).mem = true) : NextCanon (onAll s slot core unit) := by
  unfold Machine.onAll
  split
  · exact .next (hslot _)
  · exact .next (hcore _)
  · exact .next (hunit _ _)
  · exact .fault _

theorem request {i : Instr} {unit : Engine → Req → State → State} (h : Memory.wf s.mem = true)
    (hunit : ∀ e r, Memory.wf (unit e r s).mem = true) :
    NextCanon (Machine.onRequest s (fun fr s => fr.sendRequest i s) unit) :=
  .onRequest h (fun fr => by simp [h]) hunit

theorem run {f : Form} {eval : Firing → W64 → State → State} (h : Memory.wf s.mem = true)
    (heval : ∀ fr tag s, (eval fr tag s).mem = s.mem) :
    NextCanon (Machine.onSlot s fun fr s => fr.run f (eval fr) s) :=
  .onSlot h fun fr => by rwa [firing_run_mem (heval fr)]

theorem tree {i : Instr} {go : Nat → Req → Act W64} (h : Memory.wf s.mem = true) (hgo : ∀ t r, KeepsMem (go t r)) :
    NextCanon (Machine.onRequest s (fun fr s => fr.sendRequest i s) (treeTurn go)) :=
  .request h (treeTurn_canon h hgo)

theorem boundary {i : Instr} {go : Nat → Req → Act W64} (h : Memory.wf s.mem = true) (hgo : ∀ t r, KeepsMem (go t r)) :
    NextCanon (boundary i go s) :=
  .request h (boundaryTurn_canon h hgo)

end NextCanon

variable {s : State}

/-! ## Words and firings -/

theorem arith_canon (h : Memory.wf s.mem = true) (f : Form) (opc : Nat) (op : W64 → W64 → W64 → W64 × Flags) :
    NextCanon (onBoth s (arithFire f op) (arithCore opc f op)) :=
  .onBoth (fun fr => by simp [h]) fun n => by simp [h]

theorem bit_canon (h : Memory.wf s.mem = true) (f : Form) (opc : Nat) (op : W64 → W64 → W64 → W64 × Flags) :
    NextCanon (onBoth s (bitFire f op) (arithCore opc f op)) :=
  .onBoth (fun fr => by simp [h]) fun n => by simp [h]

theorem execBr_canon (h : Memory.wf s.mem = true) (f : Form) : NextCanon (execBr f s) := .onCore fun n => by simp [h]
theorem execEret_canon (h : Memory.wf s.mem = true) (f : Form) :
    NextCanon (execEret f s) := .onCore fun n => by split <;> simp [h]
theorem execExit_canon (h : Memory.wf s.mem = true) (f : Form) :
    NextCanon (execExit f s) := .onCore fun n => by dsimp only; split <;> simp [h]
theorem execExitDiscard_canon (h : Memory.wf s.mem = true) (f : Form) :
    NextCanon (execExitDiscard f s) := .onCore fun n => by dsimp only; split <;> simp [h]
theorem execSbar_canon (h : Memory.wf s.mem = true) (f : Form) :
    NextCanon (execSbar f s) := .onCore fun n => by split <;> simp [h]
theorem execLd_canon (h : Memory.wf s.mem = true) (f : Form) : NextCanon (execLd f s) :=
  .onBoth (fun fr => by simp [h]) fun n => by
    have hact : Memory.wf (s.coreAct n (coreAccess n (.ld f) ((s.core n).reg (Form.xa f)) 0 0) fun v s => s.coreResult n f v).mem = true :=
      coreAct_canon h (coreAccess_keeps ..) (fun v s hs => by simp [hs]) n
    dsimp only
    split
    · split
      · simp [h]
      · exact hact
    · exact hact
theorem execSt_canon (h : Memory.wf s.mem = true) (f : Form) : NextCanon (execSt f s) :=
  .onBoth (fun fr => by simp [h]) fun n => coreAct_canon h (coreAccess_keeps ..) (fun v s hs => by simp [hs]) n
theorem execAtom_canon (h : Memory.wf s.mem = true) (f : Form) : NextCanon (execAtom f s) :=
  .onAll (fun fr => by simp [h]) (fun n => coreAct_canon h (coreAccess_keeps ..) (fun v s hs => by simp [hs]) n) fun e r => by simp [h]
theorem execLds_canon (h : Memory.wf s.mem = true) (f : Form) : NextCanon (execLds f s) :=
  .onAll (fun fr => by simp [h]) (fun n => by simp [h]) fun e r => by simp [h]
theorem execSts_canon (h : Memory.wf s.mem = true) (f : Form) : NextCanon (execSts f s) :=
  .onAll (fun fr => by simp [h]) (fun n => by simp [h]) fun e r => by simp [h]
theorem execLkup_canon (h : Memory.wf s.mem = true) (f : Form) :
    NextCanon (execLkup f s) := .request h (tableTurn_canon h fun _ _ _ => rfl)
theorem execTtset_canon (h : Memory.wf s.mem = true) (f : Form) : NextCanon (execTtset f s) :=
  .onRequest h (fun fr => by simp [h]) (tableTurn_canon h fun _ _ _ => by simp)
theorem execTtinv_canon (h : Memory.wf s.mem = true) (f : Form) : NextCanon (execTtinv f s) :=
  .onRequest h (fun fr => by simp [h]) (tableTurn_canon h fun _ _ _ => by dsimp only; split <;> simp)
theorem execFeq_canon (h : Memory.wf s.mem = true) (f : Form) :
    NextCanon (execFeq f s) := .onRequest h (fun fr => by simp [h]) fun e r => by simp [h]
theorem execFeset_canon (h : Memory.wf s.mem = true) (f : Form) :
    NextCanon (execFeset f s) := .onRequest h (fun fr => by simp [h]) fun e r => by simp [h]
theorem execFence_canon (h : Memory.wf s.mem = true) (f : Form) :
    NextCanon (execFence f s) := .onBoth (fun fr => by simp [h]) fun n => by simp [h]
theorem execXfence_canon (h : Memory.wf s.mem = true) (f : Form) : NextCanon (execXfence f s) :=
  .onBoth (fun fr => by simp [h]) fun n => by
    dsimp only
    split <;> simp [h]

/-! ## The ring port and the matrix engine -/

theorem ringDefine_mem {f : Form} {t : Nat} {s s' : State} (hd : ringDefine f t s = .ok s') : s'.mem = s.mem := by
  unfold ringDefine at hd
  dsimp only at hd
  split at hd
  · cases hd
  · split at hd
    · cases hd; rfl
    · split at hd
      · cases hd
      · cases hd; rfl

theorem ringReserve_mem {f : Form} {t key : Nat} {s s' : State} {v : W64} (hr : ringReserve f t key s = .ok (v, s')) :
    s'.mem = s.mem := by
  unfold ringReserve at hr
  dsimp only at hr
  split at hr
  · cases hr
  · split at hr
    · cases hr
    · cases hr; rfl

theorem execRing_canon (h : Memory.wf s.mem = true) (f : Form) : NextCanon (execRing f s) :=
  .onAll (fun fr => firing_port_canon h (fun s v t hop => by
    cases hd : ringDefine f fr.tile s with
    | ok s' =>
      rw [hd] at hop
      cases hop
      exact ringDefine_mem hd
    | error code =>
      rw [hd] at hop
      cases hop) fr f) (fun n => by simp [h]) fun e r => by simp [h]
theorem execRcommitRsv_canon (h : Memory.wf s.mem = true) (f : Form) : NextCanon (execRcommitRsv f s) :=
  .onSlot h fun fr => firing_port_canon h (fun _ _ _ hop => ringReserve_mem hop) fr f
theorem execRcommitRsvw_canon (h : Memory.wf s.mem = true) (f : Form) : NextCanon (execRcommitRsvw f s) :=
  .onSlot h fun fr => by
    have hport := firing_port_canon h (fun _ _ _ hop => ringReserve_mem hop) (op := ringReserve f fr.tile (waitSlot fr.elem fr.slot)) fr f
    dsimp only
    split
    · rw [modRing_mem]
      exact hport
    · exact hport
theorem slotOp_mem {r : Ring} {l v : W64} {st : RingSlot} {g : Nat → W64} {s : State} {k : Nat → State} {t : State}
    (hk : ∀ n, (k n).mem = s.mem)
    (hop : (match r.slotOf l with
      | none => .error fcIllegal
      | some n => if r.slot n = st then .ok (g n, k n) else .error fcIllegal : Except Nat (W64 × State)) = .ok (v, t)) : t.mem = s.mem := by
  split at hop
  · cases hop
  · split at hop
    · cases hop
      exact hk _
    · cases hop
theorem execRcommitPub_canon (h : Memory.wf s.mem = true) (f : Form) : NextCanon (execRcommitPub f s) :=
  .onSlot h fun fr => firing_port_canon h (fun s _ _ hop => slotOp_mem (fun n => publish_mem s fr.tile (modRingNo f) n) hop) fr f
theorem execRpop_canon (h : Memory.wf s.mem = true) (f : Form) : NextCanon (execRpop f s) :=
  .onSlot h fun fr => firing_port_canon h (fun s _ _ hop => slotOp_mem (fun n => modRing_mem s fr.tile (modRingNo f) fun r => r.retire n) hop) fr f
theorem execRcommitTail_canon (h : Memory.wf s.mem = true) (f : Form) : NextCanon (execRcommitTail f s) :=
  .onSlot h fun fr => firing_port_canon h (fun s v t hop => by
    dsimp only at hop
    split at hop
    · cases hop
    next hr =>
      cases hop
      rw [publish_mem]
      exact ringReserve_mem hr) fr f
theorem execRstatRing_canon (h : Memory.wf s.mem = true) (f : Form) : NextCanon (execRstatRing f s) :=
  .onAll (fun fr => firing_port_canon h (fun s v t hop => by cases hop; rfl) fr f) (fun n => by simp [h]) fun e r => by simp [h]
theorem execRstatEng_canon (h : Memory.wf s.mem = true) (f : Form) : NextCanon (execRstatEng f s) :=
  .onAll (fun fr => by simp [h]) (fun n => by simp [h]) (matrixTurn_canon h fun _ _ => .andThen (.look _) fun _ => .ret _)
theorem execRstatEngclr_canon (h : Memory.wf s.mem = true) (f : Form) : NextCanon (execRstatEngclr f s) :=
  .onAll (fun fr => by simp [h]) (fun n => by simp [h])
    (matrixTurn_canon h fun _ _ => .andThen (.look _) fun _ => .andThen (.change fun _ => by simp) fun _ => .ret _)
theorem execMma_canon (h : Memory.wf s.mem = true) (f : Form) : NextCanon (execMma f s) :=
  .onAll (fun fr => by simp [h]) (fun n => by simp [h]) (productTurn_canon h fun _ _ _ _ _ => by simp)
theorem execMmas_canon (h : Memory.wf s.mem = true) (f : Form) : NextCanon (execMmas f s) :=
  .onRequest h (fun fr => by
    split
    · split <;> simp [h]
    · simp [h]) (productTurn_canon h fun _ _ _ _ _ => by simp)
theorem execAccz_canon (h : Memory.wf s.mem = true) (f : Form) : NextCanon (execAccz f s) :=
  .onAll (fun fr => by simp [h]) (fun n => by simp [h]) (matrixTurn_canon h (acczEngine_keeps f))
theorem execAccrd_canon (h : Memory.wf s.mem = true) (f : Form) : NextCanon (execAccrd f s) :=
  .onAll (fun fr => by simp [h]) (fun n => by simp [h]) (ringTurn_canon h (accrdEngine_keeps f))

/-! ## Firings -/

theorem execScaleApply_canon (h : Memory.wf s.mem = true) (f : Form) : NextCanon (execScaleApply f s) :=
  .onSlot h fun fr => seekScale_canon (by
    rw [firing_run_mem fun tag s => by split <;> simp]
    exact h) ..
theorem execSpawn_canon (h : Memory.wf s.mem = true) (f : Form) :
    NextCanon (execSpawn f s) := .onSlot h fun fr => spawnFire_canon h f fr
theorem execMktag_canon (h : Memory.wf s.mem = true) (f : Form) : NextCanon (execMktag f s) :=
  .onBoth (fun fr => by
    rw [firing_run_mem fun tag s => by split <;> simp]
    exact h) fun n => by
    dsimp only
    split <;> simp [h]
theorem execColq_canon (h : Memory.wf s.mem = true) (f : Form) :
    NextCanon (execColq f s) := .onBoth (fun fr => by simp [h]) fun n => by simp [h]

/-! ## Streams -/

theorem execOpen_canon (h : Memory.wf s.mem = true) (i : Instr) :
    NextCanon (onAll s (fun fr s => fr.sendRequest i s) (coreOpen i) (portCommand portOpen)) :=
  .onAll (fun fr => by simp [h]) (fun n => by simp [h]) (portCommand_canon h fun _ _ _ _ _ hs => by simp [hs])
theorem execClose_canon (h : Memory.wf s.mem = true) (i : Instr) (cut : Bool) :
    NextCanon (onAll s (fun fr s => fr.sendRequest i s) (corePort i) (portCommand (portClose cut))) :=
  .onAll (fun fr => by simp [h]) (fun n => by simp [h]) (portCommand_canon h fun e t p r _ hs => portClose_canon hs cut e t p r)
theorem execSwait_canon (h : Memory.wf s.mem = true) (f : Form) : NextCanon (execSwait f s) :=
  .onAll (fun fr => by simp [h]) (fun n => by simp [h]) (portCommand_canon h fun _ _ _ _ _ hs => by simp [hs])

/-! ## Pages, groups, configuration -/

theorem execMapZero_canon (h : Memory.wf s.mem = true) (f : Form) : NextCanon (execMapZero f s) :=
  .onCore fun n => mapWord_canon h (fun epa s hs => by
    split
    · simp [hs]
    · exact takeFrame_canon hs ..) ..
theorem execMapCopy_canon (h : Memory.wf s.mem = true) (f : Form) : NextCanon (execMapCopy f s) :=
  .onCore fun n => mapWord_canon h (fun epa s hs => by
    dsimp only
    split
    · simp [hs]
    · exact coreAct_canon hs (vread_keeps ..) (fun bs s hs => takeFrame_canon hs ..) n) ..
theorem execBarinitFree_canon (h : Memory.wf s.mem = true) (f : Form) : NextCanon (execBarinitFree f s) :=
  .onCore fun n => barinitEntry_canon h (fun a b s hs => by
    split
    · simp [hs]
    · split <;> simp [hs]) ..
theorem execBarinitQuery_canon (h : Memory.wf s.mem = true) (f : Form) : NextCanon (execBarinitQuery f s) :=
  .onCore fun n => barinitEntry_canon h (fun a b s hs => by simp [hs]) ..
theorem execCfgw_canon (h : Memory.wf s.mem = true) (f : Form) : NextCanon (execCfgw f s) :=
  .onCore fun n => withAddr_canon h (fun a s hs => by
    dsimp only
    split
    next t ht => simp [cfgWrite_canon hs _ _ ht]
    next => simp [hs]) ..
theorem execCfgr_canon (h : Memory.wf s.mem = true) (f : Form) : NextCanon (execCfgr f s) :=
  .onCore fun n => withAddr_canon h (fun a s hs => by simp [hs]) ..
theorem execCfgclrTile_canon (h : Memory.wf s.mem = true) (f : Form) : NextCanon (execCfgclrTile f s) :=
  .onCore fun n => withAddr_canon h (fun a s hs => by split <;> simp [hs]) ..
theorem execCfgclrElem_canon (h : Memory.wf s.mem = true) (f : Form) : NextCanon (execCfgclrElem f s) :=
  .onCore fun n => withAddr_canon h (fun a s hs => by split <;> simp [hs]) ..
theorem execBkptRes_canon (h : Memory.wf s.mem = true) (f : Form) : NextCanon (execBkptRes f s) :=
  .onCore fun n => withAddr_canon h (fun a s hs => by split <;> simp [hs]) ..
theorem bkptWrite_canon (h : Memory.wf s.mem = true) (f : Form) (v : Core → W64 × W64) : NextCanon (bkptWrite f v s) :=
  .onCore fun n => withAddr_canon h (fun a s hs => by simp [hs]) ..
theorem execSigchk_canon (h : Memory.wf s.mem = true) (f : Form) : NextCanon (execSigchk f s) :=
  .onCore fun n => by
    dsimp only
    split <;> simp [h]
theorem execDgst_canon (h : Memory.wf s.mem = true) (f : Form) : NextCanon (execDgst f s) :=
  .onCore fun n => by
    dsimp only
    split
    · simp [h]
    · exact coreAct_canon h (vread_keeps ..) (fun bs s hs => by simp [hs]) n
theorem execCrcMem_canon (h : Memory.wf s.mem = true) (f : Form) : NextCanon (execCrcMem f s) :=
  .onCore fun n => by
    dsimp only
    split <;> simp [h]
theorem execCrcTile_canon (h : Memory.wf s.mem = true) (f : Form) :
    NextCanon (execCrcTile f s) := .onCore fun n => by simp [h]

/-! ## Links -/

theorem execLnkcfgQuery_canon (h : Memory.wf s.mem = true) (f : Form) : NextCanon (execLnkcfgQuery f s) :=
  .onCore fun n => linkWordOf_canon h (fun l s hs => by simp [hs]) ..
theorem execLnkcfgTrain_canon (h : Memory.wf s.mem = true) (f : Form) : NextCanon (execLnkcfgTrain f s) :=
  .onCore fun n => linkWordOf_canon h (fun l s hs => by
    dsimp only
    split
    · simp [hs]
    · split <;> simp [hs]) ..
theorem execLnkcfgDown_canon (h : Memory.wf s.mem = true) (f : Form) : NextCanon (execLnkcfgDown f s) :=
  .onCore fun n => linkWordOf_canon h (fun l s hs => by
    dsimp only
    split
    · simp [hs]
    · split <;> simp [hs]) ..
theorem execLnkcfgRatio_canon (h : Memory.wf s.mem = true) (f : Form) : NextCanon (execLnkcfgRatio f s) :=
  .onCore fun n => linkWordOf_canon h (fun l s hs => by
    extract_lets ks r lend asked s'
    have hasked : Memory.wf s'.mem = true := by
      unfold s'
      split
      · exact hs
      · rw [foldl_mem fun s k => askLane_mem s n r lend k]
        exact hs
    split <;> simp [hasked]) ..
theorem execLnkaddStat_canon (h : Memory.wf s.mem = true) (f : Form) : NextCanon (execLnkaddStat f s) :=
  .onCore fun n => adderWord_canon h (fun k s hs => by simp [hs]) ..
theorem execLnkaddCancel_canon (h : Memory.wf s.mem = true) (f : Form) : NextCanon (execLnkaddCancel f s) :=
  .onCore fun n => adderWord_canon h (fun k s hs => by simp [hs]) ..

end Sys2Proof.Proofs
end

section
/-! PROOFS. Main memory stays canonical, eighth part: the meanings of the events. -/

namespace Sys2Proof.Proofs

open Sys2Proof Sys2Proof.Machine Sys2Proof.Claims

variable {s : State}

/-! ## Events of cores, elements and tokens -/

theorem execWaveLinkAck_canon (h : Memory.wf s.mem = true) (pick : Nat) :
    NextCanon (execWaveLinkAck pick s) := .next (by
  split
  · exact h
  · split
    next m _ _ =>
      have hlink : Memory.wf (s.recordLink m).mem = true := by
        unfold State.recordLink
        simp [h]
      exact hlink
    · exact h)
theorem execIllegalWord_canon (h : Memory.wf s.mem = true) (core : Nat) :
    NextCanon (execIllegalWord core s) := .next (by split <;> simp [h])
theorem execAddressBreakpoint_canon (h : Memory.wf s.mem = true) (core : Nat) :
    NextCanon (execAddressBreakpoint core s) := .next (by simp [h])
theorem execHandlerEntry_canon (h : Memory.wf s.mem = true) (core : Nat) :
    NextCanon (execHandlerEntry core s) := .next (by simp [h])
theorem execOutputQueueDrain_canon (h : Memory.wf s.mem = true) (tile elem : Nat) :
    NextCanon (execOutputQueueDrain tile elem s) := .next (by
  split
  · exact h
  · split
    · exact h
    · split
      · simp [h]
      · split
        · exact h
        next t ht =>
          have hs : Memory.wf t.mem = true := sendItem_canon h _ _ _ _ ht
          simp [hs])
theorem execTokenArrival_canon (h : Memory.wf s.mem = true) (tile elem pick : Nat) :
    NextCanon (execTokenArrival tile elem pick s) := .next (by split <;> simp [h])
theorem execPullBack_canon (h : Memory.wf s.mem = true) (tile elem : Nat) :
    NextCanon (execPullBack tile elem s) := .next (by split <;> simp [h])
theorem execOverflowRefill_canon (h : Memory.wf s.mem = true) (tile elem bucket : Nat) :
    NextCanon (execOverflowRefill tile elem bucket s) := .next (by
  dsimp only
  split
  · exact h
  · split <;> simp [h])
theorem execMarkerAction_canon (h : Memory.wf s.mem = true) (tile elem : Nat) :
    NextCanon (execMarkerAction tile elem s) := .next (by
  split
  · exact h
  · split <;> simp [h])
theorem execSlotBreakpointMatch_canon (h : Memory.wf s.mem = true) (tile elem : Nat) :
    NextCanon (execSlotBreakpointMatch tile elem s) := .next (by
  split
  · exact h
  · split <;> simp [h])
theorem execEdgeResizeDone_canon (h : Memory.wf s.mem = true) (tile edge : Nat) :
    NextCanon (execEdgeResizeDone tile edge s) := .next (by
  dsimp only
  split <;> simp [h])
theorem execMailboxDeliver_canon (h : Memory.wf s.mem = true) (core pick : Nat) :
    NextCanon (execMailboxDeliver core pick s) := .next (by
  split
  · exact h
  · split
    · exact h
    · dsimp only
      split
      · simp [h]
      · simp [h])
theorem execRoundNotice_canon (h : Memory.wf s.mem = true) (pick : Nat) :
    NextCanon (execRoundNotice pick s) := .next (by
  split
  · exact h
  · simp [h])
theorem execCommandIssue_canon (h : Memory.wf s.mem = true) (core pick : Nat) :
    NextCanon (execCommandIssue core pick s) := .next (by split <;> simp [h])
theorem execWaitTimeout_canon (h : Memory.wf s.mem = true) (core : Nat) :
    NextCanon (execWaitTimeout core s) := .next (by
  dsimp only
  split <;> simp [h])

/-! ## Events of requests -/

theorem execRequestTranslate_canon (h : Memory.wf s.mem = true) (req : Nat) :
    NextCanon (execRequestTranslate req s) := .next (by split <;> simp [h])
theorem execOrderClear_canon (h : Memory.wf s.mem = true) (req : Nat) :
    NextCanon (execOrderClear req s) := .next (by split <;> simp [h])
theorem execFenceWPassed_canon (h : Memory.wf s.mem = true) (req : Nat) :
    NextCanon (execFenceWPassed req s) := .next (by split <;> simp [h])
theorem execRequestComplete_canon (h : Memory.wf s.mem = true) (req : Nat) :
    NextCanon (execRequestComplete req s) := .next (by
  split
  · exact h
  next m _ =>
    split
    · simp [h]
    · have hdone := reqPerform_canon h m
      split
      · exact h
      · split
        · simp [h]
        · split
          · simp [h]
          · simp [hdone])

/-! ## Events of streams and circuits -/

theorem readIndex_canon {t : State} {tile port row v : Nat} (hr : s.readIndex tile port row = .ok (v, t))
    (h : Memory.wf s.mem = true) :
    Memory.wf t.mem = true := by
  unfold State.readIndex at hr
  dsimp only at hr
  split at hr
  next hv =>
    cases hr
    exact vnat_keeps _ _ _ _ hv h
  · cases hr
theorem execStreamLatchDone_canon (h : Memory.wf s.mem = true) (tile port : Nat) :
    NextCanon (execStreamLatchDone tile port s) := .next (by
  dsimp only
  split
  · exact h
  · split
    · simp [h]
    · split <;> simp [h])
theorem execStreamRowComplete_canon (h : Memory.wf s.mem = true) (tile port row : Nat) :
    NextCanon (execStreamRowComplete tile port row s) :=
  .next (rowRetry_canon h (by
    dsimp only
    split
    · exact h
    · split
      · exact h
      · split
        · exact h
        · exact runRow_canon h (fun a s hs => by simp [hs]) ..) ..)
theorem execGatherRowComplete_canon (h : Memory.wf s.mem = true) (tile port row : Nat) :
    NextCanon (execGatherRowComplete tile port row s) :=
  .next (rowRetry_canon h (by
    dsimp only
    split
    · exact h
    · split
      · simp [h]
      · simp [h]
      · simp [h]
      · exact h
      next idx t ht =>
        have hs : Memory.wf t.mem = true := readIndex_canon ht h
        split
        · simp [hs]
        · exact runRow_canon hs (fun a s hs => by simp [hs]) ..) ..)
theorem execPortRelatch_canon (h : Memory.wf s.mem = true) (tile port : Nat) :
    NextCanon (execPortRelatch tile port s) := .next (by
  extract_lets x
  split
  · exact h
  · extract_lets base size migrating s₁ s₂
    have hs : Memory.wf s₂.mem = true := by
      unfold s₂
      have hs₁ : Memory.wf s₁.mem = true := by simp [s₁, h]
      split
      · split
        dsimp only
        split <;> simp [hs₁]
      · exact hs₁
    split
    · exact h
    · simp [hs])
theorem execCircuitGranule_canon (h : Memory.wf s.mem = true) (tile circuit : Nat) :
    NextCanon (execCircuitGranule tile circuit s) := .next (by
  dsimp only
  split <;> simp [h])

/-! ## Events of contexts -/

theorem execBarrierArrival_canon (h : Memory.wf s.mem = true) (pick : Nat) :
    NextCanon (execBarrierArrival pick s) := .next (by
  split
  · exact h
  · dsimp only
    split
    · exact h
    · split
      · simp [h]
      · split <;> simp [h])
theorem execZeroingDone_canon (h : Memory.wf s.mem = true) (tile : Nat) :
    NextCanon (execZeroingDone tile s) := .next (by
  split
  · exact h
  · have hclosed := closePorts_canon h tile
    dsimp only
    split
    · simp [hclosed]
    · exact hclosed)
theorem execContextReclaimed_canon (h : Memory.wf s.mem = true) (ctx : Nat) :
    NextCanon (execContextReclaimed ctx s) := .next (by split <;> simp [h])
theorem execFaultAppend_canon (h : Memory.wf s.mem = true) (pick : Nat) :
    NextCanon (execFaultAppend pick s) := .next (by
  split
  · exact h
  · split
    · exact h
    · exact append_canon h ..)
theorem execColourDeadlock_canon (h : Memory.wf s.mem = true) (ctx : Nat) :
    NextCanon (execColourDeadlock ctx s) := .next (by
  dsimp only
  split <;> simp [h])
theorem execSerain_canon (h : Memory.wf s.mem = true) (ctx : Nat) :
    NextCanon (execSerain ctx s) := .next ((raiseSerain_canon h ..).getD h)
theorem execDrainComplete_canon (h : Memory.wf s.mem = true) (ctx : Nat) :
    NextCanon (execDrainComplete ctx s) := .next (by
  dsimp only
  split
  · exact save_canon h ..
  · exact h)
theorem execDrainTimeout_canon (h : Memory.wf s.mem = true) (ctx : Nat) :
    NextCanon (execDrainTimeout ctx s) := .next (by simp [h])
theorem execHardSave_canon (h : Memory.wf s.mem = true) (ctx : Nat) : NextCanon (execHardSave ctx s) := .next (by
  split
  · exact h
  · split
    · exact save_canon h ..
    · exact h)

/-! ## Events of queues and kernels -/

theorem execQueueHeadTest_canon (h : Memory.wf s.mem = true) (ctx queue : Nat) :
    NextCanon (execQueueHeadTest ctx queue s) := .next (by split <;> simp [h])
theorem execKernelLoad_canon (h : Memory.wf s.mem = true) (group : Nat) :
    NextCanon (execKernelLoad group s) := .next (by
  split
  · exact loadKernel_canon h _
  · exact h)
theorem execKernelStart_canon (h : Memory.wf s.mem = true) (group : Nat) :
    NextCanon (execKernelStart group s) := .next (by
  split
  · exact startQueued_canon h _
  · exact h)
theorem execKernelEnd_canon (h : Memory.wf s.mem = true) (group : Nat) : NextCanon (execKernelEnd group s) := .next (by
  split
  · exact endKernel_canon h _
  · exact h)
theorem execPreemptBudgetExpiry_canon (h : Memory.wf s.mem = true) (ctx queue : Nat) :
    NextCanon (execPreemptBudgetExpiry ctx queue s) := by
  unfold execPreemptBudgetExpiry
  extract_lets s'
  have hs : Memory.wf s'.mem = true := by
    unfold s'
    split
    · exact h
    · exact placeAll_canon h _
  refine .next ?_
  split
  · split
    · split
      · exact preempt_canon (by simp [hs]) ..
      · exact hs
    · exact hs
  · exact hs
theorem execKernelSignal_canon (h : Memory.wf s.mem = true) (group : Nat) :
    NextCanon (execKernelSignal group s) := .next (by
  dsimp only
  split
  · exact h
  · split
    · exact h
    · exact performSignal_canon (by simp [h]) ..)

/-! ## Events of links and of the device -/

theorem execLinkTrained_canon (h : Memory.wf s.mem = true) (link : Nat) : NextCanon (execLinkTrained link s) :=
  .next (linkEvent_canon h (fun x s hs => by simp [hs]) _)
theorem execLinkTrainFailed_canon (h : Memory.wf s.mem = true) (link : Nat) : NextCanon (execLinkTrainFailed link s) :=
  .next (linkEvent_canon h (fun x s hs => by simp [hs]) _)
theorem execFlitReplay_canon (h : Memory.wf s.mem = true) (link : Nat) : NextCanon (execFlitReplay link s) :=
  .next (linkEvent_canon h (fun x s hs => by simp [hs]) _)
theorem execRetrainDone_canon (h : Memory.wf s.mem = true) (link : Nat) : NextCanon (execRetrainDone link s) :=
  .next (linkEvent_canon h (fun x s hs => by simp [hs]) _)
theorem execHostAccess_canon (h : Memory.wf s.mem = true) (access : Access) :
    NextCanon (execHostAccess access s) := .next (by
  split
  · exact h
  · split
    · split <;> simp [h]
    · have hout := outsideAccess_canon h pathH 0 access
      split
      · split
        · exact hout
        · exact h
      · split
        · exact hout
        · exact h)
theorem execPeerAccess_canon (h : Memory.wf s.mem = true) (access : Access) :
    NextCanon (execPeerAccess access s) := .next (by
  dsimp only
  split
  · exact outsideAccess_canon h ..
  · exact h)
theorem execLaneLend_canon (h : Memory.wf s.mem = true) (pc : Nat) :
    NextCanon (execLaneLend pc s) := .next (by simp [h])
theorem execLaneReclaim_canon (h : Memory.wf s.mem = true) (pc : Nat) :
    NextCanon (execLaneReclaim pc s) := .next (by simp [h])
theorem execLaneHandshakeDone_canon (h : Memory.wf s.mem = true) (pc : Nat) :
    NextCanon (execLaneHandshakeDone pc s) := .next (by simp [h])
theorem execRefreshDue_canon (h : Memory.wf s.mem = true) (pc bank : Nat) :
    NextCanon (execRefreshDue pc bank s) := .next (by simp [h])
theorem execActivationAlert_canon (h : Memory.wf s.mem = true) (pc bank : Nat) :
    NextCanon (execActivationAlert pc bank s) := .next (by simp [h])
theorem execAdderAbort_canon (h : Memory.wf s.mem = true) (adder : Nat) :
    NextCanon (execAdderAbort adder s) := .next (by
  dsimp only
  split
  · exact h
  · split
    · simp [h]
    · split <;> simp [h])
theorem execPowerUp_canon (h : Memory.wf s.mem = true) : NextCanon (execPowerUp s) := .next (by
  split
  · exact h
  · exact runSteps_canon (by simp [h]) _)
theorem execPowerLoss_canon (s : State) : NextCanon (execPowerLoss s) := .next resetMemoryCanonical
theorem execPatrolScrub_canon (h : Memory.wf s.mem = true) (address : Nat) :
    NextCanon (execPatrolScrub address s) := .next (by simp [h])
theorem execSramScrub_canon (h : Memory.wf s.mem = true) (unit : Nat) :
    NextCanon (execSramScrub unit s) := .next (by simp [h])

end Sys2Proof.Proofs
end

section
/-! PROOFS. Main memory stays canonical, last part: an instruction, the choice of the work, and the step. -/

namespace Sys2Proof.Proofs

open Sys2Proof Sys2Proof.Machine Sys2Proof.Claims

variable {s : State}

theorem execSink_canon (h : Memory.wf s.mem = true) (f : Form) : NextCanon (execSink f s) := .onSlot h fun _ => h

theorem jumpWord_canon (h : Memory.wf s.mem = true) (target : Nat → State → Int) (link : Nat → State → Core → Core) :
    NextCanon (onCore s fun n s => s.jump n (target n s) (link n s)) :=
  .onCore fun n => by simp [h]
theorem execJmp_canon (h : Memory.wf s.mem = true) (f : Form) : NextCanon (execJmp f s) :=
  jumpWord_canon h (fun n s => jumpTarget f (s.core n)) fun _ _ => id
theorem execCall_canon (h : Memory.wf s.mem = true) (f : Form) : NextCanon (execCall f s) :=
  jumpWord_canon h (fun n s => jumpTarget f (s.core n)) fun n s c => c.setReg (Form.xd f) (BitVec.ofNat 64 ((s.core n).pc.toNat + 1))
theorem execRet_canon (h : Memory.wf s.mem = true) (f : Form) : NextCanon (execRet f s) :=
  jumpWord_canon h (fun n s => ((s.core n).reg (Form.xa f)).toNat) fun _ _ => id

/-- Every instruction and every event leaves main memory canonical. -/
theorem exec_canon (h : Memory.wf s.mem = true) (i : Instr) : NextCanon (exec i s) := by
  cases i with
  | add f | sub f | mul f | mulh f | mad f | div f | rem f | neg f | abs f | min f | max f | cmp f | ext f | agen f | sat f
  | fadd f | fsub f | fmul f | fma f | fmin f | fmax f | fabs f | fneg f | fcmp f | fclass f | frcp f | frsq f | fsqrt f
  | fexp2 f | flog2 f | fdiv f | cvt f | frnd f | vdot f | vsum f | vpack f | vunpk f => unfold exec; exact arith_canon h f _ _
  | and f | or f | xor f | not f | shl f | shr f | sar f | rot f | clz f | popc f | bfx f | bfi f | vshuf f => unfold exec; exact bit_canon h f _ _
  | pass f | const f | steer f | merge f | select f | gate f | mark f | assert f | reconf f | probe f | trap f | popt f | pusht f
  | setit f | gettag f | red f | reord f | scaleSend f | bararrTok f | bararrRnd f => unfold exec; exact .run h fun fr tag s => by simp
  | tsize f => unfold exec; exact .run h fun fr tag s => by split <;> simp
  | sink f => exact execSink_canon h f
  | rndq f | align f | count f | alloc f | iter f | free f | returnTok f | pref f => unfold exec; exact .onSlot h fun fr => by simp [h]
  | scaleApply f => exact execScaleApply_canon h f
  | spawn f => exact execSpawn_canon h f
  | mktag f => exact execMktag_canon h f
  | colq f => exact execColq_canon h f
  | jmp f => exact execJmp_canon h f
  | call f => exact execCall_canon h f
  | ret f => exact execRet_canon h f
  | take f | inj f | sysrd f | bararr f | barinitAlloc f | gbind f | lnkaddStart f =>
    unfold exec
    exact .onCore fun n => by simp [h]
  | br f => exact execBr_canon h f
  | eret f => exact execEret_canon h f
  | exit f => exact execExit_canon h f
  | exitDiscard f => exact execExitDiscard_canon h f
  | sbar f => exact execSbar_canon h f
  | ld f => exact execLd_canon h f
  | st f => exact execSt_canon h f
  | atom f => exact execAtom_canon h f
  | lds f => exact execLds_canon h f
  | sts f => exact execSts_canon h f
  | lkup f => exact execLkup_canon h f
  | ttset f => exact execTtset_canon h f
  | ttinv f => exact execTtinv_canon h f
  | feq f => exact execFeq_canon h f
  | feset f => exact execFeset_canon h f
  | fence f => exact execFence_canon h f
  | xfence f => exact execXfence_canon h f
  | ring f => exact execRing_canon h f
  | rcommitRsv f => exact execRcommitRsv_canon h f
  | rcommitRsvw f => exact execRcommitRsvw_canon h f
  | rcommitPub f => exact execRcommitPub_canon h f
  | rcommitTail f => exact execRcommitTail_canon h f
  | rpop f => exact execRpop_canon h f
  | rstatRing f => exact execRstatRing_canon h f
  | rstatEng f => exact execRstatEng_canon h f
  | rstatEngclr f => exact execRstatEngclr_canon h f
  | mma f => exact execMma_canon h f
  | mmas f => exact execMmas_canon h f
  | accz f => exact execAccz_canon h f
  | accrd f => exact execAccrd_canon h f
  | nzscan f | xsplit f | circ f | circx f => unfold exec; exact .request h fun e r => by simp [h]
  | strm f | gthr f | scat f => exact execOpen_canon h _
  | sclose f | scloseCut f => exact execClose_canon h _ _
  | swait f => exact execSwait_canon h f
  | tapp f => unfold exec; exact .tree h (tappUnit_keeps f)
  | tfork f => unfold exec; exact .tree h fun t r => onSet_keeps t r fun v => .of (tree_fork_keeps v _)
  | tckpt f => unfold exec; exact .tree h fun t r => onSet_keeps t r fun v => .of (tree_checkpoint_keeps v _)
  | tcommit f => unfold exec; exact .tree h fun t r => onSet_keeps t r fun v => tree_commit_keeps v _
  | ttrunc f => unfold exec; exact .tree h fun t r => onSetFreed_keeps t r fun v => tree_truncate_keeps v _
  | tevict f => unfold exec; exact .tree h fun t r => onSet_keeps t r fun v => tree_evict_keeps v _ _
  | tfree f => unfold exec; exact .tree h fun t r => onSetFreed_keeps t r fun v => tree_freeRoots_keeps v
  | tdesc f => unfold exec; exact .request h (tdescTurn_canon h)
  | tmask f =>
    unfold exec
    exact .tree h fun t r => .andThen (needCheck_keeps ..) fun _ => onSet_keeps t r fun v =>
      .of (.andThen (tree_put_keeps ..) fun _ => .ret _)
  | tstatLen f =>
    unfold exec
    exact .tree h fun t r => .andThen (needCheck_keeps ..) fun _ => .andThen (openSet_keeps ..) fun v =>
      .andThen (tree_selected_keeps ..) fun _ => .andThen (tree_length_keeps ..) fun _ => .ret _
  | tstatPool f => unfold exec; exact .tree h fun t r => tstatPool_keeps _ t r
  | rope3Rot f => unfold exec; exact .tree h ropeRot_keeps
  | rope3Set f => unfold exec; exact .tree h ropeSet_keeps
  | rope3Getlo f | rope3Gethi f => unfold exec; exact .tree h fun _ _ => .look _
  | gmask f => unfold exec; exact .boundary h gmaskUnit_keeps
  | gmaskH f => unfold exec; exact .boundary h gmaskHUnit_keeps
  | gstep f => unfold exec; exact .boundary h gstepUnit_keeps
  | gstepH f => unfold exec; exact .boundary h gstepHUnit_keeps
  | gsnap f => unfold exec; exact .boundary h gsnapUnit_keeps
  | grest f => unfold exec; exact .boundary h grestUnit_keeps
  | gfork f =>
    unfold exec
    exact .boundary h fun d r => .andThen (splitHandle_keeps _) fun _ => .andThen (cellRef_keeps ..) fun _ => .ret _
  | gdrop f =>
    unfold exec
    exact .boundary h fun d r => .andThen (splitHandle_keeps _) fun _ => .andThen (cellRelease_keeps ..) fun _ => .ret _
  | samp f => unfold exec; exact .boundary h sampUnit_keeps
  | lstat f => unfold exec; exact .boundary h lstatUnit_keeps
  | penal f => unfold exec; exact .boundary h penalUnit_keeps
  | acceptOpen f => unfold exec; exact .boundary h acceptOpenUnit_keeps
  | acceptWalk f => unfold exec; exact .boundary h acceptWalkUnit_keeps
  | acceptAbort f => unfold exec; exact .boundary h acceptAbortUnit_keeps
  | commit f => unfold exec; exact .boundary h commitUnit_keeps
  | commitFree f => unfold exec; exact .boundary h commitFreeUnit_keeps
  | rng f => unfold exec; exact .boundary h (rngUnit_keeps f)
  | syswr f => unfold exec; exact .onCore fun n => syswrWord_canon h f n
  | wait f => unfold exec; exact .onCore fun n => waitWord_canon h f n
  | evsigAdd f | evsigSet f => unfold exec; exact .onCore fun n => evsigWord_canon h f _ n
  | qpost f => unfold exec; exact .onCore fun n => qpostWord_canon h f n
  | launch f => unfold exec; exact .onCore fun n => launchWord_canon h f n
  | grel f | grelForce f => unfold exec; exact .onCore fun n => grelWord_canon h f _ n
  | barinitFree f => exact execBarinitFree_canon h f
  | barinitQuery f => exact execBarinitQuery_canon h f
  | preemptSoft f | preemptHard f => unfold exec; exact .onCore fun n => preemptWord_canon h f _ n
  | ctxsave f | ctxrestRun f | ctxrestLoad f => unfold exec; exact .onCore fun n => copyWord_canon h f _ _ n
  | cfgw f => exact execCfgw_canon h f
  | cfgr f => exact execCfgr_canon h f
  | cfgclrTile f => exact execCfgclrTile_canon h f
  | cfgclrElem f => exact execCfgclrElem_canon h f
  | bkptSet f | bkptClr f => unfold exec; exact bkptWrite_canon h f _
  | bkptRes f => exact execBkptRes_canon h f
  | sigchk f => exact execSigchk_canon h f
  | dgst f => exact execDgst_canon h f
  | crcMem f => exact execCrcMem_canon h f
  | crcTile f => exact execCrcTile_canon h f
  | mapPa f => unfold exec; exact .onCore fun n => mapPaWord_canon h f n
  | mapZero f => exact execMapZero_canon h f
  | mapCopy f => exact execMapCopy_canon h f
  | unmap f => unfold exec; exact .onCore fun n => unmapWord_canon h f n
  | unmapDclr f => unfold exec; exact .onCore fun n => unmapDclrWord_canon h f n
  | migr f => unfold exec; exact .onCore fun n => migrWord_canon h f n
  | lnkcfgQuery f => exact execLnkcfgQuery_canon h f
  | lnkcfgTrain f => exact execLnkcfgTrain_canon h f
  | lnkcfgDown f => exact execLnkcfgDown_canon h f
  | lnkcfgRatio f => exact execLnkcfgRatio_canon h f
  | lnkaddStat f => exact execLnkaddStat_canon h f
  | lnkaddCancel f => exact execLnkaddCancel_canon h f
  | illegalWord core => exact execIllegalWord_canon h core
  | addressBreakpoint core => exact execAddressBreakpoint_canon h core
  | handlerEntry core => exact execHandlerEntry_canon h core
  | commandIssue core pick => exact execCommandIssue_canon h core pick
  | tokenArrival tile elem pick => exact execTokenArrival_canon h tile elem pick
  | pullBack tile elem => exact execPullBack_canon h tile elem
  | overflowRefill tile elem bucket => exact execOverflowRefill_canon h tile elem bucket
  | markerAction tile elem => exact execMarkerAction_canon h tile elem
  | slotBreakpointMatch tile elem => exact execSlotBreakpointMatch_canon h tile elem
  | edgeResizeDone tile edge => exact execEdgeResizeDone_canon h tile edge
  | outputQueueDrain tile elem => exact execOutputQueueDrain_canon h tile elem
  | mailboxDeliver core pick => exact execMailboxDeliver_canon h core pick
  | roundNotice pick => exact execRoundNotice_canon h pick
  | kernelStart group => exact execKernelStart_canon h group
  | kernelEnd group => exact execKernelEnd_canon h group
  | requestTranslate req => exact execRequestTranslate_canon h req
  | orderClear req => exact execOrderClear_canon h req
  | fenceWPassed req => exact execFenceWPassed_canon h req
  | waveLinkAck pick => exact execWaveLinkAck_canon h pick
  | requestComplete req => exact execRequestComplete_canon h req
  | streamLatchDone tile port => exact execStreamLatchDone_canon h tile port
  | streamRowComplete tile port row => exact execStreamRowComplete_canon h tile port row
  | portRelatch tile port => exact execPortRelatch_canon h tile port
  | gatherRowComplete tile port row => exact execGatherRowComplete_canon h tile port row
  | circuitGranule tile circuit => exact execCircuitGranule_canon h tile circuit
  | colourDeadlock ctx => exact execColourDeadlock_canon h ctx
  | barrierArrival pick => exact execBarrierArrival_canon h pick
  | faultAppend pick => exact execFaultAppend_canon h pick
  | ccmdBuild ctx | ccmdReady ctx | ccmdKill ctx | ccmdResume ctx => unfold exec; exact .next (firmware_canon h ctx _)
  | serain ctx => exact execSerain_canon h ctx
  | failpg ctx => unfold exec; exact .next (failPage_canon h ..)
  | dlbud ctx => unfold exec; exact .next h
  | drainComplete ctx => exact execDrainComplete_canon h ctx
  | drainTimeout ctx => exact execDrainTimeout_canon h ctx
  | hardSave ctx => exact execHardSave_canon h ctx
  | restore ctx | restoreRebind ctx => unfold exec; exact .next (tryRestore_canon h ctx)
  | contextReclaimed ctx => exact execContextReclaimed_canon h ctx
  | doorbellRing value | doorbellEnable value | doorbellDisable value => unfold exec; exact .next (doorbellEvent_canon h _ value)
  | queueHeadTest ctx queue => exact execQueueHeadTest_canon h ctx queue
  | placement => unfold exec; exact .next (tryPriorities_canon h 4)
  | kernelLoad group => exact execKernelLoad_canon h group
  | preemptBudgetExpiry ctx queue => exact execPreemptBudgetExpiry_canon h ctx queue
  | kernelSignal group => exact execKernelSignal_canon h group
  | zeroingDone tile => exact execZeroingDone_canon h tile
  | linkTrained link => exact execLinkTrained_canon h link
  | linkTrainFailed link => exact execLinkTrainFailed_canon h link
  | flitReplay link => exact execFlitReplay_canon h link
  | retrainDone link => exact execRetrainDone_canon h link
  | replayFailed link | linkRecalibration link => unfold exec; exact .next (by simp [h])
  | hostAccess access => exact execHostAccess_canon h access
  | peerAccess access => exact execPeerAccess_canon h access
  | laneLend pc => exact execLaneLend_canon h pc
  | laneHandshakeDone pc => exact execLaneHandshakeDone_canon h pc
  | laneReclaim pc => exact execLaneReclaim_canon h pc
  | refreshDue pc bank => exact execRefreshDue_canon h pc bank
  | activationAlert pc bank => exact execActivationAlert_canon h pc bank
  | chainBeat adder data => unfold exec; exact .next (beatStep_canon h adder data)
  | adderAbort adder => exact execAdderAbort_canon h adder
  | powerUp => exact execPowerUp_canon h
  | powerLoss => exact execPowerLoss_canon s
  | powerSample | startLogClear | managementFaultLogClear => unfold exec; exact .next h
  | managementPortRequest access => unfold exec; exact .next h
  | patrolScrub address => exact execPatrolScrub_canon h address
  | sramScrub unit => exact execSramScrub_canon h unit
  | memoryRecalibration stack => unfold exec; exact .next h
  | waitTimeout core => exact execWaitTimeout_canon h core

/-! ## The choice of the work -/

/-- Where a turn has work, the state in which it is done has canonical main memory. -/
def WorkCanon (w : Work) : Prop := ∀ ⦃i : Instr⦄ ⦃t : State⦄, w = some (i, t) → Memory.wf t.mem = true

namespace WorkCanon

theorem none : WorkCanon none := by
  rintro _ _ ⟨⟩

theorem some {t : State} (h : Memory.wf t.mem = true) (i : Instr) (u : UnitCtx) :
    WorkCanon (some (i, { t with unit := u })) := by
  rintro _ _ ⟨⟩
  exact h

end WorkCanon

theorem fireWork_canon (h : Memory.wf s.mem = true) (fr : Firing) : WorkCanon (s.fireWork fr) := by
  unfold State.fireWork
  split
  · exact .some h _ _
  · exact .none

theorem startWork_canon (h : Memory.wf s.mem = true) (t e k : Nat) : WorkCanon (s.startWork t e k) := by
  unfold State.startWork
  split
  · exact .none
  · exact fireWork_canon (by simp [h]) _

theorem markWork_canon (h : Memory.wf s.mem = true) (t e k : Nat) (cs : List Cand) :
    WorkCanon (s.markWork t e k cs) := by
  unfold State.markWork
  split
  · exact .none
  · exact fireWork_canon (by simp [h]) _

theorem fireCand_canon (h : Memory.wf s.mem = true) (t e : Nat) (c : Cand) :
    WorkCanon (s.fireCand t e c) := fireWork_canon (by simp [h]) _

theorem elemWork_canon (h : Memory.wf s.mem = true) (t e : Nat) : WorkCanon (s.elemWork t e) := by
  unfold State.elemWork
  split
  · exact .none
  · split
    · exact fireCand_canon (by simp [h]) ..
    · split
      · exact startWork_canon h ..
      · have hs : Memory.wf (s.noteAttempts t e).mem = true := by simp [h]
        dsimp only
        split
        · exact .none
        · split
          · exact markWork_canon hs ..
          · exact .some hs _ _
        · split
          · exact .some hs _ _
          · exact fireCand_canon hs ..

theorem coreWork_canon (h : Memory.wf s.mem = true) (n : Nat) : WorkCanon (s.coreWork n) := by
  unfold State.coreWork
  dsimp only
  split
  · exact .none
  · split
    · exact .some h _ _
    · split
      · exact .none
      · split
        · exact .some h _ _
        · split
          · exact .some h _ _
          · exact .some (by simp [h]) _ _

theorem engineWork_canon (h : Memory.wf s.mem = true) (e : Engine) : WorkCanon (s.engineWork e) := by
  unfold State.engineWork
  split
  · split
    · exact .none
    · exact .some h _ _
  · exact .none

theorem nextWork_canon (h : Memory.wf s.mem = true) : WorkCanon s.nextWork := by
  unfold State.nextWork
  split
  · exact .none
  · split
    · exact coreWork_canon h _
    · exact elemWork_canon h _ _
    · exact engineWork_canon h _
    · split
      · exact .some h _ _
      · exact .none

theorem NextCanon.finish {a : Answer} (ha : NextCanon a) : NextCanon (finish a) := by
  cases a with
  | next t => exact .next (by simp [ha rfl])
  | fault r => exact .fault r
  | refused r =>
    rintro _ ⟨⟩

/-- A step keeps main memory canonical: the choice of the work does, then the work, or the turn that passes. -/
theorem step_canon (h : Memory.wf s.mem = true) : NextCanon (step s) := by
  unfold step
  split
  · exact .next (by simp [passTurn_canon h])
  next i t hw => exact (exec_canon (nextWork_canon h hw) i).finish

/-- Settles O12: canonical form is kept by every operation on main memory, so by every instruction and event, and by the step. -/
theorem stepKeepsMemoryCanonical : Obligations.StepKeepsMemoryCanonical := by
  unfold Obligations.StepKeepsMemoryCanonical
  intro s t h hstep
  exact step_canon h hstep

end Sys2Proof.Proofs
end
